-- ==== Sys2Proof/Word.lean ====
section
/-! DEFINITION. Sys2Proof/Word.lean: the words, bytes and keyed tables that every other file is written in. -/

namespace Sys2Proof

/-- A 64-bit register word (R489). -/
abbrev W := BitVec 64

/-- One byte. -/
abbrev Byte := BitVec 8

/-- A table keyed by a number, keys strictly rising; an absent key reads as the reader's default. -/
abbrev Tab (α : Type) := List (Nat × α)

/-- The entry under key `k`, or the default `d`. -/
def Tab.get {α : Type} (t : Tab α) (k : Nat) (d : α) : α :=
  match t with
  | [] => d
  | (k', v) :: r => if k' = k then v else Tab.get r k d

/-- Sets the entry under key `k`, keeping keys rising. -/
def Tab.set {α : Type} (t : Tab α) (k : Nat) (v : α) : Tab α :=
  match t with
  | [] => [(k, v)]
  | (k', v') :: r =>
    if k < k' then (k, v) :: (k', v') :: r
    else if k = k' then (k, v) :: r
    else (k', v') :: Tab.set r k v

/-- Removes the entry under key `k`. -/
def Tab.del {α : Type} (t : Tab α) (k : Nat) : Tab α := t.filter (fun e => e.1 != k)

/-- Is there an entry under key `k`. -/
def Tab.has {α : Type} (t : Tab α) (k : Nat) : Bool := t.any (fun e => e.1 == k)

/-- A pair of values, one for each time domain (R64). -/
structure PerDom (α : Type) where
  a : α
  b : α
  deriving DecidableEq, Repr

/-- The two time domains, A and B (R64). -/
inductive Dom where
  | A
  | B
  deriving DecidableEq, Repr

/-- The other domain. -/
def Dom.other : Dom → Dom
  | .A => .B
  | .B => .A

def PerDom.get {α : Type} (p : PerDom α) : Dom → α
  | .A => p.a
  | .B => p.b

def PerDom.set {α : Type} (p : PerDom α) (d : Dom) (v : α) : PerDom α :=
  match d with
  | .A => { p with a := v }
  | .B => { p with b := v }

end Sys2Proof
end

