-- ==== Sys2Proof/Config.lean ====
section
/-! DEFINITION. Sys2Proof/Config.lean: what an implementation fixes (the counts of the two members), and the free
values: opaque constants with no body, for values that the manual does not state. -/

namespace Sys2Proof

/-- The kinds of unit that the manual describes: the two Valkar members, and the forerunner blocks (R3, R503). -/
inductive UnitKind where
  | vd
  | vsu
  | u1
  | u2
  deriving DecidableEq, Repr

/-- A VD's role, from its persistent word 2 (R420): 1 DOME, 2 SPIRE. -/
inductive Role where
  | dome
  | spire
  | none
  deriving DecidableEq, Repr

namespace Config

/-- Fixed counts of the members (R163, R255). -/
def ports : UnitKind → Nat
  | .vd => 64
  | _ => 2
def lanes : UnitKind → Nat
  | .vd => 256
  | _ => 8
def sprockets : UnitKind → Nat
  | .vd => 65536
  | .vsu => 16384
  | .u1 => 1024
  | .u2 => 4096
def contexts : UnitKind → Nat
  | .vd => 256
  | .vsu => 64
  | .u1 => 1
  | .u2 => 8

/-- FREE VALUE. The correction, in 2^-16 ns, that firmware derives for a fine code from a code-density histogram; the
manual gives no formula ("Calibration"). -/
opaque fineCorrection : Nat → Nat → Int

/-- FREE VALUE. The offset of a VSU's host clock that it measures at the first alignment (R129, R382), in 2^-48 ns, by a count: the
local clock's edges are the host's. -/
opaque hostOffset : Nat → Int

/-- FREE VALUE. The pod of the unit with a DNO, as the hall is laid out (R229): a VSU holds no DNO table. -/
opaque podOf : Nat → Nat

/-- FREE VALUE. Whether the step has a RETRY slot left on the output of the link peer (R238), which a consumer cannot see. By
a count. -/
opaque peerRetry : Nat → Bool

/-- FREE VALUE. Whether a spare whose staging has not completed has failed a check of R195 (R361): the manual gives its DOME no
message that says so. By a count. -/
opaque spareFailed : Nat → Bool

/-- FREE VALUE. The STAMP field of a TIMEOUT record (R44, R45), which the manual leaves open, by a count. -/
opaque timeoutStamp : Nat → Nat

/-- FREE VALUE. Whether the tiles accepted of a parameter broadcast are every tile that the unit needs (R197): the manual
gives no extent of such a broadcast. By its ID and the number of tiles accepted. -/
opaque paramComplete : Nat → Nat → Bool

/-- FREE VALUE. What lies at an offset of the image region: R171 keeps the held images there and gives no layout. An even
number is twice an offset of the committed image, an odd one that of the shadow. First argument: the number of image changes
so far. -/
opaque imagePlace : Nat → Nat → Nat

/-- FREE VALUE. The byte at an offset of the image region where no held byte lies. First argument: the number of image changes
so far. -/
opaque imageRegionByte : Nat → Nat → BitVec 8

/-- FREE VALUE. The lateness, in ns, that FLT_LAST and FLT_DIE_TIME show of a die whose SIGNAL is missing when its DOME
records a step on entering HELD (R352): there is no arrival to measure. By a count. -/
opaque missingLate : Nat → Int

/-- FREE VALUE. The 32-byte granule of the shadow's half of a VSU's image window at which it writes a tile (R449), by a
count: the manual gives that half no layout. -/
opaque imageGranule : Nat → Nat

/-- FREE VALUE. The FP32 encoding of an element of C in the column of a residue mismatch (R318): the manual does not say
what the cell's wrong product or sum is. By a count and the element. -/
opaque residueElem : Nat → Nat → Nat

/-- FREE VALUE. A byte of the result of a COMBINE in whose rounds a residue code mismatched (R318). By a count and the
byte's place. -/
opaque residueByte : Nat → Nat → BitVec 8

/-- FREE VALUE. Whether a persistent word whose write is under way when power is lost holds the new value (R418: the old
one or the new one). By a count. -/
opaque nvsNew : Nat → Bool

/-- FREE VALUE. The VERSION that FWU_SLOT0 of a VSU shows of the running microcode (R433): the manual does not say where
the microcode holds it. By a count. -/
opaque ucodeVersion : Nat → Nat

/-- FREE VALUE. What an I²C read of a register returns that R485 does not name. By a count. -/
opaque i2cOther : Nat → Nat

/-- FREE VALUE. Operand B of a family E combiner instruction whose BUSE is 0 (R499): the effect of R284 names B, and no B
is read. By the instruction and the element. -/
opaque absentB : Nat → Nat → Nat

end Config

end Sys2Proof
end

