-- ==== Sys2Proof/Syntax.lean ====
section
/-! DEFINITION. Sys2Proof/Syntax.lean: the commands of a Valkar unit, one constructor of `Instr` per row of
spec/opcode_table.json, and the plain data that they carry: what a unit receives (heartbeats, decisions, flits, cells,
messages) and what a register access names. -/

namespace Sys2Proof

/-- The access path of a register access (R11): BAR0, the belfry window BAR4, the sideband, the lantern, or a VSU's
register port. -/
inductive Path where
  | bar0
  | belfry
  | sideband
  | lantern
  | port
  deriving DecidableEq, Repr

/-- A read as a path carries it (R489): how many bytes it asks for, and by how many its address lies above the register's. -/
structure ReadVia where
  path  : Path
  bytes : Nat := 8
  skew  : Nat := 0
  deriving DecidableEq, Repr

/-- Decision kinds, codes 0 to 5 (R112). -/
inductive DecKind where
  | start
  | phase
  | hold
  | resume
  | ratio
  | stop
  deriving DecidableEq, Repr

/-- A decision (R112, R216). -/
structure Decision where
  seq    : Nat
  epoch  : Nat
  kind   : DecKind
  target : W
  phase  : Nat
  anchor : W
  wsc    : W
  base   : W
  ratio  : Nat
  deriving DecidableEq, Repr

/-- A decision as it reaches a port, with the HT at which its issuer sent it: a record does not carry it (R216; log
entry 29). -/
structure SentDecision where
  dec : Decision
  dep : W
  deriving DecidableEq, Repr

/-- A domain record of a heartbeat (R213). -/
structure DomRec where
  offset   : Int
  ql       : Nat
  sbql     : Nat
  hop      : Nat
  upDno    : Nat
  valid    : Bool
  leader   : Bool
  mark     : Bool
  disarm   : Bool
  epoch    : Nat
  lastSeq  : Nat
  arm      : Nat
  grant    : W
  complete : W
  deriving DecidableEq, Repr

/-- A residence record (R214). -/
structure ResRec where
  seq       : Nat
  reqLane   : Nat
  rspLane   : Nat
  valid     : Bool
  residence : Int
  rtMean    : Int
  asym      : Int
  deriving DecidableEq, Repr

/-- A rotating record (R215). -/
structure RotRec where
  kind : Nat
  arg  : Nat
  v0   : W
  v1   : W
  deriving DecidableEq, Repr

/-- A heartbeat ordered set (R212). `senderKind` 0 is a DNO, 1 an HDN (R210). -/
structure Heartbeat where
  timeValid  : Bool
  root       : Bool
  issuer     : Bool
  relay      : Bool
  issueInit  : Bool
  seq        : Nat
  senderKind : Nat
  sender     : Nat
  level      : Nat
  prevNs     : W
  prevFrac   : Nat
  doms       : PerDom DomRec
  res        : ResRec
  rot        : RotRec
  d0         : Option Decision
  d1         : Option Decision
  deriving DecidableEq, Repr

/-- The part of a flit's header that depends on TYPE (R208). -/
inductive FlitBody where
  | sched   (wsc tile dno sub slot phase : Nat)
  | sideReq (op tag addr len8 sub dno : Nat)
  | sideRsp (status tag dno sub : Nat)
  | signal  (dstDno dstSub count dno sub : Nat)
  | sigAck  (dstDno dstSub ackSeq status : Nat)
  | bcast   (id tile bkind : Nat)
  deriving DecidableEq, Repr

/-- A flit: header fields, 224 payload bytes, trailer (R207 to R209). -/
structure Flit where
  resent   : Bool
  last     : Bool
  level    : Nat
  fidx     : Nat
  crdLevel : Nat
  crdCount : Nat
  body     : FlitBody
  payload  : List Byte
  fcrc     : Nat
  lseq     : Nat
  ack      : Nat
  tcrc     : Nat
  deriving DecidableEq, Repr

/-- What a port receives (R204, R205, R222): a flit; an uncorrectable codeword on a lane; a codeword on a lane in which
symbols were corrected; a frame as its 8-bit tag and its 256 content bytes; or a codeword on a lane as its 2,720 PAM4
levels. -/
inductive RxFrame where
  | flit (f : Flit)
  | uncorrectable (lane : Nat)
  | corrected (lane syms : Nat)
  | frame (tag : Nat) (content : List Byte)
  | codeword (lane : Nat) (levels : List Nat)
  deriving DecidableEq, Repr

/-- What a DOME tells a spare that it stages of the run (R357): the issuer's EPOCH, its own ARM_NO, whether the job runs,
and the phase that will be in force at the next swap point. -/
structure RunInfo where
  epoch   : Nat
  armNo   : Nat
  running : Bool
  phase   : Nat
  deriving DecidableEq, Repr

/-- What a peer says of itself in TRAIN ordered sets (R218); a DOME also sends a die its HDN, and a spare that it stages
the run (R357). -/
structure TrainInfo where
  senderKind : Nat
  sender     : Nat
  role       : Nat
  level      : Nat
  part       : Nat
  rev        : Nat
  grade      : Nat
  hdn        : Option Nat := none
  run        : Option RunInfo := none
  deriving DecidableEq, Repr

/-- Where a sprocket operation comes from: a context's host page, a VSU sprocket port, a lantern core, or a
forerunner die's port through the 32-bit view (R137, R143, R146). -/
inductive SpkSrc where
  | hostPage
  | vsuPort (p : Nat)
  | core (c : Nat)
  | diePort (d : Nat)
  deriving DecidableEq, Repr

/-- How a SIGNAL is issued: its source, the tag that a port returns with its response, and REQ_OP as a VSU's port presents it:
0 SIGNAL, or a code above 4, which names no operation (R438; log entry 185). -/
structure SigVia where
  src : SpkSrc
  tag : Nat := 0
  op  : Nat := 0
  deriving DecidableEq, Repr

/-- What a link puts into the header of a side flit (R207): its level, the resent flag and the credits it returns. A VSU shows
its host die the header as received (R436). -/
structure FlitLink where
  level    : Nat
  resent   : Bool
  crdLevel : Nat
  crdCount : Nat
  deriving DecidableEq, Repr

/-- The tag of a side response, and the link fields of its flits as received, one by one. -/
structure RspTag where
  tag  : Nat
  link : List FlitLink := []
  deriving DecidableEq, Repr

/-- A side request as the unit that holds its destination takes it (R242): the source, the hall address, and the link fields
of its flits as received, one by one. -/
structure SideReq where
  op   : Nat
  tag  : Nat
  addr : Nat
  len8 : Nat
  dno  : Nat
  sub  : Nat
  link : List FlitLink := []
  deriving DecidableEq, Repr

/-- One record of a side SIGNAL flit (R250). -/
structure SigRec where
  phys   : Nat
  inc    : Nat
  seq    : Nat
  sentUs : Nat
  deriving DecidableEq, Repr

/-- A lantern message (R416, R417). Identifier kinds: 0 DNO, 1 HDN, 3 the link peer. -/
inductive MsgBody where
  | join (target anchor wsc base : W) (phase ratio epoch lastSeq hdn : Nat)
  | ledger (period : Nat) (prop : Nat)
  | fwReady (manifest : Nat) (ready fail : Bool)
  | other (kind : Nat)
  deriving DecidableEq, Repr

structure Message where
  dstKind : Nat
  dst     : Nat
  srcKind : Nat
  src     : Nat
  body    : MsgBody
  deriving DecidableEq, Repr

/-- A verdict notice (R365, R417). -/
structure Verdict where
  vseq  : Nat
  dno   : Nat
  state : Nat
  ns    : W
  epoch : Nat
  deriving DecidableEq, Repr

/-- The fields of a sideband cell between SYNC and CRC (R451). -/
structure Cell where
  kind    : Nat
  seq     : Nat
  hb      : Nat
  payload : Nat
  deriving DecidableEq, Repr

/-- What the header of a PTP message says (R92): the domain number, whether the transport is IEEE 802.3, the clock that
sends it, and the sequence number. -/
structure PtpHdr where
  domain : Nat
  ieee   : Bool
  src    : Nat
  seq    : Nat
  deriving DecidableEq, Repr

/-- What an Announce says of its clock (R92; IEEE 1588-2019): the grandmaster's priority 1, class, accuracy, variance, priority
2 and identity, the steps to it, currentUtcOffset in seconds, and the announce interval as a power of two of a second. -/
structure PtpClock where
  prio1     : Nat
  cls       : Nat
  accuracy  : Nat
  variance  : Nat
  prio2     : Nat
  gm        : Nat
  steps     : Nat
  utcOffset : Int
  logInt    : Int
  deriving DecidableEq, Repr

/-- The body of a PTP message (R92): local times are read at the command. `ts` is the master's timestamp in
ns, TAI; a two-step Sync is followed by its Follow_Up. -/
inductive PtpBody where
  | announce (c : PtpClock)
  | sync (ts : Int) (twoStep : Bool)
  | followUp (ts : Int)
  | delayReqSent
  | delayResp (ts : Int)
  deriving DecidableEq, Repr

/-- A PTP message as the lantern takes it (R92). -/
structure PtpMsg where
  hdr  : PtpHdr
  body : PtpBody
  deriving DecidableEq, Repr

/-- Which wait-to-restore timer expires (R70, R71). -/
inductive WtrSel where
  | input (d : Dom) (port : Nat)
  | domain (d : Dom)
  | ref (n : Nat)
  deriving DecidableEq, Repr

/-- Which loop narrows (R76, R78). -/
inductive LoopSel where
  | domain
  | reference
  deriving DecidableEq, Repr

/-- What the tile array starts: a tile instruction of the live set, or a COMBINE round (R313, R320); `residueAt` is the
physical row and column whose residue code mismatches, if any (R318). -/
inductive TilStart where
  | instr (i : Nat)
  | combine (i : Nat)
  deriving DecidableEq, Repr

/-- What the sensors of the power monitor and of the module read (R391, R485): VIN in mV, input current in mA, case and junction
temperatures in tenths of a degree. -/
structure Sensors where
  vin : Nat
  iin : Nat
  tc  : Int
  tj  : Int
  deriving DecidableEq, Repr

/-- A sample of the power monitor in mW (R391), with what the other sensors read then, if they are read with it. -/
structure PowerSample where
  mw      : Nat
  sensors : Option Sensors := none
  deriving DecidableEq, Repr

/-- A comparator that fires (R388), with the reading of its sensor then: mV for comparator 4, tenths of a degree for 5. -/
structure CmpFire where
  n       : Nat
  reading : Option Int := none
  deriving DecidableEq, Repr

/-- What a notice of FW_ABORT carries (R417). -/
structure FwNotice where
  manifest : Nat
  act      : W
  deriving DecidableEq, Repr

/-- A read on the I²C bus: the 7-bit address and the register (R485). -/
structure I2cRead where
  addr : Nat
  reg  : Nat
  deriving DecidableEq, Repr

/-- The commands of a Valkar unit, one per row of spec/opcode_table.json, in the table's order. A row that is "a write
of REG.BIT" carries the whole word `v` that is written: its RW fields are taken as well, and the row's bit counts as 1.
`hold` is how long, in ns, a contact holds its new level (R479). -/
inductive Instr where
  | htNsRead (via : ReadVia)
  | htLoadArm (v : W)
  | htLoadApply (ref : Nat)
  | htLoadTimeout
  | spreadDepthWrite (v : W)
  | spreadDepthCommit
  | profileStart
  | dpllHeartbeatUpdate (d : Dom)
  | servoLock
  | domainInputLost (d : Dom)
  | bridgeTimeout
  | tdcStamp (ch kind delta : Nat)
  | tdcTimeout (ch : Nat)
  | tdcLockFell
  | tdcFifoRead (via : ReadVia)
  | tdcStatusRead (via : ReadVia)
  | tdcFifoStatusRead (via : ReadVia)
  | tdcAnchorRead (k : Nat) (via : ReadVia)
  | cdStart (v : W)
  | cdDone
  | lbStart (v : W)
  | lbDone
  | delayReqSend (port lane : Nat) (t1 : BitVec 48)
  | delayReqRx (port lane reqSeq sender : Nat) (t2 : BitVec 48)
  | delayRespSend (port : Nat) (t3 : BitVec 48)
  | delayRespRx (port lane reqSeq : Nat) (t4 : BitVec 48)
  | roundTripDrop (port lane : Nat)
  | batchComplete (port reqLane rspLane : Nat)
  | delayEntryStale (lane : Nat)
  | laneSwapStart (v : W)
  | laneSwapStepEnd (ok : Bool)
  | laneSwapTimeout
  | wtrExpiry (sel : WtrSel)
  | dpllNarrow (sel : LoopSel)
  | refEdge (n : Nat) (stamp : BitVec 48)
  | refLoss (n : Nat)
  | leaderYield
  | tandemJoin
  | holdoverQualify
  | ptpMessageRx (m : PtpMsg)
  | utcOffsetUpdate
  | realignGo (v : W)
  | realignDone
  | ppsPulse
  | stepMarkPulse (n : Nat)
  | boundaryDue
  | cutoff
  | voteInstant
  | decisionRx (port : Nat) (d0 : SentDecision) (d1 : Option Decision)
  | issuerInit
  | rootStart (v : W)
  | rootResume (v : W)
  | rootHold (v : W)
  | rootStop (v : W)
  | endPhase (v : W)
  | takeIssue (v : W)
  | rearm
  | armingSignal
  | heartbeatSend (port : Nat)
  | heartbeatRx (port : Nat) (hb : Heartbeat) (stamps : List (BitVec 48))
  | spkSignal (via : SigVia) (ctx id : Nat) (inc : W)
  | spkWait (src : SpkSrc) (ctx id : Nat) (expected deadline : W) (tag : Nat)
  | spkRead (src : SpkSrc) (ctx id tag : Nat)
  | spkNotify (src : SpkSrc) (ctx id : Nat) (threshold : W) (tag : Nat)
  | spkNotifyCancel (src : SpkSrc) (ctx id tag : Nat)
  | spkWaitTimeout (ctx id tag : Nat)
  | spkXlatFill (memTag : Nat) (entry : W) (err : Bool)
  | ownerLostFlush
  | commitXlat
  | ctxSave
  | ctxRestore
  | ctxReset
  | ctxActivate
  | physAlloc
  | physEvict
  | physAdopt
  | shareInc
  | shareDec
  | physFree
  | physZero
  | recordPlaceDeferred
  | loadLocal
  | broadcast
  | discard
  | recall
  | bcastTileRx (port id tile bkind : Nat) (bytes : List Byte) (tcrc : Nat)
  | shadowCheck
  | nextSetLoad
  | nextSetRecheck
  | portTrainStart (port : Nat) (peer : TrainInfo)
  | linkUp (port : Nat)
  | trainTimeout (port : Nat)
  | portRetrain (port lane : Nat)
  | retrainDone (port : Nat)
  | retrainTimeout (port : Nat)
  | portUnisolate (port : Nat)
  | slotStart
  | frameTx (port : Nat)
  | flitRx (port : Nat) (f : RxFrame)
  | retryReqRx (port : Nat) (ranges : List (Nat × Nat))
  | refetchRx (port wsc slot mask tile : Nat)
  | refetchFailRx (port wsc slot mask tile reason : Nat)
  | creditRx (port : Nat) (credits : List Nat) (ack : Nat)
  | creditSaturation (port level : Nat)
  | schedSignalApply (port : Nat)
  | routeCommit
  | sideRead (port : Nat) (r : SideReq)
  | sideWrite (port : Nat) (r : SideReq) (data : List Byte) (tcrc : Nat)
  | sideFence (port : Nat) (r : SideReq)
  | fenceComplete
  | readSpk (port : Nat) (r : SideReq)
  | sideBadOp (port : Nat) (r : SideReq)
  | sideRspRx (tag : RspTag) (status : Nat) (data : List Byte)
  | sideReqTimeout (tag : Nat)
  | bar2Read (off len : Nat)
  | bar2Write (off : Nat) (data : List Byte)
  | signalFlitRx (port dno sub dstSub : Nat) (recs : List SigRec)
  | sigAckRx (dno sub ackSeq status : Nat)
  | signalResend
  | signalGiveUp
  | xfRejectLogRead (via : ReadVia)
  | xfPortErrRead (port : Nat) (via : ReadVia)
  | xfLaneStatusRead (lane : Nat) (via : ReadVia)
  | memErrLogRead (via : ReadVia)
  | cmbResultReady (instr : Nat)
  | cmbSeedWrite (hi : Bool) (v : W)
  | cmbRandStart (v : W)
  | cmbRandDone
  | cmbXsLogRead (via : ReadVia)
  | cmbMoeCountRead (via : ReadVia)
  | cmbSpecialRead (via : ReadVia)
  | tilInstrStart (t : TilStart) (residueAt : Option (Nat × Nat))
  | foldCommit
  | tilFaultLogRead (via : ReadVia)
  | stgFaultLogRead (via : ReadVia)
  | stgCountRead (via : ReadVia)
  | detectorRoundEnd
  | spareStaged (d : Nat)
  | joinRecordSend
  | joinRx (m : Message)
  | fltClear (v : W)
  | fltDoubt (v : W)
  | fltApprove (v : W)
  | commitRemap (v : W)
  | fltSwapLogRead (via : ReadVia)
  | verdictSend (v : W)
  | verdictRx (port : Nat) (n : Verdict)
  | readHt (via : ReadVia)
  | readSc (via : ReadVia)
  | readSummary (via : ReadVia)
  | holdAt (v : W)
  | quiesce
  | portIsolate (mask : W)
  | evtTail (age : Nat) (via : ReadVia)
  | readNvs (word : Nat) (via : ReadVia)
  | sbRelayTimeout
  | sbCellTx (d : Nat)
  | sbCellRx (d : Nat) (w : BitVec 128)
  | sbRdReq (c : Cell)
  | sbWrReq (c : Cell)
  | ucodeStart (len8 : Nat)
  | ucodeSegment (seg : Nat) (bytes : List Byte)
  | ucodeEnd (len8 crc : Nat)
  | ucodeAck (d : Nat) (ok : Bool)
  | hostClockLoss
  | hostRealign (offset : Int)
  | clkRegionWrite (v : W)
  | regionStopDone
  | comparatorFire (f : CmpFire)
  | standbyEnter (v : W)
  | standbyExit (v : W)
  | powerSample (x : PowerSample)
  | ledgerPeriodEnd
  | ledgerSend
  | ledgerRx (port period prop : Nat)
  | hallRatioDecide
  | wdgHalf (c : Nat)
  | wdgExpire (c : Nat)
  | wdgKick (c : Nat) (v : W)
  | coreInterrupt (c : Nat)
  | hqTailWrite (q : Nat) (v : W)
  | coreQTailWrite (c : Nat) (v : W)
  | evqStatusRead (via : ReadVia)
  | mailboxWrite (v : W)
  | lanternMessageRx (port : Nat) (m : Message)
  | nvsWrite (word : Nat) (v : W)
  | nvsWriteDone
  | fwuStage
  | fwuStageDone
  | fwuActivate
  | fwuConfirm
  | fwuManifest
  | fwuRestart
  | fwReadySend
  | fwReadyRx (port manifest : Nat) (ready fail : Bool)
  | fwDecide
  | fwDeadline
  | fwGoRx (port manifest : Nat) (act : W)
  | fwAbortRx (port : Nat) (n : FwNotice)
  | fwSlotSwap
  | romBoot
  | rcvChunk (v : W)
  | rcvDone (v : W)
  | streamTxBeat (side : Bool) (q : Nat) (hdr : FlitBody) (lvl : Nat) (last : Bool) (payload : List Byte)
  | memPortResponse (tag : Nat) (data : List Byte) (err : Bool)
  | aonReset
  | vsuReset
  | vinUp
  | vinDown
  | modEnRise
  | modEnFall
  | thermalShutdown
  | perstAssert
  | i2cRead (r : I2cRead)
  | jtagInstruction (op : Nat)
  | registerWrite (path : Path) (addr : Nat) (bytes : Nat) (v : W)
  | aonResetRelease
  | vsuResetRelease
  | perstRelease
  | ringLockRegain
  | mailboxRead (via : ReadVia)
  | sbRelayGo (v : W)
  | clk10mEdge
  | supplyFault
  | scanModeChange (mode : Bool)
  deriving DecidableEq, Repr

end Sys2Proof
end

