-- ==== Sys2Proof/Decode.lean ====
section
/-! DEFINITION. Sys2Proof/Decode.lean: the commands that the table's bits spell. No row of spec/opcode_table.json has
any bits: every command reaches a unit as a register access, a link frame, a cell, a pin or an instant. -/

namespace Sys2Proof

/-- The command that a word of `nbits` bits spells by the table's fields. The table gives no row a field, so no word
spells one. -/
def decodeTableWord (_nbits _w : Nat) : Option Instr := none

end Sys2Proof
end

