-- ==== Sys2Proof/Machine/RegMap.lean ====
section
/-! DEFINITION. Sys2Proof/Machine/RegMap.lean: the register map, one row per register of the manual's register
tables (R35, R63, R96, R132, R163, R202, R255, R256, R305, R333, R334, R377, R378, R400, R401, R431, R432, R433,
R440), and one constant per named field.  A register's address is block x 0x20_0000 + offset (R490). -/

namespace Sys2Proof.Machine

/-- A named field of a register: the register's BAR0 address, the field's lowest bit and width. -/
structure Fld where
  reg : Nat
  lo  : Nat
  w   : Nat
  deriving DecidableEq, Repr

/-- The field of element `n` of an array register whose elements lie `stride` bytes apart. -/
def Fld.at (f : Fld) (n : Nat) (stride : Nat := 8) : Fld := { f with reg := f.reg + stride * n }

/-- The field's mask in its register's 64 bits. -/
def Fld.mask (f : Fld) : Nat := (2 ^ f.w - 1) <<< f.lo

/-- One row of the register map: the first element's address, the element count and stride, how many elements a VD
and a VSU have, whether only a root spire or only a DOME has it, and the masks of the bits of each access code
(RW and RWB in `rw`; `rwp` is backed by the persistent store in a VD), with the reset value of the stored bits. -/
structure RegRow where
  base   : Nat
  count  : Nat
  stride : Nat
  vd     : Nat
  vsu    : Nat
  root   : Bool
  dome   : Bool
  rw     : Nat
  w1c    : Nat
  rc     : Nat
  wo     : Nat
  rwp    : Nat
  reset  : Nat
  deriving DecidableEq, Repr

/-! ### Fields of the ID_ block (R440) -/

def Reg.ID_PART : Nat := 0x0
def Fld.ID_PART_VENDOR : Fld := ⟨0x0, 0, 16⟩
def Fld.ID_PART_PART : Fld := ⟨0x0, 16, 16⟩
def Fld.ID_PART_REV : Fld := ⟨0x0, 32, 8⟩
def Fld.ID_PART_GRADE : Fld := ⟨0x0, 40, 8⟩
def Fld.ID_PART_LEVEL : Fld := ⟨0x0, 48, 4⟩
def Reg.ID_HOST : Nat := 0x8
def Fld.ID_HOST_HOST : Fld := ⟨0x8, 0, 32⟩

/-- The rows of the ID_ block (R440). -/
def regRowsID : List RegRow := [
  ⟨0x0, 1, 8, 1, 1, false, false, 0x0, 0x0, 0x0, 0x0, 0x0, 0x0⟩  /- ID_PART -/,
  ⟨0x8, 1, 8, 1, 1, false, false, 0x0, 0x0, 0x0, 0x0, 0x0, 0x0⟩  /- ID_HOST -/]

/-! ### Fields of the HT_ block (R35) -/

def Reg.HT_NS : Nat := 0x200000
def Fld.HT_NS_NS : Fld := ⟨0x200000, 0, 64⟩
def Reg.HT_FRAC : Nat := 0x200008
def Fld.HT_FRAC_FRAC : Fld := ⟨0x200008, 0, 16⟩
def Reg.HT_STATUS : Nat := 0x200010
def Fld.HT_STATUS_STATE : Fld := ⟨0x200010, 0, 3⟩
def Fld.HT_STATUS_CLASS : Fld := ⟨0x200010, 4, 2⟩
def Fld.HT_STATUS_ACTIVE_DOMAIN : Fld := ⟨0x200010, 6, 1⟩
def Fld.HT_STATUS_SPREAD_ON : Fld := ⟨0x200010, 7, 1⟩
def Fld.HT_STATUS_STALE : Fld := ⟨0x200010, 8, 1⟩
def Fld.HT_STATUS_COARSE_SEEN : Fld := ⟨0x200010, 16, 1⟩
def Fld.HT_STATUS_CLASS_DROP : Fld := ⟨0x200010, 17, 1⟩
def Fld.HT_STATUS_BRIDGE_SEEN : Fld := ⟨0x200010, 18, 1⟩
def Fld.HT_STATUS_DISCARD_RUN : Fld := ⟨0x200010, 19, 1⟩
def Reg.HT_CTRL : Nat := 0x200018
def Fld.HT_CTRL_SPREAD_DEPTH : Fld := ⟨0x200018, 0, 4⟩
def Fld.HT_CTRL_DISC_OUT_EN : Fld := ⟨0x200018, 8, 1⟩
def Reg.HT_SERVO_FREQ : Nat := 0x200020
def Fld.HT_SERVO_FREQ_Y : Fld := ⟨0x200020, 0, 32⟩
def Reg.HT_PHASE_ERR : Nat := 0x200028
def Fld.HT_PHASE_ERR_ERR : Fld := ⟨0x200028, 0, 32⟩
def Reg.HT_LOAD_NS : Nat := 0x200030
def Fld.HT_LOAD_NS_NS : Fld := ⟨0x200030, 0, 64⟩
def Reg.HT_LOAD_FRAC : Nat := 0x200038
def Fld.HT_LOAD_FRAC_FRAC : Fld := ⟨0x200038, 0, 16⟩
def Reg.HT_LOAD_CTRL : Nat := 0x200040
def Fld.HT_LOAD_CTRL_REF_SEL : Fld := ⟨0x200040, 0, 2⟩
def Fld.HT_LOAD_CTRL_ARM : Fld := ⟨0x200040, 8, 1⟩
def Fld.HT_LOAD_CTRL_ARMED : Fld := ⟨0x200040, 9, 1⟩
def Fld.HT_LOAD_CTRL_DONE : Fld := ⟨0x200040, 10, 1⟩
def Fld.HT_LOAD_CTRL_REFUSED : Fld := ⟨0x200040, 11, 1⟩
def Reg.HT_UTC_OFFSET_NS : Nat := 0x200048
def Fld.HT_UTC_OFFSET_NS_NS : Fld := ⟨0x200048, 0, 64⟩
def Reg.HT_UTC_OFFSET_FRAC : Nat := 0x200050
def Fld.HT_UTC_OFFSET_FRAC_FRAC : Fld := ⟨0x200050, 0, 16⟩
def Reg.HT_PORT_FIXED : Nat := 0x200058
def Fld.HT_PORT_FIXED_FIXED : Fld := ⟨0x200058, 0, 64⟩
def Reg.HT_PROFILE : Nat := 0x200060
def Fld.HT_PROFILE_TICK : Fld := ⟨0x200060, 0, 10⟩
def Fld.HT_PROFILE_DEPTH_IN_USE : Fld := ⟨0x200060, 16, 4⟩
def Fld.HT_PROFILE_PENDING : Fld := ⟨0x200060, 20, 1⟩

/-- The rows of the HT_ block (R35). -/
def regRowsHT : List RegRow := [
  ⟨0x200000, 1, 8, 1, 1, false, false, 0x0, 0x0, 0x0, 0x0, 0x0, 0x0⟩  /- HT_NS -/,
  ⟨0x200008, 1, 8, 1, 1, false, false, 0x0, 0x0, 0x0, 0x0, 0x0, 0x0⟩  /- HT_FRAC -/,
  ⟨0x200010, 1, 8, 1, 1, false, false, 0x0, 0xF0000, 0x0, 0x0, 0x0, 0x0⟩  /- HT_STATUS -/,
  ⟨0x200018, 1, 8, 1, 1, false, false, 0x10F, 0x0, 0x0, 0x0, 0x0, 0x105⟩  /- HT_CTRL -/,
  ⟨0x200020, 1, 8, 1, 1, false, false, 0x0, 0x0, 0x0, 0x0, 0x0, 0x0⟩  /- HT_SERVO_FREQ -/,
  ⟨0x200028, 1, 8, 1, 1, false, false, 0x0, 0x0, 0x0, 0x0, 0x0, 0x0⟩  /- HT_PHASE_ERR -/,
  ⟨0x200030, 1, 8, 1, 0, false, false, 0xFFFFFFFFFFFFFFFF, 0x0, 0x0, 0x0, 0x0, 0x0⟩  /- HT_LOAD_NS -/,
  ⟨0x200038, 1, 8, 1, 0, false, false, 0xFFFF, 0x0, 0x0, 0x0, 0x0, 0x0⟩  /- HT_LOAD_FRAC -/,
  ⟨0x200040, 1, 8, 1, 0, false, false, 0x3, 0xC00, 0x0, 0x100, 0x0, 0x0⟩  /- HT_LOAD_CTRL -/,
  ⟨0x200048, 1, 8, 1, 1, false, false, 0x0, 0x0, 0x0, 0x0, 0x0, 0x0⟩  /- HT_UTC_OFFSET_NS -/,
  ⟨0x200050, 1, 8, 1, 1, false, false, 0x0, 0x0, 0x0, 0x0, 0x0, 0x0⟩  /- HT_UTC_OFFSET_FRAC -/,
  ⟨0x200058, 1, 8, 1, 0, false, false, 0x0, 0x0, 0x0, 0x0, 0xFFFFFFFFFFFFFFFF, 0x0⟩  /- HT_PORT_FIXED -/,
  ⟨0x200060, 1, 8, 1, 1, false, false, 0x0, 0x0, 0x0, 0x0, 0x0, 0x0⟩  /- HT_PROFILE -/]

/-! ### Fields of the TDC_ block (R63) -/

def Reg.TDC_CTRL : Nat := 0x400000
def Fld.TDC_CTRL_TIMEOUT_EXP : Fld := ⟨0x400000, 0, 5⟩
def Reg.TDC_STATUS : Nat := 0x400008
def Fld.TDC_STATUS_RING_LOCK : Fld := ⟨0x400008, 0, 1⟩
def Fld.TDC_STATUS_LOCK_FELL : Fld := ⟨0x400008, 1, 1⟩
def Fld.TDC_STATUS_RT_MISMATCH : Fld := ⟨0x400008, 2, 1⟩
def Fld.TDC_STATUS_MISSED : Fld := ⟨0x400008, 32, 32⟩
def Reg.TDC_CAL_CTRL : Nat := 0x400010
def Fld.TDC_CAL_CTRL_CD_START : Fld := ⟨0x400010, 0, 1⟩
def Fld.TDC_CAL_CTRL_CD_LOG2 : Fld := ⟨0x400010, 1, 5⟩
def Fld.TDC_CAL_CTRL_LB_START : Fld := ⟨0x400010, 6, 1⟩
def Fld.TDC_CAL_CTRL_LB_LANE : Fld := ⟨0x400010, 16, 8⟩
def Reg.TDC_CAL_STATUS : Nat := 0x400018
def Fld.TDC_CAL_STATUS_CD_BUSY : Fld := ⟨0x400018, 0, 1⟩
def Fld.TDC_CAL_STATUS_CD_DONE : Fld := ⟨0x400018, 1, 1⟩
def Fld.TDC_CAL_STATUS_LB_BUSY : Fld := ⟨0x400018, 2, 1⟩
def Fld.TDC_CAL_STATUS_LB_DONE : Fld := ⟨0x400018, 3, 1⟩
def Reg.TDC_FIFO : Nat := 0x400020
def Fld.TDC_FIFO_STAMP : Fld := ⟨0x400020, 0, 48⟩
def Fld.TDC_FIFO_CHANNEL : Fld := ⟨0x400020, 48, 10⟩
def Fld.TDC_FIFO_KIND : Fld := ⟨0x400020, 58, 3⟩
def Fld.TDC_FIFO_STATUS : Fld := ⟨0x400020, 61, 2⟩
def Fld.TDC_FIFO_VALID : Fld := ⟨0x400020, 63, 1⟩
def Reg.TDC_FIFO_STATUS : Nat := 0x400028
def Fld.TDC_FIFO_STATUS_LEVEL : Fld := ⟨0x400028, 0, 13⟩
def Fld.TDC_FIFO_STATUS_OVERFLOW : Fld := ⟨0x400028, 32, 32⟩
def Reg.TDC_SWAP_CTRL : Nat := 0x400030
def Fld.TDC_SWAP_CTRL_PORT : Fld := ⟨0x400030, 0, 6⟩
def Fld.TDC_SWAP_CTRL_START : Fld := ⟨0x400030, 8, 1⟩
def Reg.TDC_SWAP_STATUS : Nat := 0x400038
def Fld.TDC_SWAP_STATUS_STEP : Fld := ⟨0x400038, 0, 3⟩
def Fld.TDC_SWAP_STATUS_DONE : Fld := ⟨0x400038, 3, 1⟩
def Fld.TDC_SWAP_STATUS_FAILED : Fld := ⟨0x400038, 4, 1⟩
def Reg.TDC_REF_CFG : Nat := 0x400100
def Fld.TDC_REF_CFG_THRESH : Fld := ⟨0x400100, 0, 8⟩
def Fld.TDC_REF_CFG_SLOPE : Fld := ⟨0x400100, 8, 1⟩
def Fld.TDC_REF_CFG_EN : Fld := ⟨0x400100, 9, 1⟩
def Reg.TDC_ANCHOR_CNT : Nat := 0x400200
def Fld.TDC_ANCHOR_CNT_CNT : Fld := ⟨0x400200, 0, 40⟩
def Reg.TDC_ANCHOR_NS : Nat := 0x400220
def Fld.TDC_ANCHOR_NS_NS : Fld := ⟨0x400220, 0, 64⟩
def Reg.TDC_ANCHOR_FRAC : Nat := 0x400240
def Fld.TDC_ANCHOR_FRAC_FRAC : Fld := ⟨0x400240, 0, 16⟩
def Reg.TDC_HIST : Nat := 0x401000
def Fld.TDC_HIST_COUNT : Fld := ⟨0x401000, 0, 32⟩
def Reg.TDC_DELAY : Nat := 0x402000
def Fld.TDC_DELAY_DELAY : Fld := ⟨0x402000, 0, 32⟩
def Fld.TDC_DELAY_AGE : Fld := ⟨0x402000, 32, 16⟩
def Fld.TDC_DELAY_STATE : Fld := ⟨0x402000, 48, 2⟩
def Fld.TDC_DELAY_BATCH : Fld := ⟨0x402000, 50, 9⟩
def Reg.TDC_LANE_TRIM : Nat := 0x403000
def Fld.TDC_LANE_TRIM_TRIM : Fld := ⟨0x403000, 0, 16⟩
def Reg.TDC_PORT_TRIM : Nat := 0x404000
def Fld.TDC_PORT_TRIM_TRIM : Fld := ⟨0x404000, 0, 32⟩
def Fld.TDC_PORT_TRIM_WRITTEN : Fld := ⟨0x404000, 32, 1⟩
def Reg.TDC_PORT_ASYM : Nat := 0x404200
def Fld.TDC_PORT_ASYM_A0 : Fld := ⟨0x404200, 0, 32⟩
def Fld.TDC_PORT_ASYM_MEASURED : Fld := ⟨0x404200, 32, 1⟩
def Reg.TDC_PORT_CFG : Nat := 0x404400
def Fld.TDC_PORT_CFG_ASYM_SRC : Fld := ⟨0x404400, 0, 2⟩
def Fld.TDC_PORT_CFG_RT_EN : Fld := ⟨0x404400, 2, 1⟩

/-- The rows of the TDC_ block (R63). -/
def regRowsTDC : List RegRow := [
  ⟨0x400000, 1, 8, 1, 1, false, false, 0x1F, 0x0, 0x0, 0x0, 0x0, 0x10⟩  /- TDC_CTRL -/,
  ⟨0x400008, 1, 8, 1, 1, false, false, 0x0, 0x6, 0xFFFFFFFF00000000, 0x0, 0x0, 0x0⟩  /- TDC_STATUS -/,
  ⟨0x400010, 1, 8, 1, 1, false, false, 0xFF003E, 0x0, 0x0, 0x41, 0x0, 0x28⟩  /- TDC_CAL_CTRL -/,
  ⟨0x400018, 1, 8, 1, 1, false, false, 0x0, 0xA, 0x0, 0x0, 0x0, 0x0⟩  /- TDC_CAL_STATUS -/,
  ⟨0x400020, 1, 8, 1, 1, false, false, 0x0, 0x0, 0xFFFFFFFFFFFFFFFF, 0x0, 0x0, 0x0⟩  /- TDC_FIFO -/,
  ⟨0x400028, 1, 8, 1, 1, false, false, 0x0, 0x0, 0xFFFFFFFF00000000, 0x0, 0x0, 0x0⟩  /- TDC_FIFO_STATUS -/,
  ⟨0x400030, 1, 8, 1, 1, false, false, 0x3F, 0x0, 0x0, 0x100, 0x0, 0x0⟩  /- TDC_SWAP_CTRL -/,
  ⟨0x400038, 1, 8, 1, 1, false, false, 0x0, 0x18, 0x0, 0x0, 0x0, 0x0⟩  /- TDC_SWAP_STATUS -/,
  ⟨0x400100, 4, 8, 4, 0, false, false, 0x3FF, 0x0, 0x0, 0x0, 0x0, 0x32⟩  /- TDC_REF_CFG -/,
  ⟨0x400200, 4, 8, 4, 4, false, false, 0x0, 0x0, 0x0, 0x0, 0x0, 0x0⟩  /- TDC_ANCHOR_CNT -/,
  ⟨0x400220, 4, 8, 4, 4, false, false, 0x0, 0x0, 0x0, 0x0, 0x0, 0x0⟩  /- TDC_ANCHOR_NS -/,
  ⟨0x400240, 4, 8, 4, 4, false, false, 0x0, 0x0, 0x0, 0x0, 0x0, 0x0⟩  /- TDC_ANCHOR_FRAC -/,
  ⟨0x401000, 256, 8, 256, 256, false, false, 0x0, 0x0, 0x0, 0x0, 0x0, 0x0⟩  /- TDC_HIST -/,
  ⟨0x402000, 256, 8, 256, 8, false, false, 0x0, 0x0, 0x0, 0x0, 0x0, 0x0⟩  /- TDC_DELAY -/,
  ⟨0x403000, 256, 8, 256, 8, false, false, 0x0, 0x0, 0x0, 0x0, 0xFFFF, 0x0⟩  /- TDC_LANE_TRIM -/,
  ⟨0x404000, 64, 8, 64, 0, false, false, 0x0, 0x0, 0x0, 0x0, 0xFFFFFFFF, 0x0⟩  /- TDC_PORT_TRIM -/,
  ⟨0x404200, 64, 8, 64, 2, false, false, 0xFFFFFFFF, 0x0, 0x0, 0x0, 0x0, 0x0⟩  /- TDC_PORT_ASYM -/,
  ⟨0x404400, 64, 8, 64, 2, false, false, 0x7, 0x0, 0x0, 0x0, 0x0, 0x4⟩  /- TDC_PORT_CFG -/]

/-! ### Fields of the REF_ block (R96) -/

def Reg.REF_CTRL : Nat := 0x600000
def Fld.REF_CTRL_REVERTIVE : Fld := ⟨0x600000, 0, 1⟩
def Fld.REF_CTRL_QL_HYST : Fld := ⟨0x600000, 1, 2⟩
def Fld.REF_CTRL_WTR : Fld := ⟨0x600000, 8, 8⟩
def Fld.REF_CTRL_FORCE_EN : Fld := ⟨0x600000, 16, 1⟩
def Fld.REF_CTRL_FORCE_DOMAIN : Fld := ⟨0x600000, 17, 1⟩
def Reg.REF_STATUS : Nat := 0x600008
def Fld.REF_STATUS_ACTIVE_DOMAIN : Fld := ⟨0x600008, 0, 1⟩
def Fld.REF_STATUS_A_OK : Fld := ⟨0x600008, 1, 1⟩
def Fld.REF_STATUS_B_OK : Fld := ⟨0x600008, 2, 1⟩
def Fld.REF_STATUS_SPLIT : Fld := ⟨0x600008, 3, 1⟩
def Fld.REF_STATUS_LEADER : Fld := ⟨0x600008, 4, 1⟩
def Fld.REF_STATUS_SWITCHED : Fld := ⟨0x600008, 16, 1⟩
def Fld.REF_STATUS_DOMAIN_LOST : Fld := ⟨0x600008, 17, 1⟩
def Fld.REF_STATUS_TANDEM_SPLIT : Fld := ⟨0x600008, 18, 1⟩
def Fld.REF_STATUS_ROLE_CHANGE : Fld := ⟨0x600008, 19, 1⟩
def Fld.REF_STATUS_REF_LOST : Fld := ⟨0x600008, 20, 1⟩
def Fld.REF_STATUS_REALIGN_DONE : Fld := ⟨0x600008, 21, 1⟩
def Reg.REF_BW : Nat := 0x600010
def Fld.REF_BW_FINAL : Fld := ⟨0x600010, 0, 3⟩
def Fld.REF_BW_ROOT_FINAL : Fld := ⟨0x600010, 4, 3⟩
def Fld.REF_BW_CUR : Fld := ⟨0x600010, 8, 3⟩
def Fld.REF_BW_ROOT_CUR : Fld := ⟨0x600010, 12, 3⟩
def Fld.REF_BW_NARROWING : Fld := ⟨0x600010, 15, 1⟩
def Reg.REF_DOMAIN_A : Nat := 0x600018
def Fld.REF_DOMAIN_A_PORT : Fld := ⟨0x600018, 0, 6⟩
def Fld.REF_DOMAIN_A_VALID : Fld := ⟨0x600018, 6, 1⟩
def Fld.REF_DOMAIN_A_QL : Fld := ⟨0x600018, 8, 4⟩
def Fld.REF_DOMAIN_A_HOP : Fld := ⟨0x600018, 12, 3⟩
def Fld.REF_DOMAIN_A_LEADER : Fld := ⟨0x600018, 15, 1⟩
def Fld.REF_DOMAIN_A_ERR : Fld := ⟨0x600018, 32, 32⟩
def Reg.REF_DOMAIN_B : Nat := 0x600020
def Fld.REF_DOMAIN_B_PORT : Fld := ⟨0x600020, 0, 6⟩
def Fld.REF_DOMAIN_B_VALID : Fld := ⟨0x600020, 6, 1⟩
def Fld.REF_DOMAIN_B_QL : Fld := ⟨0x600020, 8, 4⟩
def Fld.REF_DOMAIN_B_HOP : Fld := ⟨0x600020, 12, 3⟩
def Fld.REF_DOMAIN_B_LEADER : Fld := ⟨0x600020, 15, 1⟩
def Fld.REF_DOMAIN_B_ERR : Fld := ⟨0x600020, 32, 32⟩
def Reg.REF_TANDEM : Nat := 0x600028
def Fld.REF_TANDEM_AB_OFFSET : Fld := ⟨0x600028, 0, 32⟩
def Fld.REF_TANDEM_BIAS : Fld := ⟨0x600028, 32, 32⟩
def Reg.REF_HOLD : Nat := 0x600030
def Fld.REF_HOLD_FREQ : Fld := ⟨0x600030, 0, 32⟩
def Fld.REF_HOLD_LOCK_MIN : Fld := ⟨0x600030, 32, 16⟩
def Fld.REF_HOLD_QUALIFIED : Fld := ⟨0x600030, 48, 1⟩
def Reg.REF_ROOT_CFG : Nat := 0x600038
def Fld.REF_ROOT_CFG_ROOT_EN : Fld := ⟨0x600038, 0, 1⟩
def Fld.REF_ROOT_CFG_LEADER_INIT : Fld := ⟨0x600038, 1, 1⟩
def Fld.REF_ROOT_CFG_QL_QUAL : Fld := ⟨0x600038, 4, 4⟩
def Fld.REF_ROOT_CFG_QL_UNQ : Fld := ⟨0x600038, 8, 4⟩
def Reg.REF_ROOT_CTRL : Nat := 0x600040
def Fld.REF_ROOT_CTRL_MAX_SLEW : Fld := ⟨0x600040, 0, 7⟩
def Reg.REF_UTC_OFFSET_NS : Nat := 0x600048
def Fld.REF_UTC_OFFSET_NS_NS : Fld := ⟨0x600048, 0, 64⟩
def Reg.REF_UTC_OFFSET_FRAC : Nat := 0x600050
def Fld.REF_UTC_OFFSET_FRAC_FRAC : Fld := ⟨0x600050, 0, 16⟩
def Reg.REF_PTP_CFG : Nat := 0x600058
def Fld.REF_PTP_CFG_DOMAIN_NUM : Fld := ⟨0x600058, 0, 8⟩
def Fld.REF_PTP_CFG_TRANSPORT : Fld := ⟨0x600058, 8, 1⟩
def Fld.REF_PTP_CFG_EN : Fld := ⟨0x600058, 9, 1⟩
def Fld.REF_PTP_CFG_STATE : Fld := ⟨0x600058, 16, 3⟩
def Reg.REF_REALIGN : Nat := 0x600060
def Fld.REF_REALIGN_GO : Fld := ⟨0x600060, 0, 1⟩
def Fld.REF_REALIGN_PPS : Fld := ⟨0x600060, 1, 1⟩
def Fld.REF_REALIGN_CLK10M : Fld := ⟨0x600060, 2, 1⟩
def Fld.REF_REALIGN_MARK0 : Fld := ⟨0x600060, 3, 1⟩
def Fld.REF_REALIGN_MARK1 : Fld := ⟨0x600060, 4, 1⟩
def Fld.REF_REALIGN_BUSY : Fld := ⟨0x600060, 8, 1⟩
def Reg.REF_OUT_CFG : Nat := 0x600068
def Fld.REF_OUT_CFG_PPS_EN : Fld := ⟨0x600068, 0, 1⟩
def Fld.REF_OUT_CFG_CLK10M_EN : Fld := ⟨0x600068, 1, 1⟩
def Fld.REF_OUT_CFG_MARK0_EN : Fld := ⟨0x600068, 2, 1⟩
def Fld.REF_OUT_CFG_MARK1_EN : Fld := ⟨0x600068, 3, 1⟩
def Fld.REF_OUT_CFG_PPS_DELAY : Fld := ⟨0x600068, 16, 32⟩
def Reg.REF_MARK_CFG : Nat := 0x600070
def Fld.REF_MARK_CFG_EVERY_LOG2 : Fld := ⟨0x600070, 0, 5⟩
def Fld.REF_MARK_CFG_RES : Fld := ⟨0x600070, 8, 20⟩
def Fld.REF_MARK_CFG_DELAY : Fld := ⟨0x600070, 32, 32⟩
def Reg.REF_IN_CFG : Nat := 0x600100
def Fld.REF_IN_CFG_USE : Fld := ⟨0x600100, 0, 1⟩
def Fld.REF_IN_CFG_PERIOD : Fld := ⟨0x600100, 1, 2⟩
def Fld.REF_IN_CFG_QL : Fld := ⟨0x600100, 4, 4⟩
def Fld.REF_IN_CFG_PRIO : Fld := ⟨0x600100, 8, 4⟩
def Reg.REF_IN_DELAY : Nat := 0x600120
def Fld.REF_IN_DELAY_DELAY : Fld := ⟨0x600120, 0, 32⟩
def Reg.REF_IN_STATUS : Nat := 0x600140
def Fld.REF_IN_STATUS_STATE : Fld := ⟨0x600140, 0, 2⟩
def Fld.REF_IN_STATUS_SELECTED : Fld := ⟨0x600140, 2, 1⟩
def Fld.REF_IN_STATUS_VALID_RUN : Fld := ⟨0x600140, 3, 5⟩
def Fld.REF_IN_STATUS_ERR : Fld := ⟨0x600140, 32, 32⟩
def Reg.REF_PORT_PRIO : Nat := 0x600200
def Fld.REF_PORT_PRIO_PRIO : Fld := ⟨0x600200, 0, 4⟩

/-- The rows of the REF_ block (R96). -/
def regRowsREF : List RegRow := [
  ⟨0x600000, 1, 8, 1, 1, false, false, 0x3FF07, 0x0, 0x0, 0x0, 0x0, 0x501⟩  /- REF_CTRL -/,
  ⟨0x600008, 1, 8, 1, 1, false, false, 0x0, 0x3F0000, 0x0, 0x0, 0x0, 0x0⟩  /- REF_STATUS -/,
  ⟨0x600010, 1, 8, 1, 1, false, false, 0x77, 0x0, 0x0, 0x0, 0x0, 0x15⟩  /- REF_BW -/,
  ⟨0x600018, 1, 8, 1, 1, false, false, 0x0, 0x0, 0x0, 0x0, 0x0, 0x0⟩  /- REF_DOMAIN_A -/,
  ⟨0x600020, 1, 8, 1, 1, false, false, 0x0, 0x0, 0x0, 0x0, 0x0, 0x0⟩  /- REF_DOMAIN_B -/,
  ⟨0x600028, 1, 8, 1, 1, false, false, 0x0, 0x0, 0x0, 0x0, 0x0, 0x0⟩  /- REF_TANDEM -/,
  ⟨0x600030, 1, 8, 1, 0, false, false, 0x0, 0x0, 0x0, 0x0, 0x0, 0x0⟩  /- REF_HOLD -/,
  ⟨0x600038, 1, 8, 1, 0, false, false, 0x0, 0x0, 0x0, 0x0, 0xFF3, 0x0⟩  /- REF_ROOT_CFG -/,
  ⟨0x600040, 1, 8, 1, 0, false, false, 0x7F, 0x0, 0x0, 0x0, 0x0, 0xA⟩  /- REF_ROOT_CTRL -/,
  ⟨0x600048, 1, 8, 1, 0, false, false, 0xFFFFFFFFFFFFFFFF, 0x0, 0x0, 0x0, 0x0, 0x0⟩  /- REF_UTC_OFFSET_NS -/,
  ⟨0x600050, 1, 8, 1, 0, false, false, 0xFFFF, 0x0, 0x0, 0x0, 0x0, 0x0⟩  /- REF_UTC_OFFSET_FRAC -/,
  ⟨0x600058, 1, 8, 1, 0, false, false, 0x3FF, 0x0, 0x0, 0x0, 0x0, 0x0⟩  /- REF_PTP_CFG -/,
  ⟨0x600060, 1, 8, 1, 0, false, false, 0x1E, 0x0, 0x0, 0x1, 0x0, 0x0⟩  /- REF_REALIGN -/,
  ⟨0x600068, 1, 8, 1, 0, false, false, 0xFFFFFFFF000F, 0x0, 0x0, 0x0, 0x0, 0x0⟩  /- REF_OUT_CFG -/,
  ⟨0x600070, 2, 8, 2, 0, false, false, 0xFFFFFFFF0FFFFF1F, 0x0, 0x0, 0x0, 0x0, 0x0⟩  /- REF_MARK_CFG -/,
  ⟨0x600100, 4, 8, 4, 0, false, false, 0x0, 0x0, 0x0, 0x0, 0xFF7, 0x0⟩  /- REF_IN_CFG -/,
  ⟨0x600120, 4, 8, 4, 0, false, false, 0x0, 0x0, 0x0, 0x0, 0xFFFFFFFF, 0x0⟩  /- REF_IN_DELAY -/,
  ⟨0x600140, 4, 8, 4, 0, false, false, 0x0, 0x0, 0x0, 0x0, 0x0, 0x0⟩  /- REF_IN_STATUS -/,
  ⟨0x600200, 64, 8, 64, 2, false, false, 0xF, 0x0, 0x0, 0x0, 0x0, 0x8⟩  /- REF_PORT_PRIO -/]

/-! ### Fields of the CAD_ block (R132) -/

def Reg.CAD_SC : Nat := 0x800000
def Fld.CAD_SC_SC : Fld := ⟨0x800000, 0, 64⟩
def Reg.CAD_WSC : Nat := 0x800008
def Fld.CAD_WSC_WSC : Fld := ⟨0x800008, 0, 64⟩
def Reg.CAD_STATUS : Nat := 0x800010
def Fld.CAD_STATUS_STATE : Fld := ⟨0x800010, 0, 2⟩
def Fld.CAD_STATUS_HELD_REASON : Fld := ⟨0x800010, 2, 3⟩
def Fld.CAD_STATUS_ARMED : Fld := ⟨0x800010, 5, 1⟩
def Fld.CAD_STATUS_DISARM : Fld := ⟨0x800010, 6, 1⟩
def Fld.CAD_STATUS_FREEWHEEL : Fld := ⟨0x800010, 7, 1⟩
def Fld.CAD_STATUS_K : Fld := ⟨0x800010, 8, 6⟩
def Fld.CAD_STATUS_MISSED : Fld := ⟨0x800010, 16, 1⟩
def Fld.CAD_STATUS_PLANE_CONFLICT : Fld := ⟨0x800010, 17, 1⟩
def Fld.CAD_STATUS_HELD_ENTRY : Fld := ⟨0x800010, 18, 1⟩
def Fld.CAD_STATUS_PHASE_CHANGE : Fld := ⟨0x800010, 19, 1⟩
def Fld.CAD_STATUS_ARM_NO : Fld := ⟨0x800010, 32, 32⟩
def Reg.CAD_PHASE : Nat := 0x800018
def Fld.CAD_PHASE_STEP_NS : Fld := ⟨0x800018, 0, 32⟩
def Fld.CAD_PHASE_PHASE : Fld := ⟨0x800018, 32, 4⟩
def Fld.CAD_PHASE_HOLD_DIST : Fld := ⟨0x800018, 40, 8⟩
def Reg.CAD_ANCHOR_NS : Nat := 0x800020
def Fld.CAD_ANCHOR_NS_VALUE : Fld := ⟨0x800020, 0, 64⟩
def Reg.CAD_ANCHOR_SC : Nat := 0x800028
def Fld.CAD_ANCHOR_SC_VALUE : Fld := ⟨0x800028, 0, 64⟩
def Reg.CAD_BASE_WSC : Nat := 0x800030
def Fld.CAD_BASE_WSC_VALUE : Fld := ⟨0x800030, 0, 64⟩
def Reg.CAD_NEXT_NS : Nat := 0x800038
def Fld.CAD_NEXT_NS_NS : Fld := ⟨0x800038, 0, 64⟩
def Reg.CAD_GRANT_SC : Nat := 0x800040
def Fld.CAD_GRANT_SC_GRANT : Fld := ⟨0x800040, 0, 64⟩
def Reg.CAD_FW_COUNT : Nat := 0x800048
def Fld.CAD_FW_COUNT_COUNT : Fld := ⟨0x800048, 0, 64⟩
def Reg.CAD_DEC_LAST : Nat := 0x800050
def Fld.CAD_DEC_LAST_SEQ : Fld := ⟨0x800050, 0, 16⟩
def Fld.CAD_DEC_LAST_EPOCH : Fld := ⟨0x800050, 16, 8⟩
def Fld.CAD_DEC_LAST_KIND : Fld := ⟨0x800050, 24, 3⟩
def Fld.CAD_DEC_LAST_LATENCY : Fld := ⟨0x800050, 32, 16⟩
def Reg.CAD_COMPLETE_WSC : Nat := 0x800058
def Fld.CAD_COMPLETE_WSC_WSC : Fld := ⟨0x800058, 0, 64⟩
def Reg.CAD_HOLD_AT : Nat := 0x800060
def Fld.CAD_HOLD_AT_SC : Fld := ⟨0x800060, 0, 63⟩
def Fld.CAD_HOLD_AT_EN : Fld := ⟨0x800060, 63, 1⟩
def Reg.CAD_CMD : Nat := 0x800068
def Fld.CAD_CMD_QUIESCE : Fld := ⟨0x800068, 0, 1⟩
def Fld.CAD_CMD_REARM : Fld := ⟨0x800068, 1, 1⟩
def Reg.CAD_HOST_CFG : Nat := 0x800070
def Fld.CAD_HOST_CFG_MUL : Fld := ⟨0x800070, 0, 8⟩
def Fld.CAD_HOST_CFG_MARGIN : Fld := ⟨0x800070, 8, 4⟩
def Reg.CAD_ROOT_CFG : Nat := 0x800100
def Fld.CAD_ROOT_CFG_ISSUE_INIT : Fld := ⟨0x800100, 0, 1⟩
def Fld.CAD_ROOT_CFG_ISSUER : Fld := ⟨0x800100, 1, 1⟩
def Fld.CAD_ROOT_CFG_EPOCH : Fld := ⟨0x800100, 8, 8⟩
def Fld.CAD_ROOT_CFG_L_VOTE : Fld := ⟨0x800100, 16, 7⟩
def Reg.CAD_ROOT_CMD : Nat := 0x800108
def Fld.CAD_ROOT_CMD_START : Fld := ⟨0x800108, 0, 1⟩
def Fld.CAD_ROOT_CMD_RESUME : Fld := ⟨0x800108, 1, 1⟩
def Fld.CAD_ROOT_CMD_HOLD : Fld := ⟨0x800108, 2, 1⟩
def Fld.CAD_ROOT_CMD_STOP : Fld := ⟨0x800108, 3, 1⟩
def Fld.CAD_ROOT_CMD_END_PHASE : Fld := ⟨0x800108, 4, 1⟩
def Fld.CAD_ROOT_CMD_TAKE_ISSUE : Fld := ⟨0x800108, 5, 1⟩
def Fld.CAD_ROOT_CMD_PHASE : Fld := ⟨0x800108, 8, 4⟩
def Fld.CAD_ROOT_CMD_K : Fld := ⟨0x800108, 12, 6⟩
def Reg.CAD_ROOT_TARGET_NS : Nat := 0x800110
def Fld.CAD_ROOT_TARGET_NS_VALUE : Fld := ⟨0x800110, 0, 64⟩
def Reg.CAD_ROOT_WSC : Nat := 0x800118
def Fld.CAD_ROOT_WSC_VALUE : Fld := ⟨0x800118, 0, 64⟩
def Reg.CAD_ROOT_BASE_WSC : Nat := 0x800120
def Fld.CAD_ROOT_BASE_WSC_VALUE : Fld := ⟨0x800120, 0, 64⟩
def Reg.CAD_ROOT_STATUS : Nat := 0x800128
def Fld.CAD_ROOT_STATUS_ARM_AGG : Fld := ⟨0x800128, 0, 32⟩
def Fld.CAD_ROOT_STATUS_ARM_COMPLETE : Fld := ⟨0x800128, 32, 1⟩
def Fld.CAD_ROOT_STATUS_DISARM_AGG : Fld := ⟨0x800128, 33, 1⟩
def Fld.CAD_ROOT_STATUS_PENDING : Fld := ⟨0x800128, 34, 1⟩
def Fld.CAD_ROOT_STATUS_CMD_REFUSED : Fld := ⟨0x800128, 48, 1⟩
def Fld.CAD_ROOT_STATUS_CMD_FAILED : Fld := ⟨0x800128, 49, 1⟩
def Fld.CAD_ROOT_STATUS_HOLD_SENT : Fld := ⟨0x800128, 50, 1⟩
def Fld.CAD_ROOT_STATUS_INIT_CONFLICT : Fld := ⟨0x800128, 51, 1⟩
def Reg.CAD_ROOT_AGG_COMPLETE : Nat := 0x800130
def Fld.CAD_ROOT_AGG_COMPLETE_WSC : Fld := ⟨0x800130, 0, 64⟩

/-- The rows of the CAD_ block (R132). -/
def regRowsCAD : List RegRow := [
  ⟨0x800000, 1, 8, 1, 1, false, false, 0x0, 0x0, 0x0, 0x0, 0x0, 0x0⟩  /- CAD_SC -/,
  ⟨0x800008, 1, 8, 1, 1, false, false, 0x0, 0x0, 0x0, 0x0, 0x0, 0x0⟩  /- CAD_WSC -/,
  ⟨0x800010, 1, 8, 1, 1, false, false, 0x0, 0xF0000, 0x0, 0x0, 0x0, 0x0⟩  /- CAD_STATUS -/,
  ⟨0x800018, 1, 8, 1, 1, false, false, 0x0, 0x0, 0x0, 0x0, 0x0, 0x0⟩  /- CAD_PHASE -/,
  ⟨0x800020, 1, 8, 1, 1, false, false, 0x0, 0x0, 0x0, 0x0, 0x0, 0x0⟩  /- CAD_ANCHOR_NS -/,
  ⟨0x800028, 1, 8, 1, 1, false, false, 0x0, 0x0, 0x0, 0x0, 0x0, 0x0⟩  /- CAD_ANCHOR_SC -/,
  ⟨0x800030, 1, 8, 1, 1, false, false, 0x0, 0x0, 0x0, 0x0, 0x0, 0x0⟩  /- CAD_BASE_WSC -/,
  ⟨0x800038, 1, 8, 1, 1, false, false, 0x0, 0x0, 0x0, 0x0, 0x0, 0x0⟩  /- CAD_NEXT_NS -/,
  ⟨0x800040, 1, 8, 1, 1, false, false, 0x0, 0x0, 0x0, 0x0, 0x0, 0x0⟩  /- CAD_GRANT_SC -/,
  ⟨0x800048, 1, 8, 1, 1, false, false, 0x0, 0x0, 0x0, 0x0, 0x0, 0x0⟩  /- CAD_FW_COUNT -/,
  ⟨0x800050, 1, 8, 1, 1, false, false, 0x0, 0x0, 0x0, 0x0, 0x0, 0x0⟩  /- CAD_DEC_LAST -/,
  ⟨0x800058, 1, 8, 1, 1, false, false, 0x0, 0x0, 0x0, 0x0, 0x0, 0x0⟩  /- CAD_COMPLETE_WSC -/,
  ⟨0x800060, 1, 8, 1, 1, false, false, 0xFFFFFFFFFFFFFFFF, 0x0, 0x0, 0x0, 0x0, 0x0⟩  /- CAD_HOLD_AT -/,
  ⟨0x800068, 1, 8, 1, 1, false, false, 0x0, 0x0, 0x0, 0x3, 0x0, 0x0⟩  /- CAD_CMD -/,
  ⟨0x800070, 1, 8, 0, 1, false, false, 0xFFF, 0x0, 0x0, 0x0, 0x0, 0x12⟩  /- CAD_HOST_CFG -/,
  ⟨0x800100, 1, 8, 1, 0, true, false, 0x7F0000, 0x0, 0x0, 0x0, 0x1, 0x80000⟩  /- CAD_ROOT_CFG -/,
  ⟨0x800108, 1, 8, 1, 0, true, false, 0x3FF00, 0x0, 0x0, 0x3F, 0x0, 0x0⟩  /- CAD_ROOT_CMD -/,
  ⟨0x800110, 1, 8, 1, 0, true, false, 0xFFFFFFFFFFFFFFFF, 0x0, 0x0, 0x0, 0x0, 0x0⟩  /- CAD_ROOT_TARGET_NS -/,
  ⟨0x800118, 1, 8, 1, 0, true, false, 0xFFFFFFFFFFFFFFFF, 0x0, 0x0, 0x0, 0x0, 0x0⟩  /- CAD_ROOT_WSC -/,
  ⟨0x800120, 1, 8, 1, 0, true, false, 0xFFFFFFFFFFFFFFFF, 0x0, 0x0, 0x0, 0x0, 0x0⟩  /- CAD_ROOT_BASE_WSC -/,
  ⟨0x800128, 1, 8, 1, 0, true, false, 0x0, 0xF000000000000, 0x0, 0x0, 0x0, 0x0⟩  /- CAD_ROOT_STATUS -/,
  ⟨0x800130, 1, 8, 1, 0, true, false, 0x0, 0x0, 0x0, 0x0, 0x0, 0x0⟩  /- CAD_ROOT_AGG_COMPLETE -/]

/-! ### Fields of the SPK_ block (R163) -/

def Reg.SPK_CFG : Nat := 0xA00000
def Fld.SPK_CFG_NPHYS : Fld := ⟨0xA00000, 0, 17⟩
def Fld.SPK_CFG_NCTX : Fld := ⟨0xA00000, 32, 9⟩
def Reg.SPK_STATUS : Nat := 0xA00008
def Fld.SPK_STATUS_OWNER_LOST : Fld := ⟨0xA00008, 0, 1⟩
def Fld.SPK_STATUS_UNREACHABLE : Fld := ⟨0xA00008, 1, 1⟩
def Fld.SPK_STATUS_BUSY_SEEN : Fld := ⟨0xA00008, 2, 1⟩
def Fld.SPK_STATUS_RESTORE_FAIL : Fld := ⟨0xA00008, 3, 1⟩
def Reg.SPK_CTX_SEL : Nat := 0xA00010
def Fld.SPK_CTX_SEL_CTX : Fld := ⟨0xA00010, 0, 8⟩
def Reg.SPK_CTX_STATE : Nat := 0xA00018
def Fld.SPK_CTX_STATE_STATE : Fld := ⟨0xA00018, 0, 2⟩
def Fld.SPK_CTX_STATE_XLAT_PENDING : Fld := ⟨0xA00018, 2, 1⟩
def Fld.SPK_CTX_STATE_OWNED : Fld := ⟨0xA00018, 16, 13⟩
def Fld.SPK_CTX_STATE_WAITS : Fld := ⟨0xA00018, 32, 9⟩
def Fld.SPK_CTX_STATE_NOTIFIES : Fld := ⟨0xA00018, 41, 9⟩
def Reg.SPK_XLAT_BASE : Nat := 0xA00020
def Fld.SPK_XLAT_BASE_ADDR : Fld := ⟨0xA00020, 0, 64⟩
def Reg.SPK_XLAT_ACTIVE : Nat := 0xA00028
def Fld.SPK_XLAT_ACTIVE_ADDR : Fld := ⟨0xA00028, 0, 64⟩
def Reg.SPK_SAVE_BASE : Nat := 0xA00030
def Fld.SPK_SAVE_BASE_ADDR : Fld := ⟨0xA00030, 0, 64⟩
def Reg.SPK_CTX_NOTIFY : Nat := 0xA00038
def Fld.SPK_CTX_NOTIFY_KIND : Fld := ⟨0xA00038, 0, 2⟩
def Fld.SPK_CTX_NOTIFY_QUEUE : Fld := ⟨0xA00038, 8, 8⟩
def Reg.SPK_CTX_CMD : Nat := 0xA00040
def Fld.SPK_CTX_CMD_COMMIT_XLAT : Fld := ⟨0xA00040, 0, 1⟩
def Fld.SPK_CTX_CMD_SAVE : Fld := ⟨0xA00040, 1, 1⟩
def Fld.SPK_CTX_CMD_RESTORE : Fld := ⟨0xA00040, 2, 1⟩
def Fld.SPK_CTX_CMD_RESET : Fld := ⟨0xA00040, 3, 1⟩
def Fld.SPK_CTX_CMD_ACTIVATE : Fld := ⟨0xA00040, 4, 1⟩
def Reg.SPK_PHYS_SEL : Nat := 0xA00048
def Fld.SPK_PHYS_SEL_PHYS : Fld := ⟨0xA00048, 0, 16⟩
def Fld.SPK_PHYS_SEL_ADOPT_CTX : Fld := ⟨0xA00048, 16, 8⟩
def Reg.SPK_PHYS_META : Nat := 0xA00050
def Fld.SPK_PHYS_META_STATE : Fld := ⟨0xA00050, 0, 3⟩
def Fld.SPK_PHYS_META_OWNER_CTX : Fld := ⟨0xA00050, 8, 8⟩
def Fld.SPK_PHYS_META_SHARES : Fld := ⟨0xA00050, 16, 9⟩
def Fld.SPK_PHYS_META_WAITERS : Fld := ⟨0xA00050, 32, 13⟩
def Reg.SPK_PHYS_CMD : Nat := 0xA00058
def Fld.SPK_PHYS_CMD_ALLOC : Fld := ⟨0xA00058, 0, 1⟩
def Fld.SPK_PHYS_CMD_EVICT : Fld := ⟨0xA00058, 1, 1⟩
def Fld.SPK_PHYS_CMD_ADOPT : Fld := ⟨0xA00058, 2, 1⟩
def Fld.SPK_PHYS_CMD_SHARE_INC : Fld := ⟨0xA00058, 3, 1⟩
def Fld.SPK_PHYS_CMD_SHARE_DEC : Fld := ⟨0xA00058, 4, 1⟩
def Fld.SPK_PHYS_CMD_FREE : Fld := ⟨0xA00058, 5, 1⟩
def Fld.SPK_PHYS_CMD_ZERO : Fld := ⟨0xA00058, 6, 1⟩
def Reg.SPK_CMD_STATUS : Nat := 0xA00060
def Fld.SPK_CMD_STATUS_BUSY : Fld := ⟨0xA00060, 0, 1⟩
def Fld.SPK_CMD_STATUS_DONE : Fld := ⟨0xA00060, 1, 1⟩
def Fld.SPK_CMD_STATUS_REFUSED : Fld := ⟨0xA00060, 2, 1⟩
def Reg.SPK_USE : Nat := 0xA00068
def Fld.SPK_USE_WAITS : Fld := ⟨0xA00068, 0, 13⟩
def Fld.SPK_USE_NOTIFIES : Fld := ⟨0xA00068, 16, 15⟩
def Reg.SPK_VALUE : Nat := 0xA80000
def Fld.SPK_VALUE_VALUE : Fld := ⟨0xA80000, 0, 64⟩

/-- The rows of the SPK_ block (R163). -/
def regRowsSPK : List RegRow := [
  ⟨0xA00000, 1, 8, 1, 1, false, false, 0x0, 0x0, 0x0, 0x0, 0x0, 0x0⟩  /- SPK_CFG -/,
  ⟨0xA00008, 1, 8, 1, 1, false, false, 0x0, 0xF, 0x0, 0x0, 0x0, 0x0⟩  /- SPK_STATUS -/,
  ⟨0xA00010, 1, 8, 1, 1, false, false, 0xFF, 0x0, 0x0, 0x0, 0x0, 0x0⟩  /- SPK_CTX_SEL -/,
  ⟨0xA00018, 1, 8, 1, 1, false, false, 0x0, 0x0, 0x0, 0x0, 0x0, 0x0⟩  /- SPK_CTX_STATE -/,
  ⟨0xA00020, 1, 8, 1, 1, false, false, 0x0, 0x0, 0x0, 0x0, 0x0, 0x0⟩  /- SPK_XLAT_BASE -/,
  ⟨0xA00028, 1, 8, 1, 1, false, false, 0x0, 0x0, 0x0, 0x0, 0x0, 0x0⟩  /- SPK_XLAT_ACTIVE -/,
  ⟨0xA00030, 1, 8, 1, 1, false, false, 0x0, 0x0, 0x0, 0x0, 0x0, 0x0⟩  /- SPK_SAVE_BASE -/,
  ⟨0xA00038, 1, 8, 1, 1, false, false, 0x0, 0x0, 0x0, 0x0, 0x0, 0x0⟩  /- SPK_CTX_NOTIFY -/,
  ⟨0xA00040, 1, 8, 1, 1, false, false, 0x0, 0x0, 0x0, 0x1F, 0x0, 0x0⟩  /- SPK_CTX_CMD -/,
  ⟨0xA00048, 1, 8, 1, 1, false, false, 0xFFFFFF, 0x0, 0x0, 0x0, 0x0, 0x0⟩  /- SPK_PHYS_SEL -/,
  ⟨0xA00050, 1, 8, 1, 1, false, false, 0x0, 0x0, 0x0, 0x0, 0x0, 0x0⟩  /- SPK_PHYS_META -/,
  ⟨0xA00058, 1, 8, 1, 1, false, false, 0x0, 0x0, 0x0, 0x7F, 0x0, 0x0⟩  /- SPK_PHYS_CMD -/,
  ⟨0xA00060, 1, 8, 1, 1, false, false, 0x0, 0x6, 0x0, 0x0, 0x0, 0x0⟩  /- SPK_CMD_STATUS -/,
  ⟨0xA00068, 1, 8, 1, 1, false, false, 0x0, 0x0, 0x0, 0x0, 0x0, 0x0⟩  /- SPK_USE -/,
  ⟨0xA80000, 65536, 8, 65536, 16384, false, false, 0x0, 0x0, 0x0, 0x0, 0x0, 0x0⟩  /- SPK_VALUE -/]

/-! ### Fields of the IMG_ block (R202) -/

def Reg.IMG_CTRL : Nat := 0xC00000
def Fld.IMG_CTRL_RESUME_PHASE : Fld := ⟨0xC00000, 0, 4⟩
def Fld.IMG_CTRL_RESUME_SRC : Fld := ⟨0xC00000, 4, 1⟩
def Reg.IMG_STATUS : Nat := 0xC00008
def Fld.IMG_STATUS_SHADOW_STATE : Fld := ⟨0xC00008, 0, 3⟩
def Fld.IMG_STATUS_SHADOW_LOCK : Fld := ⟨0xC00008, 3, 1⟩
def Fld.IMG_STATUS_NEXT_STATE : Fld := ⟨0xC00008, 4, 2⟩
def Fld.IMG_STATUS_NEXT_PHASE : Fld := ⟨0xC00008, 6, 4⟩
def Fld.IMG_STATUS_NEXT_SRC : Fld := ⟨0xC00008, 10, 1⟩
def Fld.IMG_STATUS_LIVE_VALID : Fld := ⟨0xC00008, 11, 1⟩
def Fld.IMG_STATUS_LIVE_PHASE : Fld := ⟨0xC00008, 12, 4⟩
def Fld.IMG_STATUS_CHECK_FAIL : Fld := ⟨0xC00008, 16, 1⟩
def Fld.IMG_STATUS_SHADOW_READY : Fld := ⟨0xC00008, 17, 1⟩
def Fld.IMG_STATUS_COMMIT : Fld := ⟨0xC00008, 18, 1⟩
def Fld.IMG_STATUS_PHASE_MISMATCH : Fld := ⟨0xC00008, 19, 1⟩
def Fld.IMG_STATUS_CMD_REFUSED : Fld := ⟨0xC00008, 20, 1⟩
def Fld.IMG_STATUS_FOREIGN : Fld := ⟨0xC00008, 21, 1⟩
def Reg.IMG_CMD : Nat := 0xC00010
def Fld.IMG_CMD_LOAD_LOCAL : Fld := ⟨0xC00010, 0, 1⟩
def Fld.IMG_CMD_BROADCAST : Fld := ⟨0xC00010, 1, 1⟩
def Fld.IMG_CMD_DISCARD : Fld := ⟨0xC00010, 2, 1⟩
def Fld.IMG_CMD_RECALL : Fld := ⟨0xC00010, 3, 1⟩
def Reg.IMG_LOAD_BASE : Nat := 0xC00018
def Fld.IMG_LOAD_BASE_ADDR : Fld := ⟨0xC00018, 0, 40⟩
def Reg.IMG_LOAD_LEN : Nat := 0xC00020
def Fld.IMG_LOAD_LEN_LEN : Fld := ⟨0xC00020, 0, 40⟩
def Reg.IMG_COMMITTED : Nat := 0xC00028
def Fld.IMG_COMMITTED_IMAGE_ID : Fld := ⟨0xC00028, 0, 32⟩
def Fld.IMG_COMMITTED_SIGNED : Fld := ⟨0xC00028, 32, 1⟩
def Reg.IMG_SHADOW : Nat := 0xC00030
def Fld.IMG_SHADOW_IMAGE_ID : Fld := ⟨0xC00030, 0, 32⟩
def Fld.IMG_SHADOW_SIGNED : Fld := ⟨0xC00030, 32, 1⟩
def Reg.IMG_PROGRESS : Nat := 0xC00038
def Fld.IMG_PROGRESS_TILES_HELD : Fld := ⟨0xC00038, 0, 32⟩
def Fld.IMG_PROGRESS_TILES_NEEDED : Fld := ⟨0xC00038, 32, 32⟩
def Reg.IMG_CHECK : Nat := 0xC00040
def Fld.IMG_CHECK_CODE : Fld := ⟨0xC00040, 0, 8⟩
def Fld.IMG_CHECK_PHASE : Fld := ⟨0xC00040, 8, 4⟩
def Fld.IMG_CHECK_ITEM : Fld := ⟨0xC00040, 16, 16⟩
def Fld.IMG_CHECK_OFFSET : Fld := ⟨0xC00040, 32, 32⟩
def Reg.IMG_USE : Nat := 0xC00048
def Fld.IMG_USE_RUNS_LIVE : Fld := ⟨0xC00048, 0, 21⟩
def Fld.IMG_USE_RUNS_NEXT : Fld := ⟨0xC00048, 32, 21⟩
def Reg.IMG_POLICY : Nat := 0xC00050
def Fld.IMG_POLICY_REQUIRE_SIG : Fld := ⟨0xC00050, 0, 1⟩
def Reg.IMG_KEYHASH : Nat := 0xC00058
def Fld.IMG_KEYHASH_HASH : Fld := ⟨0xC00058, 0, 64⟩

/-- The rows of the IMG_ block (R202). -/
def regRowsIMG : List RegRow := [
  ⟨0xC00000, 1, 8, 1, 1, false, false, 0x1F, 0x0, 0x0, 0x0, 0x0, 0x0⟩  /- IMG_CTRL -/,
  ⟨0xC00008, 1, 8, 1, 1, false, false, 0x0, 0x3F0000, 0x0, 0x0, 0x0, 0x0⟩  /- IMG_STATUS -/,
  ⟨0xC00010, 1, 8, 1, 1, false, false, 0x0, 0x0, 0x0, 0xF, 0x0, 0x0⟩  /- IMG_CMD -/,
  ⟨0xC00018, 1, 8, 1, 0, false, false, 0xFFFFFFFFFF, 0x0, 0x0, 0x0, 0x0, 0x0⟩  /- IMG_LOAD_BASE -/,
  ⟨0xC00020, 1, 8, 1, 0, false, false, 0xFFFFFFFFFF, 0x0, 0x0, 0x0, 0x0, 0x0⟩  /- IMG_LOAD_LEN -/,
  ⟨0xC00028, 1, 8, 1, 1, false, false, 0x0, 0x0, 0x0, 0x0, 0x0, 0x0⟩  /- IMG_COMMITTED -/,
  ⟨0xC00030, 1, 8, 1, 1, false, false, 0x0, 0x0, 0x0, 0x0, 0x0, 0x0⟩  /- IMG_SHADOW -/,
  ⟨0xC00038, 1, 8, 1, 1, false, false, 0x0, 0x0, 0x0, 0x0, 0x0, 0x0⟩  /- IMG_PROGRESS -/,
  ⟨0xC00040, 1, 8, 1, 1, false, false, 0x0, 0x0, 0x0, 0x0, 0x0, 0x0⟩  /- IMG_CHECK -/,
  ⟨0xC00048, 1, 8, 1, 1, false, false, 0x0, 0x0, 0x0, 0x0, 0x0, 0x0⟩  /- IMG_USE -/,
  ⟨0xC00050, 1, 8, 1, 0, false, false, 0x0, 0x0, 0x0, 0x0, 0x1, 0x0⟩  /- IMG_POLICY -/,
  ⟨0xC00058, 6, 8, 6, 0, false, false, 0x0, 0x0, 0x0, 0x0, 0xFFFFFFFFFFFFFFFF, 0x0⟩  /- IMG_KEYHASH -/]

/-! ### Fields of the XF_ block (R255) -/

def Reg.XF_CTRL : Nat := 0xE00000
def Fld.XF_CTRL_REFETCH_EN : Fld := ⟨0xE00000, 0, 1⟩
def Fld.XF_CTRL_SAT_US : Fld := ⟨0xE00000, 8, 16⟩
def Reg.XF_STATUS : Nat := 0xE00008
def Fld.XF_STATUS_ROUTE_PENDING : Fld := ⟨0xE00008, 0, 1⟩
def Fld.XF_STATUS_TILE_REJECT : Fld := ⟨0xE00008, 16, 1⟩
def Fld.XF_STATUS_REFETCH_FAIL : Fld := ⟨0xE00008, 17, 1⟩
def Fld.XF_STATUS_TILE_ABANDONED : Fld := ⟨0xE00008, 18, 1⟩
def Fld.XF_STATUS_LATE : Fld := ⟨0xE00008, 19, 1⟩
def Fld.XF_STATUS_SATURATED : Fld := ⟨0xE00008, 20, 1⟩
def Fld.XF_STATUS_LINK_DOWN : Fld := ⟨0xE00008, 21, 1⟩
def Fld.XF_STATUS_RETRAIN : Fld := ⟨0xE00008, 22, 1⟩
def Fld.XF_STATUS_ROUTE_COMMIT : Fld := ⟨0xE00008, 23, 1⟩
def Reg.XF_CMD : Nat := 0xE00010
def Fld.XF_CMD_ROUTE_COMMIT : Fld := ⟨0xE00010, 0, 1⟩
def Reg.XF_REJECT_LOG : Nat := 0xE00018
def Fld.XF_REJECT_LOG_WSC : Fld := ⟨0xE00018, 0, 16⟩
def Fld.XF_REJECT_LOG_TILE : Fld := ⟨0xE00018, 16, 20⟩
def Fld.XF_REJECT_LOG_SRC_DNO : Fld := ⟨0xE00018, 36, 12⟩
def Fld.XF_REJECT_LOG_SRC_SUB : Fld := ⟨0xE00018, 48, 5⟩
def Fld.XF_REJECT_LOG_PORT : Fld := ⟨0xE00018, 53, 6⟩
def Fld.XF_REJECT_LOG_OUTCOME : Fld := ⟨0xE00018, 59, 3⟩
def Reg.XF_PORT_CFG : Nat := 0xE01000
def Fld.XF_PORT_CFG_ISOLATE : Fld := ⟨0xE01000, 0, 1⟩
def Fld.XF_PORT_CFG_TRAIN_EN : Fld := ⟨0xE01000, 1, 1⟩
def Fld.XF_PORT_CFG_UNCORR_LIMIT : Fld := ⟨0xE01000, 4, 4⟩
def Reg.XF_PORT_STATUS : Nat := 0xE01200
def Fld.XF_PORT_STATUS_STATE : Fld := ⟨0xE01200, 0, 3⟩
def Fld.XF_PORT_STATUS_LEVEL : Fld := ⟨0xE01200, 3, 2⟩
def Fld.XF_PORT_STATUS_RATE : Fld := ⟨0xE01200, 5, 2⟩
def Fld.XF_PORT_STATUS_LANES_LOCKED : Fld := ⟨0xE01200, 7, 4⟩
def Fld.XF_PORT_STATUS_PEER_ID : Fld := ⟨0xE01200, 16, 14⟩
def Fld.XF_PORT_STATUS_PEER_KIND : Fld := ⟨0xE01200, 30, 2⟩
def Fld.XF_PORT_STATUS_RETRAINS : Fld := ⟨0xE01200, 32, 16⟩
def Reg.XF_PORT_ERR : Nat := 0xE01400
def Fld.XF_PORT_ERR_UNCORR : Fld := ⟨0xE01400, 0, 16⟩
def Fld.XF_PORT_ERR_RETRY : Fld := ⟨0xE01400, 16, 16⟩
def Fld.XF_PORT_ERR_HOLES : Fld := ⟨0xE01400, 32, 16⟩
def Fld.XF_PORT_ERR_REJECTS : Fld := ⟨0xE01400, 48, 16⟩
def Reg.XF_PORT_CREDIT : Nat := 0xE01600
def Fld.XF_PORT_CREDIT_MGMT : Fld := ⟨0xE01600, 0, 9⟩
def Fld.XF_PORT_CREDIT_LOCAL : Fld := ⟨0xE01600, 9, 9⟩
def Fld.XF_PORT_CREDIT_POD : Fld := ⟨0xE01600, 18, 9⟩
def Fld.XF_PORT_CREDIT_HALL : Fld := ⟨0xE01600, 27, 9⟩
def Fld.XF_PORT_CREDIT_SAT : Fld := ⟨0xE01600, 36, 4⟩
def Reg.XF_LANE_STATUS : Nat := 0xE02000
def Fld.XF_LANE_STATUS_LOCK : Fld := ⟨0xE02000, 0, 1⟩
def Fld.XF_LANE_STATUS_SWAPPED : Fld := ⟨0xE02000, 1, 1⟩
def Fld.XF_LANE_STATUS_ALONE : Fld := ⟨0xE02000, 2, 1⟩
def Fld.XF_LANE_STATUS_CORRECTED : Fld := ⟨0xE02000, 16, 32⟩
def Reg.XF_DNO : Nat := 0xE04000
def Fld.XF_DNO_ENTRY : Fld := ⟨0xE04000, 0, 64⟩
def Reg.XF_DNO_ACTIVE : Nat := 0xE0C000
def Fld.XF_DNO_ACTIVE_ENTRY : Fld := ⟨0xE0C000, 0, 64⟩
def Reg.XF_POD_ROUTE : Nat := 0xE14000
def Fld.XF_POD_ROUTE_PORTS : Fld := ⟨0xE14000, 0, 64⟩
def Reg.XF_POD_ROUTE_ACTIVE : Nat := 0xE14100
def Fld.XF_POD_ROUTE_ACTIVE_PORTS : Fld := ⟨0xE14100, 0, 64⟩

/-- The rows of the XF_ block (R255). -/
def regRowsXF : List RegRow := [
  ⟨0xE00000, 1, 8, 1, 1, false, false, 0xFFFF01, 0x0, 0x0, 0x0, 0x0, 0x6401⟩  /- XF_CTRL -/,
  ⟨0xE00008, 1, 8, 1, 1, false, false, 0x0, 0xFF0000, 0x0, 0x0, 0x0, 0x0⟩  /- XF_STATUS -/,
  ⟨0xE00010, 1, 8, 1, 0, false, false, 0x0, 0x0, 0x0, 0x1, 0x0, 0x0⟩  /- XF_CMD -/,
  ⟨0xE00018, 1, 8, 1, 1, false, false, 0x0, 0x0, 0x3FFFFFFFFFFFFFFF, 0x0, 0x0, 0x0⟩  /- XF_REJECT_LOG -/,
  ⟨0xE01000, 64, 8, 64, 2, false, false, 0xF3, 0x0, 0x0, 0x0, 0x0, 0x42⟩  /- XF_PORT_CFG -/,
  ⟨0xE01200, 64, 8, 64, 2, false, false, 0x0, 0x0, 0x0, 0x0, 0x0, 0x0⟩  /- XF_PORT_STATUS -/,
  ⟨0xE01400, 64, 8, 64, 2, false, false, 0x0, 0x0, 0xFFFFFFFFFFFFFFFF, 0x0, 0x0, 0x0⟩  /- XF_PORT_ERR -/,
  ⟨0xE01600, 64, 8, 64, 2, false, false, 0x0, 0x0, 0x0, 0x0, 0x0, 0x0⟩  /- XF_PORT_CREDIT -/,
  ⟨0xE02000, 256, 8, 256, 8, false, false, 0x0, 0x0, 0xFFFFFFFF0000, 0x0, 0x0, 0x0⟩  /- XF_LANE_STATUS -/,
  ⟨0xE04000, 4096, 8, 4096, 0, false, false, 0xFFFFFFFFFFFFFFFF, 0x0, 0x0, 0x0, 0x0, 0x0⟩  /- XF_DNO -/,
  ⟨0xE0C000, 4096, 8, 4096, 0, false, false, 0x0, 0x0, 0x0, 0x0, 0x0, 0x0⟩  /- XF_DNO_ACTIVE -/,
  ⟨0xE14000, 32, 8, 32, 0, false, false, 0xFFFFFFFFFFFFFFFF, 0x0, 0x0, 0x0, 0x0, 0x0⟩  /- XF_POD_ROUTE -/,
  ⟨0xE14100, 32, 8, 32, 0, false, false, 0x0, 0x0, 0x0, 0x0, 0x0, 0x0⟩  /- XF_POD_ROUTE_ACTIVE -/]

/-! ### Fields of the MEM_ block (R256) -/

def Reg.MEM_CTRL : Nat := 0x1000000
def Fld.MEM_CTRL_TIMEOUT_US : Fld := ⟨0x1000000, 0, 16⟩
def Fld.MEM_CTRL_SIDE_EN : Fld := ⟨0x1000000, 16, 1⟩
def Reg.MEM_STATUS : Nat := 0x1000008
def Fld.MEM_STATUS_OUTSTANDING : Fld := ⟨0x1000008, 0, 13⟩
def Fld.MEM_STATUS_TIMEOUT : Fld := ⟨0x1000008, 16, 1⟩
def Fld.MEM_STATUS_ERROR : Fld := ⟨0x1000008, 17, 1⟩
def Fld.MEM_STATUS_SIG_UNREACHABLE : Fld := ⟨0x1000008, 18, 1⟩
def Reg.MEM_ERR_LOG : Nat := 0x1000010
def Fld.MEM_ERR_LOG_ADDR : Fld := ⟨0x1000010, 0, 52⟩
def Fld.MEM_ERR_LOG_STATUS : Fld := ⟨0x1000010, 52, 4⟩
def Fld.MEM_ERR_LOG_OP : Fld := ⟨0x1000010, 56, 4⟩
def Fld.MEM_ERR_LOG_BAR2 : Fld := ⟨0x1000010, 60, 1⟩
def Reg.MEM_APERTURE : Nat := 0x1000100
def Fld.MEM_APERTURE_EN : Fld := ⟨0x1000100, 0, 1⟩
def Fld.MEM_APERTURE_BASE : Fld := ⟨0x1000100, 32, 20⟩

/-- The rows of the MEM_ block (R256). -/
def regRowsMEM : List RegRow := [
  ⟨0x1000000, 1, 8, 1, 1, false, false, 0x1FFFF, 0x0, 0x0, 0x0, 0x0, 0x103E8⟩  /- MEM_CTRL -/,
  ⟨0x1000008, 1, 8, 1, 1, false, false, 0x0, 0x70000, 0x0, 0x0, 0x0, 0x0⟩  /- MEM_STATUS -/,
  ⟨0x1000010, 1, 8, 1, 1, false, false, 0x0, 0x0, 0x1FFFFFFFFFFFFFFF, 0x0, 0x0, 0x0⟩  /- MEM_ERR_LOG -/,
  ⟨0x1000100, 16, 8, 16, 0, false, false, 0xFFFFF00000001, 0x0, 0x0, 0x0, 0x0, 0x0⟩  /- MEM_APERTURE -/]

/-! ### Fields of the CMB_ block (R305) -/

def Reg.CMB_STATUS : Nat := 0x1200000
def Fld.CMB_STATUS_CELL_BUSY : Fld := ⟨0x1200000, 0, 16⟩
def Fld.CMB_STATUS_XS_FULL : Fld := ⟨0x1200000, 16, 1⟩
def Fld.CMB_STATUS_XS_REJECT : Fld := ⟨0x1200000, 17, 1⟩
def Fld.CMB_STATUS_NAN_FLUSH : Fld := ⟨0x1200000, 18, 1⟩
def Fld.CMB_STATUS_SEED_REFUSED : Fld := ⟨0x1200000, 19, 1⟩
def Fld.CMB_STATUS_MOE_DROP : Fld := ⟨0x1200000, 20, 1⟩
def Fld.CMB_STATUS_RESULT_LATE : Fld := ⟨0x1200000, 21, 1⟩
def Fld.CMB_STATUS_RAND_READY : Fld := ⟨0x1200000, 22, 1⟩
def Reg.CMB_SEED0 : Nat := 0x1200008
def Fld.CMB_SEED0_SEED : Fld := ⟨0x1200008, 0, 64⟩
def Reg.CMB_SEED1 : Nat := 0x1200010
def Fld.CMB_SEED1_SEED : Fld := ⟨0x1200010, 0, 64⟩
def Reg.CMB_XS_LOG : Nat := 0x1200018
def Fld.CMB_XS_LOG_INSTR : Fld := ⟨0x1200018, 0, 16⟩
def Fld.CMB_XS_LOG_PHASE : Fld := ⟨0x1200018, 16, 4⟩
def Fld.CMB_XS_LOG_BLOCK : Fld := ⟨0x1200018, 32, 16⟩
def Fld.CMB_XS_LOG_WSC : Fld := ⟨0x1200018, 48, 16⟩
def Reg.CMB_MOE_COUNT : Nat := 0x1200020
def Fld.CMB_MOE_COUNT_DROPPED : Fld := ⟨0x1200020, 0, 32⟩
def Fld.CMB_MOE_COUNT_DEFERRED : Fld := ⟨0x1200020, 32, 32⟩
def Reg.CMB_SPECIAL : Nat := 0x1200028
def Fld.CMB_SPECIAL_NAN : Fld := ⟨0x1200028, 0, 32⟩
def Fld.CMB_SPECIAL_SAT : Fld := ⟨0x1200028, 32, 32⟩
def Reg.CMB_RAND_CTR0 : Nat := 0x1200030
def Fld.CMB_RAND_CTR0_CTR : Fld := ⟨0x1200030, 0, 64⟩
def Reg.CMB_RAND_CTR1 : Nat := 0x1200038
def Fld.CMB_RAND_CTR1_CTR : Fld := ⟨0x1200038, 0, 64⟩
def Reg.CMB_RAND_OUT0 : Nat := 0x1200040
def Fld.CMB_RAND_OUT0_OUT : Fld := ⟨0x1200040, 0, 64⟩
def Reg.CMB_RAND_OUT1 : Nat := 0x1200048
def Fld.CMB_RAND_OUT1_OUT : Fld := ⟨0x1200048, 0, 64⟩
def Reg.CMB_CELL_STATE : Nat := 0x1200100
def Fld.CMB_CELL_STATE_INSTR : Fld := ⟨0x1200100, 0, 16⟩
def Fld.CMB_CELL_STATE_ACTIVE : Fld := ⟨0x1200100, 16, 1⟩
def Fld.CMB_CELL_STATE_SPILLING : Fld := ⟨0x1200100, 17, 1⟩
def Fld.CMB_CELL_STATE_PENDING : Fld := ⟨0x1200100, 32, 16⟩

/-- The rows of the CMB_ block (R305). -/
def regRowsCMB : List RegRow := [
  ⟨0x1200000, 1, 8, 1, 1, false, false, 0x0, 0x3F0000, 0x0, 0x0, 0x0, 0x0⟩  /- CMB_STATUS -/,
  ⟨0x1200008, 1, 8, 1, 1, false, false, 0xFFFFFFFFFFFFFFFF, 0x0, 0x0, 0x0, 0x0, 0x0⟩  /- CMB_SEED0 -/,
  ⟨0x1200010, 1, 8, 1, 1, false, false, 0xFFFFFFFFFFFFFFFF, 0x0, 0x0, 0x0, 0x0, 0x0⟩  /- CMB_SEED1 -/,
  ⟨0x1200018, 1, 8, 1, 0, false, false, 0x0, 0x0, 0xFFFFFFFF000FFFFF, 0x0, 0x0, 0x0⟩  /- CMB_XS_LOG -/,
  ⟨0x1200020, 1, 8, 1, 0, false, false, 0x0, 0x0, 0xFFFFFFFFFFFFFFFF, 0x0, 0x0, 0x0⟩  /- CMB_MOE_COUNT -/,
  ⟨0x1200028, 1, 8, 1, 0, false, false, 0x0, 0x0, 0xFFFFFFFFFFFFFFFF, 0x0, 0x0, 0x0⟩  /- CMB_SPECIAL -/,
  ⟨0x1200030, 1, 8, 1, 1, false, false, 0xFFFFFFFFFFFFFFFF, 0x0, 0x0, 0x0, 0x0, 0x0⟩  /- CMB_RAND_CTR0 -/,
  ⟨0x1200038, 1, 8, 1, 1, false, false, 0xFFFFFFFFFFFFFFFF, 0x0, 0x0, 0x0, 0x0, 0x0⟩  /- CMB_RAND_CTR1 -/,
  ⟨0x1200040, 1, 8, 1, 1, false, false, 0x0, 0x0, 0x0, 0x0, 0x0, 0x0⟩  /- CMB_RAND_OUT0 -/,
  ⟨0x1200048, 1, 8, 1, 1, false, false, 0x0, 0x0, 0x0, 0x0, 0x0, 0x0⟩  /- CMB_RAND_OUT1 -/,
  ⟨0x1200100, 16, 8, 16, 0, false, false, 0x0, 0x0, 0x0, 0x0, 0x0, 0x0⟩  /- CMB_CELL_STATE -/]

/-! ### Fields of the TIL_ block (R333) -/

def Reg.TIL_CTRL : Nat := 0x1400000
def Fld.TIL_CTRL_AUTO_RETIRE : Fld := ⟨0x1400000, 0, 1⟩
def Reg.TIL_STATUS : Nat := 0x1400008
def Fld.TIL_STATUS_BUSY : Fld := ⟨0x1400008, 0, 1⟩
def Fld.TIL_STATUS_RETIRED : Fld := ⟨0x1400008, 1, 2⟩
def Fld.TIL_STATUS_NO_SPARE : Fld := ⟨0x1400008, 3, 1⟩
def Fld.TIL_STATUS_FOLD_PENDING : Fld := ⟨0x1400008, 4, 1⟩
def Fld.TIL_STATUS_ROW_FAULT : Fld := ⟨0x1400008, 16, 1⟩
def Fld.TIL_STATUS_FOLD_COMMIT : Fld := ⟨0x1400008, 17, 1⟩
def Fld.TIL_STATUS_LATE : Fld := ⟨0x1400008, 18, 1⟩
def Fld.TIL_STATUS_SPARES_OUT : Fld := ⟨0x1400008, 19, 1⟩
def Reg.TIL_CMD : Nat := 0x1400010
def Fld.TIL_CMD_FOLD_COMMIT : Fld := ⟨0x1400010, 0, 1⟩
def Reg.TIL_FOLD : Nat := 0x1400018
def Fld.TIL_FOLD_RET_A : Fld := ⟨0x1400018, 0, 8⟩
def Fld.TIL_FOLD_RET_A_EN : Fld := ⟨0x1400018, 8, 1⟩
def Fld.TIL_FOLD_RET_B : Fld := ⟨0x1400018, 16, 8⟩
def Fld.TIL_FOLD_RET_B_EN : Fld := ⟨0x1400018, 24, 1⟩
def Reg.TIL_FOLD_ACTIVE : Nat := 0x1400020
def Fld.TIL_FOLD_ACTIVE_RET_A : Fld := ⟨0x1400020, 0, 8⟩
def Fld.TIL_FOLD_ACTIVE_RET_A_EN : Fld := ⟨0x1400020, 8, 1⟩
def Fld.TIL_FOLD_ACTIVE_RET_B : Fld := ⟨0x1400020, 16, 8⟩
def Fld.TIL_FOLD_ACTIVE_RET_B_EN : Fld := ⟨0x1400020, 24, 1⟩
def Reg.TIL_FAULT_LOG : Nat := 0x1400028
def Fld.TIL_FAULT_LOG_ROW : Fld := ⟨0x1400028, 0, 8⟩
def Fld.TIL_FAULT_LOG_COL : Fld := ⟨0x1400028, 8, 7⟩
def Fld.TIL_FAULT_LOG_VECTOR : Fld := ⟨0x1400028, 15, 1⟩
def Fld.TIL_FAULT_LOG_WSC : Fld := ⟨0x1400028, 16, 16⟩
def Fld.TIL_FAULT_LOG_INSTR : Fld := ⟨0x1400028, 32, 16⟩
def Reg.TIL_CUR : Nat := 0x1400030
def Fld.TIL_CUR_INSTR : Fld := ⟨0x1400030, 0, 16⟩
def Fld.TIL_CUR_ACTIVE : Fld := ⟨0x1400030, 16, 1⟩
def Fld.TIL_CUR_VECTOR : Fld := ⟨0x1400030, 17, 1⟩
def Fld.TIL_CUR_PASS : Fld := ⟨0x1400030, 32, 16⟩
def Fld.TIL_CUR_PASSES : Fld := ⟨0x1400030, 48, 16⟩
def Reg.TIL_SKEW : Nat := 0x1400100
def Fld.TIL_SKEW_DELAY : Fld := ⟨0x1400100, 0, 8⟩
def Fld.TIL_SKEW_LOGICAL : Fld := ⟨0x1400100, 8, 7⟩
def Fld.TIL_SKEW_USED : Fld := ⟨0x1400100, 15, 1⟩
def Fld.TIL_SKEW_RETIRED : Fld := ⟨0x1400100, 16, 1⟩

/-- The rows of the TIL_ block (R333). -/
def regRowsTIL : List RegRow := [
  ⟨0x1400000, 1, 8, 1, 0, false, false, 0x1, 0x0, 0x0, 0x0, 0x0, 0x1⟩  /- TIL_CTRL -/,
  ⟨0x1400008, 1, 8, 1, 0, false, false, 0x0, 0xF0000, 0x0, 0x0, 0x0, 0x0⟩  /- TIL_STATUS -/,
  ⟨0x1400010, 1, 8, 1, 0, false, false, 0x0, 0x0, 0x0, 0x1, 0x0, 0x0⟩  /- TIL_CMD -/,
  ⟨0x1400018, 1, 8, 1, 0, false, false, 0x0, 0x0, 0x0, 0x0, 0x1FF01FF, 0x0⟩  /- TIL_FOLD -/,
  ⟨0x1400020, 1, 8, 1, 0, false, false, 0x0, 0x0, 0x0, 0x0, 0x0, 0x0⟩  /- TIL_FOLD_ACTIVE -/,
  ⟨0x1400028, 1, 8, 1, 0, false, false, 0x0, 0x0, 0xFFFFFFFFFFFF, 0x0, 0x0, 0x0⟩  /- TIL_FAULT_LOG -/,
  ⟨0x1400030, 1, 8, 1, 0, false, false, 0x0, 0x0, 0x0, 0x0, 0x0, 0x0⟩  /- TIL_CUR -/,
  ⟨0x1400100, 130, 8, 130, 0, false, false, 0x0, 0x0, 0x0, 0x0, 0x0, 0x0⟩  /- TIL_SKEW -/]

/-! ### Fields of the STG_ block (R334) -/

def Reg.STG_CTRL : Nat := 0x1600000
def Fld.STG_CTRL_SIDE_EN : Fld := ⟨0x1600000, 0, 1⟩
def Reg.STG_STATUS : Nat := 0x1600008
def Fld.STG_STATUS_FAULT_STEP : Fld := ⟨0x1600008, 0, 1⟩
def Fld.STG_STATUS_SLOT_ORDER : Fld := ⟨0x1600008, 16, 1⟩
def Fld.STG_STATUS_SLOT_OVERRUN : Fld := ⟨0x1600008, 17, 1⟩
def Fld.STG_STATUS_SIDE_INTO_SCHEDULED : Fld := ⟨0x1600008, 18, 1⟩
def Fld.STG_STATUS_ACC_ORDER : Fld := ⟨0x1600008, 19, 1⟩
def Fld.STG_STATUS_XS_FULL : Fld := ⟨0x1600008, 20, 1⟩
def Fld.STG_STATUS_SLIP : Fld := ⟨0x1600008, 21, 1⟩
def Reg.STG_FAULT_LOG : Nat := 0x1600010
def Fld.STG_FAULT_LOG_ROW : Fld := ⟨0x1600010, 0, 20⟩
def Fld.STG_FAULT_LOG_KIND : Fld := ⟨0x1600010, 20, 3⟩
def Fld.STG_FAULT_LOG_EXPECTED : Fld := ⟨0x1600010, 24, 16⟩
def Fld.STG_FAULT_LOG_FOUND : Fld := ⟨0x1600010, 40, 16⟩
def Fld.STG_FAULT_LOG_REQUESTER : Fld := ⟨0x1600010, 56, 4⟩
def Reg.STG_ROW_SEL : Nat := 0x1600018
def Fld.STG_ROW_SEL_ROW : Fld := ⟨0x1600018, 0, 20⟩
def Reg.STG_ROW_META : Nat := 0x1600020
def Fld.STG_ROW_META_STAMP : Fld := ⟨0x1600020, 0, 16⟩
def Fld.STG_ROW_META_VALID : Fld := ⟨0x1600020, 16, 1⟩
def Fld.STG_ROW_META_CUR : Fld := ⟨0x1600020, 17, 1⟩
def Fld.STG_ROW_META_DRAIN : Fld := ⟨0x1600020, 18, 1⟩
def Fld.STG_ROW_META_KEEP : Fld := ⟨0x1600020, 19, 1⟩
def Fld.STG_ROW_META_SIDE : Fld := ⟨0x1600020, 20, 1⟩
def Fld.STG_ROW_META_BANK : Fld := ⟨0x1600020, 23, 7⟩
def Fld.STG_ROW_META_ENTRY : Fld := ⟨0x1600020, 32, 13⟩
def Reg.STG_COUNT : Nat := 0x1600028
def Fld.STG_COUNT_SLIPS : Fld := ⟨0x1600028, 0, 32⟩
def Fld.STG_COUNT_SIDE_STALLS : Fld := ⟨0x1600028, 32, 32⟩

/-- The rows of the STG_ block (R334). -/
def regRowsSTG : List RegRow := [
  ⟨0x1600000, 1, 8, 1, 0, false, false, 0x1, 0x0, 0x0, 0x0, 0x0, 0x1⟩  /- STG_CTRL -/,
  ⟨0x1600008, 1, 8, 1, 0, false, false, 0x0, 0x3F0000, 0x0, 0x0, 0x0, 0x0⟩  /- STG_STATUS -/,
  ⟨0x1600010, 1, 8, 1, 0, false, false, 0x0, 0x0, 0xFFFFFFFFF7FFFFF, 0x0, 0x0, 0x0⟩  /- STG_FAULT_LOG -/,
  ⟨0x1600018, 1, 8, 1, 0, false, false, 0xFFFFF, 0x0, 0x0, 0x0, 0x0, 0x0⟩  /- STG_ROW_SEL -/,
  ⟨0x1600020, 1, 8, 1, 0, false, false, 0x0, 0x0, 0x0, 0x0, 0x0, 0x0⟩  /- STG_ROW_META -/,
  ⟨0x1600028, 1, 8, 1, 0, false, false, 0x0, 0x0, 0xFFFFFFFFFFFFFFFF, 0x0, 0x0, 0x0⟩  /- STG_COUNT -/]

/-! ### Fields of the FLT_ block (R377) -/

def Reg.FLT_CFG : Nat := 0x1800000
def Fld.FLT_CFG_AUTO_STAGE : Fld := ⟨0x1800000, 0, 1⟩
def Fld.FLT_CFG_AUTO_SWAP : Fld := ⟨0x1800000, 1, 1⟩
def Fld.FLT_CFG_LIVE_SWAP : Fld := ⟨0x1800000, 2, 1⟩
def Reg.FLT_STATUS : Nat := 0x1800008
def Fld.FLT_STATUS_MARK : Fld := ⟨0x1800008, 16, 1⟩
def Fld.FLT_STATUS_VERDICT : Fld := ⟨0x1800008, 17, 1⟩
def Fld.FLT_STATUS_STAGED : Fld := ⟨0x1800008, 18, 1⟩
def Fld.FLT_STATUS_SWAP_DONE : Fld := ⟨0x1800008, 19, 1⟩
def Fld.FLT_STATUS_SWAP_REFUSED : Fld := ⟨0x1800008, 20, 1⟩
def Fld.FLT_STATUS_FENCED : Fld := ⟨0x1800008, 21, 1⟩
def Fld.FLT_STATUS_VERDICT_CONFLICT : Fld := ⟨0x1800008, 22, 1⟩
def Reg.FLT_CMD : Nat := 0x1800010
def Fld.FLT_CMD_PORT : Fld := ⟨0x1800010, 0, 6⟩
def Fld.FLT_CMD_PEER : Fld := ⟨0x1800010, 6, 1⟩
def Fld.FLT_CMD_CLEAR : Fld := ⟨0x1800010, 8, 1⟩
def Fld.FLT_CMD_DOUBT : Fld := ⟨0x1800010, 9, 1⟩
def Fld.FLT_CMD_APPROVE : Fld := ⟨0x1800010, 10, 1⟩
def Fld.FLT_CMD_COMMIT_REMAP : Fld := ⟨0x1800010, 11, 1⟩
def Reg.FLT_SPARE : Nat := 0x1800018
def Fld.FLT_SPARE_SPARE : Fld := ⟨0x1800018, 0, 16⟩
def Reg.FLT_REMAP : Nat := 0x1800020
def Fld.FLT_REMAP_MAP : Fld := ⟨0x1800020, 0, 64⟩
def Reg.FLT_REMAP_ACTIVE : Nat := 0x1800028
def Fld.FLT_REMAP_ACTIVE_MAP : Fld := ⟨0x1800028, 0, 64⟩
def Reg.FLT_SLACK : Nat := 0x1800030
def Fld.FLT_SLACK_SLACK_NS : Fld := ⟨0x1800030, 0, 32⟩
def Fld.FLT_SLACK_THRESH_NS : Fld := ⟨0x1800030, 32, 32⟩
def Reg.FLT_LAST : Nat := 0x1800038
def Fld.FLT_LAST_PORT : Fld := ⟨0x1800038, 0, 4⟩
def Fld.FLT_LAST_LOGICAL : Fld := ⟨0x1800038, 4, 4⟩
def Fld.FLT_LAST_LATE : Fld := ⟨0x1800038, 8, 1⟩
def Fld.FLT_LAST_WSC : Fld := ⟨0x1800038, 16, 16⟩
def Fld.FLT_LAST_LATENESS : Fld := ⟨0x1800038, 32, 32⟩
def Reg.FLT_SWAP_LOG : Nat := 0x1800040
def Fld.FLT_SWAP_LOG_LOGICAL : Fld := ⟨0x1800040, 0, 4⟩
def Fld.FLT_SWAP_LOG_FROM : Fld := ⟨0x1800040, 4, 4⟩
def Fld.FLT_SWAP_LOG_TO : Fld := ⟨0x1800040, 8, 4⟩
def Fld.FLT_SWAP_LOG_RESULT : Fld := ⟨0x1800040, 12, 4⟩
def Fld.FLT_SWAP_LOG_WSC : Fld := ⟨0x1800040, 16, 16⟩
def Reg.FLT_VERDICT_TX : Nat := 0x1800048
def Fld.FLT_VERDICT_TX_DNO : Fld := ⟨0x1800048, 0, 12⟩
def Fld.FLT_VERDICT_TX_STATE : Fld := ⟨0x1800048, 12, 3⟩
def Fld.FLT_VERDICT_TX_GO : Fld := ⟨0x1800048, 16, 1⟩
def Fld.FLT_VERDICT_TX_VSEQ : Fld := ⟨0x1800048, 32, 16⟩
def Reg.FLT_VERDICT_RX : Nat := 0x1800050
def Fld.FLT_VERDICT_RX_VSEQ : Fld := ⟨0x1800050, 0, 16⟩
def Fld.FLT_VERDICT_RX_DNO : Fld := ⟨0x1800050, 16, 12⟩
def Fld.FLT_VERDICT_RX_STATE : Fld := ⟨0x1800050, 28, 3⟩
def Reg.FLT_DIE : Nat := 0x1800100
def Fld.FLT_DIE_SCORE : Fld := ⟨0x1800100, 0, 25⟩
def Fld.FLT_DIE_STATE : Fld := ⟨0x1800100, 25, 3⟩
def Fld.FLT_DIE_MARK : Fld := ⟨0x1800100, 28, 1⟩
def Fld.FLT_DIE_LATE_COUNT : Fld := ⟨0x1800100, 29, 11⟩
def Fld.FLT_DIE_LOGICAL : Fld := ⟨0x1800100, 40, 4⟩
def Fld.FLT_DIE_ROLE : Fld := ⟨0x1800100, 44, 2⟩
def Fld.FLT_DIE_NEG_RUN : Fld := ⟨0x1800100, 46, 2⟩
def Fld.FLT_DIE_POS_RUN : Fld := ⟨0x1800100, 48, 2⟩
def Fld.FLT_DIE_LAST_VERDICT : Fld := ⟨0x1800100, 50, 2⟩
def Fld.FLT_DIE_GRACE_LEFT : Fld := ⟨0x1800100, 53, 11⟩
def Reg.FLT_DIE_TIME : Nat := 0x1800180
def Fld.FLT_DIE_TIME_DUE_NS : Fld := ⟨0x1800180, 0, 32⟩
def Fld.FLT_DIE_TIME_LAST_LATE : Fld := ⟨0x1800180, 32, 32⟩
def Reg.FLT_PEER : Nat := 0x1800200
def Fld.FLT_PEER_STATE : Fld := ⟨0x1800200, 0, 3⟩
def Fld.FLT_PEER_NEG_RUN : Fld := ⟨0x1800200, 3, 2⟩
def Fld.FLT_PEER_POS_RUN : Fld := ⟨0x1800200, 5, 2⟩
def Fld.FLT_PEER_LAST_VERDICT : Fld := ⟨0x1800200, 7, 2⟩
def Fld.FLT_PEER_HB_AGE : Fld := ⟨0x1800200, 32, 16⟩

/-- The rows of the FLT_ block (R377). -/
def regRowsFLT : List RegRow := [
  ⟨0x1800000, 1, 8, 1, 0, false, false, 0x7, 0x0, 0x0, 0x0, 0x0, 0x3⟩  /- FLT_CFG -/,
  ⟨0x1800008, 1, 8, 1, 0, false, false, 0x0, 0x7F0000, 0x0, 0x0, 0x0, 0x0⟩  /- FLT_STATUS -/,
  ⟨0x1800010, 1, 8, 1, 0, false, false, 0x7F, 0x0, 0x0, 0xF00, 0x0, 0x0⟩  /- FLT_CMD -/,
  ⟨0x1800018, 1, 8, 1, 0, false, true, 0x0, 0x0, 0x0, 0x0, 0xFFFF, 0x0⟩  /- FLT_SPARE -/,
  ⟨0x1800020, 1, 8, 1, 0, false, true, 0xFFFFFFFFFFFFFFFF, 0x0, 0x0, 0x0, 0x0, 0xFEDCBA9876543210⟩  /- FLT_REMAP -/,
  ⟨0x1800028, 1, 8, 1, 0, false, true, 0x0, 0x0, 0x0, 0x0, 0x0, 0x0⟩  /- FLT_REMAP_ACTIVE -/,
  ⟨0x1800030, 1, 8, 1, 0, false, true, 0x0, 0x0, 0x0, 0x0, 0x0, 0x0⟩  /- FLT_SLACK -/,
  ⟨0x1800038, 1, 8, 1, 0, false, true, 0x0, 0x0, 0x0, 0x0, 0x0, 0x0⟩  /- FLT_LAST -/,
  ⟨0x1800040, 1, 8, 1, 0, false, true, 0x0, 0x0, 0xFFFFFFFF, 0x0, 0x0, 0x0⟩  /- FLT_SWAP_LOG -/,
  ⟨0x1800048, 1, 8, 1, 0, false, false, 0x7FFF, 0x0, 0x0, 0x10000, 0x0, 0x0⟩  /- FLT_VERDICT_TX -/,
  ⟨0x1800050, 1, 8, 1, 0, false, false, 0x0, 0x0, 0x0, 0x0, 0x0, 0x0⟩  /- FLT_VERDICT_RX -/,
  ⟨0x1800100, 16, 8, 16, 0, false, true, 0x0, 0x0, 0x0, 0x0, 0x0, 0x0⟩  /- FLT_DIE -/,
  ⟨0x1800180, 16, 8, 16, 0, false, true, 0x0, 0x0, 0x0, 0x0, 0x0, 0x0⟩  /- FLT_DIE_TIME -/,
  ⟨0x1800200, 64, 8, 64, 0, false, false, 0x0, 0x0, 0x0, 0x0, 0x0, 0x0⟩  /- FLT_PEER -/]

/-! ### Fields of the NRG_ block (R401) -/

def Reg.NRG_CTRL : Nat := 0x1A00000
def Fld.NRG_CTRL_BUDGET_W : Fld := ⟨0x1A00000, 0, 10⟩
def Fld.NRG_CTRL_K_MIN : Fld := ⟨0x1A00000, 10, 6⟩
def Reg.NRG_STATUS : Nat := 0x1A00008
def Fld.NRG_STATUS_HISTORY : Fld := ⟨0x1A00008, 0, 1⟩
def Fld.NRG_STATUS_OVER : Fld := ⟨0x1A00008, 16, 1⟩
def Fld.NRG_STATUS_THERMAL : Fld := ⟨0x1A00008, 17, 1⟩
def Reg.NRG_PERIOD_UJ : Nat := 0x1A00010
def Fld.NRG_PERIOD_UJ_UJ : Fld := ⟨0x1A00010, 0, 64⟩
def Reg.NRG_LAST_UJ : Nat := 0x1A00018
def Fld.NRG_LAST_UJ_UJ : Fld := ⟨0x1A00018, 0, 64⟩
def Reg.NRG_PLAN : Nat := 0x1A00020
def Fld.NRG_PLAN_K_E : Fld := ⟨0x1A00020, 0, 6⟩
def Fld.NRG_PLAN_K_T : Fld := ⟨0x1A00020, 8, 6⟩
def Fld.NRG_PLAN_K_OWN : Fld := ⟨0x1A00020, 16, 6⟩
def Fld.NRG_PLAN_K_SENT : Fld := ⟨0x1A00020, 24, 6⟩
def Reg.NRG_COST : Nat := 0x1A00028
def Fld.NRG_COST_WORK_UJ : Fld := ⟨0x1A00028, 0, 32⟩
def Fld.NRG_COST_FW_UJ : Fld := ⟨0x1A00028, 32, 32⟩
def Reg.NRG_THERM : Nat := 0x1A00030
def Fld.NRG_THERM_TJ_SOFT : Fld := ⟨0x1A00030, 0, 8⟩
def Fld.NRG_THERM_TC_SOFT : Fld := ⟨0x1A00030, 8, 8⟩
def Fld.NRG_THERM_HYST : Fld := ⟨0x1A00030, 16, 4⟩
def Fld.NRG_THERM_TC : Fld := ⟨0x1A00030, 24, 8⟩
def Fld.NRG_THERM_N_MEAS : Fld := ⟨0x1A00030, 32, 12⟩
def Reg.NRG_HALL : Nat := 0x1A00038
def Fld.NRG_HALL_K : Fld := ⟨0x1A00038, 0, 6⟩
def Fld.NRG_HALL_DUE : Fld := ⟨0x1A00038, 8, 1⟩
def Fld.NRG_HALL_PERIOD : Fld := ⟨0x1A00038, 32, 32⟩
def Reg.NRG_DIE_K : Nat := 0x1A00040
def Fld.NRG_DIE_K_DIE_K : Fld := ⟨0x1A00040, 0, 6⟩

/-- The rows of the NRG_ block (R401). -/
def regRowsNRG : List RegRow := [
  ⟨0x1A00000, 1, 8, 1, 0, false, false, 0xFFFF, 0x0, 0x0, 0x0, 0x0, 0x352⟩  /- NRG_CTRL -/,
  ⟨0x1A00008, 1, 8, 1, 0, false, false, 0x0, 0x30000, 0x0, 0x0, 0x0, 0x0⟩  /- NRG_STATUS -/,
  ⟨0x1A00010, 1, 8, 1, 0, false, false, 0x0, 0x0, 0x0, 0x0, 0x0, 0x0⟩  /- NRG_PERIOD_UJ -/,
  ⟨0x1A00018, 1, 8, 1, 0, false, false, 0x0, 0x0, 0x0, 0x0, 0x0, 0x0⟩  /- NRG_LAST_UJ -/,
  ⟨0x1A00020, 1, 8, 1, 0, false, false, 0x0, 0x0, 0x0, 0x0, 0x0, 0x0⟩  /- NRG_PLAN -/,
  ⟨0x1A00028, 1, 8, 1, 0, false, false, 0x0, 0x0, 0x0, 0x0, 0x0, 0x0⟩  /- NRG_COST -/,
  ⟨0x1A00030, 1, 8, 1, 0, false, false, 0xFFFFF, 0x0, 0x0, 0x0, 0x0, 0x53E5F⟩  /- NRG_THERM -/,
  ⟨0x1A00038, 1, 8, 1, 0, false, false, 0x0, 0x0, 0x0, 0x0, 0x0, 0x0⟩  /- NRG_HALL -/,
  ⟨0x1A00040, 1, 8, 1, 1, false, false, 0x3F, 0x0, 0x0, 0x0, 0x0, 0x0⟩  /- NRG_DIE_K -/]

/-! ### Fields of the CLK_ block (R400) -/

def Reg.CLK_STATUS : Nat := 0x1C00000
def Fld.CLK_STATUS_ALIGNED : Fld := ⟨0x1C00000, 0, 1⟩
def Fld.CLK_STATUS_REGION_PENDING : Fld := ⟨0x1C00000, 1, 1⟩
def Fld.CLK_STATUS_STANDBY : Fld := ⟨0x1C00000, 2, 1⟩
def Fld.CLK_STATUS_REGION_DONE : Fld := ⟨0x1C00000, 16, 1⟩
def Fld.CLK_STATUS_STANDBY_REFUSED : Fld := ⟨0x1C00000, 17, 1⟩
def Fld.CLK_STATUS_HOST_REALIGN : Fld := ⟨0x1C00000, 18, 1⟩
def Reg.CLK_REGION : Nat := 0x1C00008
def Fld.CLK_REGION_CMB_TARGET : Fld := ⟨0x1C00008, 0, 3⟩
def Fld.CLK_REGION_TIL_TARGET : Fld := ⟨0x1C00008, 4, 3⟩
def Fld.CLK_REGION_CMB_CUR : Fld := ⟨0x1C00008, 8, 3⟩
def Fld.CLK_REGION_TIL_CUR : Fld := ⟨0x1C00008, 12, 3⟩
def Reg.CLK_POWER : Nat := 0x1C00010
def Fld.CLK_POWER_STANDBY : Fld := ⟨0x1C00010, 0, 1⟩
def Reg.CLK_CMP_CFG : Nat := 0x1C00018
def Fld.CLK_CMP_CFG_EN : Fld := ⟨0x1C00018, 0, 8⟩
def Fld.CLK_CMP_CFG_WAKE : Fld := ⟨0x1C00018, 8, 8⟩
def Fld.CLK_CMP_CFG_QUIESCE : Fld := ⟨0x1C00018, 16, 2⟩
def Fld.CLK_CMP_CFG_FILTER : Fld := ⟨0x1C00018, 24, 8⟩
def Reg.CLK_CMP_STATUS : Nat := 0x1C00020
def Fld.CLK_CMP_STATUS_FIRED : Fld := ⟨0x1C00020, 0, 8⟩
def Fld.CLK_CMP_STATUS_LEVEL : Fld := ⟨0x1C00020, 8, 8⟩
def Reg.CLK_UV_CFG : Nat := 0x1C00028
def Fld.CLK_UV_CFG_THRESH : Fld := ⟨0x1C00028, 0, 10⟩
def Reg.CLK_TEMP_CFG : Nat := 0x1C00030
def Fld.CLK_TEMP_CFG_TRIP : Fld := ⟨0x1C00030, 0, 8⟩
def Fld.CLK_TEMP_CFG_TJ : Fld := ⟨0x1C00030, 16, 8⟩
def Reg.CLK_WAKE_HT : Nat := 0x1C00038
def Fld.CLK_WAKE_HT_NS : Fld := ⟨0x1C00038, 0, 63⟩
def Fld.CLK_WAKE_HT_EN : Fld := ⟨0x1C00038, 63, 1⟩

/-- The rows of the CLK_ block (R400). -/
def regRowsCLK : List RegRow := [
  ⟨0x1C00000, 1, 8, 1, 1, false, false, 0x0, 0x70000, 0x0, 0x0, 0x0, 0x0⟩  /- CLK_STATUS -/,
  ⟨0x1C00008, 1, 8, 1, 0, false, false, 0x77, 0x0, 0x0, 0x0, 0x0, 0x0⟩  /- CLK_REGION -/,
  ⟨0x1C00010, 1, 8, 1, 1, false, false, 0x1, 0x0, 0x0, 0x0, 0x0, 0x0⟩  /- CLK_POWER -/,
  ⟨0x1C00018, 1, 8, 1, 1, false, false, 0xFF03FFFF, 0x0, 0x0, 0x0, 0x0, 0xA0300F0⟩  /- CLK_CMP_CFG -/,
  ⟨0x1C00020, 1, 8, 1, 1, false, false, 0x0, 0xFF, 0x0, 0x0, 0x0, 0x0⟩  /- CLK_CMP_STATUS -/,
  ⟨0x1C00028, 1, 8, 1, 1, false, false, 0x0, 0x0, 0x0, 0x0, 0x3FF, 0xA0⟩  /- CLK_UV_CFG -/,
  ⟨0x1C00030, 1, 8, 1, 1, false, false, 0xFF, 0x0, 0x0, 0x0, 0x0, 0x67⟩  /- CLK_TEMP_CFG -/,
  ⟨0x1C00038, 4, 8, 4, 4, false, false, 0xFFFFFFFFFFFFFFFF, 0x0, 0x0, 0x0, 0x0, 0x0⟩  /- CLK_WAKE_HT -/]

/-! ### Fields of the EVQ_ block (R431) -/

def Reg.EVQ_STATUS : Nat := 0x1E00000
def Fld.EVQ_STATUS_DROPPED : Fld := ⟨0x1E00000, 0, 16⟩
def Fld.EVQ_STATUS_MSG_DROPPED : Fld := ⟨0x1E00000, 16, 16⟩
def Fld.EVQ_STATUS_WDG_EXPIRED : Fld := ⟨0x1E00000, 32, 1⟩
def Fld.EVQ_STATUS_HQ_OVERFLOW : Fld := ⟨0x1E00000, 33, 1⟩
def Reg.EVQ_MAILBOX : Nat := 0x1E00008
def Fld.EVQ_MAILBOX_MSG : Fld := ⟨0x1E00008, 0, 64⟩
def Reg.EVQ_PEND_SHARED : Nat := 0x1E00010
def Fld.EVQ_PEND_SHARED_PEND : Fld := ⟨0x1E00010, 0, 64⟩
def Reg.EVQ_CORE_CTRL : Nat := 0x1E00020
def Fld.EVQ_CORE_CTRL_PEND_PRIV : Fld := ⟨0x1E00020, 0, 32⟩
def Fld.EVQ_CORE_CTRL_MASK : Fld := ⟨0x1E00020, 32, 1⟩
def Fld.EVQ_CORE_CTRL_ASLEEP : Fld := ⟨0x1E00020, 33, 1⟩
def Fld.EVQ_CORE_CTRL_IN_RESET : Fld := ⟨0x1E00020, 34, 1⟩
def Reg.EVQ_WDG : Nat := 0x1E00040
def Fld.EVQ_WDG_TIMEOUT_MS : Fld := ⟨0x1E00040, 0, 8⟩
def Fld.EVQ_WDG_EN : Fld := ⟨0x1E00040, 8, 1⟩
def Fld.EVQ_WDG_QUIESCE_ON : Fld := ⟨0x1E00040, 9, 1⟩
def Fld.EVQ_WDG_KICK : Fld := ⟨0x1E00040, 10, 1⟩
def Fld.EVQ_WDG_EXPIRIES : Fld := ⟨0x1E00040, 16, 16⟩
def Reg.EVQ_CORE_Q : Nat := 0x1E00060
def Fld.EVQ_CORE_Q_HEAD : Fld := ⟨0x1E00060, 0, 32⟩
def Fld.EVQ_CORE_Q_TAIL : Fld := ⟨0x1E00060, 32, 32⟩
def Reg.EVQ_CORE_TIMER : Nat := 0x1E00080
def Fld.EVQ_CORE_TIMER_NS : Fld := ⟨0x1E00080, 0, 63⟩
def Fld.EVQ_CORE_TIMER_EN : Fld := ⟨0x1E00080, 63, 1⟩
def Reg.EVQ_SWI : Nat := 0x1E000A0
def Fld.EVQ_SWI_SET : Fld := ⟨0x1E000A0, 0, 32⟩
def Reg.EVQ_SRC_CFG : Nat := 0x1E00100
def Fld.EVQ_SRC_CFG_FILTER : Fld := ⟨0x1E00100, 0, 8⟩
def Fld.EVQ_SRC_CFG_EN : Fld := ⟨0x1E00100, 8, 1⟩
def Fld.EVQ_SRC_CFG_TARGET : Fld := ⟨0x1E00100, 9, 2⟩
def Fld.EVQ_SRC_CFG_LEVEL : Fld := ⟨0x1E00100, 11, 1⟩
def Reg.EVQ_PRIV_CFG : Nat := 0x1E00400
def Fld.EVQ_PRIV_CFG_FILTER : Fld := ⟨0x1E00400, 0, 8⟩
def Fld.EVQ_PRIV_CFG_EN : Fld := ⟨0x1E00400, 8, 1⟩
def Fld.EVQ_PRIV_CFG_LEVEL : Fld := ⟨0x1E00400, 11, 1⟩
def Reg.EVQ_ROUTE : Nat := 0x1E00800
def Fld.EVQ_ROUTE_CORES : Fld := ⟨0x1E00800, 0, 4⟩
def Fld.EVQ_ROUTE_HOST_EN : Fld := ⟨0x1E00800, 8, 1⟩
def Fld.EVQ_ROUTE_HOST_Q : Fld := ⟨0x1E00800, 16, 6⟩
def Reg.EVQ_HQ_BASE : Nat := 0x1E01000
def Fld.EVQ_HQ_BASE_ADDR : Fld := ⟨0x1E01000, 0, 64⟩
def Reg.EVQ_HQ_CFG : Nat := 0x1E01008
def Fld.EVQ_HQ_CFG_SIZE_LOG2 : Fld := ⟨0x1E01008, 0, 5⟩
def Fld.EVQ_HQ_CFG_EN : Fld := ⟨0x1E01008, 8, 1⟩
def Reg.EVQ_HQ_WB : Nat := 0x1E01010
def Fld.EVQ_HQ_WB_ADDR : Fld := ⟨0x1E01010, 0, 64⟩
def Reg.EVQ_HQ_IDX : Nat := 0x1E01018
def Fld.EVQ_HQ_IDX_HEAD : Fld := ⟨0x1E01018, 0, 32⟩
def Fld.EVQ_HQ_IDX_TAIL : Fld := ⟨0x1E01018, 32, 32⟩

/-- The rows of the EVQ_ block (R431). -/
def regRowsEVQ : List RegRow := [
  ⟨0x1E00000, 1, 8, 1, 1, false, false, 0x0, 0x300000000, 0xFFFFFFFF, 0x0, 0x0, 0x0⟩  /- EVQ_STATUS -/,
  ⟨0x1E00008, 1, 8, 1, 0, false, false, 0xFFFFFFFFFFFFFFFF, 0x0, 0x0, 0x0, 0x0, 0x0⟩  /- EVQ_MAILBOX -/,
  ⟨0x1E00010, 1, 8, 1, 0, false, false, 0x0, 0x0, 0x0, 0x0, 0x0, 0x0⟩  /- EVQ_PEND_SHARED -/,
  ⟨0x1E00020, 4, 8, 4, 0, false, false, 0x100000000, 0x0, 0x0, 0x0, 0x0, 0x100000000⟩  /- EVQ_CORE_CTRL -/,
  ⟨0x1E00040, 4, 8, 4, 0, false, false, 0x3FF, 0x0, 0x0, 0x400, 0x0, 0x164⟩  /- EVQ_WDG -/,
  ⟨0x1E00060, 4, 8, 4, 0, false, false, 0x0, 0x0, 0x0, 0x0, 0x0, 0x0⟩  /- EVQ_CORE_Q -/,
  ⟨0x1E00080, 4, 8, 4, 0, false, false, 0xFFFFFFFFFFFFFFFF, 0x0, 0x0, 0x0, 0x0, 0x0⟩  /- EVQ_CORE_TIMER -/,
  ⟨0x1E000A0, 4, 8, 4, 0, false, false, 0xFFFFFFFF, 0x0, 0x0, 0x0, 0x0, 0x0⟩  /- EVQ_SWI -/,
  ⟨0x1E00100, 64, 8, 64, 0, false, false, 0x7FF, 0x0, 0x0, 0x0, 0x0, 0x4⟩  /- EVQ_SRC_CFG -/,
  ⟨0x1E00400, 128, 8, 128, 0, false, false, 0x1FF, 0x0, 0x0, 0x0, 0x0, 0x104⟩  /- EVQ_PRIV_CFG -/,
  ⟨0x1E00800, 19, 8, 19, 19, false, false, 0x3F010F, 0x0, 0x0, 0x0, 0x0, 0x0⟩  /- EVQ_ROUTE -/,
  ⟨0x1E01000, 64, 32, 64, 1, false, false, 0xFFFFFFFFFFFFFFFF, 0x0, 0x0, 0x0, 0x0, 0x0⟩  /- EVQ_HQ_BASE -/,
  ⟨0x1E01008, 64, 32, 64, 1, false, false, 0x11F, 0x0, 0x0, 0x0, 0x0, 0x6⟩  /- EVQ_HQ_CFG -/,
  ⟨0x1E01010, 64, 32, 64, 1, false, false, 0xFFFFFFFFFFFFFFFF, 0x0, 0x0, 0x0, 0x0, 0x0⟩  /- EVQ_HQ_WB -/,
  ⟨0x1E01018, 64, 32, 64, 1, false, false, 0x0, 0x0, 0x0, 0x0, 0x0, 0x0⟩  /- EVQ_HQ_IDX -/]

/-! ### Fields of the NVS_ block (R432) -/

def Reg.NVS_ADDR : Nat := 0x2000000
def Fld.NVS_ADDR_WORD : Fld := ⟨0x2000000, 0, 12⟩
def Reg.NVS_DATA : Nat := 0x2000008
def Fld.NVS_DATA_DATA : Fld := ⟨0x2000008, 0, 64⟩
def Reg.NVS_WEAR : Nat := 0x2000010
def Fld.NVS_WEAR_WEAR : Fld := ⟨0x2000010, 0, 24⟩
def Reg.NVS_STATUS : Nat := 0x2000018
def Fld.NVS_STATUS_QUEUED : Fld := ⟨0x2000018, 0, 5⟩
def Fld.NVS_STATUS_BUSY : Fld := ⟨0x2000018, 5, 1⟩
def Fld.NVS_STATUS_REFUSED : Fld := ⟨0x2000018, 16, 1⟩
def Fld.NVS_STATUS_WRITTEN : Fld := ⟨0x2000018, 17, 1⟩

/-- The rows of the NVS_ block (R432). -/
def regRowsNVS : List RegRow := [
  ⟨0x2000000, 1, 8, 1, 0, false, false, 0xFFF, 0x0, 0x0, 0x0, 0x0, 0x0⟩  /- NVS_ADDR -/,
  ⟨0x2000008, 1, 8, 1, 0, false, false, 0x0, 0x0, 0x0, 0x0, 0x0, 0x0⟩  /- NVS_DATA -/,
  ⟨0x2000010, 1, 8, 1, 0, false, false, 0x0, 0x0, 0x0, 0x0, 0x0, 0x0⟩  /- NVS_WEAR -/,
  ⟨0x2000018, 1, 8, 1, 0, false, false, 0x0, 0x30000, 0x0, 0x0, 0x0, 0x0⟩  /- NVS_STATUS -/]

/-! ### Fields of the FWU_ block (R433) -/

def Reg.FWU_CFG : Nat := 0x2200000
def Fld.FWU_CFG_MODE : Fld := ⟨0x2200000, 0, 1⟩
def Reg.FWU_STATUS : Nat := 0x2200008
def Fld.FWU_STATUS_ACTIVE : Fld := ⟨0x2200008, 0, 2⟩
def Fld.FWU_STATUS_TRIAL : Fld := ⟨0x2200008, 2, 1⟩
def Fld.FWU_STATUS_RECOVERY : Fld := ⟨0x2200008, 3, 1⟩
def Fld.FWU_STATUS_FW_STATE : Fld := ⟨0x2200008, 4, 3⟩
def Fld.FWU_STATUS_FAIL_CODE : Fld := ⟨0x2200008, 8, 8⟩
def Fld.FWU_STATUS_ROLLED_BACK : Fld := ⟨0x2200008, 16, 1⟩
def Fld.FWU_STATUS_CMD_REFUSED : Fld := ⟨0x2200008, 17, 1⟩
def Fld.FWU_STATUS_STAGED : Fld := ⟨0x2200008, 18, 1⟩
def Fld.FWU_STATUS_ACTIVATED : Fld := ⟨0x2200008, 19, 1⟩
def Reg.FWU_CMD : Nat := 0x2200010
def Fld.FWU_CMD_STAGE : Fld := ⟨0x2200010, 0, 1⟩
def Fld.FWU_CMD_ACTIVATE : Fld := ⟨0x2200010, 1, 1⟩
def Fld.FWU_CMD_CONFIRM : Fld := ⟨0x2200010, 2, 1⟩
def Fld.FWU_CMD_MANIFEST : Fld := ⟨0x2200010, 3, 1⟩
def Fld.FWU_CMD_RESTART : Fld := ⟨0x2200010, 4, 1⟩
def Reg.FWU_SRC_BASE : Nat := 0x2200018
def Fld.FWU_SRC_BASE_ADDR : Fld := ⟨0x2200018, 0, 40⟩
def Reg.FWU_SRC_LEN : Nat := 0x2200020
def Fld.FWU_SRC_LEN_LEN : Fld := ⟨0x2200020, 0, 40⟩
def Reg.FWU_SLOT : Nat := 0x2200028
def Fld.FWU_SLOT_VERSION : Fld := ⟨0x2200028, 0, 32⟩
def Fld.FWU_SLOT_STATE : Fld := ⟨0x2200028, 32, 2⟩
def Reg.FWU_MANIFEST : Nat := 0x2200038
def Fld.FWU_MANIFEST_ID : Fld := ⟨0x2200038, 0, 32⟩
def Reg.FWU_ACT_HT : Nat := 0x2200040
def Fld.FWU_ACT_HT_NS : Fld := ⟨0x2200040, 0, 64⟩
def Reg.FWU_RCV_CTRL : Nat := 0x2200048
def Fld.FWU_RCV_CTRL_LEN : Fld := ⟨0x2200048, 0, 16⟩
def Fld.FWU_RCV_CTRL_OFFSET : Fld := ⟨0x2200048, 16, 26⟩
def Fld.FWU_RCV_CTRL_CHUNK : Fld := ⟨0x2200048, 42, 1⟩
def Fld.FWU_RCV_CTRL_DONE : Fld := ⟨0x2200048, 43, 1⟩
def Reg.FWU_RCV_DATA : Nat := 0x2210000
def Fld.FWU_RCV_DATA_DATA : Fld := ⟨0x2210000, 0, 64⟩

/-- The rows of the FWU_ block (R433). -/
def regRowsFWU : List RegRow := [
  ⟨0x2200000, 1, 8, 1, 0, false, false, 0x1, 0x0, 0x0, 0x0, 0x0, 0x0⟩  /- FWU_CFG -/,
  ⟨0x2200008, 1, 8, 1, 0, false, false, 0x0, 0xF0000, 0x0, 0x0, 0x0, 0x0⟩  /- FWU_STATUS -/,
  ⟨0x2200010, 1, 8, 1, 0, false, false, 0x0, 0x0, 0x0, 0x1F, 0x0, 0x0⟩  /- FWU_CMD -/,
  ⟨0x2200018, 1, 8, 1, 0, false, false, 0xFFFFFFFFFF, 0x0, 0x0, 0x0, 0x0, 0x0⟩  /- FWU_SRC_BASE -/,
  ⟨0x2200020, 1, 8, 1, 0, false, false, 0xFFFFFFFFFF, 0x0, 0x0, 0x0, 0x0, 0x0⟩  /- FWU_SRC_LEN -/,
  ⟨0x2200028, 2, 8, 2, 1, false, false, 0x0, 0x0, 0x0, 0x0, 0x0, 0x0⟩  /- FWU_SLOT -/,
  ⟨0x2200038, 1, 8, 1, 0, false, false, 0x0, 0x0, 0x0, 0x0, 0x0, 0x0⟩  /- FWU_MANIFEST -/,
  ⟨0x2200040, 1, 8, 1, 0, false, false, 0x0, 0x0, 0x0, 0x0, 0x0, 0x0⟩  /- FWU_ACT_HT -/,
  ⟨0x2200048, 1, 8, 1, 0, false, false, 0x3FFFFFFFFFF, 0x0, 0x0, 0xC0000000000, 0x0, 0x0⟩  /- FWU_RCV_CTRL -/,
  ⟨0x2210000, 8192, 8, 8192, 0, false, false, 0x0, 0x0, 0x0, 0xFFFFFFFFFFFFFFFF, 0x0, 0x0⟩  /- FWU_RCV_DATA -/]

/-! ### Fields of the BEL_ block (R378) -/

def Reg.BEL_HT_NS : Nat := 0x2400000
def Fld.BEL_HT_NS_VALUE : Fld := ⟨0x2400000, 0, 64⟩
def Reg.BEL_HT_FRAC : Nat := 0x2400008
def Fld.BEL_HT_FRAC_VALUE : Fld := ⟨0x2400008, 0, 64⟩
def Reg.BEL_HT_STATUS : Nat := 0x2400010
def Fld.BEL_HT_STATUS_VALUE : Fld := ⟨0x2400010, 0, 64⟩
def Reg.BEL_SC : Nat := 0x2400018
def Fld.BEL_SC_VALUE : Fld := ⟨0x2400018, 0, 64⟩
def Reg.BEL_WSC : Nat := 0x2400020
def Fld.BEL_WSC_VALUE : Fld := ⟨0x2400020, 0, 64⟩
def Reg.BEL_SUMMARY : Nat := 0x2400028
def Fld.BEL_SUMMARY_HT_STATE : Fld := ⟨0x2400028, 0, 3⟩
def Fld.BEL_SUMMARY_CLASS : Fld := ⟨0x2400028, 3, 2⟩
def Fld.BEL_SUMMARY_CAD_STATE : Fld := ⟨0x2400028, 5, 2⟩
def Fld.BEL_SUMMARY_ARMED : Fld := ⟨0x2400028, 7, 1⟩
def Fld.BEL_SUMMARY_LIVE_VALID : Fld := ⟨0x2400028, 8, 1⟩
def Fld.BEL_SUMMARY_ISOLATED : Fld := ⟨0x2400028, 9, 1⟩
def Fld.BEL_SUMMARY_DOUBTED : Fld := ⟨0x2400028, 10, 1⟩
def Fld.BEL_SUMMARY_WATCHDOG : Fld := ⟨0x2400028, 11, 1⟩
def Fld.BEL_SUMMARY_UNDERVOLT : Fld := ⟨0x2400028, 12, 1⟩
def Fld.BEL_SUMMARY_THERMAL : Fld := ⟨0x2400028, 13, 1⟩
def Fld.BEL_SUMMARY_REF_LOST : Fld := ⟨0x2400028, 14, 1⟩
def Fld.BEL_SUMMARY_HOLD_AT_LATE : Fld := ⟨0x2400028, 15, 1⟩
def Fld.BEL_SUMMARY_EVT_COUNT : Fld := ⟨0x2400028, 32, 32⟩
def Reg.BEL_HOLD_AT : Nat := 0x2400030
def Fld.BEL_HOLD_AT_VALUE : Fld := ⟨0x2400030, 0, 64⟩
def Reg.BEL_CMD : Nat := 0x2400038
def Fld.BEL_CMD_VALUE : Fld := ⟨0x2400038, 0, 64⟩
def Reg.BEL_ISOLATE : Nat := 0x2400040
def Fld.BEL_ISOLATE_PORTS : Fld := ⟨0x2400040, 0, 64⟩
def Reg.BEL_EVT_SEL : Nat := 0x2400048
def Fld.BEL_EVT_SEL_AGE : Fld := ⟨0x2400048, 0, 6⟩
def Fld.BEL_EVT_SEL_HELD : Fld := ⟨0x2400048, 8, 7⟩
def Reg.BEL_EVT_REC : Nat := 0x2400050
def Fld.BEL_EVT_REC_WORD : Fld := ⟨0x2400050, 0, 64⟩
def Reg.BEL_NVS_ADDR : Nat := 0x2400070
def Fld.BEL_NVS_ADDR_WORD : Fld := ⟨0x2400070, 0, 12⟩
def Reg.BEL_NVS_DATA : Nat := 0x2400078
def Fld.BEL_NVS_DATA_DATA : Fld := ⟨0x2400078, 0, 64⟩
def Reg.BEL_SB_CMD : Nat := 0x2400080
def Fld.BEL_SB_CMD_DIE_PORT : Fld := ⟨0x2400080, 0, 4⟩
def Fld.BEL_SB_CMD_OP : Fld := ⟨0x2400080, 8, 4⟩
def Fld.BEL_SB_CMD_GO : Fld := ⟨0x2400080, 16, 1⟩
def Fld.BEL_SB_CMD_BUSY : Fld := ⟨0x2400080, 17, 1⟩
def Fld.BEL_SB_CMD_DONE : Fld := ⟨0x2400080, 18, 1⟩
def Fld.BEL_SB_CMD_FAIL : Fld := ⟨0x2400080, 19, 1⟩
def Reg.BEL_SB_ARG : Nat := 0x2400088
def Fld.BEL_SB_ARG_ARG : Fld := ⟨0x2400088, 0, 64⟩
def Reg.BEL_SB_RESULT : Nat := 0x2400090
def Fld.BEL_SB_RESULT_RESULT : Fld := ⟨0x2400090, 0, 64⟩
def Reg.BEL_NVS_WEAR : Nat := 0x2400098
def Fld.BEL_NVS_WEAR_WEAR : Fld := ⟨0x2400098, 0, 24⟩
def Fld.BEL_NVS_WEAR_WORN : Fld := ⟨0x2400098, 24, 1⟩

/-- The rows of the BEL_ block (R378). -/
def regRowsBEL : List RegRow := [
  ⟨0x2400000, 1, 8, 1, 1, false, false, 0x0, 0x0, 0x0, 0x0, 0x0, 0x0⟩  /- BEL_HT_NS -/,
  ⟨0x2400008, 1, 8, 1, 1, false, false, 0x0, 0x0, 0x0, 0x0, 0x0, 0x0⟩  /- BEL_HT_FRAC -/,
  ⟨0x2400010, 1, 8, 1, 1, false, false, 0x0, 0x0, 0x0, 0x0, 0x0, 0x0⟩  /- BEL_HT_STATUS -/,
  ⟨0x2400018, 1, 8, 1, 1, false, false, 0x0, 0x0, 0x0, 0x0, 0x0, 0x0⟩  /- BEL_SC -/,
  ⟨0x2400020, 1, 8, 1, 1, false, false, 0x0, 0x0, 0x0, 0x0, 0x0, 0x0⟩  /- BEL_WSC -/,
  ⟨0x2400028, 1, 8, 1, 1, false, false, 0x0, 0x8000, 0x0, 0x0, 0x0, 0x0⟩  /- BEL_SUMMARY -/,
  ⟨0x2400030, 1, 8, 1, 1, false, false, 0x0, 0x0, 0x0, 0x0, 0x0, 0x0⟩  /- BEL_HOLD_AT -/,
  ⟨0x2400038, 1, 8, 1, 1, false, false, 0x0, 0x0, 0x0, 0x0, 0x0, 0x0⟩  /- BEL_CMD -/,
  ⟨0x2400040, 1, 8, 1, 1, false, false, 0x0, 0x0, 0x0, 0x0, 0x0, 0x0⟩  /- BEL_ISOLATE -/,
  ⟨0x2400048, 1, 8, 1, 1, false, false, 0x3F, 0x0, 0x0, 0x0, 0x0, 0x0⟩  /- BEL_EVT_SEL -/,
  ⟨0x2400050, 4, 8, 4, 4, false, false, 0x0, 0x0, 0x0, 0x0, 0x0, 0x0⟩  /- BEL_EVT_REC -/,
  ⟨0x2400070, 1, 8, 1, 0, false, false, 0xFFF, 0x0, 0x0, 0x0, 0x0, 0x0⟩  /- BEL_NVS_ADDR -/,
  ⟨0x2400078, 1, 8, 1, 0, false, false, 0x0, 0x0, 0x0, 0x0, 0x0, 0x0⟩  /- BEL_NVS_DATA -/,
  ⟨0x2400080, 1, 8, 1, 0, false, true, 0xF0F, 0xC0000, 0x0, 0x10000, 0x0, 0x0⟩  /- BEL_SB_CMD -/,
  ⟨0x2400088, 1, 8, 1, 0, false, true, 0xFFFFFFFFFFFFFFFF, 0x0, 0x0, 0x0, 0x0, 0x0⟩  /- BEL_SB_ARG -/,
  ⟨0x2400090, 1, 8, 1, 0, false, true, 0x0, 0x0, 0x0, 0x0, 0x0, 0x0⟩  /- BEL_SB_RESULT -/,
  ⟨0x2400098, 1, 8, 1, 0, false, false, 0x0, 0x0, 0x0, 0x0, 0x0, 0x0⟩  /- BEL_NVS_WEAR -/]

/-- Every register of the map, by block number (R490). -/
def regRows : List (List RegRow) := [regRowsID, regRowsHT, regRowsTDC, regRowsREF, regRowsCAD, regRowsSPK, regRowsIMG, regRowsXF, regRowsMEM, regRowsCMB, regRowsTIL, regRowsSTG, regRowsFLT, regRowsNRG, regRowsCLK, regRowsEVQ, regRowsNVS, regRowsFWU, regRowsBEL]

end Sys2Proof.Machine
end

