-- ==== Sys2Proof/Machine/Float.lean ====
section
/-! DEFINITION. Sys2Proof/Machine/Float.lean: exact binary fractions and their rounding, for the arithmetic that the
manual states in floating point: the f64 of the DPLL (R495) and the formats of the combiner (R257 onwards). -/

namespace Sys2Proof.Machine

/-- An exact binary fraction m · 2^e. -/
structure Dy where
  m : Int
  e : Int
  deriving DecidableEq, Repr

namespace Fl

/-- The number of bits of a natural number. -/
def bits (n : Nat) : Nat := if n = 0 then 0 else Nat.log2 n + 1

/-- Half-even rounding of n / 2^k. -/
def rneShift (n k : Nat) : Nat :=
  let q := n >>> k
  let r := n % 2 ^ k
  if 2 * r > 2 ^ k || (2 * r == 2 ^ k && q % 2 == 1) then q + 1 else q

/-- Half-even rounding of the fraction n / d, d > 0. -/
def rneDiv (n d : Nat) : Nat :=
  let q := n / d
  let r := n % d
  if 2 * r > d || (2 * r == d && q % 2 == 1) then q + 1 else q

/-- Half-even rounding of an integer fraction. -/
def rneDivInt (n : Int) (d : Nat) : Int :=
  if n < 0 then - (rneDiv n.natAbs d : Int) else (rneDiv n.natAbs d : Int)

/-- Zero. -/
def zero : Dy := ⟨0, 0⟩

/-- Removes the factors of two that a mantissa of at most `fuel` bits carries, so that equal numbers are equal data. -/
def normN : Nat → Nat → Int → Nat × Int
  | 0, n, e => (n, e)
  | f + 1, n, e => if n % 2 = 0 then normN f (n / 2) (e + 1) else (n, e)

/-- The canonical form: an odd mantissa, or zero. -/
def norm (x : Dy) : Dy :=
  if x.m = 0 then zero
  else
    let r := normN (bits x.m.natAbs) x.m.natAbs x.e
    ⟨if x.m < 0 then - (r.1 : Int) else (r.1 : Int), r.2⟩

/-- Rounds to p significant bits, half to even. -/
def round (p : Nat) (x : Dy) : Dy :=
  let b := bits x.m.natAbs
  if b ≤ p then norm x
  else
    let k := b - p
    let q := rneShift x.m.natAbs k
    norm ⟨if x.m < 0 then - (q : Int) else (q : Int), x.e + k⟩

/-- Brings two fractions to one exponent: the mantissas and the exponent. -/
def align (x y : Dy) : Int × Int × Int :=
  let e := min x.e y.e
  (x.m * 2 ^ (x.e - e).toNat, y.m * 2 ^ (y.e - e).toNat, e)

def addExact (x y : Dy) : Dy := let a := align x y; norm ⟨a.1 + a.2.1, a.2.2⟩
def negExact (x : Dy) : Dy := ⟨- x.m, x.e⟩
def mulExact (x y : Dy) : Dy := norm ⟨x.m * y.m, x.e + y.e⟩

/-- Is x below y. -/
def lt (x y : Dy) : Bool := let a := align x y; decide (a.1 < a.2.1)

/-- The quotient n / d, d > 0, rounded to p significant bits, half to even. -/
def ofRat (p : Nat) (n : Int) (d : Nat) : Dy :=
  if n = 0 then zero
  else
    let k := p + 2 + bits d
    let num := n.natAbs * 2 ^ k
    let q := num / d
    let st := if num % d = 0 then 0 else 1
    let m := 2 * q + st
    round p ⟨if n < 0 then - (m : Int) else (m : Int), - (k : Int) - 1⟩

/-- f64: 53 significant bits, half to even (R495). -/
def f64 (x : Dy) : Dy := round 53 x
def add64 (x y : Dy) : Dy := f64 (addExact x y)
def sub64 (x y : Dy) : Dy := f64 (addExact x (negExact y))
def mul64 (x y : Dy) : Dy := f64 (mulExact x y)
def div64 (x y : Dy) : Dy :=
  if y.m = 0 then zero
  else
    let n := if y.m < 0 then - x.m else x.m
    let q := ofRat 53 n y.m.natAbs
    norm ⟨q.m, q.e + x.e - y.e⟩

/-- The nearest integer, ties to even. -/
def toIntRne (x : Dy) : Int :=
  if x.e ≥ 0 then x.m * 2 ^ x.e.toNat
  else rneDivInt x.m (2 ^ (-x.e).toNat)

end Fl

end Sys2Proof.Machine
end

