-- ==== Sys2Proof/Machine/State.lean ====
section
/-! DEFINITION. Sys2Proof/Machine/State.lean: the state of one Valkar unit as plain data, chapter by chapter of the
manual, the reasons a step can stop, and the state right after reset.  Times named `…At` are readings of `TimeSt.now`,
the model's own count of elapsed time in units of 2^-48 ns. -/

namespace Sys2Proof.Machine

/-! ### Identity, power and pins (R1, R5, R434, R440, R470 to R487) -/

/-- What a unit is: its kind, and for a VD its role and DNO as sampled from persistent word 2 at the last AON reset
(R420); for a VSU the HDN that its DOME sends it in training (R218), and the strapped inputs of R434. -/
structure IdSt where
  kind       : UnitKind := .vd
  role       : Role := .dome
  dno        : Nat := 0
  hdn        : Nat := 0
  idGrade    : Nat := 0
  idHost     : Nat := 0
  memImgBase : Nat := 0
  deriving DecidableEq, Repr

/-- The power states of R470. -/
inductive Power where
  | off
  | aon
  | on
  deriving DecidableEq, Repr

/-- Power, resets, module contacts and sensors (R454, R459, R470 to R487). Sensors: VIN in mV, input current in mA,
input power in mW, temperatures in tenths of a degree. `modEnAt` and `perstAt` are the times of an edge of MOD_EN and of PERST_N
that the contact's filter has not passed yet (R479). -/
structure PwrSt where
  power      : Power := .on
  recovery   : Bool := false
  aonRstN    : Bool := true
  vsuRstN    : Bool := true
  modEn      : Bool := true
  modPg      : Bool := true
  modFaultN  : Bool := true
  perstN     : Bool := true
  hwShutdown : Bool := false
  supplyBad  : Bool := false
  scanMode   : Bool := false
  vin        : Nat := 40000
  iin        : Nat := 0
  pin        : Nat := 0
  tc         : Int := 0
  tj         : Int := 0
  jtagOp     : Nat := 0
  i2cAddr    : Nat := 0
  enAt       : Nat := 0
  mainAt     : Option Nat := none
  modEnAt    : Option Nat := none
  perstAt    : Option Nat := none
  deriving DecidableEq, Repr

/-! ### Hall time (R9 to R35) -/

/-- The servo states of R22. -/
inductive Servo where
  | freerun
  | coarse
  | acquire
  | locked
  | bridge
  | holdover
  deriving DecidableEq, Repr

/-- The codes of HT_STATUS.STATE (R35). -/
def Servo.code : Servo → Nat
  | .freerun => 0
  | .coarse => 1
  | .acquire => 2
  | .locked => 3
  | .bridge => 4
  | .holdover => 5

/-- One value for each access path (R11). -/
structure PerPath (α : Type) where
  bar0     : α
  belfry   : α
  sideband : α
  lantern  : α
  port     : α
  deriving DecidableEq, Repr

def PerPath.get {α : Type} (p : PerPath α) : Path → α
  | .bar0 => p.bar0
  | .belfry => p.belfry
  | .sideband => p.sideband
  | .lantern => p.lantern
  | .port => p.port

def PerPath.set {α : Type} (p : PerPath α) (q : Path) (v : α) : PerPath α :=
  match q with
  | .bar0 => { p with bar0 := v }
  | .belfry => { p with belfry := v }
  | .sideband => { p with sideband := v }
  | .lantern => { p with lantern := v }
  | .port => { p with port := v }

/-- Hall time: the counter of R18 with the command word of its last edge, the spread depth of R19 and R20, the frequency
word in use and the word that it moves to (R30), the servo of R22 and R495, the load of R12 and the
UTC association of R15. -/
structure TimeSt where
  htx       : BitVec 112 := 0
  synth     : Nat := 0
  now       : Nat := 0
  depthPend : Option (Nat × Nat) := none
  depthComm : Nat := 5
  depthUse  : Nat := 0
  depthWait : Bool := false
  latch     : PerPath (BitVec 16) := ⟨0, 0, 0, 0, 0⟩
  servo     : Servo := .freerun
  cls       : Nat := 0
  y         : Int := 0
  yTo       : Int := 0
  acc       : PerDom Dy := ⟨⟨0, 0⟩, ⟨0, 0⟩⟩
  yDom      : PerDom Int := ⟨0, 0⟩
  yHist     : List Int := []
  phaseErr  : Int := 0
  run50     : Nat := 0
  discard   : PerDom Nat := ⟨0, 0⟩
  bridgeAt  : Nat := 0
  loadAt    : Option Nat := none
  utcRx     : Option (W × BitVec 16) := none
  utcLast   : Option (W × BitVec 16) := none
  utcNs     : W := 0
  utcFrac   : BitVec 16 := 0
  deriving DecidableEq, Repr

/-! ### Vernier stamps and link delay (R36 to R63) -/

/-- An anchor (R41): coarse count and HT of a profile's first edge, the depth in use from that edge on, and what a load
of HT since then has added, in 2^-48 ns, which the firmware's conversion carries (log entry 12). -/
structure Anchor where
  cnt   : Nat
  ns    : W
  frac  : BitVec 16
  depth : Nat := 0
  adj   : Int := 0
  deriving DecidableEq, Repr

/-- A delay entry (R59 to R61): the committed delay, when it was last committed, its state code, and the batch under
way: its count and its sum of round trips. -/
structure DelayEnt where
  delay    : Int := 0
  commitAt : Option Nat := none
  state    : Nat := 0
  batch    : Nat := 0
  sum      : Int := 0
  deriving DecidableEq, Repr

/-- A round trip of ours under way (R51, R52): its request number, the departure and arrival stamps with the hall time
of each, the residence the peer sent, the coarse count since which its lane awaits DELAY_RESP (R44), and the count of
heartbeats since DELAY_RESP. -/
structure Trip where
  port    : Nat
  reqLane : Nat
  seq     : Nat
  t1      : Int
  t4      : Option Int := none
  rspLane : Nat := 0
  resid   : Option Int := none
  waitFrom : Option Nat := none
  hbs     : Nat := 0
  deriving DecidableEq, Repr

/-- A DELAY_REQ that awaits our DELAY_RESP (R211). -/
structure RespDue where
  port    : Nat
  reqLane : Nat
  rspLane : Nat
  seq     : Nat
  sender  : Nat
  t2      : Int
  since   : Nat
  deriving DecidableEq, Repr

/-- The lane swap of R57: the port, the step (0 idle), when it began, the round trip rt00 whose half is the uncorrected
delay, and the sums and counts of e_n and e_s. -/
structure SwapSt where
  port    : Nat := 0
  step    : Nat := 0
  startAt : Nat := 0
  rt00    : Int := 0
  sumN    : Int := 0
  cntN    : Nat := 0
  sumS    : Int := 0
  cntS    : Nat := 0
  deriving DecidableEq, Repr

/-- The converter, the round trips and the delay table. `waitFrom` is the timeout of each reference channel (R44);
`prevDelay` the delays that the last commit replaced, and `commitHt` its boundary, in 2^-16 ns of HT (R26); `rtMean` a
lane's own last mean round trip, and `rtAcc` the last accepted mean of both ends (R53); `lbLeft` and `lbTxLeft` the
loopback markers still to be stamped on channel 325 and on the port's transmit channel (R50). -/
structure TdcSt where
  coarse      : Nat := 0
  anchors     : List Anchor := []
  anchorLatch : PerPath (Tab (W × BitVec 16)) := ⟨[], [], [], [], []⟩
  fifo        : List (BitVec 64) := []
  ringLock    : Bool := false
  deadTill    : Tab Nat := []
  waitFrom    : Tab Nat := []
  disarmTill  : Tab Nat := []
  cdRun       : Option Nat := none
  cdRuns      : Nat := 0
  hist        : Tab Nat := []
  lbLane      : Option Nat := none
  lbLeft      : Nat := 0
  lbTxLeft    : Nat := 0
  delays      : Tab DelayEnt := []
  shadow      : Tab Int := []
  prevDelay   : Tab Int := []
  commitHt    : Int := 0
  trips       : List Trip := []
  rspDue      : List RespDue := []
  resQ        : Tab (List ResRec) := []
  rspTurn     : Tab Nat := []
  reqSeq      : Tab Nat := []
  reqAt       : Tab Nat := []
  firstRt     : Tab Int := []
  peerSwap    : Tab Nat := []
  rtMean      : Tab Int := []
  rtAcc       : Tab Int := []
  peerMean    : Tab Int := []
  dieTrim     : Tab Int := []
  dieTrimMiss : Tab Bool := []
  peerTrim    : Tab Int := []
  asymSet     : Tab Bool := []
  swap        : SwapSt := {}
  deriving DecidableEq, Repr

/-! ### References, tandem domains and holdover (R64 to R96) -/

/-- What a port delivers of one domain (R64), and the mean phase errors that the unit computed on it: one entry per
heartbeat, newest first, at most 64 (R67), and their mean when last there were any (R72); `fresh` is the last heartbeat's
mean, not yet taken by the DPLL, with `none` inside for a heartbeat whose errors were all discarded (R21); `heard` says
that a heartbeat has come since the domain's last update. -/
structure PortTime where
  valid  : Bool := false
  ql     : Nat := 15
  sbql   : Nat := 15
  hop    : Nat := 0
  upDno  : Nat := 0
  leader : Bool := false
  errs   : List Int := []
  mean   : Int := 0
  fresh  : Option (Option Int) := none
  heard  : Bool := false
  lost   : Bool := false
  deriving DecidableEq, Repr

/-- An external reference input (R80, R81): state 0 off, 1 qualifying, 2 qualified, 3 lost. `since` is the hall time, in
2^-16 ns, at which it was enabled, `lastHt` that of the last valid edge, `applied` the frequency offset applied since
then, in 2^-44 parts times 2^-16 ns. -/
structure RefIn where
  state    : Nat := 0
  run      : Nat := 0
  err      : Int := 0
  since    : Int := 0
  lastHt   : Option Int := none
  applied  : Int := 0
  deriving DecidableEq, Repr

/-- The grid and enable of one pulse output, as taken up at its last REALIGN (R94), and its last pulse; for a STEP_MARK
also the enable and fields before that REALIGN and its S, which the boundaries before S keep (R95). -/
structure OutSt where
  en    : Bool := false
  phase : Nat := 0
  cfg   : W := 0
  last  : Option Int := none
  old   : Option (Bool × W × Nat) := none
  deriving DecidableEq, Repr

/-- A REALIGN under way (R95): S in ns of HT, the outputs included, and their new settings. -/
structure Realign where
  s      : Nat
  pps    : Bool
  clk    : Bool
  mark0  : Bool
  mark1  : Bool
  phase  : Nat
  ppsEn  : Bool
  clkEn  : Bool
  m0En   : Bool
  m1En   : Bool
  m0Cfg  : W
  m1Cfg  : W
  clkMoved : Bool
  deriving DecidableEq, Repr

/-- A clock that the PTP client hears: its sending port, its last Announce, and when that one and the one before it came. -/
structure PtpForeign where
  src     : Nat
  data    : PtpClock
  heardAt : Nat
  before  : Option Nat
  deriving DecidableEq, Repr

/-- The PTP client of R92 and R93: its state, its master, currentUtcOffset, the times of the exchange under way (t2 of a
two-step Sync waits for its Follow_Up in `twoStep`), its last samples, and the clocks that it hears. -/
structure PtpSt where
  state    : Nat := 0
  master   : Option Nat := none
  twoStep  : Option (Nat × Int) := none
  reqSeq   : Nat := 0
  utcOff   : Int := 0
  t1       : Option Int := none
  t2       : Int := 0
  t3       : Option Int := none
  samples  : List Int := []
  syncs    : Nat := 0
  foreign  : List PtpForeign := []
  deriving DecidableEq, Repr

/-- A candidate whose wait-to-restore timer runs, and when it started (R70, R71). -/
structure WtrRun where
  sel     : WtrSel
  startAt : Nat
  deriving DecidableEq, Repr

/-- Inputs, domains, the tandem, holdover and the pulse outputs. `lastIn` is the last input that each domain had;
`sawLead` and `yielded` say that the root has seen the other root's LEADER flag set, and that it has yielded its own and
not seen the other's since (R83, R85); `rootOn` that the reference loop steers, from the integral path `rootAcc` with the
offset `rootOff` since `rootOffAt` (R80, R82); `lostRef` the last external reference that was lost while selected (R388). -/
structure RefSt where
  pt        : PerDom (Tab PortTime) := ⟨[], []⟩
  sel       : PerDom (Option Nat) := ⟨none, none⟩
  lastIn    : PerDom (Option Nat) := ⟨none, none⟩
  active    : Dom := .A
  bias      : Int := 0
  bwCur     : Nat := 6
  bwRoot    : Nat := 3
  bwRun     : Nat := 0
  bwRootRun : Nat := 0
  wtr       : List WtrRun := []
  leader    : Bool := false
  sawLead   : Bool := false
  yielded   : Bool := false
  worseAt   : Option Nat := none
  split     : Bool := false
  splitRun  : Nat := 0
  splitDpll : Bool := false
  lockAt    : Option Nat := none
  qualified : Bool := false
  holdFreq  : Int := 0
  holdQual  : Bool := false
  refs      : Tab RefIn := []
  selRef    : Option Nat := none
  lostRef   : Option Nat := none
  rootOn    : Bool := false
  rootAcc   : Dy := ⟨0, 0⟩
  rootOff   : Int := 0
  rootOffAt : Int := 0
  pulsesOn  : Bool := false
  realign   : Option Realign := none
  pps       : OutSt := {}
  clk10     : OutSt := {}
  mark0     : OutSt := {}
  mark1     : OutSt := {}
  ptp       : PtpSt := {}
  deriving DecidableEq, Repr

/-! ### Steps, phases and launch by time (R97 to R132) -/

/-- The states of the cadence generator (R105). -/
inductive Cad where
  | idle
  | running
  | held
  deriving DecidableEq, Repr

/-- The codes of CAD_STATUS.STATE (R132). -/
def Cad.code : Cad → Nat
  | .idle => 0
  | .running => 1
  | .held => 2

/-- An upward report (R118, R119). -/
structure Report where
  complete : W
  arm      : Nat
  disarm   : Bool
  deriving DecidableEq, Repr

/-- The last GRANT_SC, LAST_SEQ and EPOCH received in a domain, which the unit forwards (R110). -/
structure Fwd where
  grant   : W := 0
  lastSeq : Nat := 0
  epoch   : Nat := 0
  deriving DecidableEq, Repr

/-- What a unit decides at its cutoff for a boundary (R115): fire it, with the decisions it holds for it; treat it as
held, for a reason of CAD_STATUS.HELD_REASON; or go to IDLE under a STOP. -/
inductive CutOutcome where
  | fire
  | hold (reason : Nat)
  | stop
  deriving DecidableEq, Repr

/-- The launch cycle values of the sequencer port (R128). -/
structure SeqPort where
  launch    : Bool := false
  freewheel : Bool := false
  hold      : Bool := false
  sc        : W := 0
  phase     : Nat := 0
  cycMin    : Nat := 0
  deriving DecidableEq, Repr

/-- What a unit decided at its cutoff of a boundary, and whether it was LOCKED then (R115, R131). -/
structure CutRec where
  m      : W
  out    : CutOutcome
  locked : Bool
  deriving DecidableEq, Repr

/-- A START or RESUME that the agent has commanded (R121). -/
structure RootCmd where
  resume : Bool
  sc     : W
  ns     : W
  wsc    : W
  base   : W
  phase  : Nat
  k      : Nat
  deriving DecidableEq, Repr

/-- What a root spire holds as issuer or relay (R107 to R125). `decided` is the highest boundary whose vote instant has
been taken; `ratioDue` is a ratio with the hall time from which on it is due (R398); `noGrant` holds from TAKE_ISSUE
until the next START or RESUME (R124). -/
structure RootSt where
  issuer    : Bool := false
  relay     : Bool := false
  epoch     : Nat := 0
  seq       : Nat := 0
  lockedHbs : Nat := 0
  otherInit : Option Bool := none
  otherDno  : Nat := 0
  otherRep  : Option Report := none
  cmd       : Option RootCmd := none
  holdCmd   : Bool := false
  stopCmd   : Bool := false
  endCmd    : Bool := false
  ratioDue  : Option (Nat × Nat) := none
  decided   : W := 0
  noGrant   : Bool := false
  armCount  : Nat := 0
  initDone  : Bool := false
  deriving DecidableEq, Repr

/-- A span of the run whose working steps share one completion base (R184): sprocket, c0, w0 and increment, and for a
phase that has ended, its last working step. -/
structure CompSeg where
  spk  : Nat
  c0   : W
  w0   : W
  inc  : Nat
  last : Option W
  deriving DecidableEq, Repr

/-- The cadence generator. -/
structure CadSt where
  st        : Cad := .idle
  sc        : W := 0
  wsc       : W := 0
  anchorNs  : W := 0
  anchorSc  : W := 0
  baseWsc   : W := 0
  phase     : Nat := 0
  k         : Nat := 0
  fwCount   : W := 0
  freewheel : Bool := false
  heldReason : Nat := 0
  grant     : W := 0
  epoch     : Nat := 0
  lastSeqRx : Nat := 0
  lastDec   : Option Decision := none
  latency   : Nat := 0
  decs      : List Decision := []
  conflicts : List W := []
  cuts      : List CutRec := []
  quiesce   : Bool := false
  armNo     : Nat := 0
  armSpk    : Nat := 0
  disarm    : Bool := false
  lost      : Bool := false
  missed    : Bool := false
  rearmed   : Bool := false
  firedAny  : Bool := false
  comps     : List CompSeg := []
  complete  : W := 0
  prov      : Option Decision := none
  spare     : Option (Bool × Nat) := none
  fwd       : PerDom Fwd := ⟨{}, {}⟩
  reps      : PerDom (Tab Report) := ⟨[], []⟩
  decRep    : List (Decision × Option Nat) := []
  seqp      : SeqPort := {}
  seqWas    : SeqPort := {}
  seqAt     : Int := 0
  seqNext   : Int := 0
  root      : RootSt := {}
  deriving DecidableEq, Repr

/-! ### Sprockets (R133 to R163, R497, R498, R501) -/

/-- The states of a physical sprocket (SPK_PHYS_META.STATE). -/
inductive SpkState where
  | free
  | live
  | saved
  | evicted
  | ownerLost
  deriving DecidableEq, Repr

def SpkState.code : SpkState → Nat
  | .free => 0
  | .live => 1
  | .saved => 2
  | .evicted => 3
  | .ownerLost => 4

/-- What the unit keeps of a physical sprocket beside its value. -/
structure SpkMeta where
  st     : SpkState := .free
  owner  : Nat := 0
  shares : Nat := 0
  deriving DecidableEq, Repr

/-- The states of a context (SPK_CTX_STATE.STATE). -/
inductive CtxState where
  | free
  | active
  | saved
  | reset
  deriving DecidableEq, Repr

def CtxState.code : CtxState → Nat
  | .free => 0
  | .active => 1
  | .saved => 2
  | .reset => 3

/-- A context: its state, its translation and save bases, its NOTIFY target, and its host page (R151, R159, R501). -/
structure Ctx where
  st         : CtxState := .free
  xlatShadow : W := 0
  xlatActive : W := 0
  xlatPend   : Bool := false
  saveBase   : W := 0
  notifyKind : Nat := 0
  notifyQ    : Nat := 0
  argValue   : W := 0
  argDeadl   : W := BitVec.allOnes 64
  readValue  : W := 0
  lastStatus : Nat := 0
  lastKind   : Nat := 0
  opNo       : Nat := 0
  readNo     : Nat := 0
  deriving DecidableEq, Repr

/-- A pending wait (R137, R138). -/
structure Wait where
  src      : SpkSrc
  ctx      : Nat
  id       : Nat
  phys     : Nat
  expected : W
  deadline : W
  tag      : Nat
  view32   : Bool
  lost     : Bool := false
  no       : Nat := 0
  deriving DecidableEq, Repr

/-- A NOTIFY registration (R141). -/
structure Notify where
  ctx       : Nat
  id        : Nat
  tag       : Nat
  threshold : W
  phys      : Nat
  view32    : Bool
  lost      : Bool := false
  deriving DecidableEq, Repr

/-- An operation as a port issues it (R137), the operand of a read of a translation entry (R148). Kinds as in R438: 0 SIGNAL,
1 WAIT, 2 READ, 3 NOTIFY, 4 NOTIFY with cancel. -/
structure SpkOp where
  kind : Nat
  src  : SpkSrc
  ctx  : Nat
  id   : Nat
  val  : W
  dl   : W
  tag  : Nat
  no   : Nat := 0
  deriving DecidableEq, Repr

/-- The context save engine of a VSU at work through the memory port (R152, R155, R439): the context, whether it
restores, whether it reads (the table to save, or the area to restore) or writes, how many beats are still to be answered,
and the bytes read or, for a write, the bytes to come. -/
structure CtxJob where
  ctx     : Nat
  restore : Bool
  writing : Bool
  left    : Nat
  got     : Tab (List Byte)
  deriving DecidableEq, Repr

structure SpkSt where
  vals     : Tab W := []
  info     : Tab SpkMeta := []
  ctxs     : Tab Ctx := []
  waits    : List Wait := []
  notifs   : List Notify := []
  job      : Option CtxJob := none
  deriving DecidableEq, Repr

/-! ### The schedule image (R164 to R202) -/

/-- A phase descriptor (R167). -/
structure PhaseDesc where
  stepNs     : Nat
  tableSlots : Nat
  successor  : Nat
  holdDist   : Nat
  nSteps     : Nat
  ckptEvery  : Nat
  ckptOffset : Nat
  endSwap    : Bool
  params     : List Nat
  deriving DecidableEq, Repr

/-- A slot-run entry (R172). -/
structure Run where
  len    : Nat
  source : Nat
  action : Nat
  arg    : Nat
  deriving DecidableEq, Repr

/-- A signal list entry (R180). -/
structure SigEnt where
  kind   : Nat
  gated  : Bool
  target : Nat
  phys   : Nat
  inc    : Nat
  deriving DecidableEq, Repr

/-- A combiner instruction (R181). -/
structure CmbInstr where
  opcode : Nat
  mode   : Nat
  fmtA   : Nat
  fmtR   : Nat
  cell0  : Nat
  ncell  : Nat
  start  : Nat
  stop   : Nat
  v      : Bool
  sr     : Bool
  opnd   : W
  deriving DecidableEq, Repr

/-- A tile instruction (R183): M, N and K in full. -/
structure TilInstr where
  opcode : Nat
  m      : Nat
  n      : Nat
  k      : Nat
  fmt    : Nat
  start  : Nat
  lat    : Nat
  opnd   : Nat
  deriving DecidableEq, Repr

/-- A staging keep range (R170). -/
structure Keep where
  row   : Nat
  count : Nat
  deriving DecidableEq, Repr

/-- A phase's set: which phase of which image it is, its descriptor, and the arrays of
its subsection (R170). -/
structure PhaseSet where
  phase      : Nat
  imageId    : Nat
  desc       : PhaseDesc
  compSpk    : Nat
  compInc    : Nat
  eWork      : Nat
  eFw        : Nat
  outs       : List (List Run)
  sigs       : List SigEnt
  cmbs       : List CmbInstr
  tils       : List TilInstr
  keeps      : List Keep
  nrun       : Nat := 0
  deriving DecidableEq, Repr

/-- A held image: its identity, whether its signature was verified, and its tiles of 3,584 bytes (R191). -/
structure Img where
  id     : Nat
  signed : Bool := false
  tiles  : Tab (List Byte) := []
  deriving DecidableEq, Repr

/-- The states of the shadow (IMG_STATUS.SHADOW_STATE). -/
inductive ShState where
  | empty
  | receiving
  | checking
  | checked
  | failed
  deriving DecidableEq, Repr

def ShState.code : ShState → Nat
  | .empty => 0
  | .receiving => 1
  | .checking => 2
  | .checked => 3
  | .failed => 4

/-- The states of the next set (IMG_STATUS.NEXT_STATE). -/
inductive NxState where
  | none
  | loading
  | loaded
  | failed
  deriving DecidableEq, Repr

def NxState.code : NxState → Nat
  | .none => 0
  | .loading => 1
  | .loaded => 2
  | .failed => 3

/-- The last failing check (IMG_CHECK). -/
structure ChkFail where
  code  : Nat := 0
  phase : Nat := 0
  item  : Nat := 0
  off   : Nat := 0
  deriving DecidableEq, Repr

structure ImgSt where
  committed : Option Img := none
  shadow    : Option Img := none
  shState   : ShState := .empty
  lock      : Bool := false
  live      : Option PhaseSet := none
  next      : Option PhaseSet := none
  nxState   : NxState := .none
  nxPhase   : Nat := 0
  nxSrc     : Bool := false
  nxRoute   : Bool := false
  nxChain   : Bool := false
  check     : ChkFail := {}
  params    : Tab (Tab (List Byte)) := []
  changes   : Nat := 0
  deriving DecidableEq, Repr

/-! ### Exchange fabric and hall memory (R203 to R256, R500, R502) -/

/-- The states of a port (R218), by XF_PORT_STATUS.STATE. -/
inductive PState where
  | down
  | training
  | up
  | retrain
  | isolated
  deriving DecidableEq, Repr

def PState.code : PState → Nat
  | .down => 0
  | .training => 1
  | .up => 2
  | .retrain => 3
  | .isolated => 4

/-- The ordered sets that a port sends (R210); HEARTBEAT, DELAY_REQ and DELAY_RESP leave at their own instants (R211). -/
inductive OSet where
  | heartbeat (hb : Heartbeat)
  | delayReq (lane seq sender : Nat)
  | delayResp (lane seq sender : Nat)
  | decision (d0 : Decision) (d1 : Option Decision)
  | credit (levels : List Nat) (ack : Nat)
  | retryReq (ranges : List (Nat × Nat))
  | refetch (wsc slot mask tile : Nat)
  | refetchFail (wsc slot mask tile reason : Nat)
  | train (me : TrainInfo)
  deriving DecidableEq, Repr

/-- A sent flit kept for retry (R221, R222): its LSEQ, whether it is scheduled, its resends, and the flit, absent while
it is owed (R226). -/
structure Replay where
  lseq    : Nat
  sched   : Bool
  resends : Nat
  flit    : Option Flit
  deriving DecidableEq, Repr

/-- A received slot unit of the step (R223, R225): a flit or a hole, with the LSEQ that would fill it; the taps that take
it, as consumer and place (R227); and how many consumers have not consumed it yet (R253). -/
structure RxUnit where
  lseq : Nat
  flit : Option Flit
  taps : List (Nat × Nat) := []
  pend : Nat := 0
  gone : Bool := false
  deriving DecidableEq, Repr

/-- A flit that an output owes (R226): the output, the source and its unit, the LSEQ assigned at an external output, the
consumer, argument, place and position in its run of an internal output, and the slot and TILE of a result that is owed. -/
structure Owed where
  out  : Nat
  src  : Nat
  idx  : Nat
  lseq : Nat
  cons : Nat
  arg  : Nat
  acc  : Bool
  ord  : Nat
  pos  : Nat
  slot : Nat
  tile : Nat
  deriving DecidableEq, Repr

/-- The arrival of a heartbeat's marker on a lane: its HT in 2^-16 ns, and the lane's committed delay at that time if the
lane was eligible as a time input (R25, R26). -/
structure Arrival where
  lane  : Nat
  ht    : Int
  delay : Option Int
  deriving DecidableEq, Repr

/-- A port and its link. Lists of four are indexed by level (R229). `retrainLanes` are the lanes that retrain now (R25,
R57); `lastOs` is when the last stamped ordered set left (R43), `hbTick` and `dlTick` the periods of 1,024 ns in which the
last heartbeat and the last DELAY_REQ or DELAY_RESP left (R211). -/
structure PortSt where
  st       : PState := .down
  sinceAt  : Nat := 0
  upAt     : Nat := 0
  fails    : Nat := 0
  level    : Nat := 0
  rate     : Nat := 0
  locked   : Nat := 0
  peerId   : Nat := 0
  peerKind : Nat := 0
  peerRole : Nat := 0
  peerPart : Nat := 0
  peerRev  : Nat := 0
  peerGrade : Nat := 0
  retrains : Nat := 0
  retrainLanes : List Nat := []
  lastOs   : Option Nat := none
  hbTick   : Option Nat := none
  dlTick   : Option Nat := none
  lane0Swap : Bool := false
  lseqTx   : Nat := 0
  replay   : List Replay := []
  ackTx    : Nat := 4095
  rxNext   : Nat := 0
  rxMiss   : List Nat := []
  rx       : List RxUnit := []
  unitIdx  : Nat := 0
  unitHalf : Bool := false
  credits  : List Nat := [0, 0, 0, 0]
  owedCr   : List Nat := [0, 0, 0, 0]
  q        : List (List (Option Nat × Flit)) := [[], [], [], []]
  resendSide  : List Flit := []
  resendSched : List Flit := []
  refetch  : List Flit := []
  txq      : List Flit := []
  osq      : List OSet := []
  lastLvl  : Nat := 1
  zeroAt   : List (Option Nat) := [none, none, none, none]
  sat      : Nat := 0
  unRun    : List Nat := [0, 0, 0, 0]
  unAt     : List (List Nat) := [[], [], [], []]
  hbSeq    : Nat := 0
  hbPrev   : W × BitVec 16 := (0, 0)
  rxHb     : Option (Heartbeat × List Arrival) := none
  hbAt     : Option Nat := none
  hbCount  : Nat := 0
  hbTimed  : Nat := 0
  prop     : Nat := 0
  fwReady  : Option (Nat × Bool × Bool) := none
  sigWait  : List (Nat × Nat × Nat) := []
  sideHold : List Flit := []
  deriving DecidableEq, Repr

/-- One direction of a lane's coding (R204, R205): the last 58 bits on the line, for the scrambler, and the quarters of 514
bits that are in hand: those of the codeword being sent, or those received that no frame holds yet, lost ones among them.
They belong to the port's four lanes together or to the lane alone, since an instant at which its lanes had trained. -/
structure LaneCode where
  scr  : Nat := 0
  q    : List (Option Nat) := []
  wide : Bool := true
  upAt  : Nat := 0
  deriving DecidableEq, Repr

/-- The name of a tile: SRC_DNO, SRC_SUB, WSC[15:0] and TILE (R237). -/
structure TileKey where
  dno  : Nat
  sub  : Nat
  wsc  : Nat
  tile : Nat
  deriving DecidableEq, Repr

/-- A flit of a tile under assembly: its FIDX, the flit until its tile is rejected, and where it goes: the argument of
its slot with its position in the run, its place, whether it accumulates, and the slot unit that it came from. -/
structure AsmFlit where
  fidx : Nat
  flit : Option Flit
  arg  : Nat
  ord  : Nat
  pos  : Nat
  acc  : Bool
  out  : Nat
  unit : Option (Nat × Nat)
  deriving DecidableEq, Repr

/-- A tile under assembly at a consumer (R237): memory writes are consumer 80, staging writes 104, a VSU's host die 200,
the taps of combiner instruction i 256 + 2i, and its ingress 257 + 2i. -/
structure TileAsm where
  key   : TileKey
  cons  : Nat
  flits : List AsmFlit
  port  : Nat
  deriving DecidableEq, Repr

/-- A rejected tile of the step that no verified copy has replaced (R237, R239). -/
structure Rejected where
  key  : TileKey
  cons : Nat
  port : Nat
  deriving DecidableEq, Repr

/-- A deferred SIGNAL (R239): the sprocket, the increment, for a side record its source and SEQ, for a GATED signal to
another unit that unit, its die and the output. A record that is refused while an earlier one of its pair waits stands
here with its status, so that it is answered in SEQ order (R252). -/
structure DefSig where
  phys   : Nat
  inc    : W
  ack    : Option (Nat × Nat × Nat)
  gated  : Bool
  remote : Option (Nat × Nat × Nat) := none
  nak    : Nat := 0
  deriving DecidableEq, Repr

/-- The stream of an internal source in the step (R500, R262): flits so far, the TILE of the tile under way, its position
in the tile, and the payload of the tile so far. -/
structure SrcStream where
  count : Nat := 0
  tile  : Nat := 0
  pos   : Nat := 0
  data  : List Byte := []
  deriving DecidableEq, Repr

/-- What a side request of ours is for: a piece of a BAR2 read (the access's number and the offset in it), a BAR2 write,
a remote READ of a sprocket (R498), a request that the host die put on the stream port (R445), a SIDE_LOAD (R289), or, only
among those that wait, a remote SIGNAL (R248). -/
inductive SideUse where
  | bar2Read (n off : Nat)
  | bar2Write
  | spkRead (src : SpkSrc) (ctx id tag no : Nat) (view32 : Bool)
  | stream
  | sig (sub phys inc ctx : Nat)
  | hostSig (sub count : Nat)
  | cmb (instr wsc : Nat)
  deriving DecidableEq, Repr

/-- A side request outstanding (R244, R245). -/
structure SideOut where
  tag    : Nat
  op     : Nat
  addr   : Nat
  len8   : Nat
  data   : List Byte
  sentAt : Nat
  tries  : Nat
  use    : SideUse
  lvl    : Nat := 0
  deriving DecidableEq, Repr

/-- A side request being served (R242, R248): a FENCE that waits for the requests before it, or a request that a VSU has
passed to its host die and that waits for the die's response. -/
structure SideIn where
  dno   : Nat
  sub   : Nat
  tag   : Nat
  op    : Nat
  len8  : Nat
  deriving DecidableEq, Repr

/-- A remote SIGNAL record outstanding at its source (R250, R251). `dst` is the destination unit and `sub` its die port,
16 for a VD. -/
structure SigOut where
  dst     : Nat
  sub     : Nat
  record  : SigRec
  firstAt : Nat
  lastAt  : Nat
  ctx     : Nat
  deriving DecidableEq, Repr

/-- A request of a die that has passed through its DOME and is not answered yet (R249): the die port, the destination unit,
the tag, and when it passed. -/
structure Transit where
  sub : Nat
  dst : Nat
  tag : Nat
  at_ : Nat
  deriving DecidableEq, Repr

/-- What a destination has judged of a source (R250, R252): the last SEQ judged, the last one applied, the last one that a
SIG_ACK with status 0 has named, and those applied that none has covered yet. -/
structure SigJudge where
  last    : Nat := 0
  applied : Nat := 0
  acked   : Nat := 0
  fresh   : List Nat := []
  deriving DecidableEq, Repr

/-- A read of the VSU's memory port or a request to it that is outstanding (R439). -/
inductive MemUse where
  | xlat (op : SpkOp)
  | job (off : Nat)
  | imageWrite
  | imageCopy (addr : Nat)
  | imageRead
  | evtWrite
  deriving DecidableEq, Repr

/-- A request to a VSU's memory port that waits for a free tag (R439). -/
structure MemReq where
  use   : MemUse
  write : Bool
  addr  : Nat
  bytes : List Byte
  deriving DecidableEq, Repr

structure FabSt where
  ports    : Tab PortSt := []
  dnoAct   : Tab W := []
  podAct   : Tab W := []
  routeP   : Bool := false
  passAt   : Option W := none
  slot     : Nat := 0
  owed     : List Owed := []
  asm      : List TileAsm := []
  done     : List TileAsm := []
  cellTook : Tab Nat := []
  rejected : List Rejected := []
  defer    : List DefSig := []
  tileNo   : Nat := 0
  placeNo  : Nat := 0
  streams  : Tab SrcStream := []
  origin   : Tab (Nat × List (Nat × Nat × Nat)) := []
  totals   : Tab Nat := []
  stq      : Tab (List (List Byte)) := []
  stParts  : List (Nat × Nat × Nat × List Byte) := []
  stMsg    : List (List Byte) := []
  side     : List SideOut := []
  sideWait : List SideOut := []
  holdDst  : List Nat := []
  transit  : List Transit := []
  holdDie  : List (Nat × Nat) := []
  dieWait  : List (Option Nat × Flit) := []
  bar2No   : Nat := 0
  nextTag  : Nat := 0
  fences   : List SideIn := []
  serving  : List SideIn := []
  sigSeq   : Tab Nat := []
  sigOut   : List SigOut := []
  sigActed : List (Nat × Nat × Nat) := []
  judge    : Tab SigJudge := []
  mem      : Tab MemUse := []
  memWr    : Tab Nat := []
  laneOut  : Tab (Bool × Bool) := []
  laneTx   : Tab LaneCode := []
  laneRx   : Tab LaneCode := []
  memQ     : List MemReq := []
  ram      : List Host.Cell := []
  bar2     : List (Nat × Nat × List (Nat × List Byte)) := []
  deriving DecidableEq, Repr

/-! ### Combiner (R257 to R305, R499) -/

/-- A place in an input stream of an instruction (R259): the contributor, the place's number, the flit's payload once its
tile is verified with the number of that verification, and the tile that it belongs to. -/
structure CmbPlace where
  con  : Nat
  ord  : Nat
  data : Option (List Byte) := none
  ver  : Nat := 0
  key  : Option TileKey := none
  deriving DecidableEq, Repr

/-- An instruction that runs in a gang of cells (R258): its index, its input places, its record as read at START_SLOT, the
flits formed so far, and whether its inputs have ended and its result is complete. `old` holds the new weights of an
optimizer and `elems` how many elements it has updated; `stamp` is the HT or energy that it sampled; the NaN results and
saturations counted so far; whether it has flushed a NaN, and whether it has met a block with no extension record. -/
structure CellRun where
  instr  : Nat
  places : List CmbPlace := []
  param  : List Byte := []
  gsq    : List Byte := []
  old    : List Byte := []
  stamp  : List Byte := []
  formed : Nat := 0
  nan    : Nat := 0
  sat    : Nat := 0
  flushed : Nat := 0
  full   : Bool := false
  elems  : Nat := 0
  done   : Bool := false
  spill  : Bool := false
  side   : Option (Option (List Byte)) := none
  deriving DecidableEq, Repr

/-- A result flit (R261, R262): its FIDX, whether it is its tile's first, its payload, and the tile's CRC-64 on the
last. -/
structure ResFlit where
  fidx  : Nat
  first : Bool
  data  : List Byte
  tcrc  : Nat
  deriving DecidableEq, Repr

/-- Where a SCATTER's deferred entries lie (R301): the experts, the sources, the slots of a pair and the bytes of a row, the
first staging row, and how many entries are held. -/
structure MoeArea where
  experts : Nat
  nsrc    : Nat
  dcap    : Nat
  row     : Nat
  area    : Nat
  held    : Nat
  deriving DecidableEq, Repr

/-- The combiner: what runs, the result flits of each source in order, how many the slots have taken, and the random
register. `areas` names the deferral area that each SCATTER wrote last, and `restored` says that the areas of the current
phase lie in staging as a RESUME found them (log entry 191). -/
structure CmbSt where
  runs     : List CellRun := []
  results  : Tab (List ResFlit) := []
  taken    : Tab Nat := []
  faultStep : Bool := false
  randNext : Option (BitVec 128) := none
  randReady : Bool := false
  randOut  : BitVec 128 := 0
  areas    : Tab MoeArea := []
  restored : Bool := false
  deriving DecidableEq, Repr

/-! ### Tile array and staging memory (R306 to R334) -/

/-- What the tile array runs (R313, R315): an instruction or a COMBINE round, since when and for how long, when its first
pass begins and how far its passes are apart, and the result that it writes when it ends. -/
structure TilRun where
  instr   : Nat
  vector  : Bool
  startAt : Nat
  span    : Nat
  passes  : Nat
  lead    : Nat := 0
  every   : Nat := 1
  row     : Nat := 0
  out     : List Byte := []
  deriving DecidableEq, Repr

/-- The tile array: the retired rows of the active fold map, a fold commit that waits, a residue fault of the step, what
runs or ran last, which instructions have started in which pass, and the COMBINE instructions with a residue fault. -/
structure TilSt where
  retired  : List Nat := []
  foldP    : Bool := false
  faultStep : Bool := false
  noSpare  : Bool := false
  run      : Option TilRun := none
  started  : List (Nat × Nat) := []
  vecBad   : List Nat := []
  deriving DecidableEq, Repr

/-- The metadata of a staging row (R324). -/
structure RowMeta where
  stamp : Nat := 0
  valid : Bool := false
  cur   : Bool := false
  drain : Bool := false
  side  : Bool := false
  deriving DecidableEq, Repr

/-- A contribution to a row (R328, R329), in the order of its slot: the output, the row, the place, the position in its
run and the run's own number, format and operation, and the flit once its tile is verified. -/
structure AccEnt where
  out  : Nat
  row  : Nat
  ord  : Nat
  pos  : Nat
  run  : Nat
  fmt  : Nat
  op   : Nat
  flit : Option Flit := none
  deriving DecidableEq, Repr

structure StgSt where
  rows      : Tab (List Byte) := []
  info      : Tab RowMeta := []
  keeps     : List Keep := []
  faultStep : Bool := false
  acc       : List AccEnt := []
  xsPrev    : List (Nat × Nat × List Byte) := []
  writes    : List (Nat × Nat × List Byte) := []
  accs      : List (Nat × Nat × Flit) := []
  load      : Tab Nat := []
  deriving DecidableEq, Repr

/-! ### Faults, spares and verdicts (R349 to R378) -/

/-- The verdict states of R356. -/
inductive VState where
  | alive
  | suspect
  | doubted
  | fenced
  | swapped
  deriving DecidableEq, Repr

def VState.code : VState → Nat
  | .alive => 0
  | .suspect => 1
  | .doubted => 2
  | .fenced => 3
  | .swapped => 4

/-- A judged peer: a die port, or a port to a VD peer (R354 to R356). -/
structure Judge where
  st      : VState := .alive
  negRun  : Nat := 0
  posRun  : Nat := 0
  lastV   : Nat := 0
  deriving DecidableEq, Repr

/-- A die port's straggler bookkeeping and role (R349 to R357). -/
structure DieSt where
  judge    : Judge := {}
  score    : Nat := 0
  lateWin  : BitVec 1024 := 0
  mark     : Bool := false
  grace    : Nat := 1024
  staged   : Bool := false
  stageFor : Option Nat := none
  staging  : Bool := false
  approved : Bool := false
  doubtNo  : Nat := 0
  lastLate : Int := 0
  sbHbs    : Nat := 0
  sigCount : Nat := 0
  idPart   : Option W := none
  aside    : Bool := false
  sigW0    : Option W := none
  deriving DecidableEq, Repr

/-- The SIGNAL of a die for a working step (R349, R352): its HT and its cycle. -/
structure DieSig where
  wsc : W
  die : Nat
  ns  : W
  cyc : Nat
  deriving DecidableEq, Repr

/-- A verdict accepted (R366), and what it did: the ports that it isolated, whether the DNO was FENCED before it, the verdict
that FLT_VERDICT_RX showed before, and whether a copy with other contents has made it void. -/
structure VerdictRec where
  v     : Verdict
  ports : List Nat := []
  was   : Bool := false
  prev  : Option Verdict := none
  void  : Bool := false
  deriving DecidableEq, Repr

/-- The recorder, the verdict states, the remap and the verdict broadcasts (R349 to R366). `swapP` holds what the cutoff of a swap
point found: doubted die port, the spare's, and the result code. -/
structure FltSt where
  dies     : Tab DieSt := []
  peers    : Tab Judge := []
  remap    : W := 0xFEDCBA9876543210
  remapP   : Bool := false
  sigs     : List DieSig := []
  launches : List (W × W) := []
  recorded : W := 0
  round    : Nat := 0
  lastPort : Nat := 0
  lastLog  : Nat := 0
  lastBad  : Bool := false
  lastWsc  : W := 0
  lastLate : Int := 0
  doubts   : Nat := 0
  vTx      : Nat := 0
  vRx      : Option Verdict := none
  vSeen    : List VerdictRec := []
  fenceP   : List (Nat × Bool) := []
  swapP    : List (Nat × Nat × Nat) := []
  examined : Option W := none
  deriving DecidableEq, Repr

/-! ### Clock domains and the energy ledger (R379 to R401) -/

/-- A glitch filter, of an interrupt source (R405) or of a comparator (R388): the filtered level, and since when the raw level
has been another. -/
structure FiltSt where
  level : Bool := false
  since : Option Nat := none
  deriving DecidableEq, Repr

/-- The measured cost of a phase (R392, R393). -/
structure CostSt where
  mWork : Nat := 0
  vWork : Bool := false
  mFw   : Nat := 0
  vFw   : Bool := false
  nMeas : Nat := 0
  deriving DecidableEq, Repr

/-- The clocks and comparators of the belfry, the region stops and the host crossings (R380 to R390): the comparators' filters,
the last activity on the sideband, the codes in force and pending, standby, and the VSU's host clock. -/
structure ClkSt where
  cmpFilt  : Tab FiltSt := []
  sbAt     : Option Nat := none
  aligned  : Bool := false
  cmbCur   : Nat := 0
  tilCur   : Nat := 0
  pendCmb  : Option Nat := none
  pendTil  : Option Nat := none
  stopping : Bool := false
  standby  : Bool := false
  hostOk   : Bool := false
  hostOff  : Int := 0
  deriving DecidableEq, Repr

/-- The kinds of step to which a power sample is attributed (R392). -/
inductive StepKind where
  | work | freewheel | neither
  deriving DecidableEq, Repr

/-- The energy ledger: the sums of the period, the kinds of the last boundaries' steps with their HT, the costs of the
phases, and the plan (R391 to R398). -/
structure NrgSt where
  sumNj    : Nat := 0
  lastUj   : Nat := 0
  accEw    : Nat := 0
  accTw    : Nat := 0
  accEf    : Nat := 0
  accTf    : Nat := 0
  kinds    : List (Nat × StepKind) := []
  bounds   : Tab Nat := []
  costs    : Tab CostSt := []
  kE       : Nat := 0
  kT       : Nat := 0
  kOwn     : Nat := 0
  kSent    : Nat := 0
  ew       : Nat := 0
  ef       : Nat := 0
  hallK    : Nat := 0
  hallPer  : Nat := 0
  relayK   : Nat := 0
  period   : Nat := 0
  sentPer  : Option Nat := none
  hallDone : Option Nat := none
  deriving DecidableEq, Repr

/-! ### Management, events and updates (R402 to R433) -/

/-- An event record (R407). -/
structure EvtRec where
  code : Nat
  lost : Bool
  seq  : Nat
  ns   : W
  arg0 : W
  arg1 : W
  deriving DecidableEq, Repr

/-- The queue that a record is due for: a core queue or a host queue. -/
inductive QId where
  | core (c : Nat)
  | host (q : Nat)
  deriving DecidableEq, Repr

/-- A queue's HEAD and TAIL, and whether records were dropped before the next (R410, R413). -/
structure QSt where
  head : BitVec 32 := 0
  tail : BitVec 32 := 0
  lost : Bool := false
  deriving DecidableEq, Repr

/-- A lantern core (R402, R403, R406). -/
structure CoreSt where
  inReset  : Bool := true
  asleep   : Bool := false
  wdgAt    : Nat := 0
  half     : Bool := false
  expiries : Nat := 0
  deriving DecidableEq, Repr

/-- A message or notice of the lantern that waits in its level buffer while core 3 is held in reset (R402). -/
inductive MgmtWait where
  | verdict (port : Nat) (n : Verdict)
  | ledger (port prop : Nat)
  | fwReady (port manifest : Nat) (ready fail : Bool)
  | fwGo (port manifest : Nat) (act : W)
  | fwAbort (port : Nat) (n : FwNotice)
  deriving DecidableEq, Repr

/-- Events and the lantern (R402 to R413): SEQ, the belfry tail, the core queues with their records and the host queues, deferred
records, the cores, the mailbox mark, the messages that wait for source 47, the two MAC sources, and the filters. -/
structure EvqSt where
  seq     : BitVec 32 := 0
  tail64  : List EvtRec := []
  coreQ   : Tab QSt := []
  ring    : Tab EvtRec := []
  hostQ   : Tab QSt := []
  defer   : List (QId × EvtRec) := []
  cores   : Tab CoreSt := []
  mailNew : Bool := false
  held    : List (Nat × Message) := []
  wait3   : List MgmtWait := []
  ethRx   : Bool := false
  ethTx   : Bool := false
  filt    : Tab FiltSt := []
  deriving DecidableEq, Repr

/-- A queued MRAM write (R418), and whether it is that of a RWP field, which shows its value at once. -/
structure NvsWr where
  word : Nat
  val  : W
  rwp  : Bool := false
  deriving DecidableEq, Repr

/-- The persistent store: words and wear counts, and the writes that wait, the first of them in progress since
`busyAt`. -/
structure NvsSt where
  words  : Tab W := []
  wear   : Tab Nat := []
  queue  : List NvsWr := []
  busyAt : Nat := 0
  deriving DecidableEq, Repr

/-- The states of a firmware slot (R423). -/
inductive SlotState where
  | empty
  | writing
  | valid
  | failed
  deriving DecidableEq, Repr

def SlotState.code : SlotState → Nat
  | .empty => 0
  | .writing => 1
  | .valid => 2
  | .failed => 3

/-- A firmware slot: its state, version, the DIGEST of its image, the SHA-384 of its VSU_UCODE section, whether its DIGEST is right
and its signature that of its own key, and the hash of that key (R422 to R424). -/
structure Slot where
  st      : SlotState := .empty
  version : Nat := 0
  digest  : List Byte := []
  ucode   : List Byte := []
  ucodeBytes : List Byte := []
  nvsFormat : Nat := 1
  sound   : Bool := false
  signer  : List Byte := []
  deriving DecidableEq, Repr

/-- FW_STATE of FWU_STATUS (R433). -/
inductive FwState where
  | idle
  | verifying
  | ready
  | fail
  | go
  | aborted
  deriving DecidableEq, Repr

def FwState.code : FwState → Nat
  | .idle => 0
  | .verifying => 1
  | .ready => 2
  | .fail => 3
  | .go => 4
  | .aborted => 5

/-- Firmware slots and updates: FW_STATE with its manifest; the range of memory that is being staged; whether the issuer has
decided; the notices seen, as kind and ID; the period in which FW_READY was last sent; the relay's aggregate; and in
recovery the image's bytes and the chunk buffer. -/
structure FwuSt where
  slotA    : Slot := { st := .valid, sound := true, signer := List.replicate 48 0 }
  slotB    : Slot := {}
  fw       : FwState := .idle
  failCode : Nat := 0
  manifest : Nat := 0
  actNs    : W := 0
  staging  : Option (Nat × Nat) := none
  goSent   : Bool := false
  seen     : List (Nat × Nat) := []
  sentPer  : Option Nat := none
  otherFw  : Option (Nat × Bool × Bool) := none
  chunks   : Tab Byte := []
  rcvBuf   : Tab Byte := []
  deriving DecidableEq, Repr

/-- A die port's sideband at a DOME, or a VSU's own (R451 to R453): SEQ of the last cell sent, HB of the last cell received,
the cells that wait, the next step of a microcode delivery (0 START, then the segments, then END; none while no delivery
runs), and whether a read of ID_PART awaits its answer. -/
structure SbLink where
  seq    : Nat := 0
  hb     : Nat := 0
  out    : List Cell := []
  ucSeg  : Option Nat := none
  ucWait : Option Nat := none
  reading : Bool := false
  txNs   : Option W := none
  deriving DecidableEq, Repr

/-- The sideband: the links, the relay of R371, and at a VSU the microcode under delivery. -/
structure SbSt where
  links    : Tab SbLink := []
  relayAt  : Option Nat := none
  relayDie : Nat := 0
  result   : W := 0
  ucBuf    : Tab (List Byte) := []
  ucLen8   : Nat := 0
  ucOpen   : Bool := false
  ucRun    : Bool := false
  deriving DecidableEq, Repr

/-! ### What leaves the unit -/

/-- Everything that a unit sends or drives, in the order in which it does so. -/
inductive Emit where
  | readData (path : Path) (v : W)
  | abort (path : Path)
  | failed (path : Path)
  | spkDone (src : SpkSrc) (kind tag status : Nat) (v : W)
  | oset (port : Nat) (o : OSet)
  | flit (port : Nat) (f : Flit)
  | idle (port : Nat)
  | codeword (lane : Nat) (levels : List Nat)
  | cell (d : Nat) (w : BitVec 128)
  | posted (addr : W) (bytes : List Byte)
  | msix (q : Nat)
  | bar2Done (status : Nat) (data : List Byte)
  | memRead (tag addr : Nat)
  | memWrite (tag addr : Nat) (bytes : List Byte)
  | srx (kind : Nat) (f : Flit)
  | pps (ns : W)
  | clk10 (ns : W)
  | stepMark (n : Nat) (ns : W)
  | discClk (on : Bool)
  | i2c (v : Nat)
  | jtag (op : Nat) (captured : Option Nat)
  deriving DecidableEq, Repr

/-! ### The whole unit -/

/-- A Valkar unit. `regs` holds the bits of the register map that software or an occurrence sets and that no typed field
holds (RW, W1C, RC and RWB bits), keyed by BAR0 address, without the entries that equal their reset value; `out` is
what the unit has sent, oldest first; `free` counts the free values taken; `pending` is the queue of commands. -/
structure State where
  ident   : IdSt := {}
  pwr     : PwrSt := {}
  regs    : Tab W := []
  time    : TimeSt := {}
  tdc     : TdcSt := {}
  ref     : RefSt := {}
  cad     : CadSt := {}
  spk     : SpkSt := {}
  img     : ImgSt := {}
  fab     : FabSt := {}
  cmb     : CmbSt := {}
  til     : TilSt := {}
  stg     : StgSt := {}
  flt     : FltSt := {}
  clk     : ClkSt := {}
  nrg     : NrgSt := {}
  evq     : EvqSt := {}
  nvs     : NvsSt := {}
  fwu     : FwuSt := {}
  sb      : SbSt := {}
  out     : List Emit := []
  free    : Nat := 0
  pending : List Instr := []
  deriving DecidableEq, Repr

/-- Why a step may stop with a fault. No command of the manual does: the block has no stuck state. -/
inductive Fault where
  /-- Nothing raises it: every row of the manual's command table has an effect. Safe. -/
  | none
  deriving DecidableEq, Repr

/-- Why a step may be refused. -/
inductive Refusal where
  /-- Raised by an arm of `exec` whose command has no meaning yet, by its mnemonic. Safe: nothing is claimed of it. -/
  | notModelled (mnemonic : String)
  deriving DecidableEq, Repr

/-- The persistent words of a shipped unit (R420): layout version 1, the role and DNO (log entry 1), and the shipped
values that the register tables name. -/
def shippedWords : Tab W :=
  [(0, 1), (2, 0x1000), (3, 0xEC0), (4, 1), (17, 0), (21, 0x136)]

/-- The machine right after reset: every field at the reset value that the manual states, a VD in DOME role (log
entry 1), and an empty queue. -/
def State.reset : State := { nvs := { words := shippedWords } }

end Sys2Proof.Machine
end

