-- ==== Sys2Proof/Machine/Ops.lean ====
section
/-! DEFINITION. Sys2Proof/Machine/Ops.lean: the named operations over a unit's state that every chapter shares: what the
unit is, hall time as it is read, the stored register bits, the persistent words, bytes, and main memory. -/

namespace Sys2Proof.Machine

/-! ### What the unit is -/

def State.isVd (s : State) : Bool := s.ident.kind == .vd
def State.isVsu (s : State) : Bool := s.ident.kind == .vsu
/-- U1 or U2 (R456). -/
def State.isFore (s : State) : Bool := s.ident.kind == .u1 || s.ident.kind == .u2
def State.isDome (s : State) : Bool := s.isVd && s.ident.role == .dome
def State.isSpire (s : State) : Bool := s.isVd && s.ident.role == .spire

/-- A persistent word (R418). -/
def State.nvsWord (s : State) (w : Nat) : W := s.nvs.words.get w 0

/-- A persistent word as RWP fields show it: a write takes effect on the field at once, and on the word once the MRAM
write has completed (R418). -/
def State.rwpWord (s : State) (w : Nat) : W :=
  match (s.nvs.queue.filter fun e => e.word == w && e.rwp).getLast? with
  | some e => e.val
  | none => s.nvsWord w

/-- A root spire: a VD in SPIRE role whose REF_ROOT_CFG.ROOT_EN is 1 (R2, R420). -/
def State.isRoot (s : State) : Bool := s.isSpire && (s.rwpWord 3).getLsbD 0

/-- The number of ports of the unit (R1, R435). -/
def State.nPorts (s : State) : Nat := Config.ports s.ident.kind
def State.nLanes (s : State) : Nat := Config.lanes s.ident.kind
def State.nSpk (s : State) : Nat := Config.sprockets s.ident.kind
def State.nCtx (s : State) : Nat := Config.contexts s.ident.kind

/-- The committed entry of the DNO table (R233). -/
def State.dnoEnt (s : State) (d : Nat) : Nat := (s.fab.dnoAct.get d 0).toNat

/-- A root's own domain: the plane that the unit's own entry of the DNO table names in POS[4] (R233; log entry 2). -/
def State.ownDom (s : State) : Dom := if Nat.testBit (s.dnoEnt s.ident.dno) 11 then .B else .A

/-- The SENDER identifier of the unit and its kind: a DNO, or an HDN (R210). -/
def State.senderKind (s : State) : Nat := if s.isVd then 0 else 1
def State.sender (s : State) : Nat := if s.isVd then s.ident.dno else s.ident.hdn
/-- SRC_DNO and SRC_SUB of what the unit sends (R208). -/
def State.srcDno (s : State) : Nat := if s.isVd then s.ident.dno else s.ident.hdn / 16
def State.srcSub (s : State) : Nat := if s.isVd then 16 else s.ident.hdn % 16

/-- The protocol level of the unit (R3, R440): 0 in a VD. -/
def State.level (s : State) : Nat :=
  match s.ident.kind with
  | .vd => 0
  | .vsu => 3
  | .u2 => 2
  | .u1 => 1

/-- Is the unit's logic outside the belfry powered, out of reset and out of standby (R390, R455, R470). -/
def State.awake (s : State) : Bool :=
  s.pwr.power == .on && s.pwr.aonRstN && s.pwr.vsuRstN && !s.clk.standby

/-- Does the belfry run: it does whenever VDD_AON is present and AON reset is released (R372, R454). -/
def State.belfryOn (s : State) : Bool := s.pwr.power != .off && s.pwr.aonRstN

/-! ### Hall time as read (R9, R10) -/

/-- HT[79:16], whole nanoseconds. -/
def State.htNs (s : State) : W := s.time.htx.extractLsb' 48 64
/-- HT[15:0]. -/
def State.htFrac (s : State) : BitVec 16 := s.time.htx.extractLsb' 32 16
/-- HT in units of 2^-16 ns. -/
def State.ht (s : State) : Nat := s.time.htx.toNat >>> 32

/-- One nanosecond and one microsecond in the units of `now`, 2^-48 ns. -/
def nsX : Nat := 2 ^ 48
def usX : Nat := 1000 * 2 ^ 48
def msX : Nat := 1000000 * 2 ^ 48

/-! ### Stored register bits -/

/-- The row of the register map that holds a BAR0 address. -/
def regRow? (a : Nat) : Option RegRow :=
  (regRows.getD (a / 0x200000) []).find? fun r =>
    decide (r.base ≤ a) && decide (a < r.base + r.count * r.stride) && (a - r.base) % r.stride == 0

/-- The core that shipped firmware gives a shared source (R402; log entry 3). -/
def shippedTarget (src : Nat) : Nat :=
  if src = 32 || src = 33 then 1 else if src = 47 then 3 else 0

/-- The CORES field of EVQ_ROUTE at reset (R494). -/
def routeReset (b : Nat) : Nat :=
  if b = 1 || b = 2 || b = 3 || b = 7 then 2
  else if b = 4 || b = 6 || b = 9 || b = 10 || b = 11 || b = 13 then 4
  else if b = 12 then 8
  else 1

/-- The reset value of the stored bits of the register at an address, in a unit of a kind. The registers whose reset
depends on their index (R431, R494) or on the member (R96, R400) come first. -/
def regResetOf (k : UnitKind) (a : Nat) : W :=
  if 0x1E00100 ≤ a && a < 0x1E00300 then
    let src := 32 + (a - 0x1E00100) / 8
    if src ≤ 47 then BitVec.ofNat 64 (0x104 + shippedTarget src * 512) else 4
  else if 0x1E00400 ≤ a && a < 0x1E00800 then 0x104
  else if 0x1E00800 ≤ a && a < 0x1E00898 then
    if k == .vd then BitVec.ofNat 64 (routeReset ((a - 0x1E00800) / 8)) else 0
  else if a = Reg.CLK_UV_CFG then (if k == .vd then 0 else 0xA0)
  else if a = Reg.REF_BW && k == .vsu then 5
  else
    match regRow? a with
    | some r => BitVec.ofNat 64 r.reset
    | none => 0

/-- The stored bits of the register at a BAR0 address. -/
def State.reg (s : State) (a : Nat) : W := s.regs.get a (regResetOf s.ident.kind a)

/-- The register table with a register's stored bits replaced; an entry equal to its reset value is not listed. -/
def regsPut (k : UnitKind) (t : Tab W) (a : Nat) (v : W) : Tab W :=
  if v = regResetOf k a then t.del a else t.set a v

def State.setReg (s : State) (a : Nat) (v : W) : State :=
  { s with regs := regsPut s.ident.kind s.regs a v }

/-- A field's value in a word. -/
def Fld.of (f : Fld) (v : W) : Nat := (v.toNat >>> f.lo) % 2 ^ f.w

/-- A word with a field replaced. -/
def Fld.put (f : Fld) (v : W) (n : Nat) : W :=
  (v &&& ~~~ (BitVec.ofNat 64 f.mask)) ||| (BitVec.ofNat 64 (n % 2 ^ f.w) <<< f.lo)

/-- A stored field. -/
def State.fld (s : State) (f : Fld) : Nat := f.of (s.reg f.reg)

def State.setFld (s : State) (f : Fld) (n : Nat) : State := s.setReg f.reg (f.put (s.reg f.reg) n)

/-- A stored field of one bit. -/
def State.flag (s : State) (f : Fld) : Bool := s.fld f == 1

/-- Adds to a counting field, saturating (R35 onwards, access code RC). -/
def State.countFld (s : State) (f : Fld) (n : Nat) : State := s.setFld f (min (s.fld f + n) (2 ^ f.w - 1))

/-- A two's complement field. -/
def signedOf (w n : Nat) : Int := if n < 2 ^ (w - 1) then (n : Int) else (n : Int) - 2 ^ w

/-- The bits of an integer in a two's complement field of width `w`, after saturation. -/
def satBits (w : Nat) (v : Int) : Nat :=
  let hi : Int := 2 ^ (w - 1) - 1
  let c := max (- hi - 1) (min hi v)
  (c % 2 ^ w).toNat

/-! ### Persistent fields (R420) -/

/-- The persistent word that backs a RWP register of a VD, and the bit of the word that is the register's bit 0. -/
def nvsOf (a : Nat) : Option (Nat × Nat) :=
  if a = Reg.REF_ROOT_CFG then some (3, 0)
  else if a = Reg.CAD_ROOT_CFG then some (3, 16)
  else if a = Reg.IMG_POLICY then some (4, 0)
  else if Reg.IMG_KEYHASH ≤ a && a < Reg.IMG_KEYHASH + 48 then some (5 + (a - Reg.IMG_KEYHASH) / 8, 0)
  else if a = Reg.HT_PORT_FIXED then some (18, 0)
  else if a = Reg.FLT_SPARE then some (19, 0)
  else if a = Reg.TIL_FOLD then some (20, 0)
  else if a = Reg.CLK_UV_CFG then some (21, 0)
  else if Reg.REF_IN_CFG ≤ a && a < Reg.REF_IN_CFG + 32 then some (24 + (a - Reg.REF_IN_CFG) / 8, 0)
  else if Reg.REF_IN_DELAY ≤ a && a < Reg.REF_IN_DELAY + 32 then some (28 + (a - Reg.REF_IN_DELAY) / 8, 0)
  else if Reg.TDC_PORT_TRIM ≤ a && a < Reg.TDC_PORT_TRIM + 512 then some (64 + (a - Reg.TDC_PORT_TRIM) / 8, 0)
  else if Reg.TDC_LANE_TRIM ≤ a && a < Reg.TDC_LANE_TRIM + 2048 then some (256 + (a - Reg.TDC_LANE_TRIM) / 8, 0)
  else none

/-- The persistent bits of a RWP register, at the register's own positions; in a VSU, which has no persistent store, the
stored bits. -/
def State.preg (s : State) (a : Nat) : W :=
  match nvsOf a with
  | some (w, sh) => if s.isVd then s.rwpWord w >>> sh else s.reg a
  | none => s.reg a

/-- A persistent field. -/
def State.pfld (s : State) (f : Fld) : Nat := f.of (s.preg f.reg)

/-- HT_PORT_FIXED: all ones in a DOME, and every port of a die (R32, R34). -/
def State.portFixed (s : State) (p : Nat) : Bool :=
  if s.isSpire then (s.preg Reg.HT_PORT_FIXED).getLsbD p else true

/-! ### Bytes -/

/-- The `k` bytes of a number, least significant first. -/
def leBytes : Nat → Nat → List Byte
  | 0, _ => []
  | k + 1, n => BitVec.ofNat 8 n :: leBytes k (n / 256)

/-- The number that little-endian bytes spell. -/
def leNat : List Byte → Nat
  | [] => 0
  | b :: r => b.toNat + 256 * leNat r

/-- The number that big-endian bytes spell. -/
def beNat (l : List Byte) : Nat := l.foldl (fun a b => a * 256 + b.toNat) 0

/-- The field of `k` bytes at an offset, little-endian. -/
def fieldAt (l : List Byte) (off k : Nat) : Nat := leNat ((l.drop off).take k)

/-- A list cut or filled with zeros to `n` bytes. -/
def padTo (n : Nat) (l : List Byte) : List Byte := l.take n ++ List.replicate (n - l.length) 0

/-- A list with `d` laid over it from an offset on. -/
def overlay (l : List Byte) (off : Nat) (d : List Byte) : List Byte :=
  l.take off ++ d ++ l.drop (off + d.length)

/-- Cuts a list into pieces of `n`, at most `fuel` of them. -/
def chunks {α : Type} (n : Nat) : Nat → List α → List (List α)
  | 0, _ => []
  | f + 1, l => if l.isEmpty then [] else l.take n :: chunks n f (l.drop n)

/-! ### Main memory (R240): a byte that nothing has written reads 0 (log entry 4) -/

/-- The byte at an address. -/
def Memory.read (m : List Host.Cell) (a : Nat) : Byte :=
  match m with
  | [] => 0
  | (k, v) :: r => if k = a then v else Memory.read r a

/-- The cells of consecutive bytes from an address on, zeros left out. -/
def Memory.cells (a : Nat) : List Byte → List Host.Cell
  | [] => []
  | b :: r => if b = 0 then Memory.cells (a + 1) r else (a, b) :: Memory.cells (a + 1) r

/-- Writes consecutive bytes from an address on. -/
def Memory.writeBytes (m : List Host.Cell) (a : Nat) (l : List Byte) : List Host.Cell :=
  m.filter (fun c => decide (c.1 < a)) ++ Memory.cells a l ++ m.filter (fun c => decide (a + l.length ≤ c.1))

/-- Reads `n` consecutive bytes. -/
def Memory.readBytes (m : List Host.Cell) (a : Nat) : Nat → List Byte
  | 0 => []
  | n + 1 => Memory.read m a :: Memory.readBytes m (a + 1) n

/-- The canonical form: addresses strictly rising, no entry equal to what an unlisted address reads as. -/
def Memory.wf : List Host.Cell → Bool
  | [] => true
  | [(_, v)] => v != 0
  | (k, v) :: (k', v') :: r => v != 0 && decide (k < k') && Memory.wf ((k', v') :: r)

/-! ### Small helpers -/

def State.emit (s : State) (e : Emit) : State := { s with out := s.out ++ [e] }
def State.emits (s : State) (es : List Emit) : State := { s with out := s.out ++ es }

/-- A port. -/
def State.port (s : State) (p : Nat) : PortSt := s.fab.ports.get p {}
def State.setPort (s : State) (p : Nat) (x : PortSt) : State :=
  { s with fab := { s.fab with ports := s.fab.ports.set p x } }
def State.portUp (s : State) (p : Nat) : Bool := (s.port p).st == .up

/-- Does a port carry ordered sets: UP, or RETRAIN on its remaining lanes (R205, R218). -/
def State.carriesOs (s : State) (p : Nat) : Bool :=
  decide (p < s.nPorts) && ((s.port p).st == .up || (s.port p).st == .retrain)
/-- Does a lane of a port carry them: not while it retrains or runs in loopback (R25, R50). -/
def State.laneOs (s : State) (p lane : Nat) : Bool :=
  s.carriesOs p && decide (lane < 4) && !(s.port p).retrainLanes.contains lane && s.tdc.lbLane != some (4 * p + lane)

/-- May flits leave a port: it is UP with its four lanes together, none of them retraining, swapped or in loopback (R50,
R205, R218). -/
def State.flitsOn (s : State) (p : Nat) : Bool :=
  let x := s.port p
  x.st == .up && !x.lane0Swap && x.retrainLanes.isEmpty && (match s.tdc.lbLane with
    | some l => l / 4 != p
    | none => true)

/-- The port of a lane, and a lane's position in its port (R204). -/
def lanePort (l : Nat) : Nat := l / 4
def laneOf (p i : Nat) : Nat := 4 * p + i

/-- The list 0 .. n-1. -/
def upto (n : Nat) : List Nat := List.range n

/-- Replaces element `i` of a list. -/
def setAt {α : Type} (l : List α) (i : Nat) (v : α) : List α := l.set i v

def bit (b : Bool) : Nat := if b then 1 else 0

/-- The number of ones among the low `w` bits. -/
def popcount (w n : Nat) : Nat := (upto w).foldl (fun a i => if Nat.testBit n i then a + 1 else a) 0

/-- IDLE or HELD: where commits happen at once (R15, R19, R151, R233). -/
def State.notRunning (s : State) : Bool := s.cad.st != .running

/-- A serial number `a` of `w` bits is higher than `b` (R114). -/
def serialHigher (w a b : Nat) : Bool :=
  let d := (a + 2 ^ w - b % 2 ^ w) % 2 ^ w
  decide (1 ≤ d) && decide (d < 2 ^ (w - 1))

/-- The phase descriptor in force (R101). -/
def State.desc (s : State) : Option PhaseDesc := s.img.live.map (·.desc)

/-- The step length in force, in ns (R100). -/
def State.stepNs (s : State) : Nat :=
  match s.img.live with
  | some l => l.desc.stepNs
  | none => 0

/-- boundary_ns(n) by the anchor (R101). -/
def State.boundaryNs (s : State) (n : W) : W :=
  s.cad.anchorNs + (n - s.cad.anchorSc) * BitVec.ofNat 64 s.stepNs

end Sys2Proof.Machine
end

