-- ==== Sys2Proof/Machine/ImageFmt.lean ====
section
/-! DEFINITION. Sys2Proof/Machine/ImageFmt.lean: reading the schedule image byte by byte (R164 to R170, R172, R180,
R181, R183): header, phase descriptors, directory, sections and phase subsections. -/

namespace Sys2Proof.Machine

/-- Bytes of an image in one broadcast tile (R191). -/
def tileBytes : Nat := 3584

/-- The tiles `i` .. `i + n - 1` joined; a tile not held reads as zeros. -/
def Img.span (img : Img) (i : Nat) : Nat → List Byte
  | 0 => []
  | n + 1 => padTo tileBytes (img.tiles.get i []) ++ Img.span img (i + 1) n

/-- `n` bytes of an image from an offset on. -/
def Img.bytes (img : Img) (off n : Nat) : List Byte :=
  ((img.span (off / tileBytes) ((off % tileBytes + n + tileBytes - 1) / tileBytes)).drop (off % tileBytes)).take n

/-- A little-endian field of `k` bytes of an image. -/
def Img.nat (img : Img) (off k : Nat) : Nat := leNat (img.bytes off k)

/-- Does the image hold every tile of a byte range. -/
def Img.holds (img : Img) (off n : Nat) : Bool :=
  n == 0 || (upto ((off % tileBytes + n + tileBytes - 1) / tileBytes)).all fun i => img.tiles.has (off / tileBytes + i)

/-! ### Header (R165) -/

def Img.magic (img : Img) : Nat := img.nat 0 4
def Img.format (img : Img) : Nat := img.nat 4 2
def Img.flags (img : Img) : Nat := img.nat 6 2
def Img.isSigned (img : Img) : Bool := Nat.testBit img.flags 0
def Img.isChained (img : Img) : Bool := Nat.testBit img.flags 1
def Img.imageId (img : Img) : Nat := img.nat 8 4
def Img.prevId (img : Img) : Nat := img.nat 0xC 4
def Img.totalLen (img : Img) : Nat := img.nat 0x10 8
def Img.nPhases (img : Img) : Nat := img.nat 0x18 1
def Img.entryPhase (img : Img) : Nat := img.nat 0x19 1
def Img.jobDies (img : Img) : Nat := img.nat 0x1C 4
def Img.dirOff (img : Img) : Nat := img.nat 0x20 8
def Img.dirCount (img : Img) : Nat := img.nat 0x28 4
def Img.sigOff (img : Img) : Nat := img.nat 0x30 8
/-- The end of the directory, before its padding. -/
def Img.dirEnd (img : Img) : Nat := img.dirOff + 80 * img.dirCount

/-! ### Phase descriptors (R167) -/

def Img.phaseDesc (img : Img) (p : Nat) : PhaseDesc :=
  let b := 0x100 + 128 * p
  { stepNs := img.nat b 4, tableSlots := img.nat (b + 4) 2, successor := img.nat (b + 6) 1,
    holdDist := img.nat (b + 7) 1, nSteps := img.nat (b + 8) 8, ckptEvery := img.nat (b + 0x10) 4,
    ckptOffset := img.nat (b + 0x14) 4, endSwap := Nat.testBit (img.nat (b + 0x18) 2) 0,
    params := (upto 4).map fun i => img.nat (b + 0x20 + 4 * i) 4 }

/-! ### Directory (R168) -/

structure DirEnt where
  kind   : Nat
  level  : Nat
  rev    : Nat
  grade  : Nat
  unit   : Nat
  secOff : Nat
  secLen : Nat
  digest : List Byte
  deriving DecidableEq, Repr

def dirEntOf (l : List Byte) : DirEnt :=
  { kind := fieldAt l 0 1, level := fieldAt l 1 1, rev := fieldAt l 2 1, grade := fieldAt l 3 1,
    unit := fieldAt l 4 2, secOff := fieldAt l 8 8, secLen := fieldAt l 0x10 8, digest := (l.drop 0x18).take 48 }

def Img.dirEnt (img : Img) (i : Nat) : DirEnt := dirEntOf (img.bytes (img.dirOff + 80 * i) 80)

/-- The whole directory, at most the 18,432 entries that R165 allows. -/
def Img.dir (img : Img) : List DirEnt :=
  (upto (min img.dirCount 18432)).map img.dirEnt

/-- The entry of a VD (KIND 1 and 2) or of a logical die (KIND 3 to 5). -/
def Img.vdEnt (img : Img) (dno : Nat) : Option DirEnt :=
  img.dir.find? fun e => (e.kind == 1 || e.kind == 2) && e.unit == dno
def Img.dieEnt (img : Img) (hdn : Nat) : Option DirEnt :=
  img.dir.find? fun e => decide (3 ≤ e.kind) && decide (e.kind ≤ 5) && e.unit == hdn

/-! ### Runs, signals and programmes -/

def runOf (n : Nat) : Run :=
  { len := n % 2 ^ 15 + 1, source := (n >>> 15) % 128, action := (n >>> 22) % 16, arg := (n >>> 26) % 2 ^ 32 }

def sigOf (l : List Byte) : SigEnt :=
  { kind := fieldAt l 0 1, gated := fieldAt l 1 1 != 0, target := fieldAt l 2 2, phys := fieldAt l 4 2,
    inc := fieldAt l 8 4 }

def cmbOf (n : Nat) : CmbInstr :=
  { opcode := n % 256, mode := (n >>> 8) % 4, fmtA := (n >>> 10) % 16, fmtR := (n >>> 14) % 16,
    cell0 := (n >>> 18) % 16, ncell := (n >>> 22) % 16 + 1, start := (n >>> 26) % 2 ^ 15,
    stop := (n >>> 41) % 2 ^ 15, v := Nat.testBit n 56, sr := Nat.testBit n 57, opnd := BitVec.ofNat 64 (n >>> 64) }

def tilOf (n : Nat) : TilInstr :=
  { opcode := n % 256, m := (n >>> 8) % 1024 + 1, n := (n >>> 18) % 1024 + 1, k := (n >>> 28) % 1024 + 1,
    fmt := (n >>> 38) % 16, start := (n >>> 42) % 2 ^ 15, lat := (n >>> 57) % 2 ^ 16, opnd := (n >>> 73) % 2 ^ 55 }

def keepOf (n : Nat) : Keep := { row := n % 2 ^ 20, count := (n >>> 20) % 2 ^ 20 }

/-- Rounds up to a multiple of 64. -/
def up64 (n : Nat) : Nat := (n + 63) / 64 * 64

/-- The `n` elements of `k` bytes of an array of an image. -/
def Img.array (img : Img) (off k n : Nat) : List (List Byte) := chunks k n (img.bytes off (k * n))

/-- The offsets of a subsection's arrays, from its own first byte (R170): OUT_INDEX, RUNS, SIGS, CMB, TIL, KEEP and the
end. -/
structure SubLay where
  outs : Nat
  runs : Nat
  sigs : Nat
  cmbs : Nat
  tils : Nat
  keeps : Nat
  stop : Nat
  deriving DecidableEq, Repr

def subLay (nout nsig nrun ncmb ntil nkeep : Nat) : SubLay :=
  let runs := up64 (64 + 4 * nout)
  let sigs := up64 (runs + 8 * nrun)
  let cmbs := up64 (sigs + 16 * nsig)
  let tils := up64 (cmbs + 16 * ncmb)
  let keeps := up64 (tils + 16 * ntil)
  ⟨64, runs, sigs, cmbs, tils, keeps, keeps + 8 * nkeep⟩

/-- The layout of the subsection at an image offset. -/
def Img.lay (img : Img) (b : Nat) : SubLay :=
  subLay (img.nat (b + 0x10) 2) (img.nat (b + 0x12) 2) (img.nat (b + 0x14) 4) (img.nat (b + 0x18) 4)
    (img.nat (b + 0x1C) 4) (img.nat (b + 0x20) 4)

/-- The runs of each output, cut out of RUNS by OUT_INDEX. -/
def splitRuns (runs : List Run) : List Nat → List (List Run)
  | [] => []
  | [a] => [runs.drop a]
  | a :: b :: r => ((runs.drop a).take (b - a)) :: splitRuns runs (b :: r)

/-- The set of a phase from a section of an image (R170). -/
def Img.phaseSet (img : Img) (sec : Nat) (p : Nat) : PhaseSet :=
  let b := sec + img.nat (sec + 0x40 + 8 * p) 8
  let lay := img.lay b
  let nout := img.nat (b + 0x10) 2
  let runs := (img.array (b + lay.runs) 8 (img.nat (b + 0x14) 4)).map fun l => runOf (leNat l)
  { phase := p, imageId := img.id, desc := img.phaseDesc p,
    compSpk := img.nat b 2, compInc := img.nat (b + 4) 4, eWork := img.nat (b + 8) 4, eFw := img.nat (b + 0xC) 4,
    outs := splitRuns runs ((img.array (b + lay.outs) 4 nout).map leNat),
    sigs := (img.array (b + lay.sigs) 16 (img.nat (b + 0x12) 2)).map sigOf,
    cmbs := (img.array (b + lay.cmbs) 16 (img.nat (b + 0x18) 4)).map fun l => cmbOf (leNat l),
    tils := (img.array (b + lay.tils) 16 (img.nat (b + 0x1C) 4)).map fun l => tilOf (leNat l),
    keeps := (img.array (b + lay.keeps) 8 (img.nat (b + 0x20) 4)).map fun l => keepOf (leNat l),
    nrun := img.nat (b + 0x14) 4 }

/-- The section's offset of a phase subsection, 0 for none (R169). -/
def Img.phOff (img : Img) (sec p : Nat) : Nat := img.nat (sec + 0x40 + 8 * p) 8

/-- The section of the unit itself in an image. -/
def State.ownEnt (s : State) (img : Img) : Option DirEnt :=
  if s.isVd then img.vdEnt s.ident.dno else img.dieEnt s.ident.hdn

/-! ### The run in force at a slot -/

/-- The run that covers a slot, and the slot's offset in the run. -/
def runAt : List Run → Nat → Option (Run × Nat)
  | [], _ => none
  | r :: rest, s => if s < r.len then some (r, s) else runAt rest (s - r.len)

/-- The runs of a list with the slot at which each begins. -/
def runStarts : List Run → Nat → List (Nat × Run)
  | [], _ => []
  | r :: rest, s => (s, r) :: runStarts rest (s + r.len)

/-- Slots that a unit runs in a step of `l` ns: a slot that would end after the next boundary is not run (R176). -/
def slotsIn (l : Nat) : Nat := l * 100 / 256

/-- The end of slot `g` of a step, in whole ns after the boundary. -/
def slotEndNs (g : Nat) : Nat := (g + 1) * 256 / 100

end Sys2Proof.Machine
end

