-- ==== Sys2Proof/Machine/View.lean ====
section
/-! DEFINITION. Sys2Proof/Machine/View.lean: what the read-only fields of the register map show, block by block, and
the value that a read of a register returns: its stored bits together with those fields. -/

namespace Sys2Proof.Machine

/-- A word made of values at bit positions. -/
def mkw : List (Nat × Nat) → W
  | [] => 0
  | (lo, v) :: r => (BitVec.ofNat 64 v <<< lo) ||| mkw r

/-! ### Derived quantities that registers show -/

/-- The profile tick of an HT (R17). -/
def tickOf (ns : Nat) : Nat := (ns / 32) % 1000

/-- A delay entry of a lane, and its age in ms (R61). -/
def State.delayEnt (s : State) (l : Nat) : DelayEnt := s.tdc.delays.get l {}
def State.delayAge (s : State) (l : Nat) : Nat :=
  match (s.delayEnt l).commitAt with
  | some t => min 65535 ((s.time.now - t) / msX)
  | none => 65535

/-- The rounded mean of a list of errors, half to even; 0 for none (log entry 8). -/
def meanOf (l : List Int) : Int := if l.isEmpty then 0 else Fl.rneDivInt l.sum l.length

/-- What a port delivers of a domain. -/
def State.portTime (s : State) (d : Dom) (p : Nat) : PortTime := (s.ref.pt.get d).get p {}

/-- The mean of the errors of a port's last 64 heartbeats; where there are none now, the mean when there last were. -/
def PortTime.meanErr (t : PortTime) : Int := if t.errs.isEmpty then t.mean else meanOf t.errs

/-- The mean phase error against a domain over the last 64 heartbeats; a root's own domain has none (R65, R79). -/
def State.domErr (s : State) (d : Dom) : Int :=
  if s.isRoot && d == s.ownDom then 0
  else
    match s.ref.sel.get d with
    | some p => (s.portTime d p).meanErr
    | none => 0

/-- The active domain: a root's is always its own (R79). -/
def State.activeDom (s : State) : Dom := if s.isRoot then s.ownDom else s.ref.active

/-- Does a lane carry time: its port is UP, or in RETRAIN on its other lanes; it does not retrain, and it runs no loopback
and no lane swap (R25, R50, R57). -/
def State.laneCarries (s : State) (l : Nat) : Bool :=
  let p := s.port (lanePort l)
  (p.st == .up || p.st == .retrain) && !p.retrainLanes.contains (l % 4) && s.tdc.lbLane != some l &&
  !(l % 4 == 0 && ((s.tdc.swap.step != 0 && s.tdc.swap.port == lanePort l) || s.tdc.peerSwap.get (lanePort l) 0 != 0))

/-- Is a delay entry that the active servo uses older than 10 s (R29, R61): those of the lanes of the selected input that
carry time; in BRIDGE, those of the lanes of the input that the active domain had on entry (R28). -/
def State.stale (s : State) : Bool :=
  let old (p i : Nat) : Bool := (s.delayEnt (laneOf p i)).state == 2
  if s.isRoot then false
  else
    match s.ref.sel.get s.ref.active with
    | some p => (upto 4).any fun i => s.laneCarries (laneOf p i) && old p i
    | none =>
      s.time.servo == .bridge &&
      match s.ref.lastIn.get s.ref.active with
      | some p => (upto 4).any (old p)
      | none => false

/-- A glitch filter at a time-clock edge at `now`: the filtered level takes another value once the raw level has held it for
`ns` (R388, R405). -/
def FiltSt.next (f : FiltSt) (raw : Bool) (now ns : Nat) : FiltSt :=
  if raw = f.level then { level := f.level, since := none }
  else
    match f.since with
    | none => { level := f.level, since := some now }
    | some t => if t + ns * nsX ≤ now then { level := raw, since := none } else f

/-- What a comparator compares (R388): the selected reference counts as lost while it, once lost, stays lost, and sideband
activity as present for the 1,024 ns of a cell (log entry 91). -/
def State.cmpRaw (s : State) (n : Nat) : Bool :=
  if n < 4 then
    let w := s.reg (Reg.CLK_WAKE_HT + 8 * n)
    w.getLsbD 63 && decide (w.toNat % 2 ^ 63 ≤ s.htNs.toNat)
  else if n = 4 then
    let th := s.pfld Fld.CLK_UV_CFG_THRESH
    decide (s.pwr.vin < th * (if s.isVd then 100 else 5))
  else if n = 5 then decide (s.pwr.tj ≥ (s.fld Fld.CLK_TEMP_CFG_TRIP : Int) * 10)
  else if n = 6 then
    if s.isRoot then s.ref.lostRef.any fun r => (s.ref.refs.get r {}).state == 3
    else s.ref.sel.a.isNone && s.ref.sel.b.isNone
  else if n = 7 then s.clk.sbAt.any fun t => decide (s.time.now < t + 1024 * nsX)
  else false

/-- The filtered level of a comparator. -/
def State.cmpLevel (s : State) (n : Nat) : Bool := (s.clk.cmpFilt.get n {}).level

/-- The comparators' filters at a time-clock edge: CLK_CMP_CFG.FILTER cycles of 10 ns. -/
def State.cmpEdge (s : State) : State :=
  let ns := 10 * s.fld Fld.CLK_CMP_CFG_FILTER
  { s with clk := { s.clk with cmpFilt := (upto 8).foldl (fun t n =>
      let f := t.get n {}
      let g := f.next (s.cmpRaw n) s.time.now ns
      if f = g then t else t.set n g) s.clk.cmpFilt } }

def State.cmpLevels (s : State) : Nat := (upto 8).foldl (fun a n => a + bit (s.cmpLevel n) * 2 ^ n) 0

/-- DISARM as reported: a readiness lost, a missed decision, or a firmware activation under way (R117, R122, R427). -/
def State.disarmNow (s : State) : Bool := s.cad.disarm || s.cad.lost || s.cad.missed || s.fwu.fw == .ready

/-- The own report of a unit (R118); a unit of class U does not report itself armed (R23). -/
def State.ownReport (s : State) : Report :=
  ⟨s.cad.complete, if s.time.cls = 0 then min s.cad.armSpk s.cad.armNo else s.cad.armSpk, s.disarmNow⟩

/-- The physical die port that carries a logical position, and the reverse (R357). -/
def remapAt (m : W) (l : Nat) : Nat := (m.toNat >>> (4 * l)) % 16
def State.physOf (s : State) (l : Nat) : Nat := remapAt s.flt.remap l
def State.logicalOf (s : State) (d : Nat) : Nat := ((upto 16).find? fun l => s.physOf l == d).getD 0

def State.die (s : State) (d : Nat) : DieSt := s.flt.dies.get d {}
def State.peerJ (s : State) (n : Nat) : Judge := s.flt.peers.get n {}

/-- The roles of a die port (R377): 0 none, 1 job, 2 spare, 3 staged. -/
def State.dieRole (s : State) (d : Nat) : Nat :=
  if (s.die d).judge.st == .swapped then 0
  else if (s.die d).staged then 3
  else
    let job := match s.img.committed with
      | some img => (img.dieEnt (s.ident.dno * 16 + s.logicalOf d)).isSome
      | none => false
    if job then 1
    else if Nat.testBit (s.pfld Fld.FLT_SPARE_SPARE) d then 2
    else 0

/-- Two reports combined (R119). -/
def Report.meet (a b : Report) : Report :=
  ⟨if a.complete.toNat ≤ b.complete.toNat then a.complete else b.complete, min a.arm b.arm, a.disarm || b.disarm⟩

/-- Is the staged spare of a doubted die port's position some die port (R358). -/
def State.stagedFor (s : State) (l : Nat) : Option Nat :=
  (upto 16).find? fun d => (s.die d).staged && (s.die d).stageFor == some l

/-- Does a port's report count in the aggregate of R119: not a fenced peer's (R356), and with the spares of R358. -/
def State.repCounts (s : State) (p : Nat) : Bool :=
  if s.isDome && p < 32 then
    let d := p / 2
    let j := s.die d
    if j.staged then
      match j.stageFor with
      | some l => (s.die (s.physOf l)).judge.st == .doubted || (s.die (s.physOf l)).judge.st == .fenced
      | none => false
    else if s.dieRole d == 2 then false
    else if j.judge.st == .fenced || j.judge.st == .swapped then false
    else if j.judge.st == .doubted && (s.stagedFor (s.logicalOf d)).isSome then false
    else true
  else (s.peerJ p).st != .fenced

/-- The aggregate of a domain over the unit and its ports (R119). -/
def State.aggregate (s : State) (d : Dom) : Report :=
  (s.cad.reps.get d).foldl (fun a e => if s.repCounts e.1 then a.meet e.2 else a) s.ownReport

/-- The issuer's values: the larger of its own aggregate and the relay's, and the OR of DISARM (R120). -/
def State.rootAgg (s : State) : Report :=
  let a := s.aggregate s.ownDom
  match s.cad.root.otherRep with
  | some b => ⟨if a.complete.toNat ≥ b.complete.toNat then a.complete else b.complete, max a.arm b.arm,
      a.disarm || b.disarm⟩
  | none => a

/-- Arming is complete when the value has reached the issuer's count plus one and DISARM is clear (R120). -/
def State.armComplete (s : State) : Bool :=
  decide (s.rootAgg.arm ≥ s.cad.root.armCount + 1) && !s.rootAgg.disarm

/-- A unit is armed for its next arming decision (R117, CAD_STATUS.ARMED); a unit in class U is not (R23). -/
def State.armed (s : State) : Bool := s.cad.armSpk == s.cad.armNo + 1 && !s.disarmNow && s.time.cls != 0

/-- The due offset of a logical die position, in ns after the boundary (R351): the end of the last slot that the step
runs in which a FORWARD run names one of its ports as output or source. -/
def State.dueNs (s : State) (l : Nat) : Nat :=
  match s.img.live with
  | none => 0
  | some ps =>
    let n := slotsIn ps.desc.stepNs
    let ts := max 1 ps.desc.tableSlots
    let last (a z : Nat) : Nat :=
      -- one more than the last slot of the step inside the pass slots a .. z
      let full := n / ts
      let rest := n % ts
      if a < rest then full * ts + min (z + 1) rest
      else if full = 0 then 0 else (full - 1) * ts + z + 1
    let ends := (upto ps.outs.length).map fun o =>
      (runStarts (ps.outs.getD o []) 0).foldl (fun m e =>
        if e.2.action = 1 && (o < 32 && o / 2 == l || e.2.source < 32 && e.2.source / 2 == l)
        then max m (last e.1 (e.1 + e.2.len - 1)) else m) 0
    let g := ends.foldl max 0
    g * 256 / 100

/-- The die ports that hold a job position (R349). -/
def State.jobDies (s : State) : List Nat := (upto 16).filter fun d => s.dieRole d == 1

/-- The slack of the phase in force and the threshold (R351). -/
def State.slackNs (s : State) : Nat :=
  s.stepNs - (s.jobDies.map fun d => s.dueNs (s.logicalOf d)).foldl max 0
def State.threshNs (s : State) : Nat := s.slackNs / 5

/-- The number of logical job steps among the last 1,024 that were late (R352). -/
def DieSt.lateCount (d : DieSt) : Nat := popcount 1024 d.lateWin.toNat

/-! ### Interrupt sources (R404) -/

def State.core (s : State) (c : Nat) : CoreSt := s.evq.cores.get c {}
/-- Is a core of a VD's lantern held in reset: its work rests as R402 says (log entry 114). -/
def State.coreHeld (s : State) (c : Nat) : Bool := s.isVd && (s.core c).inReset
def State.coreQ (s : State) (c : Nat) : QSt := s.evq.coreQ.get c {}
def State.hostQ (s : State) (q : Nat) : QSt := s.evq.hostQ.get q {}

/-- The raw level of a private source of a core. -/
def State.privRaw (s : State) (c i : Nat) : Bool :=
  if i = 0 then (s.coreQ c).head != (s.coreQ c).tail
  else if i = 1 then (s.core c).half
  else if i = 2 then
    let w := s.reg (Reg.EVQ_CORE_TIMER + 8 * c)
    w.getLsbD 63 && decide (w.toNat % 2 ^ 63 ≤ s.htNs.toNat)
  else if i < 32 then (s.reg (Reg.EVQ_SWI + 8 * c)).getLsbD i
  else false

/-- The I²C status bits [1] to [4]: hardware shutdown, comparators 4 and 5, supply fault; any of them drives I2C_ALERT_N
low (R485). -/
def State.i2cFaults (s : State) : Nat :=
  2 * bit s.pwr.hwShutdown + 4 * bit (s.cmpLevel 4) + 8 * bit (s.cmpLevel 5) + 16 * bit s.pwr.supplyBad
def State.i2cAlert (s : State) : Bool := s.i2cFaults != 0

/-- The raw level of a shared source. -/
def State.sharedRaw (s : State) (i : Nat) : Bool :=
  if i = 32 then !s.tdc.fifo.isEmpty
  else if i = 33 then decide (s.tdc.fifo.length ≥ 3072)
  else if i = 34 then s.evq.mailNew
  else if i = 35 then s.evq.ethRx
  else if i = 36 then s.evq.ethTx
  else if i = 37 then s.i2cAlert
  else if 38 ≤ i && i ≤ 45 then s.cmpLevel (i - 38)
  else if i = 46 then s.flag Fld.EVQ_STATUS_HQ_OVERFLOW
  else if i = 47 then !s.evq.held.isEmpty
  else false

/-- The filters are kept under 32·core + source for a private source and under 128 + source for a shared one. -/
def State.rawLevel (s : State) (key : Nat) : Bool :=
  if key < 128 then s.privRaw (key / 32) (key % 32) else s.sharedRaw (key - 128)
def State.filterNs (s : State) (key : Nat) : Nat :=
  10 * ((s.reg (if key < 128 then Reg.EVQ_PRIV_CFG + 8 * key else Reg.EVQ_SRC_CFG + 8 * (key - 160))).toNat % 256)

/-- The filter of a source at a time-clock edge: FILTER cycles of 10 ns (R405). -/
def State.filterStep (s : State) (key : Nat) : FiltSt :=
  (s.evq.filt.get key {}).next (s.rawLevel key) s.time.now (s.filterNs key)

/-- The sources that are not reserved. -/
def srcKeys : List Nat := upto 128 ++ (upto 16).map (· + 160)

/-- Every filter at a time-clock edge. -/
def State.filterEdge (s : State) : State :=
  if s.isVd then
    { s with evq := { s.evq with filt := srcKeys.foldl (fun t key =>
        if t.get key {} = s.filterStep key then t else t.set key (s.filterStep key)) s.evq.filt } }
  else s

/-- The filtered levels. -/
def State.privLevel (s : State) (c i : Nat) : Bool := (s.evq.filt.get (32 * c + i) {}).level
def State.sharedLevel (s : State) (i : Nat) : Bool := (s.evq.filt.get (128 + i) {}).level

/-- A source is pending while its filtered level and its EN bit are 1 (R405). -/
def State.privPend (s : State) (c i : Nat) : Bool :=
  s.privLevel c i && (s.reg (Reg.EVQ_PRIV_CFG + 256 * c + 8 * i)).getLsbD 8
def State.sharedPend (s : State) (i : Nat) : Bool :=
  s.sharedLevel i && (s.reg (Reg.EVQ_SRC_CFG + 8 * (i - 32))).getLsbD 8
def State.sharedTarget (s : State) (i : Nat) : Nat :=
  ((s.reg (Reg.EVQ_SRC_CFG + 8 * (i - 32))).toNat >>> 9) % 4

/-- Has a core a pending source of its own (R406). -/
def State.corePending (s : State) (c : Nat) : Bool :=
  ((upto 32).any fun i => s.privPend c i) ||
  (upto 64).any fun i => s.sharedPend (32 + i) && s.sharedTarget (32 + i) == c

/-! ### Event records (R407) -/

/-- The four words of a record. -/
def EvtRec.word (r : EvtRec) (k : Nat) : W :=
  match k with
  | 0 => BitVec.ofNat 64 (r.code + bit r.lost * 2 ^ 16 + r.seq * 2 ^ 32)
  | 1 => r.ns
  | 2 => r.arg0
  | 3 => r.arg1
  | _ => 0

/-- The 32 bytes of a record. -/
def EvtRec.bytes (r : EvtRec) : List Byte :=
  leBytes 8 (r.word 0).toNat ++ leBytes 8 (r.word 1).toNat ++ leBytes 8 (r.word 2).toNat ++ leBytes 8 (r.word 3).toNat

/-! ### Blocks -/

def viewId (s : State) (o : Nat) : W :=
  if o = 0 then
    match s.ident.kind with
    | .vd => mkw [(0, 0x4B56), (16, 0x0302), (32, 0xA1)]
    | .vsu => mkw [(0, 0x4B56), (16, 0x0301), (32, 0x10), (40, s.ident.idGrade), (48, 3)]
    | .u2 => mkw [(0, 0x4B56), (16, 0x0201), (40, s.ident.idGrade), (48, 2)]
    | .u1 => mkw [(0, 0x4B56), (16, 0x0101), (40, s.ident.idGrade), (48, 1)]
  else if o = 8 then (if s.isVd then 0 else BitVec.ofNat 64 (s.ident.idHost % 2 ^ 32))
  else 0

/-- The read-only bits of HT_STATUS (R35). -/
def htStatusRo (s : State) : W :=
  mkw [(0, s.time.servo.code), (4, s.time.cls), (6, bit (s.activeDom == .B)), (7, bit (s.time.depthUse != 0)),
    (8, bit s.stale)]

/-- A phase error as a register shows it: 32 bits, saturating at ±32 µs (R35, R96). -/
def satErr (e : Int) : Int := max (-(32000 * 65536)) (min (32000 * 65536) e)

def errBits (e : Int) : Nat := satBits 32 (satErr e)

def viewHt (s : State) (path : Path) (o : Nat) : W :=
  if o = 0 then s.htNs
  else if o = 8 then (s.time.latch.get path).setWidth 64
  else if o = 0x10 then htStatusRo s
  else if o = 0x20 then BitVec.ofNat 64 (satBits 32 s.time.y)
  else if o = 0x28 then BitVec.ofNat 64 (errBits s.time.phaseErr)
  else if o = 0x40 then mkw [(9, bit s.time.loadAt.isSome)]
  else if o = 0x48 then s.time.utcNs
  else if o = 0x50 then s.time.utcFrac.setWidth 64
  else if o = 0x58 then (if s.isDome then BitVec.allOnes 64 else s.preg Reg.HT_PORT_FIXED)
  else if o = 0x60 then mkw [(0, tickOf s.htNs.toNat), (16, s.time.depthUse), (20, bit s.time.depthWait)]
  else 0

def anchorAt (s : State) (k : Nat) : Anchor := s.tdc.anchors.getD k { cnt := 0, ns := 0, frac := 0 }

/-- NS and FRAC of anchor slot `k` as a path sees them: as latched by its last read of CNT of that slot (R63); before the
first, the slot's own (log entry 135). -/
def anchorSeen (s : State) (path : Path) (k : Nat) : W × BitVec 16 :=
  (s.tdc.anchorLatch.get path).get k ((anchorAt s k).ns, (anchorAt s k).frac)

def viewTdc (s : State) (path : Path) (o : Nat) : W :=
  if o = 8 then mkw [(0, bit s.tdc.ringLock)]
  else if o = 0x18 then mkw [(0, bit s.tdc.cdRun.isSome), (2, bit s.tdc.lbLane.isSome)]
  else if o = 0x20 then
    (match s.tdc.fifo with
     | [] => 0
     | r :: _ => r)
  else if o = 0x28 then mkw [(0, s.tdc.fifo.length)]
  else if o = 0x38 then mkw [(0, s.tdc.swap.step)]
  else if 0x200 ≤ o && o < 0x220 then BitVec.ofNat 64 ((anchorAt s ((o - 0x200) / 8)).cnt % 2 ^ 40)
  else if 0x220 ≤ o && o < 0x240 then (anchorSeen s path ((o - 0x220) / 8)).1
  else if 0x240 ≤ o && o < 0x260 then (anchorSeen s path ((o - 0x240) / 8)).2.setWidth 64
  else if 0x1000 ≤ o && o < 0x1800 then BitVec.ofNat 64 (s.tdc.hist.get ((o - 0x1000) / 8) 0)
  else if 0x2000 ≤ o && o < 0x2800 then
    let l := (o - 0x2000) / 8
    let e := s.delayEnt l
    mkw [(0, satBits 32 e.delay), (32, s.delayAge l), (48, e.state), (50, e.batch)]
  else if 0x3000 ≤ o && o < 0x3800 then s.preg (Reg.TDC_LANE_TRIM + (o - 0x3000)) &&& 0xFFFF
  else if 0x4000 ≤ o && o < 0x4200 then s.preg (Reg.TDC_PORT_TRIM + (o - 0x4000)) &&& 0x1FFFFFFFF
  else if 0x4200 ≤ o && o < 0x4400 then mkw [(32, bit (s.tdc.asymSet.get ((o - 0x4200) / 8) false))]
  else 0

def refDomainView (s : State) (d : Dom) : W :=
  match s.ref.sel.get d with
  | some p =>
    let t := s.portTime d p
    mkw [(0, p), (6, 1), (8, t.ql), (12, min t.hop 7), (15, bit t.leader), (32, errBits (s.domErr d))]
  | none => mkw [(8, 15), (32, errBits (s.domErr d))]

/-- Minutes of continuous lock to a source (R88). -/
def State.lockMinutes (s : State) : Nat :=
  match s.ref.lockAt with
  | some t => (s.time.now - t) / (60000 * msX)
  | none => 0

/-- The other domain at a root spire, the leader's when the root follows (R84). -/
def State.otherDom (s : State) : Dom := s.ownDom.other

/-- Does a root follow: it is out of ACQUIRE, where its own errors count (R79), its LEADER flag is clear, and it has a
selected input for the other domain (R84). -/
def State.following (s : State) : Bool :=
  s.isRoot && (s.time.servo == .locked || s.time.servo == .holdover) && !s.ref.leader &&
  (s.ref.sel.get s.otherDom).isSome

/-- Is an external reference input enabled (R80): USE, and its TDC channel's EN. -/
def State.refUse (s : State) (n : Nat) : Bool :=
  s.isRoot && (s.preg (Reg.REF_IN_CFG + 8 * n)).getLsbD 0 && (s.reg (Reg.TDC_REF_CFG + 8 * n)).getLsbD 9

/-- The read-only bits of REF_STATUS (R96). -/
def refStatusRo (s : State) : W :=
  mkw [(0, bit (s.activeDom == .B)), (1, bit s.ref.sel.a.isSome), (2, bit s.ref.sel.b.isSome),
    (3, bit (s.isRoot && s.ref.split)), (4, bit (s.isRoot && s.ref.leader))]

def refIn (s : State) (n : Nat) : RefIn := s.ref.refs.get n {}

def viewRef (s : State) (o : Nat) : W :=
  if o = 8 then refStatusRo s
  else if o = 0x10 then
    let fin := s.fld Fld.REF_BW_FINAL
    let rfin := s.fld Fld.REF_BW_ROOT_FINAL
    let on := s.time.servo != .freerun && s.time.servo != .coarse
    if s.isVd then
      mkw [(8, s.ref.bwCur), (12, s.ref.bwRoot),
        (15, bit (on && (decide (s.ref.bwCur > fin) || s.isRoot && decide (s.ref.bwRoot > rfin))))]
    else mkw [(8, s.ref.bwCur), (15, bit (on && decide (s.ref.bwCur > fin)))]
  else if o = 0x18 then refDomainView s .A
  else if o = 0x20 then refDomainView s .B
  else if o = 0x28 then mkw [(0, satBits 32 (satErr (s.domErr .B) - satErr (s.domErr .A))), (32, satBits 32 s.ref.bias)]
  else if o = 0x30 then
    mkw [(0, satBits 32 s.ref.holdFreq), (32, min s.lockMinutes 65535), (48, bit s.ref.qualified)]
  else if o = 0x38 then s.preg Reg.REF_ROOT_CFG &&& 0xFF3
  else if o = 0x58 then mkw [(16, if s.flag Fld.REF_PTP_CFG_EN && s.isRoot then max 1 s.ref.ptp.state else 0)]
  else if o = 0x60 then mkw [(8, bit s.ref.realign.isSome)]
  else if 0x100 ≤ o && o < 0x120 then s.preg (Reg.REF_IN_CFG + (o - 0x100)) &&& 0xFF7
  else if 0x120 ≤ o && o < 0x140 then s.preg (Reg.REF_IN_DELAY + (o - 0x120)) &&& 0xFFFFFFFF
  else if 0x140 ≤ o && o < 0x160 then
    let n := (o - 0x140) / 8
    let r := refIn s n
    mkw [(0, if s.refUse n then r.state else 0), (2, bit (s.ref.selRef == some n && !s.following)), (3, min r.run 16), (32, satBits 32 r.err)]
  else 0

/-- The read-only bits of CAD_STATUS (R132). -/
def cadStatusRo (s : State) : W :=
  mkw [(0, s.cad.st.code), (2, s.cad.heldReason), (5, bit s.armed), (6, bit s.disarmNow), (7, bit s.cad.freewheel),
    (8, s.cad.k), (32, s.cad.armNo % 2 ^ 32)]

/-- The read-only bits of CAD_ROOT_STATUS. -/
def cadRootStatusRo (s : State) : W :=
  let r := s.cad.root
  mkw [(0, s.rootAgg.arm % 2 ^ 32), (32, bit s.armComplete), (33, bit s.rootAgg.disarm),
    (34, bit (r.cmd.isSome || r.holdCmd || r.stopCmd || r.endCmd))]

def viewCad (s : State) (o : Nat) : W :=
  if o = 0 then s.cad.sc
  else if o = 8 then s.cad.wsc
  else if o = 0x10 then cadStatusRo s
  else if o = 0x18 then
    (match s.desc with
     | some d => mkw [(0, d.stepNs), (32, s.cad.phase), (40, d.holdDist)]
     | none => mkw [(32, s.cad.phase)])
  else if o = 0x20 then s.cad.anchorNs
  else if o = 0x28 then s.cad.anchorSc
  else if o = 0x30 then s.cad.baseWsc
  else if o = 0x38 then (if s.cad.st == .idle then 0 else s.boundaryNs (s.cad.sc + 1))
  else if o = 0x40 then s.cad.grant
  else if o = 0x48 then s.cad.fwCount
  else if o = 0x50 then
    (match s.cad.lastDec with
     | some d => mkw [(0, d.seq), (16, d.epoch), (24, match d.kind with
         | .start => 0 | .phase => 1 | .hold => 2 | .resume => 3 | .ratio => 4 | .stop => 5),
         (32, min s.cad.latency 65535)]
     | none => 0)
  else if o = 0x58 then s.cad.complete
  else if o = 0x100 then
    (if s.isRoot then s.preg Reg.CAD_ROOT_CFG &&& 1 ||| mkw [(1, bit s.cad.root.issuer), (8, s.cad.epoch)] else 0)
  else if o = 0x128 then cadRootStatusRo s
  else if o = 0x130 then s.rootAgg.complete
  else 0

def State.ctx (s : State) (c : Nat) : Ctx := s.spk.ctxs.get c {}
def State.meta (s : State) (p : Nat) : SpkMeta :=
  s.spk.info.get p (if s.isFore then { st := .live } else {})
def State.spkVal (s : State) (p : Nat) : W := s.spk.vals.get p 0

def viewSpk (s : State) (o : Nat) : W :=
  let c := s.fld Fld.SPK_CTX_SEL_CTX
  let x := s.ctx c
  let p := s.fld Fld.SPK_PHYS_SEL_PHYS
  if o = 0 then mkw [(0, s.nSpk), (32, s.nCtx)]
  else if o = 0x18 then
    mkw [(0, x.st.code), (2, bit x.xlatPend),
      (16, min 4096 (s.spk.info.filter fun e => e.2.owner == c && (e.2.st == .live || e.2.st == .saved)).length),
      (32, min 256 (s.spk.waits.filter fun w => w.ctx == c).length),
      (41, min 256 (s.spk.notifs.filter fun w => w.ctx == c).length)]
  else if o = 0x20 then x.xlatShadow
  else if o = 0x28 then x.xlatActive
  else if o = 0x30 then x.saveBase
  else if o = 0x38 then mkw [(0, x.notifyKind), (8, x.notifyQ)]
  else if o = 0x50 then
    let m := s.meta p
    mkw [(0, m.st.code), (8, m.owner), (16, m.shares), (32, (s.spk.waits.filter fun w => w.phys == p).length)]
  else if o = 0x60 then mkw [(0, bit (s.spk.job.isSome || s.spk.ctxs.any fun e => e.2.xlatPend))]
  else if o = 0x68 then mkw [(0, s.spk.waits.length), (16, s.spk.notifs.length)]
  else if 0x80000 ≤ o && o < 0x100000 then s.spkVal ((o - 0x80000) / 8)
  else if 0x100000 ≤ o && o < 0x200000 then
    let y := s.ctx ((o - 0x100000) / 4096)
    if o % 4096 = 0x30 then y.readValue
    else if o % 4096 = 0x38 then mkw [(0, y.lastStatus), (8, y.lastKind)]
    else 0
  else 0

/-- The read-only bits of IMG_STATUS (R202). -/
def imgStatusRo (s : State) : W :=
  mkw [(0, s.img.shState.code), (3, bit s.img.lock), (4, s.img.nxState.code), (6, s.img.nxPhase),
    (10, bit s.img.nxSrc), (11, bit s.img.live.isSome),
    (12, match s.img.live with
      | some l => l.phase
      | none => 0)]

/-- IMG_CHECK, the log of IMG_ events (R202, R408). -/
def imgCheckView (s : State) : W :=
  mkw [(0, s.img.check.code), (8, s.img.check.phase), (16, s.img.check.item), (32, s.img.check.off)]

def setRuns : Option PhaseSet → Nat
  | some p => p.nrun
  | none => 0

/-- The byte ranges of the shadow's image that a unit needs (R190, R192): the header, the common part, its sections, and
the signature block of a signed image at a VD. -/
def State.neededRanges (s : State) (img : Img) : List (Nat × Nat) :=
  let own := (match s.ownEnt img with
    | some e => [(e.secOff, e.secLen)]
    | none => [])
  let dies := if s.isDome then
      (upto 16).filterMap fun l => (img.dieEnt (s.ident.dno * 16 + l)).map fun e => (e.secOff, e.secLen)
    else []
  let sig := if s.isVd && img.isSigned then [(img.sigOff, 256)] else []
  (0, img.dirEnd) :: own ++ dies ++ sig

/-- Has the directory arrived, so that the needs are known (IMG_PROGRESS). -/
def Img.dirHere (img : Img) : Bool := img.holds 0 256 && img.holds 0 img.dirEnd

def tilesOf (r : Nat × Nat) : List Nat :=
  if r.2 = 0 then [] else (upto ((r.1 + r.2 - 1) / tileBytes - r.1 / tileBytes + 1)).map (· + r.1 / tileBytes)

def State.neededTiles (s : State) (img : Img) : List Nat :=
  if img.dirHere then ((s.neededRanges img).flatMap tilesOf).eraseDups else []

def viewImg (s : State) (o : Nat) : W :=
  if o = 8 then imgStatusRo s
  else if o = 0x28 then
    (match s.img.committed with
     | some i => mkw [(0, i.id), (32, bit i.signed)]
     | none => 0)
  else if o = 0x30 then
    (match s.img.shadow with
     | some i => mkw [(0, i.id), (32, bit i.signed)]
     | none => 0)
  else if o = 0x38 then
    (match s.img.shadow with
     | some i => mkw [(0, i.tiles.length), (32, (s.neededTiles i).length)]
     | none => 0)
  else if o = 0x40 then imgCheckView s
  else if o = 0x48 then mkw [(0, setRuns s.img.live), (32, setRuns s.img.next)]
  else if o = 0x50 then s.preg Reg.IMG_POLICY &&& 1
  else if 0x58 ≤ o && o < 0x88 then s.preg (Reg.IMG_KEYHASH + (o - 0x58))
  else 0

def viewXf (s : State) (o : Nat) : W :=
  if o = 8 then mkw [(0, bit s.fab.routeP)]
  else if 0x1200 ≤ o && o < 0x1400 then
    let p := s.port ((o - 0x1200) / 8)
    mkw [(0, p.st.code), (3, p.level), (5, p.rate), (7, p.locked), (16, p.peerId % 2 ^ 14), (30, p.peerKind % 4),
      (32, min p.retrains 65535)]
  else if 0x1600 ≤ o && o < 0x1800 then
    let p := s.port ((o - 0x1600) / 8)
    mkw [(0, p.credits.getD 0 0), (9, p.credits.getD 1 0), (18, p.credits.getD 2 0), (27, p.credits.getD 3 0), (36, p.sat)]
  else if 0x2000 ≤ o && o < 0x2800 then
    let l := (o - 0x2000) / 8
    let p := s.port (l / 4)
    mkw [(0, bit (Nat.testBit p.locked (l % 4))), (1, bit (l % 4 == 0 && p.lane0Swap)),
      (2, bit (p.st == .retrain && Nat.testBit p.locked (l % 4) || l % 4 == 0 && p.lane0Swap))]
  else if 0xC000 ≤ o && o < 0x14000 then s.fab.dnoAct.get ((o - 0xC000) / 8) 0
  else if 0x14100 ≤ o && o < 0x14200 then s.fab.podAct.get ((o - 0x14100) / 8) 0
  else 0

def viewMem (s : State) (o : Nat) : W :=
  if o = 8 then mkw [(0, s.fab.side.length)] else 0

/-- The cells of a running combiner instruction. -/
def State.cellRun (s : State) (c : Nat) : Option CellRun :=
  match s.img.live with
  | none => none
  | some ps =>
    s.cmb.runs.find? fun r =>
      match ps.cmbs[r.instr]? with
      | some i => !r.done && decide (i.cell0 ≤ c) && decide (c < i.cell0 + i.ncell)
      | none => false

/-- The first and the last flit of each result tile of a list; `a` is where the tile in hand begins, and `i` the index. -/
def tileSpans (a i : Nat) : List ResFlit → List (Nat × Nat)
  | [] => []
  | x :: r =>
    let b := if x.first then i else a
    if x.fidx = 15 then (b, i) :: tileSpans b (i + 1) r else tileSpans b (i + 1) r

/-- Result tiles of a source formed and not yet sent (CMB_CELL_STATE.PENDING): a flit of one has no slot yet, or waits for a
RETRY slot. -/
def State.pendTiles (s : State) (c : Nat) : Nat :=
  let src := 64 + c
  ((tileSpans 0 0 (s.cmb.results.get src [])).filter fun e =>
    decide (s.cmb.taken.get src 0 ≤ e.2) ||
      s.fab.owed.any fun o => o.src == src && decide (e.1 ≤ o.idx) && decide (o.idx ≤ e.2)).length

def viewCmb (s : State) (o : Nat) : W :=
  if o = 0 then
    mkw [(0, (upto 16).foldl (fun a c => a + bit (s.cellRun c).isSome * 2 ^ c) 0),
      (22, bit (s.isVd && s.cmb.randReady))]
  else if o = 0x40 then s.cmb.randOut.setWidth 64
  else if o = 0x48 then s.cmb.randOut.extractLsb' 64 64
  else if 0x100 ≤ o && o < 0x180 then
    let c := (o - 0x100) / 8
    (match s.cellRun c with
     | some r => mkw [(0, r.instr), (16, 1), (17, bit r.spill),
         (32, min 65535 (s.pendTiles c))]
     | none => mkw [(32, min 65535 (s.pendTiles c))])
  else 0

/-- The logical row that a physical row of the tile array carries under a fold map (R317). -/
def logicalRow (retired : List Nat) (q : Nat) : Option Nat :=
  if retired.contains q then none
  else
    let l := q - (retired.filter fun r => r < q).length
    if l < 128 then some l else none

def foldWord (retired : List Nat) : W :=
  match retired with
  | [] => 0
  | [a] => mkw [(0, a), (8, 1)]
  | a :: b :: _ => mkw [(0, a), (8, 1), (16, b), (24, 1)]

/-- The retired rows that a TIL_FOLD word names. -/
def foldOf (v : W) : List Nat :=
  if v.getLsbD 8 then
    (if v.getLsbD 24 then [v.toNat % 256, (v.toNat >>> 16) % 256] else [v.toNat % 256])
  else []

/-- The cycle of a region at a frequency code, in 2^-48 ns (R384). -/
def regionCycle (code : Nat) : Nat :=
  if code = 1 then 5 * 2 ^ 45 else if code = 2 then 5 * 2 ^ 48 / 6 else if code = 3 then 5 * 2 ^ 46 else 2 ^ 47

/-- What the tile array runs now. -/
def State.tilBusy (s : State) : Option TilRun :=
  match s.til.run with
  | some r => if s.time.now < r.startAt + r.span then some r else none
  | none => none

def viewTil (s : State) (o : Nat) : W :=
  if o = 8 then
    mkw [(0, bit s.tilBusy.isSome), (1, s.til.retired.length), (3, bit s.til.noSpare), (4, bit s.til.foldP)]
  else if o = 0x18 then s.preg Reg.TIL_FOLD &&& 0x1FF01FF
  else if o = 0x20 then foldWord s.til.retired
  else if o = 0x30 then
    (match s.tilBusy with
     | some r => mkw [(0, r.instr), (16, 1), (17, bit r.vector),
         (32, min (r.passes - 1) ((s.time.now - r.startAt - r.lead) / max 1 r.every)),
         (48, r.passes)]
     | none => 0)
  else if 0x100 ≤ o && o < 0x510 then
    let q := (o - 0x100) / 8
    (match logicalRow s.til.retired q with
     | some l => mkw [(0, q), (8, l), (15, 1)]
     | none => mkw [(0, q), (16, bit (s.til.retired.contains q))])
  else 0

def State.rowMeta (s : State) (r : Nat) : RowMeta := s.stg.info.get r {}

/-- Does a row lie inside the KEEP ranges of the set last committed (R324). -/
def State.kept (s : State) (r : Nat) : Bool :=
  s.stg.keeps.any fun k => decide (k.row ≤ r) && decide (r < k.row + k.count)

def viewStg (s : State) (o : Nat) : W :=
  if o = 8 then mkw [(0, bit s.stg.faultStep)]
  else if o = 0x20 then
    let r := s.fld Fld.STG_ROW_SEL_ROW
    let m := s.rowMeta r
    mkw [(0, m.stamp), (16, bit m.valid), (17, bit m.cur), (18, bit m.drain), (19, bit (s.kept r)), (20, bit m.side),
      (23, r % 96), (32, r / 96)]
  else 0


def viewFlt (s : State) (o : Nat) : W :=
  if o = 0x18 then s.preg Reg.FLT_SPARE &&& 0xFFFF
  else if o = 0x28 then s.flt.remap
  else if o = 0x30 then mkw [(0, s.slackNs), (32, s.threshNs)]
  else if o = 0x38 then
    mkw [(0, s.flt.lastPort), (4, s.flt.lastLog), (8, bit s.flt.lastBad), (16, s.flt.lastWsc.toNat % 65536),
      (32, satBits 32 s.flt.lastLate)]
  else if o = 0x48 then (if s.cad.root.issuer then mkw [(32, s.flt.vTx)] else 0)
  else if o = 0x50 then
    (match s.flt.vRx with
     | some v => mkw [(0, v.vseq), (16, v.dno), (28, v.state)]
     | none => 0)
  else if 0x100 ≤ o && o < 0x180 then
    let n := (o - 0x100) / 8
    let d := s.die n
    mkw [(0, d.score), (25, d.judge.st.code), (28, bit d.mark), (29, d.lateCount), (40, s.logicalOf n),
      (44, s.dieRole n), (46, min 2 d.judge.negRun), (48, min 2 d.judge.posRun), (50, d.judge.lastV), (53, d.grace)]
  else if 0x180 ≤ o && o < 0x200 then
    let n := (o - 0x180) / 8
    mkw [(0, s.dueNs (s.logicalOf n)), (32, satBits 32 (s.die n).lastLate)]
  else if 0x200 ≤ o && o < 0x400 then
    let n := (o - 0x200) / 8
    if s.isDome && n < 32 then 0
    else
      let j := s.peerJ n
      let age := (match (s.port n).hbAt with
        | some t => min 65535 ((s.time.now - t) / usX)
        | none => 65535)
      mkw [(0, j.st.code), (3, min 2 j.negRun), (5, min 2 j.posRun), (7, j.lastV), (32, age)]
  else 0

/-- The phase whose costs the ledger keeps now (R392). -/
def State.costNow (s : State) : CostSt := s.nrg.costs.get s.cad.phase {}

def viewNrg (s : State) (o : Nat) : W :=
  if o = 8 then mkw [(0, bit (decide (s.costNow.nMeas ≥ 4096)))]
  else if o = 0x10 then BitVec.ofNat 64 (s.nrg.sumNj / 1000)
  else if o = 0x18 then BitVec.ofNat 64 s.nrg.lastUj
  else if o = 0x20 then mkw [(0, s.nrg.kE), (8, s.nrg.kT), (16, s.nrg.kOwn), (24, s.nrg.kSent)]
  else if o = 0x28 then mkw [(0, s.nrg.ew % 2 ^ 32), (32, s.nrg.ef % 2 ^ 32)]
  else if o = 0x30 then mkw [(24, (satBits 8 (s.pwr.tc / 10))), (32, min 4095 s.costNow.nMeas)]
  else if o = 0x38 then
    (if s.cad.root.issuer then
      mkw [(0, s.nrg.hallK), (8, bit s.cad.root.ratioDue.isSome), (32, s.nrg.hallPer % 2 ^ 32)] else 0)
  else 0

def viewClk (s : State) (o : Nat) : W :=
  if o = 0 then
    mkw [(0, bit s.clk.aligned), (1, bit (s.clk.pendCmb.isSome || s.clk.pendTil.isSome)), (2, bit s.clk.standby)]
  else if o = 8 then mkw [(8, s.clk.cmbCur), (12, s.clk.tilCur)]
  else if o = 0x20 then mkw [(8, s.cmpLevels)]
  else if o = 0x28 then (if s.isVd then s.preg Reg.CLK_UV_CFG &&& 0x3FF else 0)
  else if o = 0x30 then mkw [(16, satBits 8 (s.pwr.tj / 10))]
  else 0

def viewEvq (s : State) (o : Nat) : W :=
  if o = 0x10 then mkw ((upto 64).map fun i => (i, bit (s.sharedPend (32 + i))))
  else if 0x20 ≤ o && o < 0x40 then
    let c := (o - 0x20) / 8
    mkw ((33, bit (s.core c).asleep) :: (34, bit (s.core c).inReset) ::
      (upto 32).map fun i => (i, bit (s.privPend c i)))
  else if 0x40 ≤ o && o < 0x60 then mkw [(16, min 65535 (s.core ((o - 0x40) / 8)).expiries)]
  else if 0x60 ≤ o && o < 0x80 then
    let q := s.coreQ ((o - 0x60) / 8)
    mkw [(0, q.head.toNat), (32, q.tail.toNat)]
  else if 0x100 ≤ o && o < 0x300 then mkw [(11, bit (s.sharedLevel (32 + (o - 0x100) / 8)))]
  else if 0x400 ≤ o && o < 0x800 then mkw [(11, bit (s.privLevel ((o - 0x400) / 256) ((o - 0x400) / 8 % 32)))]
  else if 0x1000 ≤ o && o < 0x1800 && o % 32 = 24 then
    let q := s.hostQ ((o - 0x1000) / 32)
    mkw [(0, q.head.toNat), (32, q.tail.toNat)]
  else 0

def State.wear (s : State) (w : Nat) : Nat := s.nvs.wear.get w 0
/-- A word that has reached 10,000,000 writes refuses every write (R419). -/
def State.worn (s : State) (w : Nat) : Bool := decide (s.wear w ≥ 10000000)

def viewNvs (s : State) (o : Nat) : W :=
  let w := s.fld Fld.NVS_ADDR_WORD
  if o = 8 then s.nvsWord w
  else if o = 0x10 then BitVec.ofNat 64 (s.wear w)
  else if o = 0x18 then mkw [(0, min 16 s.nvs.queue.length), (5, bit (!s.nvs.queue.isEmpty))]
  else 0

/-- The boot word: active slot, TRIAL, and the count of trial expiries (R424). -/
def State.bootActive (s : State) : Nat := (s.rwpWord 17).toNat % 2
def State.bootTrial (s : State) : Bool := (s.rwpWord 17).getLsbD 1
def State.bootCount (s : State) : Nat := ((s.rwpWord 17).toNat >>> 2) % 4

def slotView (x : Slot) : W := mkw [(0, x.version % 2 ^ 32), (32, x.st.code)]

def viewFwu (s : State) (o : Nat) : W :=
  if o = 8 then
    mkw [(0, s.bootActive), (2, bit s.bootTrial), (3, bit s.pwr.recovery), (4, s.fwu.fw.code), (8, s.fwu.failCode)]
  else if o = 0x28 then (if s.isVd then slotView s.fwu.slotA else mkw [(0, s.fwu.slotA.version % 2 ^ 32)])
  else if o = 0x30 then (if s.isVd then slotView s.fwu.slotB else 0)
  else if o = 0x38 then BitVec.ofNat 64 (s.fwu.manifest % 2 ^ 32)
  else if o = 0x40 then s.fwu.actNs
  else 0

/-- The word of port isolation bits (R378). -/
def State.isolateMask (s : State) : W :=
  mkw ((upto s.nPorts).map fun p => (p, (s.reg (Reg.XF_PORT_CFG + 8 * p)).toNat % 2))

/-- The read-only bits of BEL_SUMMARY. -/
def belSummaryRo (s : State) : W :=
  mkw [(0, s.time.servo.code), (3, s.time.cls), (5, s.cad.st.code), (7, bit s.armed), (8, bit s.img.live.isSome),
    (9, bit ((upto s.nPorts).any fun p => (s.port p).st == .isolated)),
    (10, bit (s.isVd && ((s.flt.dies.any fun e => e.2.judge.st == .doubted) || s.flt.peers.any fun e => e.2.st == .doubted))),
    (11, bit (s.isVd && s.flag Fld.EVQ_STATUS_WDG_EXPIRED)), (12, bit (s.cmpLevel 4)), (13, bit (s.cmpLevel 5)),
    (14, bit (s.cmpLevel 6)), (32, s.evq.seq.toNat)]

/-- A record of the belfry tail, 0 the newest (R374). -/
def State.tailWord (s : State) (age k : Nat) : W :=
  match s.evq.tail64[age]? with
  | some r => r.word k
  | none => 0

def viewBel (s : State) (path : Path) (o : Nat) : W :=
  if o = 0 then s.htNs
  else if o = 8 then (s.time.latch.get path).setWidth 64
  else if o = 0x10 then htStatusRo s ||| s.reg Reg.HT_STATUS
  else if o = 0x18 then s.cad.sc
  else if o = 0x20 then s.cad.wsc
  else if o = 0x28 then belSummaryRo s
  else if o = 0x30 then s.reg Reg.CAD_HOLD_AT
  else if o = 0x40 then s.isolateMask
  else if o = 0x48 then mkw [(8, s.evq.tail64.length)]
  else if 0x50 ≤ o && o < 0x70 then s.tailWord (s.fld Fld.BEL_EVT_SEL_AGE) ((o - 0x50) / 8)
  else if o = 0x78 then (if s.isVd then s.nvsWord (s.fld Fld.BEL_NVS_ADDR_WORD) else 0)
  else if o = 0x80 then mkw [(17, bit s.sb.relayAt.isSome)]
  else if o = 0x90 then s.sb.result
  else if o = 0x98 then
    let w := s.fld Fld.BEL_NVS_ADDR_WORD
    mkw [(0, s.wear w), (24, bit (s.worn w))]
  else 0

/-- The read-only fields of the register at a BAR0 address, as seen through a path. -/
def roView (s : State) (path : Path) (a : Nat) : W :=
  let o := a % 0x200000
  match a / 0x200000 with
  | 0 => viewId s o
  | 1 => viewHt s path o
  | 2 => viewTdc s path o
  | 3 => viewRef s o
  | 4 => viewCad s o
  | 5 => viewSpk s o
  | 6 => viewImg s o
  | 7 => viewXf s o
  | 8 => viewMem s o
  | 9 => viewCmb s o
  | 10 => viewTil s o
  | 11 => viewStg s o
  | 12 => viewFlt s o
  | 13 => viewNrg s o
  | 14 => viewClk s o
  | 15 => viewEvq s o
  | 16 => viewNvs s o
  | 17 => viewFwu s o
  | 18 => viewBel s path o
  | _ => 0

/-- What a register holds as read, side effects of the read apart: stored bits and read-only fields. FLT_VERDICT_TX is the
issuer's alone (R377). -/
def State.readReg (s : State) (path : Path) (a : Nat) : W :=
  if a = Reg.FLT_VERDICT_TX && !s.cad.root.issuer then 0 else s.reg a ||| roView s path a

/-- The registers that a unit has by the "Present in" columns: in the member and for the role. -/
def State.hasReg (s : State) (a : Nat) : Bool :=
  match regRow? a with
  | none => false
  | some r =>
    decide ((a - r.base) / r.stride < (if s.isVd then r.vd else r.vsu)) && (!r.root || s.isRoot) && (!r.dome || s.isDome)

/-- The blocks that a VD serves in its power state (R491); a VSU serves all of its own. -/
def State.serves (s : State) (b : Nat) : Bool :=
  if s.isVd && !(s.pwr.power == .on) then b == 0 || b == 0x12
  else if s.isVd && s.pwr.recovery then b == 0 || b == 0x11 || b == 0x12
  else true

/-- The registers that a unit serves (R489, R491). -/
def State.present (s : State) (a : Nat) : Bool := s.belfryOn && s.hasReg a && s.serves (a / 0x200000)

end Sys2Proof.Machine
end

