-- ==== Sys2Proof/Machine/Flags.lean ====
section
/-! DEFINITION. Sys2Proof/Machine/Flags.lean: status bits and event records: what an occurrence sets, counts and places
in which queue (R407 to R415, R494), and the requests of a VSU's memory port, which its event queue uses (R439). -/

namespace Sys2Proof.Machine

/-! ### The VSU's memory port (R439) -/

/-- The lowest tag of the memory port that is not in use, of 64. -/
def State.memTag (s : State) : Option Nat := (upto 64).find? fun t => !s.fab.mem.has t

/-- Must a request wait: a read of a granule to which a write is outstanding (R450). -/
def State.memHeld (s : State) (r : MemReq) : Bool := !r.write && s.fab.memWr.any fun e => e.2 / 32 == r.addr / 32

/-- Offers a request on the memory port with a free tag. -/
def State.memSend (s : State) (t : Nat) (r : MemReq) : State :=
  { s with
    fab := { s.fab with
      mem := s.fab.mem.set t r.use, memWr := if r.write then s.fab.memWr.set t r.addr else s.fab.memWr },
    out := s.out ++ [if r.write then .memWrite t r.addr r.bytes else .memRead t r.addr] }

/-- Offers a request on the memory port: with the lowest free tag, or once a tag is free (at most 64 outstanding) and no
request waits before it. -/
def State.memReq (s : State) (r : MemReq) : State :=
  match s.memTag, s.memHeld r || !s.fab.memQ.isEmpty with
  | some t, false => s.memSend t r
  | _, _ => { s with fab := { s.fab with memQ := s.fab.memQ ++ [r] } }

/-- The requests that wait go out, as many as can, in their order. -/
def State.memDrain (s : State) : List MemReq → State
  | [] => s
  | r :: rest =>
    match s.memTag, s.memHeld r with
    | some t, false => State.memDrain ({ s with fab := { s.fab with memQ := rest } }.memSend t r) rest
    | _, _ => s

/-- The beats of a block of memory: requests of 32 bytes each (R439). -/
def beats (use : Nat → MemUse) (write : Bool) (addr n : Nat) (d : List Byte) : List MemReq :=
  (upto ((n + 31) / 32)).map fun i =>
    { use := use (32 * i), write := write, addr := addr + 32 * i, bytes := if write then (d.drop (32 * i)).take 32 else [] }

def State.memReqs (s : State) (rs : List MemReq) : State := rs.foldl (fun t r => t.memReq r) s

/-- A response on the memory port frees its tag, and the requests that wait go out as they can. -/
def State.memFree (s : State) (tag : Nat) : State :=
  { s with fab := { s.fab with mem := s.fab.mem.del tag, memWr := s.fab.memWr.del tag } }.memDrain s.fab.memQ

/-! ### Queues (R410 to R413) -/

/-- The records in a queue. -/
def QSt.count (q : QSt) : Nat := (q.head - q.tail).toNat

/-- A core queue's size (R411). -/
def coreQSize : Nat := 8192

def State.hqBase (s : State) (q : Nat) : W := s.reg (Reg.EVQ_HQ_BASE + 32 * q)
def State.hqWb (s : State) (q : Nat) : W := s.reg (Reg.EVQ_HQ_WB + 32 * q)
def State.hqCfg (s : State) (q : Nat) : W := s.reg (Reg.EVQ_HQ_CFG + 32 * q)
def State.hqEn (s : State) (q : Nat) : Bool := (s.hqCfg q).getLsbD 8
/-- The size of a host queue's ring, 2^SIZE_LOG2 records (R412). -/
def State.hqSize (s : State) (q : Nat) : Nat := 2 ^ ((s.hqCfg q).toNat % 32)

/-- Can a queue take a record now: it exists, it is enabled, and it has room. -/
def State.canPlace (s : State) : QId → Bool
  | .core c => s.isVd && decide ((s.coreQ c).count < coreQSize)
  | .host q => s.hqEn q && decide ((s.hostQ q).count < s.hqSize q)

/-- Places a record in a queue that can take it: the record with LOST if records were dropped before it, and the new
HEAD.  A host queue of a VD gets the record, the HEAD write-back and, from empty, the vector (R412); the host queue of a
VSU is written through its memory port (R415). -/
def State.place (s : State) (id : QId) (r : EvtRec) : State :=
  match id with
  | .core c =>
    let q := s.coreQ c
    { s with evq := { s.evq with
        coreQ := s.evq.coreQ.set c { head := q.head + 1, tail := q.tail, lost := false },
        ring := s.evq.ring.set (coreQSize * c + q.head.toNat % coreQSize) { r with lost := q.lost } } }
  | .host n =>
    let q := s.hostQ n
    let b := EvtRec.bytes { r with lost := q.lost }
    let a := s.hqBase n + BitVec.ofNat 64 (32 * (q.head.toNat % s.hqSize n))
    let s1 := { s with evq := { s.evq with
        hostQ := s.evq.hostQ.set n { head := q.head + 1, tail := q.tail, lost := false } } }
    if s.isVd then
      let es := [Emit.posted a b, Emit.posted (s.hqWb n) (leBytes 4 (q.head + 1).toNat)]
      { s1 with out := s.out ++ (if q.head = q.tail then es ++ [Emit.msix n] else es) }
    else s1.memReq { use := .evtWrite, write := true, addr := a.toNat, bytes := b }

/-- A register table in which a counting field has taken one more, saturating. -/
def State.bumpRegs (s : State) (f : Fld) (n : Nat) : Tab W :=
  regsPut s.ident.kind s.regs f.reg (f.put (s.reg f.reg) (min (s.fld f + n) (2 ^ f.w - 1)))

/-- Drops a record that its queue cannot take: EVQ_STATUS.DROPPED counts it, and the queue's next record carries LOST
(R413).  A queue that the unit does not have (R415) drops nothing that counts. -/
def State.dropRec (s : State) (id : QId) : State :=
  match id with
  | .core c =>
    if s.isVd then
      { s with regs := s.bumpRegs Fld.EVQ_STATUS_DROPPED 1,
               evq := { s.evq with coreQ := s.evq.coreQ.set c { s.coreQ c with lost := true } } }
    else s
  | .host q =>
    { s with regs := s.bumpRegs Fld.EVQ_STATUS_DROPPED 1,
             evq := { s.evq with hostQ := s.evq.hostQ.set q { s.hostQ q with lost := true } } }

def State.putOrDrop (s : State) (r : EvtRec) (id : QId) : State :=
  if s.canPlace id then s.place id r else s.dropRec id

/-- The queues that EVQ_ROUTE names for a block (R409, R494); in a VSU, HOST_EN names its queue 0. -/
def State.routes (s : State) (b : Nat) : List QId :=
  let w := s.reg (Reg.EVQ_ROUTE + 8 * b)
  ((upto 4).filter fun c => s.isVd && w.getLsbD c).map QId.core ++
  (if w.getLsbD 8 then [QId.host (if s.isVd then (w.toNat >>> 16) % 64 else 0)] else [])

/-- Is a drop at this queue a drop from a full host queue. -/
def State.hqFull (s : State) : QId → Bool
  | .core _ => false
  | .host q => s.hqEn q && decide ((s.hostQ q).count ≥ s.hqSize q)

/-- The record of an event now, the next in SEQ (R407). -/
def State.mkRec (s : State) (code : Nat) (a0 a1 : W) : EvtRec :=
  { code, lost := false, seq := (s.evq.seq + 1).toNat, ns := s.htNs, arg0 := a0, arg1 := a1 }

/-- Counts a record once in SEQ and copies it once to the belfry tail (R409, R374). -/
def State.countRec (s : State) (r : EvtRec) : State :=
  { s with evq := { s.evq with seq := s.evq.seq + 1, tail64 := (r :: s.evq.tail64).take 64 } }

/-- Places a record in each of a list of queues. -/
def State.deliver (s : State) (r : EvtRec) (ids : List QId) : State := ids.foldl (fun t id => t.putOrDrop r id) s

/-- Sets a W1C bit. -/
def State.setBit (s : State) (f : Fld) : State := s.setFld f 1

/-- Records an event and delivers it, a drop from a full host queue apart (`State.record`). -/
def State.record1 (s : State) (code : Nat) (a0 a1 : W) (ids : List QId) : State :=
  let r := s.mkRec code a0 a1
  (s.countRec r).deliver r ids

/-- A drop from a full host queue sets HQ_OVERFLOW and raises its event; a drop of that event's own record sets the bit
again and raises no further one (log entry 9). -/
def State.overflow (s : State) (full : Bool) : State :=
  if full then
    let s1 := s.setBit Fld.EVQ_STATUS_HQ_OVERFLOW
    s1.record1 (256 * 15 + 33) (s1.readReg .lantern Reg.EVQ_STATUS) 0 (s1.routes 15)
  else s

/-- One such event for each full host queue that has dropped a record. -/
def State.overflows (s : State) (ids : List QId) (old : State) : State :=
  ids.foldl (fun t id => t.overflow (old.hqFull id)) s

/-- Writes an event record: counts it, copies it to the tail and places it in its block's queues and in the queues of
`also` (R409). -/
def State.record (s : State) (code : Nat) (a0 a1 : W) (also : List QId := []) : State :=
  let ids := s.routes (code / 256) ++ also
  (s.record1 code a0 a1 ids).overflows ids s

/-- ARG1 of a status event: the block's log register, copied without clearing it (R408). -/
def State.logArg (s : State) (b : Nat) : W :=
  if b = 2 then s.readReg .lantern Reg.TDC_FIFO_STATUS
  else if b = 6 then imgCheckView s
  else if b = 7 then s.reg Reg.XF_REJECT_LOG
  else if b = 8 then s.reg Reg.MEM_ERR_LOG
  else if b = 9 then s.reg Reg.CMB_XS_LOG
  else if b = 10 then s.reg Reg.TIL_FAULT_LOG
  else if b = 11 then s.reg Reg.STG_FAULT_LOG
  else if b = 12 then s.reg Reg.FLT_SWAP_LOG
  else 0

/-- The code of the event of a status bit (R408). -/
def Fld.code (f : Fld) : Nat := 256 * (f.reg / 0x200000) + f.lo

/-- An occurrence of a condition with an event: sets its W1C bit and raises the event with an ARG1 of its own. -/
def State.raiseArg (s : State) (f : Fld) (a1 : W) (also : List QId := []) : State :=
  let s1 := s.setBit f
  s1.record f.code (s1.readReg .lantern f.reg) a1 also

/-- An occurrence of a condition with an event: sets its W1C bit and raises the event, ARG1 the block's log (R408). -/
def State.raise (s : State) (f : Fld) : State := s.raiseArg f (s.logArg (f.reg / 0x200000))

/-! ### Writes of the persistent store (R418, R419) -/

/-- Queues a write of a persistent word; a worn word refuses it. -/
def State.nvsPut (s : State) (w : Nat) (v : W) (rwp : Bool) : State :=
  if s.worn w then s.raiseArg Fld.NVS_STATUS_REFUSED (BitVec.ofNat 64 w)
  else
    { s with nvs := { s.nvs with
        queue := s.nvs.queue ++ [{ word := w, val := v, rwp := rwp }],
        busyAt := if s.nvs.queue.isEmpty then s.time.now else s.nvs.busyAt } }

/-- Writes the RWP bits of a register: the word that backs it, or in a VSU the stored bits. `v` has the register's own bit
positions. -/
def State.pput (s : State) (a : Nat) (mask v : W) : State :=
  match nvsOf a with
  | some (w, sh) =>
    if s.isVd then s.nvsPut w ((s.rwpWord w &&& ~~~ (mask <<< sh)) ||| ((v &&& mask) <<< sh)) true
    else s.setReg a ((s.reg a &&& ~~~ mask) ||| (v &&& mask))
  | none => s

/-! ### SPK_NOTIFY and SPK_WAIT_DONE (R409, R414, R415, R501) -/

/-- The queue that a context's SPK_CTX_NOTIFY names. -/
def State.ctxQ (s : State) (c : Nat) : QId :=
  let x := s.ctx c
  if s.isVd then (if x.notifyKind = 1 then .core x.notifyQ else .host x.notifyQ) else .host 0

/-- Can a queue take a record now that waits behind those that wait for it. -/
def State.queueTakes (s : State) (id : QId) : Bool := s.canPlace id && !(s.evq.defer.any fun e => e.1 == id)

/-- Writes a record that is never dropped: it joins the records that wait for its queue when there are any or when the
queue cannot take it, and is placed at once otherwise (R414). -/
def State.recordKept (s : State) (code : Nat) (a0 a1 : W) (id : QId) : State :=
  let r := s.mkRec code a0 a1
  let s1 := s.countRec r
  if s.queueTakes id then s1.place id r
  else { s1 with evq := { s1.evq with defer := s1.evq.defer ++ [(id, r)] } }

/-- Places the oldest record that waits and whose queue can take it now (R414, R501). -/
def State.placeDeferred (s : State) : State :=
  match s.evq.defer.find? fun e => s.canPlace e.1 with
  | some e => { s with evq := { s.evq with defer := s.evq.defer.erase e } }.place e.1 e.2
  | none => s

/-- ARG0 of SPK_NOTIFY and SPK_WAIT_DONE (R408). -/
def spkArg0 (ctx id tag status : Nat) : W := mkw [(0, ctx % 256), (8, id % 4096), (20, tag % 65536), (36, status % 16)]

/-! ### Saturating counts in the register table -/

/-- Adds to a counting field (access code RC). -/
def State.addCount (s : State) (f : Fld) (n : Nat) : State := { s with regs := s.bumpRegs f n }

/-- Drops a lantern message and counts it (R416). -/
def State.msgDropped (s : State) : State := s.addCount Fld.EVQ_STATUS_MSG_DROPPED 1

end Sys2Proof.Machine
end

