-- ==== Sys2Proof/Machine/Bus.lean ====
section
/-! DEFINITION. Sys2Proof/Machine/Bus.lean: the access paths to the registers (R11, R371, R489 to R493), and what a read
does: the value returned, and the fields that the read clears. -/

namespace Sys2Proof.Machine

/-- Does the PCIe endpoint answer: from V + 4 ms, while PERST_N is high (R471, R487). -/
def State.endpointUp (s : State) : Bool := s.isVd && s.belfryOn && s.pwr.perstN && decide (s.pwr.enAt ≤ s.time.now)

/-- The registers of the belfry window BAR4: ID_, BEL_ and the RWB registers of CLK_ (R492). -/
def inBar4 (a : Nat) : Bool :=
  let b := a / 0x200000
  b == 0 || b == 18 || a == Reg.CLK_POWER || a == Reg.CLK_CMP_CFG ||
    (decide (Reg.CLK_WAKE_HT ≤ a) && decide (a < Reg.CLK_WAKE_HT + 32))

/-- Is a register reachable through a path: BAR0 and the lantern reach every register that the unit serves; the belfry
serves its window in every power state but OFF (R470, R492); the sideband reaches ID_ and BEL_ (R452); a VSU's register port
reaches every register of the VSU (R493). -/
def State.reach (s : State) (path : Path) (a : Nat) : Bool :=
  match path with
  | .bar0 => s.endpointUp && s.present a
  | .lantern => s.isVd && s.present a
  | .port => s.isVsu && s.pwr.vsuRstN && s.present a
  | .sideband => s.present a && (a / 0x200000 == 0 || a / 0x200000 == 18)
  | .belfry => s.endpointUp && s.hasReg a && inBar4 a

/-- The bits of a register that a read clears (access code RC). -/
def rcMask (a : Nat) : W :=
  match regRow? a with
  | some r => BitVec.ofNat 64 r.rc
  | none => 0

/-- A read of a register: returns its value and clears its RC fields; a register that the path does not reach reads 0 and
is not touched (R489). -/
def State.takeRead (s : State) (path : Path) (a : Nat) : State :=
  if s.reach path a then
    { s with regs := regsPut s.ident.kind s.regs a (s.reg a &&& ~~~ rcMask a),
             out := s.out ++ [.readData path (s.readReg path a)] }
  else { s with out := s.out ++ [.readData path 0] }

/-- A read of a register without RC fields. -/
def State.readPlain (s : State) (path : Path) (a : Nat) : State :=
  { s with out := s.out ++ [.readData path (if s.reach path a then s.readReg path a else 0)] }

/-- Is a read an aligned 8-byte access, or one on a path on which size and alignment do not count: the lantern and the
sideband (R489, R493; log entry 186). -/
def wholeRead (v : ReadVia) : Bool :=
  v.path == .lantern || v.path == .sideband || (v.bytes == 8 && v.skew == 0)

/-- Does a path carry accesses: BAR0 and BAR4 while the endpoint is up (R487), a VSU's register port while the VSU is out of
reset, and any path only of a unit that has it, with its belfry running. -/
def State.pathUp (s : State) (p : Path) : Bool :=
  match p with
  | .bar0 | .belfry => s.endpointUp
  | .port => s.isVsu && s.belfryOn && s.pwr.vsuRstN
  | .lantern => s.isVd && s.belfryOn
  | .sideband => s.belfryOn

/-- A read as its path carries it: it fails where the path does, one that is not an aligned 8-byte access is answered with
Completer Abort and has no effect, and any other is done (R487, R489). -/
def State.readVia (s : State) (v : ReadVia) (done : State → State) : State :=
  if !s.pathUp v.path then { s with out := s.out ++ [Emit.failed v.path] }
  else if wholeRead v then done s
  else { s with out := s.out ++ [Emit.abort v.path] }

/-- A read of a register that clears its RC fields. -/
def State.readClear (s : State) (v : ReadVia) (a : Nat) : State := s.readVia v fun t => t.takeRead v.path a

/-- Stores the RW bits of a written word in a register, other bits kept. -/
def State.putMasked (s : State) (a : Nat) (mask v : W) : State := s.setReg a ((s.reg a &&& ~~~ mask) ||| (v &&& mask))

/-- The W1C part of a write: bits written 1 are cleared. -/
def State.clearW1c (s : State) (a : Nat) (mask v : W) : State := s.setReg a (s.reg a &&& ~~~ (v &&& mask))

end Sys2Proof.Machine
end

