-- ==== Sys2Proof/Machine/Cadence.lean ====
section
/-! DEFINITION. Sys2Proof/Machine/Cadence.lean: decisions, grants and cutoffs (R97 to R132), the arming of a unit, and
the issuer's votes.  What a boundary does to the rest of the unit is in Sys2Proof/Machine/Boundary.lean. -/

namespace Sys2Proof.Machine

/-! ### Freewheel positions (R126) -/

/-- freewheel(n, k) of R126. -/
def freewheel (n : W) (k : Nat) : Bool :=
  let m := n.toNat % 64
  (m + 1) * k / 64 != m * k / 64

/-! ### Completion (R104, R135, R184) -/

/-- Has a value reached another (R135). -/
def reached (v e : W) : Bool := decide ((v - e).toNat < 2 ^ 63)

/-- The working steps of a segment that count: up to its last one, or up to WSC for the phase in force. -/
def CompSeg.steps (g : CompSeg) (wsc : W) : Nat := (g.last.getD wsc + 1 - g.w0).toNat

/-- How far a sprocket lies beyond a value that it has reached, on `bits` bits; 0 for one that it has not (R135). -/
def beyond (bits : Nat) (v e : W) : Nat :=
  let d := (v.toNat + 2 ^ bits - e.toNat % 2 ^ bits) % 2 ^ bits
  if d < 2 ^ (bits - 1) then d else 0

/-- The steps of a segment that are known to be complete, by COMPLETE_WSC. -/
def CompSeg.known (g : CompSeg) (c : W) : Nat :=
  if c.toNat < g.w0.toNat || c = 0 then 0 else (c + 1 - g.w0).toNat

/-- How many of a segment's steps are complete: step w is when the sprocket has reached c0 + (w - w0 + 1) × inc, judged from
the last step that is complete on, in the width of the sprocket. -/
def CompSeg.done (g : CompSeg) (bits : Nat) (wsc c v : W) : Nat :=
  let k := g.known c
  min (g.steps wsc) (k + beyond bits v (g.c0 + BitVec.ofNat 64 (k * g.inc)) / max 1 g.inc)

/-- The segments that are not complete yet, and COMPLETE_WSC (R104). -/
def completeFrom (bits : Nat) (wsc : W) (val : Nat → W) : List CompSeg → W → List CompSeg × W
  | [], c => ([], c)
  | g :: r, c =>
    let n := g.done bits wsc c (val g.spk)
    let c1 := if n = 0 then c else g.w0 + BitVec.ofNat 64 n - 1
    if g.last.isSome && decide (n = g.steps wsc) then completeFrom bits wsc val r c1 else (g :: r, c1)

/-- The width of the unit's sprockets (R146). -/
def State.spkBits (s : State) : Nat := if s.isFore then 32 else 64

/-- Takes up what the completion sprockets have reached. -/
def State.refreshComplete (s : State) : State :=
  let r := completeFrom s.spkBits s.cad.wsc s.spkVal s.cad.comps s.cad.complete
  { s with cad := { s.cad with comps := r.1, complete := r.2 } }

/-! ### Decisions that a unit holds -/

/-- An arming decision (R117). -/
def arming : DecKind → Bool
  | .start | .phase | .resume => true
  | _ => false

/-- The decision of a kind that the unit holds for a boundary. -/
def State.held (s : State) (k : DecKind) (m : W) : Option Decision :=
  s.cad.decs.find? fun d => d.kind == k && d.target == m

/-- A join record as a spare takes it: with the PHASE that it holds for the same boundary, if any, whose step is the first of
its phase (R362). -/
def State.provFor (s : State) (m : W) : Option Decision :=
  (s.cad.prov.filter fun d => d.target == m).map fun d =>
    match s.held .phase m with
    | some p => { d with phase := p.phase, base := d.wsc }
    | none => d

/-- The RESUME that a unit holds for a boundary, or the join record that it holds as a provisional one (R362). -/
def State.resumeFor (s : State) (m : W) : Option Decision :=
  match s.held .resume m with
  | some d => some d
  | none => s.provFor m

/-- The next boundary of the unit and its HT (R102, R105): SC + 1 while RUNNING; while IDLE, that of a START it holds;
while HELD, that of a RESUME, a join record or a STOP it holds, whichever falls first. -/
def State.nextBoundary (s : State) : Option (W × W) :=
  match s.cad.st with
  | .running => some (s.cad.sc + 1, s.boundaryNs (s.cad.sc + 1))
  | .idle => (s.cad.decs.find? fun d => d.kind == .start).map fun d => (d.target, d.anchor)
  | .held =>
    let r := ((s.cad.decs ++ s.cad.prov.toList).find? fun d => d.kind == .resume).map fun d => (d.target, d.anchor)
    let t := (s.cad.decs.find? fun d => d.kind == .stop).map fun d => (d.target, s.boundaryNs d.target)
    match r, t with
    | some x, some y => if y.2.toNat ≤ x.2.toNat then some y else some x
    | some x, none => some x
    | none, t => t

/-- Is LAST_SEQ higher than every decision that the unit holds in its epoch (R122); a unit that has held none in the
epoch has missed none by LAST_SEQ alone (log entry 28). -/
def State.behindSeq (s : State) : Bool :=
  let ds := (s.cad.lastDec.toList ++ s.cad.decs ++ s.cad.prov.toList).filter fun d => d.epoch == s.cad.epoch
  !ds.isEmpty && ds.all fun d => serialHigher 16 s.cad.lastSeqRx d.seq

/-- Does an arming decision for a boundary name another phase than the unit's next set (R199). -/
def State.phaseMismatch (s : State) (m : W) : Bool :=
  let ds := match s.provFor m with
    | some d => [(s.held .resume m).getD d]
    | none => s.cad.decs.filter fun d => d.target == m && arming d.kind
  ds.any fun d => !(s.img.nxState == .loaded && (s.img.next.map (·.phase)) == some d.phase)

/-- Has a unit missed a boundary, at its cutoff (R122, R199). -/
def State.missedAt (s : State) (m : W) : Bool :=
  decide (s.cad.grant.toNat < m.toNat) || s.behindSeq || s.phaseMismatch m

/-- What a unit decides at its cutoff for a boundary from what it holds (R106, R115, R122, R123, R131). -/
def State.cutOf (s : State) (m : W) : CutOutcome :=
  if s.cad.conflicts.contains m then .hold 3
  else if (s.held .stop m).isSome then .stop
  else if (s.held .hold m).isSome then .hold 1
  else if s.missedAt m then .hold 2
  else .fire

/-- Does an outcome count as a missed boundary: a miss, or a conflict of the two planes (R122, R123). -/
def CutOutcome.missed (o : CutOutcome) : Bool := o == .hold 2 || o == .hold 3

/-- The cutoff of a boundary: records the outcome; a boundary missed raises CAD_MISSED and, where the phase differs,
IMG_PHASE_MISMATCH, and sets DISARM until the unit is re-armed. -/
def State.takeCut (s : State) (m : W) : State :=
  let o := s.cutOf m
  let s1 : State := { s with cad := { s.cad with
    cuts := s.cad.cuts ++ [⟨m, o, s.time.servo == .locked⟩], missed := s.cad.missed || o.missed } }
  if o.missed then
    let s2 := if o == .hold 2 && s.phaseMismatch m then s1.raise Fld.IMG_STATUS_PHASE_MISMATCH else s1
    s2.raise Fld.CAD_STATUS_MISSED
  else s1

/-- The cutoff that a unit has taken of a boundary. -/
def State.cutRec (s : State) (m : W) : Option CutRec := s.cad.cuts.find? fun c => c.m == m

def State.cutFor (s : State) (m : W) : Option CutOutcome := (s.cutRec m).map (·.out)

/-- Has the unit taken its cutoff of a boundary. -/
def State.cutTaken (s : State) (m : W) : Bool := (s.cutRec m).isSome

/-- Takes the cutoff of boundary `m` at `b` if its instant, 256 ns before the boundary, has come and it has not been
taken (R115). -/
def State.cutDue (s : State) (m b : W) : State :=
  if decide (b.toNat ≤ s.htNs.toNat + 256) && !s.cutTaken m then s.takeCut m else s

/-- The arming decision that takes effect at a boundary: START from IDLE, RESUME from HELD, PHASE while RUNNING. -/
def State.armingAt (s : State) (m : W) : Option Decision :=
  match s.cad.st with
  | .idle => s.held .start m
  | .running => s.held .phase m
  | .held => s.resumeFor m

/-- The HT of the boundary after boundary `m` at `b`, with the step length in force from `m` on. -/
def State.afterNs (s : State) (m b : W) : W :=
  match s.armingAt m, s.img.next with
  | some _, some n => b + BitVec.ofNat 64 n.desc.stepNs
  | _, _ => b + BitVec.ofNat 64 s.stepNs

/-- Takes the cutoff of the next boundary and, in steps shorter than 256 ns, of the one after it, once their instants have
come (R115). -/
def State.ensureCut (s : State) : State :=
  match s.nextBoundary with
  | some (m, b) =>
    let s1 := s.cutDue m b
    if s1.cutFor m == some .fire then s1.cutDue (m + 1) (s1.afterNs m b) else s1
  | none => s

/-! ### Accepting decisions (R112 to R115, R123) -/

/-- The HT of boundary `m` in a unit that is RUNNING, with the step length of a PHASE that it holds. -/
def State.fwdNs (s : State) (m : W) : W :=
  match s.cad.decs.find? fun e => e.kind == .phase && decide (e.target.toNat < m.toNat), s.img.next with
  | some e, some n => s.boundaryNs e.target + (m - e.target) * BitVec.ofNat 64 n.desc.stepNs
  | _, _ => s.boundaryNs m

/-- The START that an IDLE unit holds, or the RESUME or join record that a HELD one holds: with its anchor the boundaries of
the run begin. -/
def State.launchDec (s : State) : Option Decision :=
  match s.cad.st with
  | .idle => s.cad.decs.find? fun e => e.kind == .start
  | .running => none
  | .held => (s.cad.decs ++ s.cad.prov.toList).find? fun e => e.kind == .resume

/-- The HT of boundary `m` by the anchor of a START or RESUME that the unit holds, with the step length of its next set. -/
def State.runNs (s : State) (e : Decision) (m : W) : Option W :=
  if m = e.target then some e.anchor
  else if m.toNat < e.target.toNat then none
  else s.img.next.map fun n => e.anchor + (m - e.target) * BitVec.ofNat 64 n.desc.stepNs

/-- The HT of a decision's boundary, if the unit can tell it: RUNNING, by its anchor; otherwise by the anchor of a START or
RESUME that it holds, and a HELD unit knows that of a STOP. -/
def State.targetNs (s : State) (d : Decision) : Option W :=
  if d.kind == .start || d.kind == .resume then some d.anchor
  else if s.cad.st == .running then some (s.fwdNs d.target)
  else
    match s.launchDec.bind fun e => s.runNs e d.target with
    | some b => some b
    | none => if s.cad.st == .held && d.kind == .stop then some (s.boundaryNs d.target) else none

/-- Is the cutoff of a decision's boundary past, or the boundary itself. -/
def State.past (s : State) (d : Decision) : Bool :=
  (s.cad.st != .idle && decide (d.target.toNat ≤ s.cad.sc.toNat)) ||
  (match s.targetNs d with
   | some b => decide (b.toNat ≤ s.htNs.toNat + 256)
   | none => false)

/-- Is a decision's epoch acceptable: the unit's own or a higher one; an IDLE unit takes the epoch of any START. -/
def State.epochOk (s : State) (d : Decision) : Bool :=
  (s.cad.st == .idle && d.kind == .start) || d.epoch == s.cad.epoch || serialHigher 8 d.epoch s.cad.epoch

/-- Sees an epoch: a higher one becomes the unit's, and makes an issuer a relay (R113). -/
def State.adoptEpoch (s : State) (e seq : Nat) : State :=
  if e = s.cad.epoch then s
  else
    let r := s.cad.root
    let out := r.issuer && e != r.epoch
    { s with cad := { s.cad with
        epoch := e, lastSeqRx := seq,
        root := { r with issuer := r.issuer && !out, relay := r.relay || out } } }

/-- What accepting a decision does to the decisions and marks that the unit holds: a START or RESUME takes the place of a
HOLD or a conflict mark for the same boundary; the START of an IDLE unit begins a run, and drops what the last one
left. -/
def holdWith (d : Decision) (idle : Bool) (decs : List Decision) (conf : List W) : List Decision × List W :=
  if d.kind == .start && idle then ([d], [])
  else if d.kind == .start || d.kind == .resume then
    (decs.filter (fun e => !(e.target == d.target && e.kind == .hold)) ++ [d], conf.filter (· != d.target))
  else (decs ++ [d], conf)

/-- The decisions that a unit repeats, each with the port that it came from (R112); the START of an IDLE unit begins a run,
and leaves only what names its own boundary. -/
def repWith (d : Decision) (src : Option Nat) (idle : Bool) (l : List (Decision × Option Nat)) :
    List (Decision × Option Nat) :=
  (if d.kind == .start && idle then l.filter fun e => e.1.target == d.target else l) ++ [(d, src)]

/-- Has every tile that the unit needs of each parameter broadcast of the next phase been accepted. -/
def State.paramsHere (s : State) : Bool :=
  match s.img.next with
  | some n => n.desc.params.all fun id => id == 0 || Config.paramComplete id (s.img.params.get id []).length
  | none => false

/-- Is a unit ready for its next arming decision (R197). -/
def State.ready (s : State) : Bool :=
  s.img.nxState == .loaded && s.paramsHere &&
  (s.cad.st != .held || s.cad.rearmed || s.cad.spare.any fun e => e.1)

/-- Has the unit signalled its arming sprocket for the next arming decision (R117). -/
def State.signalled (s : State) : Bool := s.cad.armSpk == s.cad.armNo + 1

/-- A HOLD that comes where no boundary fires stands in the place of the arming decision that readiness was lost for: the
decision has passed, and a unit that is still not ready shows DISARM until it is (log entry 30). -/
def State.passLost (s : State) (d : Decision) : State :=
  if d.kind == .hold && s.notRunning && s.cad.lost then
    { s with cad := { s.cad with lost := false, disarm := s.signalled && !s.ready } }
  else s

/-- Accepts a decision that came from port `src`, or is the unit's own. -/
def State.accept (s : State) (d : Decision) (src : Option Nat) : State :=
  let s0 := s.adoptEpoch d.epoch d.seq
  let idle := s0.cad.st == .idle
  let h := holdWith d idle s0.cad.decs s0.cad.conflicts
  let arm := if d.kind == .start then 1 else if arming d.kind then s0.cad.armNo + 1 else s0.cad.armNo
  ({ s0 with cad := { s0.cad with
      decs := h.1, conflicts := h.2, lastDec := some d, armNo := arm, decRep := repWith d src idle s0.cad.decRep,
      heldReason := if d.kind == .stop && s0.cad.st == .held then 7 else s0.cad.heldReason } } : State).passLost d

/-- Two copies of one decision that differ: each boundary that either names counts as missed (R123). -/
def State.planeConflict (s : State) (a b : Decision) : State :=
  ({ s with cad := { s.cad with conflicts := s.cad.conflicts ++ [a.target, b.target] } }).raise
    Fld.CAD_STATUS_PLANE_CONFLICT

/-- A decision reaches the unit: ignored if its epoch is lower, if the unit holds the same one, or if its boundary's
cutoff is past; a conflict with the copy held; otherwise accepted. The flag says that it is new. -/
def State.takeDecision (s : State) (d : Decision) (src : Option Nat) : State × Bool :=
  if s.epochOk d then
    match (s.cad.decs ++ s.cad.decRep.map (·.1) ++ s.cad.lastDec.toList).find?
        fun e => e.seq == d.seq && e.epoch == d.epoch with
    | some e => if e == d || s.past d then (s, false) else (s.planeConflict e d, false)
    | none => if s.past d then (s, false) else (s.accept d src, true)
  else (s, false)

/-- A grant with its LAST_SEQ and EPOCH (R109, R113, R114). The highest grant held stays through a STOP: the spec names
nothing that lowers it (log entry 143). -/
def State.takeGrant (s : State) (epoch : Nat) (grant : W) (lastSeq : Nat) : State :=
  if epoch == s.cad.epoch || serialHigher 8 epoch s.cad.epoch then
    let s1 := s.adoptEpoch epoch lastSeq
    { s1 with cad := { s1.cad with
        grant := if s1.cad.grant.toNat < grant.toNat then grant else s1.cad.grant,
        lastSeqRx := if serialHigher 16 lastSeq s1.cad.lastSeqRx then lastSeq else s1.cad.lastSeqRx } }
  else s

/-- Queues an ordered set at a port (R206). -/
def State.queueOs (s : State) (p : Nat) (o : OSet) : State :=
  s.setPort p { s.port p with osq := (s.port p).osq ++ [o] }

/-- Does a unit send decisions on: a root only once it issues or relays (R108), and a die, which has no port that leads down,
never (R112). -/
def State.relays (s : State) : Bool := s.isVd && (!s.isRoot || s.cad.root.issuer || s.cad.root.relay)

/-- The ports on which a unit sends a decision on: its fixed ports that carry ordered sets, other than the one that it came
from (R112); an input of one domain leads down in the other. -/
def State.decPorts (s : State) (src : Option Nat) : List Nat :=
  (upto s.nPorts).filter fun p => s.relays && s.carriesOs p && s.portFixed p && src != some p

/-- Sends decisions as a DECISION ordered set on ports. -/
def State.sendDecision (s : State) (ps : List Nat) (d0 : Decision) (d1 : Option Decision) : State :=
  ps.foldl (fun t p => t.queueOs p (.decision d0 d1)) s

/-- Takes a decision pair: first and second record in order. -/
def State.takePair (s : State) (d0 : Decision) (d1 : Option Decision) (src : Option Nat) : State × Bool :=
  let r := s.takeDecision d0 src
  match d1 with
  | some d =>
    let q := r.1.takeDecision d src
    (q.1, r.2 || q.2)
  | none => r

/-- Decisions that reach a port, in an ordered set or repeated in a heartbeat; what is new is forwarded at once. -/
def State.rxDecisions (s : State) (port : Nat) (d0 : Decision) (d1 : Option Decision) : State :=
  let r := s.ensureCut.takePair d0 d1 (some port)
  if r.2 then r.1.sendDecision (r.1.decPorts (some port)) d0 d1 else r.1

/-- DECISION_RX: a DECISION ordered set at a port. Its path delay is the time since the issuer sent it (R116; log
entry 29). -/
def State.doDecisionRx (s : State) (port : Nat) (d0 : SentDecision) (d1 : Option Decision) : State :=
  if s.awake && s.carriesOs port then
    ({ s with cad := { s.cad with latency := s.htNs.toNat - d0.dep.toNat } }).rxDecisions port d0.dec d1
  else s

/-! ### Arming (R117, R194, R197) -/

/-- ARMING_SIGNAL: a unit that is ready, not of class U (R23), and holds no arming decision whose boundary is still to come,
signals its arming sprocket; it locks the shadow for a decision that takes it, in a unit that has signalled before and is
ready again as well (R194). In IDLE or HELD, being ready again ends the DISARM of a decision that came as a HOLD or was
missed (log entry 30); that of readiness lost stands until the decision has passed. -/
def State.doArmingSignal (s : State) : State :=
  if s.awake && s.ready && s.time.cls != 0 && !(s.cad.decs.any fun d => arming d.kind) &&
      (!s.signalled || (s.notRunning && (s.cad.disarm || s.cad.missed)) || (s.img.nxSrc && !s.img.lock)) then
    { s with
      cad := { s.cad with
        armSpk := s.cad.armNo + 1,
        disarm := s.cad.disarm && !s.notRunning,
        missed := s.cad.missed && !s.notRunning },
      img := { s.img with lock := s.img.lock || s.img.nxSrc } }
  else s

/-- A unit that has signalled its arming sprocket, and is not ready any more, reports DISARM until the arming decision has
passed (R117): the next one, or one that it has accepted and whose boundary is still to come. -/
def State.loseReady (s : State) : State :=
  if !s.ready && (s.signalled || (s.cad.armSpk == s.cad.armNo && s.cad.decs.any fun d => arming d.kind)) then
    { s with cad := { s.cad with lost := true } }
  else s

/-- REARM: the agent's restore is complete; the missed mark ends, and the next set is to be loaded again (R196), so that a
unit that has signalled since the hold is ready no more (R117). -/
def State.rearmCad (s : State) : State :=
  if s.cad.st == .held then
    let s1 : State := { s with
      cad := { s.cad with rearmed := true, missed := false },
      img := { s.img with next := none, nxState := .none, nxSrc := false } }
    if s.cad.disarm || s.cad.missed then s1 else s1.loseReady
  else { s with cad := { s.cad with missed := false } }

/-- A write of CAD_CMD.REARM. -/
def State.doRearm (s : State) : State := if s.present Reg.CAD_CMD then s.rearmCad else s

/-- QUIESCE: the next boundary is to be held locally (R106). -/
def State.latchQuiesce (s : State) : State := { s with cad := { s.cad with quiesce := true } }

/-! ### The boundary, as the cadence generator takes it (R98 to R103, R127, R184) -/

/-- The WSC that a fired boundary launches or, at a freewheel boundary, carries. The freewheel boundary of a START or
RESUME leaves its WSC to the next working boundary (log entry 31). -/
def State.firedWsc (s : State) (arm : Option Decision) (fw : Bool) : W :=
  match arm with
  | some d =>
    if d.kind == .phase then (if fw then s.cad.wsc else s.cad.wsc + 1) else if fw then d.wsc - 1 else d.wsc
  | none => if fw then s.cad.wsc else s.cad.wsc + 1

/-- The completion bases after an arming decision (R184). -/
def State.compsAfter (s : State) (arm : Option Decision) (spk inc : Nat) : List CompSeg :=
  match arm with
  | none => s.cad.comps
  | some d =>
    if d.kind == .phase then
      let w0 := s.cad.wsc + 1
      match s.cad.comps.getLast? with
      | some g =>
        let old := s.cad.comps.dropLast ++ [{ g with last := some s.cad.wsc }]
        let c0 := if g.spk = spk then g.c0 + (w0 - g.w0) * BitVec.ofNat 64 g.inc else s.spkVal spk
        old ++ [⟨spk, c0, w0, inc, none⟩]
      | none => [⟨spk, s.spkVal spk, w0, inc, none⟩]
    else [⟨spk, s.spkVal spk, d.wsc, inc, none⟩]

/-- Fires boundary `m` at `b`: SC, WSC, ratio, anchor, base, phase and freewheel count. `next` is the set that an arming
decision makes live. At START and RESUME all earlier steps count as complete (log entry 32). A RESUME takes its TARGET_SC
as SC also where that lies above SC + 1, in a unit that stopped earlier than the issuer (log entry 145). -/
def State.fireCad (s : State) (m b : W) (arm : Option Decision) (next : Option PhaseSet) : State :=
  let k := match s.held .ratio m, arm with
    | some r, _ => r.ratio
    | none, some d => if d.kind == .phase then s.cad.k else d.ratio
    | none, none => s.cad.k
  let fw := freewheel m k
  let first := arm.any fun d => d.kind != .phase
  let comps := match next with
    | some n => s.compsAfter arm n.compSpk n.compInc
    | none => s.cad.comps
  { s with cad := { s.cad with
      st := .running, sc := m, wsc := s.firedWsc arm fw,
      anchorNs := if arm.isSome then b else s.cad.anchorNs,
      anchorSc := if arm.isSome then m else s.cad.anchorSc,
      baseWsc := match arm with
        | some d => if d.kind == .phase then s.cad.wsc + 1 else d.base
        | none => s.cad.baseWsc,
      phase := match arm with
        | some d => d.phase
        | none => s.cad.phase,
      k := k, freewheel := fw,
      fwCount := (if arm.any fun d => d.kind == .start then 0 else s.cad.fwCount) + (if fw then 1 else 0),
      heldReason := 0, firedAny := true,
      comps := comps,
      complete := (match arm with
        | some d => if first then (if d.wsc = 0 then 0 else d.wsc - 1) else s.cad.complete
        | none => s.cad.complete),
      rearmed := false, spare := none,
      disarm := s.cad.disarm && arm.isNone,
      lost := s.cad.lost && arm.isNone,
      missed := s.cad.missed && (arm.isNone || (s.cutFor (m + 1)).any CutOutcome.missed) } }

/-- Drops what a boundary that is past leaves: decisions and marks up to it, its cutoff, QUIESCE. -/
def State.dropPast (s : State) (m : W) : State :=
  { s with cad := { s.cad with
      decs := s.cad.decs.filter fun d => decide (m.toNat < d.target.toNat),
      decRep := s.cad.decRep.filter fun e => decide (m.toNat < e.1.target.toNat),
      conflicts := s.cad.conflicts.filter fun c => decide (m.toNat < c.toNat),
      prov := s.cad.prov.filter fun d => decide (m.toNat < d.target.toNat),
      cuts := s.cad.cuts.filter fun c => decide (m.toNat < c.m.toNat), quiesce := false } }

/-- No boundary follows those that have been marked: a new run, or a RESUME, marks its own (R94). -/
def State.clearMarks (s : State) : State :=
  { s with ref := { s.ref with mark0 := { s.ref.mark0 with last := none }, mark1 := { s.ref.mark1 with last := none } } }

/-- Boundary `m` is treated as held, for a reason: RUNNING becomes HELD; IDLE and HELD stay. A HOLD in the place of an
arming decision ends DISARM for it, and a unit that had armed for another decision shows DISARM until it is ready for a
RESUME; a unit that missed a RESUME needs REARM again, one that missed a START a fresh load (log entry 30). -/
def State.holdCad (s : State) (m : W) (reason : Nat) : State :=
  let miss := reason = 2 || reason = 3
  let s1 : State := { s.clearMarks with cad := { s.cad with
      heldReason := reason, cuts := [], lost := false,
      disarm := s.signalled && (s.cad.st != .idle || (s.cad.lost && !s.ready)),
      rearmed := s.cad.rearmed && s.cad.st == .held && !miss } }
  match s.cad.st with
  | .running => ({ s1 with cad := { s1.cad with st := .held } }.dropPast m).raise Fld.CAD_STATUS_HELD_ENTRY
  | .held => s1.dropPast m
  | .idle =>
    if miss then ({ s1 with img := { s1.img with next := none, nxState := .none, nxSrc := false } }).dropPast m
    else s1.dropPast m

/-- The boundary governed by a STOP: IDLE; the live and next sets are emptied and the shadow unlocked (R105, R200). -/
def State.stopCad (s : State) (m : W) : State :=
  ({ s.clearMarks with
      cad := { s.cad with
        st := .idle, heldReason := 0, armNo := 0, armSpk := 0, disarm := false, lost := false, missed := false,
        rearmed := false, cuts := [], comps := [] },
      img := { s.img with live := none, next := none, nxState := .none, nxSrc := false, lock := false } }).dropPast m

/-! ### The issuer's view of the boundaries to come -/

/-- The cadence as it stands after a boundary that is decided and not yet fired. -/
structure Proj where
  sc   : W
  wsc  : W
  aNs  : W
  aSc  : W
  base : W
  k    : Nat
  desc : PhaseDesc
  deriving DecidableEq, Repr

def Proj.ns (p : Proj) (m : W) : W := p.aNs + (m - p.aSc) * BitVec.ofNat 64 p.desc.stepNs

/-- The projection after the boundary that follows. -/
def State.projStep (s : State) (p : Proj) : Proj :=
  let m := p.sc + 1
  let b := p.ns m
  let k := match s.held .ratio m with
    | some d => d.ratio
    | none => p.k
  let fw := freewheel m k
  let w := if fw then p.wsc else p.wsc + 1
  match s.held .phase m, s.img.next with
  | some _, some n => { sc := m, wsc := w, aNs := b, aSc := m, base := p.wsc + 1, k := k, desc := n.desc }
  | _, _ => { p with sc := m, wsc := w, k := k }

def State.projN (s : State) : Nat → Proj → Proj
  | 0, p => p
  | n + 1, p => s.projN n (s.projStep p)

/-- The cadence that runs, or that a START or RESUME which is decided makes run. -/
def State.projStart (s : State) : Option Proj :=
  match s.cad.st with
  | .running =>
    s.desc.map fun d =>
      { sc := s.cad.sc, wsc := s.cad.wsc, aNs := s.cad.anchorNs, aSc := s.cad.anchorSc, base := s.cad.baseWsc,
        k := s.cad.k, desc := d }
  | _ =>
    let k := if s.cad.st == .idle then DecKind.start else DecKind.resume
    match s.cad.decs.find? fun d => d.kind == k, s.img.next with
    | some d, some n =>
      if (s.held .hold d.target).isSome || (s.held .stop d.target).isSome then none
      else
        let r := match s.held .ratio d.target with
          | some e => e.ratio
          | none => d.ratio
        some { sc := d.target, wsc := if freewheel d.target r then d.wsc - 1 else d.wsc, aNs := d.anchor,
               aSc := d.target, base := d.base, k := r, desc := n.desc }
    | _, _ => none

/-- The projection after every boundary that is decided; none while a HOLD or STOP is under way. -/
def State.projDecided (s : State) : Option Proj :=
  s.projStart.bind fun p =>
    if s.cad.decs.any fun d => (d.kind == .hold || d.kind == .stop) && decide (p.sc.toNat < d.target.toNat) then none
    else some (s.projN (s.cad.root.decided.toNat - p.sc.toNat) p)

/-- L_vote in ns (R111). -/
def State.lVoteNs (s : State) : Nat := s.fld Fld.CAD_ROOT_CFG_L_VOTE * 1000

/-- The vote instant of a boundary at `b`: the last multiple of 1,024 ns at or before b - L_vote (R109, R111). -/
def State.voteNs (s : State) (b : W) : Nat := (b.toNat - s.lVoteNs) / 1024 * 1024

/-- Is it that heartbeat now. -/
def State.voteNow (s : State) (b : W) : Bool :=
  decide (s.voteNs b ≤ s.htNs.toNat) && decide (s.htNs.toNat < s.voteNs b + 1024)

/-! ### What the issuer sends (R111, R112) -/

/-- A decision without fields of its own. -/
def bareDec (k : DecKind) (m : W) : Decision :=
  { seq := 0, epoch := 0, kind := k, target := m, phase := 0, anchor := 0, wsc := 0, base := 0, ratio := 0 }

/-- The decision as the issuer sends it: the next SEQ, and its EPOCH. -/
def State.stampDec (s : State) (d : Decision) (n : Nat) : Decision :=
  { d with seq := (s.cad.root.seq + n) % 65536, epoch := s.cad.root.epoch }

/-- Sends decisions of the issuer: counts them, takes them itself, with a path delay of 0, and sends a DECISION on its
ports. -/
def State.issue (s : State) (d0 : Decision) (d1 : Option Decision) : State :=
  let a := s.stampDec d0 1
  let b := d1.map fun d => s.stampDec d 2
  let n := if d1.isSome then 2 else 1
  let s1 : State := { s with cad := { s.cad with root := { s.cad.root with
      seq := (s.cad.root.seq + n) % 65536,
      armCount := if d0.kind == .start then 1 else if arming d0.kind then s.cad.root.armCount + 1
        else s.cad.root.armCount } } }
  let s2 := (s1.takePair a b none).1
  ({ s2 with cad := { s2.cad with latency := 0, lastSeqRx := s1.cad.root.seq } }).sendDecision (s2.decPorts none) a b

/-- Sends HOLD for a boundary (event CAD_HOLD_SENT). -/
def State.issueHold (s : State) (m : W) : State :=
  (s.issue (bareDec .hold m) none).raise Fld.CAD_ROOT_STATUS_HOLD_SENT

/-- Grants up to a boundary. -/
def State.grantUpTo (s : State) (m : W) : State :=
  { s with cad := { s.cad with grant := if s.cad.grant.toNat < m.toNat then m else s.cad.grant } }

/-- Notes that a boundary is decided, and that the commands of the agent for it are used up. -/
def State.decidedAt (s : State) (m : W) (cmd : Bool) : State :=
  { s with cad := { s.cad with root := { s.cad.root with
      decided := m, holdCmd := false, stopCmd := false, endCmd := false,
      cmd := if cmd then none else s.cad.root.cmd } } }

/-- The aggregate is below w - D (R111). -/
def State.tooSlow (s : State) (w : W) (d : Nat) : Bool := decide (s.rootAgg.complete.toNat + d < w.toNat)

/-- The ratio that is due at a boundary at `b`: the first one at or after the instant that R398 names. -/
def State.ratioAt (s : State) (b : W) : Option Nat :=
  (s.cad.root.ratioDue.filter fun e => decide (e.2 ≤ b.toNat)).map (·.1)

/-- That ratio as the decision that makes it the ratio in force from `m` on. -/
def State.ratioDec (s : State) (m b : W) : Option Decision :=
  (s.ratioAt b).map fun k => { bareDec .ratio m with ratio := k }

/-- A ratio that has been sent is due no more. -/
def State.ratioSent (s : State) (b : W) : State :=
  if (s.ratioAt b).isSome then { s with cad := { s.cad with root := { s.cad.root with ratioDue := none } } } else s

/-- Votes on a boundary of the run, in the row order of R111. -/
def State.voteRun (s : State) (p : Proj) : State :=
  let m := p.sc + 1
  let r := s.cad.root
  let b := p.ns m
  let k := (s.ratioAt b).getD p.k
  let w := if freewheel m k then p.wsc else p.wsc + 1
  let stops := p.desc.nSteps != 0 && p.wsc == p.base + BitVec.ofNat 64 p.desc.nSteps - 1 ||
    (p.desc.nSteps == 0 && r.endCmd)
  let done (t : State) : State := t.decidedAt m false
  if r.stopCmd then done (s.issue (bareDec .stop m) none)
  else if r.holdCmd then done (s.issueHold m)
  else if s.tooSlow w p.desc.holdDist then done (s.issueHold m)
  else if stops && p.desc.successor == 255 then done (s.issue (bareDec .stop m) none)
  else if stops && !s.armComplete then done (s.issueHold m)
  else if stops then
    done (((s.ratioSent b).issue { bareDec .phase m with phase := p.desc.successor % 16 } (s.ratioDec m b)).grantUpTo m)
  else
    match s.ratioDec m b with
    | some d =>
      done (((s.ratioSent b).issue d none).grantUpTo m)
    | none => done (s.grantUpTo m)

/-- Votes on the boundary of a START or RESUME that the agent has commanded (R111, R121). The hold distance judges a RESUME
only: before a START no phase is in force to give D (log entry 144). -/
def State.voteCmd (s : State) (c : RootCmd) : State :=
  let m := if c.resume then s.cad.sc + 1 else c.sc
  let r := s.cad.root
  let k := (s.ratioAt c.ns).getD c.k
  let w := if freewheel m k then c.wsc - 1 else c.wsc
  let d := match s.desc with
    | some x => x.holdDist
    | none => 0
  if r.stopCmd then (s.issue (bareDec .stop m) none).decidedAt m true
  else if r.holdCmd then (s.issueHold m).decidedAt m true
  else if c.resume && s.tooSlow w d then (s.issueHold m).decidedAt m true
  else if !s.armComplete then ((s.issueHold m).raise Fld.CAD_ROOT_STATUS_CMD_FAILED).decidedAt m true
  else
    let dec := { bareDec (if c.resume then DecKind.resume else DecKind.start) m with
      phase := c.phase, anchor := c.ns, wsc := c.wsc, base := c.base, ratio := c.k }
    let s0 := s.ratioSent c.ns
    let s1 : State := { s0 with cad := { s0.cad with root := { s0.cad.root with noGrant := false } } }
    ((s1.issue dec (s.ratioDec m c.ns)).grantUpTo m).decidedAt m true

/-- The first boundary of the held cadence whose vote instant is not past (R105, R111). -/
def State.heldStopAt (s : State) : W :=
  let b := (s.boundaryNs (s.cad.sc + 1)).toNat
  let g := s.htNs.toNat / 1024 * 1024 + s.lVoteNs
  s.cad.sc + 1 + BitVec.ofNat 64 ((g - b + s.stepNs - 1) / max 1 s.stepNs)

/-- VOTE_INSTANT: the issuer decides the next boundary at its vote instant, unless its core 2 is held in reset (R402). -/
def State.doVoteInstant (s : State) : State :=
  if s.isRoot && s.awake && s.cad.root.issuer && !s.coreHeld 2 then
    match s.projDecided with
    | some p => if s.voteNow (p.ns (p.sc + 1)) && !s.cad.root.noGrant then s.voteRun p else s
    | none =>
      if s.notRunning then
        match s.cad.root.cmd with
        | some c => if s.voteNow c.ns then s.voteCmd c else s
        | none =>
          if s.cad.st == .held && s.cad.root.stopCmd && !(s.cad.decs.any fun d => d.kind == .stop) &&
              s.voteNow (s.boundaryNs s.heldStopAt) then
            (s.issue (bareDec .stop s.heldStopAt) none).decidedAt s.heldStopAt false
          else s
      else s
  else s

/-! ### The agent's commands to a root (R107, R108, R121, R124) -/

/-- ISSUER_INIT, once: after 64 heartbeats in LOCKED and a heartbeat of the other root, the root with ISSUE_INIT issues, with
epoch 0; if both or neither have it, the one with the lower DNO. -/
def State.doIssuerInit (s : State) : State :=
  let r := s.cad.root
  if s.isRoot && s.awake && !r.initDone && decide (r.lockedHbs ≥ 64) then
    match r.otherInit with
    | some o =>
      let mine := (s.preg Reg.CAD_ROOT_CFG).getLsbD 0
      let clash := o == mine
      let iss := if clash then decide (s.ident.dno < r.otherDno) else mine
      let s1 : State := { s with cad := { s.cad with root := { r with
        issuer := iss, relay := !iss, epoch := 0, initDone := true } } }
      if clash then s1.raise Fld.CAD_ROOT_STATUS_INIT_CONFLICT else s1
    | none => s
  else s

/-- The command that a write of START or RESUME names, with the registers of the agent. -/
def State.rootCmdOf (s : State) (resume : Bool) : RootCmd :=
  { resume := resume, sc := s.reg Reg.CAD_ROOT_WSC, ns := s.reg Reg.CAD_ROOT_TARGET_NS,
    wsc := s.reg Reg.CAD_ROOT_WSC, base := s.reg Reg.CAD_ROOT_BASE_WSC,
    phase := s.fld Fld.CAD_ROOT_CMD_PHASE, k := if resume then s.cad.k else s.fld Fld.CAD_ROOT_CMD_K }

/-- A START or RESUME: refused if the root is not the issuer, if the cadence is not IDLE or HELD respectively (log entry
33), or if its vote instant has passed. A target is a register of whole nanoseconds. -/
def State.rootLaunch (s : State) (resume : Bool) : State :=
  let c := s.rootCmdOf resume
  let fits := if resume then s.cad.st == .held else s.cad.st == .idle
  if s.cad.root.issuer && fits && decide (s.htNs.toNat ≤ s.voteNs c.ns) && decide (s.lVoteNs ≤ c.ns.toNat) then
    { s with cad := { s.cad with root := { s.cad.root with cmd := some c } } }
  else s.raise Fld.CAD_ROOT_STATUS_CMD_REFUSED

/-- TAKE_ISSUE while HELD or IDLE: the root issues with an epoch one higher than the highest it has seen, sends HOLD for
SC + 1, and grants nothing until a START or RESUME. It counts SEQ on from the last one that it has seen, and arming
decisions on from those that it has accepted (log entry 146). -/
def State.takeIssue (s : State) : State :=
  if s.notRunning then
    let e := (s.cad.epoch + 1) % 256
    let m := s.cad.sc + 1
    let s1 : State := { s with cad := { s.cad with
        epoch := e,
        root := { s.cad.root with
          issuer := true, relay := false, initDone := true, epoch := e, seq := s.cad.lastSeqRx, noGrant := true, armCount := s.cad.armNo,
          cmd := none } } }
    (s1.issueHold m).decidedAt m true
  else s

/-- One bit of CAD_ROOT_CMD. A HOLD, STOP or END_PHASE waits for the next vote instant; only the issuer takes one. -/
def State.rootCmdBit (s : State) (b : Nat) : State :=
  let r := s.cad.root
  if b = 0 then s.rootLaunch false
  else if b = 1 then s.rootLaunch true
  else if b = 2 then (if r.issuer then { s with cad := { s.cad with root := { r with holdCmd := true } } } else s)
  else if b = 3 then (if r.issuer then { s with cad := { s.cad with root := { r with stopCmd := true } } } else s)
  else if b = 4 then (if r.issuer then { s with cad := { s.cad with root := { r with endCmd := true } } } else s)
  else if b = 5 then s.takeIssue
  else s

/-- A write of CAD_ROOT_CMD: its PHASE and K, then its command bits in ascending order. -/
def State.writeRootCmd (s : State) (v : W) : State :=
  if s.present Reg.CAD_ROOT_CMD then
    ((upto 6).filter fun b => v.getLsbD b).foldl (fun t b => t.rootCmdBit b) (s.putMasked Reg.CAD_ROOT_CMD 0x3FF00 v)
  else s

def State.doRootStart (s : State) (v : W) : State := s.writeRootCmd (v ||| 1)
def State.doRootResume (s : State) (v : W) : State := s.writeRootCmd (v ||| 2)
def State.doRootHold (s : State) (v : W) : State := s.writeRootCmd (v ||| 4)
def State.doRootStop (s : State) (v : W) : State := s.writeRootCmd (v ||| 8)
def State.doEndPhase (s : State) (v : W) : State := s.writeRootCmd (v ||| 16)
def State.doTakeIssue (s : State) (v : W) : State := s.writeRootCmd (v ||| 32)

/-- VOTE_INSTANT (R111). At the vote instant of a boundary the issuer decides it and updates GRANT_SC. -/
def execVoteInstant (s : State) : Host.Outcome State Fault Refusal :=
  .next (s.doVoteInstant)

/-- DECISION_RX (R113). A unit receives a DECISION, accepts it by epoch and sequence, forwards it, or detects a plane
conflict. -/
def execDecisionRx (port : Nat) (d0 : SentDecision) (d1 : Option Decision) (s : State) : Host.Outcome State Fault Refusal :=
  .next (s.doDecisionRx port d0 d1)

/-- ISSUER_INIT (R108). A root that has been LOCKED for 64 heartbeats and heard the other root takes the issuer or
relay role. -/
def execIssuerInit (s : State) : Host.Outcome State Fault Refusal :=
  .next (s.doIssuerInit)

/-- ROOT_START (R121). A write of CAD_ROOT_CMD.START commands a START at CAD_ROOT_TARGET_NS, or is refused. -/
def execRootStart (v : W) (s : State) : Host.Outcome State Fault Refusal :=
  .next (s.doRootStart v)

/-- ROOT_RESUME (R121). A write of CAD_ROOT_CMD.RESUME commands a RESUME at CAD_ROOT_TARGET_NS, or is refused. -/
def execRootResume (v : W) (s : State) : Host.Outcome State Fault Refusal :=
  .next (s.doRootResume v)

/-- ROOT_HOLD (R111). A write of CAD_ROOT_CMD.HOLD commands HOLD of the first boundary whose vote instant is still to
come. -/
def execRootHold (v : W) (s : State) : Host.Outcome State Fault Refusal :=
  .next (s.doRootHold v)

/-- ROOT_STOP (R111). A write of CAD_ROOT_CMD.STOP commands STOP of the first boundary whose vote instant is still to
come. -/
def execRootStop (v : W) (s : State) : Host.Outcome State Fault Refusal :=
  .next (s.doRootStop v)

/-- END_PHASE (R103). A write of CAD_ROOT_CMD.END_PHASE names the end boundary of an open-ended phase. -/
def execEndPhase (v : W) (s : State) : Host.Outcome State Fault Refusal :=
  .next (s.doEndPhase v)

/-- TAKE_ISSUE (R124). A root written TAKE_ISSUE while HELD or IDLE becomes issuer with a higher epoch and sends HOLD.
-/
def execTakeIssue (v : W) (s : State) : Host.Outcome State Fault Refusal :=
  .next (s.doTakeIssue v)

/-- REARM (R197). A write of CAD_CMD.REARM declares the agent's restore complete and starts the RESUME next-set load.
-/
def execRearm (s : State) : Host.Outcome State Fault Refusal :=
  .next (s.doRearm)

/-- ARMING_SIGNAL (R117). A unit that becomes ready for the next arming decision signals its arming sprocket. -/
def execArmingSignal (s : State) : Host.Outcome State Fault Refusal :=
  .next (s.doArmingSignal)


end Sys2Proof.Machine
end

