-- ==== Sys2Proof/WellFormed.lean ====
section
/-! DEFINITION. Sys2Proof/WellFormed.lean: the commands whose operands lie in the ranges that the manual gives the fields
they come from. The machine is total on every command; statements that need a range cite `Instr.wf`. -/

namespace Sys2Proof

/-- `n` is a value of a field of `w` bits. -/
def fits (w n : Nat) : Bool := decide (n < 2 ^ w)

/-- `z` is a value of a signed field of `w` bits. -/
def fitsInt (w : Nat) (z : Int) : Bool := decide (- 2 ^ (w - 1) ≤ z) && decide (z < 2 ^ (w - 1))

/-- A port of a VD, the member with the most ports (R1). -/
def portWf (p : Nat) : Bool := decide (p < 64)

/-- A lane of a port: a port is always four lanes ("Lanes"). -/
def laneWf (l : Nat) : Bool := decide (l < 4)

/-- A unit's identifier: a DNO or an HDN, in 14 bits (R210). -/
def idWf (n : Nat) : Bool := fits 14 n

/-- A decision record of R216. -/
def Decision.wf (d : Decision) : Bool := fits 16 d.seq && fits 8 d.epoch && fits 8 d.phase && fits 8 d.ratio

/-- A domain record of R213. -/
def DomRec.wf (r : DomRec) : Bool :=
  fitsInt 32 r.offset && fits 4 r.ql && fits 4 r.sbql && fits 8 r.hop && fits 16 r.upDno && fits 8 r.epoch &&
    fits 16 r.lastSeq && fits 32 r.arm

/-- A residence record of R214. -/
def ResRec.wf (r : ResRec) : Bool :=
  fits 16 r.seq && laneWf r.reqLane && laneWf r.rspLane && fitsInt 64 r.residence && fitsInt 32 r.rtMean &&
    fitsInt 32 r.asym

/-- A rotating record of R215. -/
def RotRec.wf (r : RotRec) : Bool := decide (r.kind ≤ 4) && fits 8 r.arg

/-- A heartbeat of R212. -/
def Heartbeat.wf (h : Heartbeat) : Bool :=
  fits 16 h.seq && decide (h.senderKind ≤ 1) && idWf h.sender && fits 8 h.level && fits 16 h.prevFrac &&
    h.doms.a.wf && h.doms.b.wf && h.res.wf && h.rot.wf && h.d0.all Decision.wf && h.d1.all Decision.wf

/-- The header fields of R208, by TYPE. -/
def FlitBody.wf : FlitBody → Bool
  | .sched wsc tile dno sub slot phase =>
    fits 16 wsc && fits 20 tile && fits 12 dno && decide (sub ≤ 16) && fits 15 slot && fits 4 phase
  | .sideReq op tag addr len8 sub dno =>
    fits 4 op && fits 12 tag && fits 52 addr && fits 9 len8 && decide (sub ≤ 16) && fits 12 dno
  | .sideRsp status tag dno sub => fits 4 status && fits 12 tag && fits 12 dno && decide (sub ≤ 16)
  | .signal dstDno dstSub count dno sub =>
    fits 12 dstDno && decide (dstSub ≤ 16) && decide (1 ≤ count) && decide (count ≤ 14) && fits 12 dno &&
      decide (sub ≤ 16)
  | .sigAck dstDno dstSub ackSeq status => fits 12 dstDno && decide (dstSub ≤ 16) && fits 32 ackSeq && fits 4 status
  | .bcast id tile bkind => fits 32 id && fits 28 tile && fits 2 bkind

/-- A flit of R207 to R209: a payload of 224 bytes, and the fields of its header and trailer. -/
def Flit.wf (f : Flit) : Bool :=
  fits 2 f.level && fits 4 f.fidx && fits 2 f.crdLevel && fits 6 f.crdCount && f.body.wf &&
    f.payload.length == 224 && fits 32 f.fcrc && fits 12 f.lseq && fits 12 f.ack && fits 64 f.tcrc

def RxFrame.wf : RxFrame → Bool
  | .flit f => f.wf
  | .uncorrectable lane => laneWf lane
  | .corrected lane syms => laneWf lane && decide (1 ≤ syms) && decide (syms ≤ 15)
  | .frame tag content => fits 8 tag && content.length == 256
  | .codeword lane levels => laneWf lane && levels.length == 2720 && levels.all (fun v => fits 2 v)

/-- What TRAIN ordered sets tell of a peer (R218). -/
def TrainInfo.wf (t : TrainInfo) : Bool :=
  decide (t.senderKind ≤ 1) && idWf t.sender && fits 2 t.role && fits 8 t.level && fits 16 t.part && fits 8 t.rev &&
    fits 8 t.grade && t.hdn.all idWf && t.run.all (fun r => fits 8 r.epoch && fits 32 r.armNo && fits 4 r.phase)

/-- A sprocket source: four sprocket ports of a VSU, four lantern cores of a VD, its 16 die positions (R143, R146). -/
def SpkSrc.wf : SpkSrc → Bool
  | .hostPage => true
  | .vsuPort p => decide (p < 4)
  | .core c => decide (c < 4)
  | .diePort d => decide (d < 16)

/-- A sprocket operation names a context and a virtual identifier of 0 to 4,095 ("Operations"). -/
def spkWf (src : SpkSrc) (ctx id : Nat) : Bool := src.wf && fits 8 ctx && fits 12 id

/-- The link fields of a side flit's header (R207). -/
def FlitLink.wf (l : FlitLink) : Bool := fits 2 l.level && fits 2 l.crdLevel && fits 6 l.crdCount

/-- A side request of R208. -/
def SideReq.wf (r : SideReq) : Bool :=
  fits 4 r.op && fits 12 r.tag && fits 52 r.addr && fits 9 r.len8 && fits 12 r.dno && decide (r.sub ≤ 16) &&
  r.link.all FlitLink.wf

/-- A record of a side SIGNAL flit (R250). -/
def SigRec.wf (r : SigRec) : Bool := fits 16 r.phys && fits 32 r.inc && fits 32 r.seq && fits 32 r.sentUs

/-- The body of a message (R417). -/
def MsgBody.wf : MsgBody → Bool
  | .join _ _ _ _ phase ratio epoch lastSeq hdn =>
    fits 8 phase && fits 8 ratio && fits 8 epoch && fits 16 lastSeq && fits 16 hdn
  | .ledger _ prop => fits 8 prop
  | .fwReady manifest _ _ => fits 32 manifest
  | .other kind => fits 8 kind

/-- A message of R416. -/
def Message.wf (m : Message) : Bool := fits 2 m.dstKind && idWf m.dst && fits 2 m.srcKind && idWf m.src && m.body.wf

/-- A verdict notice (R365): FENCED is 3, ALIVE 0. -/
def Verdict.wf (n : Verdict) : Bool :=
  fits 16 n.vseq && fits 12 n.dno && (n.state == 0 || n.state == 3) && fits 8 n.epoch

/-- A sideband cell (R451): a payload of 80 bits. -/
def Cell.wf (c : Cell) : Bool := fits 4 c.kind && fits 4 c.seq && fits 16 c.hb && fits 80 c.payload

/-- A wait-to-restore timer of an input at a port, of a domain, or of an external reference (R70, R71). -/
def WtrSel.wf : WtrSel → Bool
  | .input _ p => portWf p
  | .domain _ => true
  | .ref n => decide (n < 4)

/-- A channel of the converter: 256 lanes, 64 ports, 4 references, the crystal and the loopback (R42). -/
def chWf (ch : Nat) : Bool := decide (ch ≤ 325)

/-- RETRY_REQ names 1 to 8 ranges of LSEQ (R210). -/
def rangesWf (l : List (Nat × Nat)) : Bool :=
  decide (1 ≤ l.length) && decide (l.length ≤ 8) && l.all (fun r => fits 12 r.1 && fits 12 r.2)

/-- The fields of REFETCH (R210). -/
def refetchWf (wsc slot mask tile : Nat) : Bool := fits 16 wsc && fits 15 slot && fits 16 mask && fits 20 tile

/-- A stretch of the BAR2 window of 64 GiB (R246). -/
def bar2Wf (off len : Nat) : Bool := decide (1 ≤ len) && decide (off + len ≤ 2 ^ 36)

/-- What an Announce carries, in the fields of IEEE 1588-2019 (R92). -/
def PtpClock.wf (c : PtpClock) : Bool :=
  fits 8 c.prio1 && fits 8 c.cls && fits 8 c.accuracy && fits 16 c.variance && fits 8 c.prio2 && fits 64 c.gm &&
    fits 16 c.steps && fitsInt 16 c.utcOffset && fitsInt 8 c.logInt

def PtpBody.wf : PtpBody → Bool
  | .announce c => c.wf
  | _ => true

/-- A read begins in the register that it names. -/
def ReadVia.wf (v : ReadVia) : Bool := decide (v.skew < 8)

/-- The operands of a command lie in the ranges of the fields that carry them. -/
def Instr.wf (i : Instr) : Bool :=
  match i with
  | .htNsRead via => via.wf
  | .htLoadArm _ => true
  | .htLoadApply ref => decide (ref < 4)
  | .htLoadTimeout => true
  | .spreadDepthWrite _ => true
  | .spreadDepthCommit => true
  | .profileStart => true
  | .dpllHeartbeatUpdate _ => true
  | .servoLock => true
  | .domainInputLost _ => true
  | .bridgeTimeout => true
  | .tdcStamp ch kind delta => chWf ch && fits 3 kind && decide (1 ≤ delta) && decide (delta ≤ 65536)
  | .tdcTimeout ch => chWf ch
  | .tdcLockFell => true
  | .tdcFifoRead via => via.wf
  | .tdcStatusRead via => via.wf
  | .tdcFifoStatusRead via => via.wf
  | .tdcAnchorRead k via => decide (k < 4) && via.wf
  | .cdStart _ => true
  | .cdDone => true
  | .lbStart _ => true
  | .lbDone => true
  | .delayReqSend port lane _ => portWf port && laneWf lane
  | .delayReqRx port lane reqSeq sender _ => portWf port && laneWf lane && fits 16 reqSeq && fits 16 sender
  | .delayRespSend port _ => portWf port
  | .delayRespRx port lane reqSeq _ => portWf port && laneWf lane && fits 16 reqSeq
  | .roundTripDrop port lane => portWf port && laneWf lane
  | .batchComplete port reqLane rspLane => portWf port && laneWf reqLane && laneWf rspLane
  | .delayEntryStale lane => fits 8 lane
  | .laneSwapStart _ => true
  | .laneSwapStepEnd _ => true
  | .laneSwapTimeout => true
  | .wtrExpiry sel => sel.wf
  | .dpllNarrow _ => true
  | .refEdge n _ => decide (n < 4)
  | .refLoss n => decide (n < 4)
  | .leaderYield => true
  | .tandemJoin => true
  | .holdoverQualify => true
  | .ptpMessageRx m => fits 8 m.hdr.domain && fits 16 m.hdr.seq && m.body.wf
  | .utcOffsetUpdate => true
  | .realignGo _ => true
  | .realignDone => true
  | .ppsPulse => true
  | .stepMarkPulse n => decide (n < 2)
  | .boundaryDue => true
  | .cutoff => true
  | .voteInstant => true
  | .decisionRx port d0 d1 => portWf port && d0.dec.wf && d1.all Decision.wf
  | .issuerInit => true
  | .rootStart _ => true
  | .rootResume _ => true
  | .rootHold _ => true
  | .rootStop _ => true
  | .endPhase _ => true
  | .takeIssue _ => true
  | .rearm => true
  | .armingSignal => true
  | .heartbeatSend port => portWf port
  | .heartbeatRx port hb stamps => portWf port && hb.wf && decide (stamps.length ≤ 4)
  | .spkSignal via ctx id inc =>
    spkWf via.src ctx id && fits 16 via.tag && fits 3 via.op && fits 32 inc.toNat
  | .spkWait src ctx id _ _ tag => spkWf src ctx id && fits 16 tag
  | .spkRead src ctx id tag => spkWf src ctx id && fits 16 tag
  | .spkNotify src ctx id _ tag => spkWf src ctx id && fits 16 tag
  | .spkNotifyCancel src ctx id tag => spkWf src ctx id && fits 16 tag
  | .spkWaitTimeout ctx id tag => fits 8 ctx && fits 12 id && fits 16 tag
  | .spkXlatFill memTag _ _ => fits 6 memTag
  | .ownerLostFlush => true
  | .commitXlat => true
  | .ctxSave => true
  | .ctxRestore => true
  | .ctxReset => true
  | .ctxActivate => true
  | .physAlloc => true
  | .physEvict => true
  | .physAdopt => true
  | .shareInc => true
  | .shareDec => true
  | .physFree => true
  | .physZero => true
  | .recordPlaceDeferred => true
  | .loadLocal => true
  | .broadcast => true
  | .discard => true
  | .recall => true
  | .bcastTileRx port id tile bkind bytes tcrc =>
    portWf port && fits 32 id && fits 28 tile && fits 2 bkind && bytes.length == 3584 && fits 64 tcrc
  | .shadowCheck => true
  | .nextSetLoad => true
  | .nextSetRecheck => true
  | .portTrainStart port peer => portWf port && peer.wf
  | .linkUp port => portWf port
  | .trainTimeout port => portWf port
  | .portRetrain port lane => portWf port && laneWf lane
  | .retrainDone port => portWf port
  | .retrainTimeout port => portWf port
  | .portUnisolate port => portWf port
  | .slotStart => true
  | .frameTx port => portWf port
  | .flitRx port f => portWf port && f.wf
  | .retryReqRx port ranges => portWf port && rangesWf ranges
  | .refetchRx port wsc slot mask tile => portWf port && refetchWf wsc slot mask tile
  | .refetchFailRx port wsc slot mask tile reason =>
    portWf port && refetchWf wsc slot mask tile && decide (1 ≤ reason) && decide (reason ≤ 3)
  | .creditRx port credits ack => portWf port && credits.length == 4 && credits.all (fits 16) && fits 12 ack
  | .creditSaturation port level => portWf port && decide (level < 4)
  | .schedSignalApply port => portWf port
  | .routeCommit => true
  | .sideRead port r => portWf port && r.wf
  | .sideWrite port r data tcrc => portWf port && r.wf && data.length == 8 * (r.len8 + 1) && fits 64 tcrc
  | .sideFence port r => portWf port && r.wf
  | .fenceComplete => true
  | .readSpk port r => portWf port && r.wf
  | .sideBadOp port r => portWf port && r.wf
  | .sideRspRx tag status data => fits 12 tag.tag && tag.link.all FlitLink.wf && fits 4 status && decide (data.length ≤ 3584)
  | .sideReqTimeout tag => fits 12 tag
  | .bar2Read off len => bar2Wf off len
  | .bar2Write off data => bar2Wf off data.length
  | .signalFlitRx port dno sub dstSub recs =>
    portWf port && fits 12 dno && decide (sub ≤ 16) && decide (dstSub ≤ 16) && decide (1 ≤ recs.length) &&
      decide (recs.length ≤ 14) && recs.all SigRec.wf
  | .sigAckRx dno sub ackSeq status => fits 12 dno && decide (sub ≤ 16) && fits 32 ackSeq && fits 4 status
  | .signalResend => true
  | .signalGiveUp => true
  | .xfRejectLogRead via => via.wf
  | .xfPortErrRead port via => portWf port && via.wf
  | .xfLaneStatusRead lane via => fits 8 lane && via.wf
  | .memErrLogRead via => via.wf
  | .cmbResultReady instr => fits 16 instr
  | .cmbSeedWrite _ _ => true
  | .cmbRandStart _ => true
  | .cmbRandDone => true
  | .cmbXsLogRead via => via.wf
  | .cmbMoeCountRead via => via.wf
  | .cmbSpecialRead via => via.wf
  | .tilInstrStart t residueAt =>
    (match t with | .instr i => fits 16 i | .combine i => fits 16 i) &&
      residueAt.all (fun x => fits 16 x.1 && fits 16 x.2)
  | .foldCommit => true
  | .tilFaultLogRead via => via.wf
  | .stgFaultLogRead via => via.wf
  | .stgCountRead via => via.wf
  | .detectorRoundEnd => true
  | .spareStaged d => decide (d < 16)
  | .joinRecordSend => true
  | .joinRx m => m.wf
  | .fltClear _ => true
  | .fltDoubt _ => true
  | .fltApprove _ => true
  | .commitRemap _ => true
  | .fltSwapLogRead via => via.wf
  | .verdictSend _ => true
  | .verdictRx port n => portWf port && n.wf
  | .readHt via => via.wf
  | .readSc via => via.wf
  | .readSummary via => via.wf
  | .holdAt _ => true
  | .quiesce => true
  | .portIsolate _ => true
  | .evtTail age via => fits 6 age && via.wf
  | .readNvs word via => fits 12 word && via.wf
  | .sbRelayTimeout => true
  | .sbCellTx d => decide (d < 16)
  | .sbCellRx d _ => decide (d < 16)
  | .sbRdReq c => c.wf && c.kind == 1
  | .sbWrReq c => c.wf && c.kind == 2
  | .ucodeStart len8 => fits 24 len8
  | .ucodeSegment seg bytes => fits 16 seg && bytes.length == 8
  | .ucodeEnd len8 crc => fits 24 len8 && fits 32 crc
  | .ucodeAck d _ => decide (d < 16)
  | .hostClockLoss => true
  | .hostRealign _ => true
  | .clkRegionWrite _ => true
  | .regionStopDone => true
  | .comparatorFire f => decide (f.n < 8)
  | .standbyEnter _ => true
  | .standbyExit _ => true
  | .powerSample x => fits 32 x.mw
  | .ledgerPeriodEnd => true
  | .ledgerSend => true
  | .ledgerRx port period prop => portWf port && fits 64 period && fits 8 prop
  | .hallRatioDecide => true
  | .wdgHalf c => decide (c < 4)
  | .wdgExpire c => decide (c < 4)
  | .wdgKick c _ => decide (c < 4)
  | .coreInterrupt c => decide (c < 4)
  | .hqTailWrite q _ => decide (q < 64)
  | .coreQTailWrite c _ => decide (c < 4)
  | .evqStatusRead via => via.wf
  | .mailboxWrite _ => true
  | .lanternMessageRx port m => portWf port && m.wf
  | .nvsWrite word _ => fits 12 word
  | .nvsWriteDone => true
  | .fwuStage => true
  | .fwuStageDone => true
  | .fwuActivate => true
  | .fwuConfirm => true
  | .fwuManifest => true
  | .fwuRestart => true
  | .fwReadySend => true
  | .fwReadyRx port manifest _ _ => portWf port && fits 32 manifest
  | .fwDecide => true
  | .fwDeadline => true
  | .fwGoRx port manifest _ => portWf port && fits 32 manifest
  | .fwAbortRx port n => portWf port && fits 32 n.manifest
  | .fwSlotSwap => true
  | .romBoot => true
  | .rcvChunk _ => true
  | .rcvDone _ => true
  | .streamTxBeat _ q hdr lvl _ payload =>
    decide (q < 16) && hdr.wf && decide (lvl < 4) && decide (payload.length ≤ 224)
  | .memPortResponse tag data _ => fits 6 tag && data.length == 32
  | .aonReset => true
  | .vsuReset => true
  | .vinUp => true
  | .vinDown => true
  | .modEnRise => true
  | .modEnFall => true
  | .thermalShutdown => true
  | .perstAssert => true
  | .i2cRead r => fits 7 r.addr && fits 8 r.reg
  | .jtagInstruction op => decide (op ≤ 7)
  | .registerWrite _ addr bytes _ => fits 36 addr && (bytes == 1 || bytes == 2 || bytes == 4 || bytes == 8)
  | .aonResetRelease => true
  | .vsuResetRelease => true
  | .perstRelease => true
  | .ringLockRegain => true
  | .mailboxRead via => via.wf
  | .sbRelayGo _ => true
  | .clk10mEdge => true
  | .supplyFault => true
  | .scanModeChange _ => true

end Sys2Proof
end

