-- ==== Sys2Proof/Machine/Crc.lean ====
section
/-! DEFINITION. Sys2Proof/Machine/Crc.lean: the cyclic redundancy checks of R209, and the bytes of a flit that they
cover (R207, R208). -/

namespace Sys2Proof.Machine

/-! ### CRC-32C and CRC-64 (R209) -/

/-- One bit of the reflected Castagnoli CRC. -/
def crc32Bit (c : Nat) : Nat := if c % 2 = 1 then (c / 2) ^^^ 0x82F63B78 else c / 2

def iter {α : Type} (f : α → α) : Nat → α → α
  | 0, a => a
  | n + 1, a => iter f n (f a)

def crc32Byte (c : Nat) (b : Byte) : Nat := iter crc32Bit 8 (c ^^^ b.toNat)

/-- CRC-32C: polynomial 0x1EDC_6F41, reflected, initial value and final XOR 0xFFFF_FFFF. -/
def crc32c (l : List Byte) : Nat := (l.foldl crc32Byte 0xFFFFFFFF) ^^^ 0xFFFFFFFF

/-- One bit of the CRC-64, most significant first. -/
def crc64Bit (c : Nat) : Nat :=
  if Nat.testBit c 63 then ((c * 2) % 2 ^ 64) ^^^ 0x42F0E1EBA9EA3693 else (c * 2) % 2 ^ 64

def crc64Byte (c : Nat) (b : Byte) : Nat := iter crc64Bit 8 (c ^^^ (b.toNat * 2 ^ 56))

/-- CRC-64: polynomial 0x42F0_E1EB_A9EA_3693, initial value 0, no reflection, no final inversion. -/
def crc64 (l : List Byte) : Nat := l.foldl crc64Byte 0

/-! ### The CRC-16 of a sideband cell (R451) -/

/-- One bit of the CRC-16, polynomial 0x1021: the bit enters at the most significant end. -/
def crc16Bit (c : Nat) (b : Bool) : Nat :=
  if Nat.testBit c 15 != b then ((c * 2) % 2 ^ 16) ^^^ 0x1021 else (c * 2) % 2 ^ 16

/-- The CRC-16 of the `n` low bits of a number, initial value 0xFFFF, in the order in which they are sent: bit 0 first (log
entry 161). -/
def crc16 (n x : Nat) : Nat := (upto n).foldl (fun c i => crc16Bit c (Nat.testBit x i)) 0xFFFF

/-- Bits [111:0] of a cell. -/
def cellBody (c : Cell) : Nat :=
  0xD2 + c.kind % 16 * 2 ^ 8 + c.seq % 16 * 2 ^ 12 + c.hb % 2 ^ 16 * 2 ^ 16 + c.payload % 2 ^ 80 * 2 ^ 32

/-- The 128 bits of a cell. -/
def cellBits (c : Cell) : BitVec 128 := BitVec.ofNat 128 (cellBody c + crc16 112 (cellBody c) * 2 ^ 112)

/-- The cell in 128 bits; none where SYNC is wrong or the CRC fails. -/
def cellOf (w : BitVec 128) : Option Cell :=
  let x := w.toNat
  if x % 256 = 0xD2 ∧ x >>> 112 = crc16 112 (x % 2 ^ 112) then
    some { kind := (x >>> 8) % 16, seq := (x >>> 12) % 16, hb := (x >>> 16) % 2 ^ 16, payload := (x >>> 32) % 2 ^ 80 }
  else none

/-! ### A flit's bytes (R207 to R209) -/

/-- TYPE (R207). -/
def flitType : FlitBody → Nat
  | .sched .. => 1
  | .sideReq .. => 2
  | .sideRsp .. => 3
  | .signal .. => 4
  | .sigAck .. => 5
  | .bcast .. => 6

/-- Header bits [127:32] (R208), in place. -/
def bodyBits : FlitBody → Nat
  | .sched wsc tile dno sub slot phase =>
    wsc % 2 ^ 16 * 2 ^ 32 + tile % 2 ^ 20 * 2 ^ 48 + dno % 2 ^ 12 * 2 ^ 68 + sub % 32 * 2 ^ 80 +
      slot % 2 ^ 15 * 2 ^ 85 + phase % 16 * 2 ^ 100
  | .sideReq op tag addr len8 sub dno =>
    op % 16 * 2 ^ 32 + tag % 2 ^ 12 * 2 ^ 36 + addr % 2 ^ 52 * 2 ^ 48 + len8 % 2 ^ 9 * 2 ^ 100 + sub % 32 * 2 ^ 109 +
      dno % 2 ^ 12 * 2 ^ 114
  | .sideRsp status tag dno sub =>
    status % 16 * 2 ^ 32 + tag % 2 ^ 12 * 2 ^ 36 + dno % 2 ^ 12 * 2 ^ 48 + sub % 32 * 2 ^ 60
  | .signal dd ds count sd ss =>
    dd % 2 ^ 12 * 2 ^ 32 + ds % 32 * 2 ^ 44 + count % 32 * 2 ^ 49 + sd % 2 ^ 12 * 2 ^ 54 + ss % 32 * 2 ^ 66
  | .sigAck dd ds seq status =>
    dd % 2 ^ 12 * 2 ^ 32 + ds % 32 * 2 ^ 44 + seq % 2 ^ 32 * 2 ^ 64 + status % 16 * 2 ^ 96
  | .bcast id tile kind => id % 2 ^ 32 * 2 ^ 32 + tile % 2 ^ 28 * 2 ^ 64 + kind % 4 * 2 ^ 92

/-- The 128 header bits (R207). -/
def flitHeader (f : Flit) : Nat :=
  flitType f.body + bit f.resent * 2 ^ 4 + bit f.last * 2 ^ 5 + f.level % 4 * 2 ^ 6 + f.fidx % 16 * 2 ^ 8 +
    f.crdLevel % 4 * 2 ^ 12 + f.crdCount % 64 * 2 ^ 14 + bodyBits f.body

/-- Trailer bytes 4 to 15: LSEQ, ACK and TCRC. -/
def flitTrailer (f : Flit) : List Byte :=
  leBytes 2 (f.lseq % 4096) ++ leBytes 2 (f.ack % 4096) ++ leBytes 8 f.tcrc

/-- FCRC, over the header, the payload and trailer bytes 4 to 15. -/
def flitCrc (f : Flit) : Nat := crc32c (leBytes 16 (flitHeader f) ++ padTo 224 f.payload ++ flitTrailer f)

/-- A flit as its source makes it; LSEQ, ACK, credits and FCRC are filled in as it is sent. -/
def mkFlit (body : FlitBody) (lvl fidx : Nat) (last : Bool) (payload : List Byte) (tcrc : Nat) : Flit :=
  { resent := false, last := last, level := lvl, fidx := fidx, crdLevel := 0, crdCount := 0, body := body,
    payload := padTo 224 payload, fcrc := 0, lseq := 0, ack := 0, tcrc := tcrc }

/-- The flits of a side message: its data in payloads of 224 bytes, at least one flit, TCRC over the data on the last
(R209, R242). -/
def sideFlits (body : FlitBody) (lvl : Nat) (data : List Byte) : List Flit :=
  let ps := if data.isEmpty then [[]] else chunks 224 16 data
  (upto ps.length).map fun i =>
    let l := i + 1 == ps.length
    mkFlit body lvl i l (ps.getD i []) (if l then crc64 data else 0)

/-- The flits of a message with the link fields that they were received with (R436); a flit without them keeps its own. -/
def asReceived : List Flit → List FlitLink → List Flit
  | f :: fs, l :: ls =>
    { f with level := l.level, resent := l.resent, crdLevel := l.crdLevel, crdCount := l.crdCount } :: asReceived fs ls
  | fs, [] => fs
  | [], _ => []

end Sys2Proof.Machine
end

