-- ==== Sys2Proof/Machine/Crypto.lean ====
section
/-! DEFINITION. Sys2Proof/Machine/Crypto.lean: the functions that the manual names by their standards (log entry 43):
SHA-384 (R186, R188, R422), the verification of ECDSA P-384 (R187, R422), and AES-128 (R267, R499). -/

namespace Sys2Proof.Machine

/-! ### SHA-384 (FIPS 180-4) -/

/-- The round constants. -/
def sha384K : List Nat :=
  [0x428A2F98D728AE22, 0x7137449123EF65CD, 0xB5C0FBCFEC4D3B2F, 0xE9B5DBA58189DBBC,
   0x3956C25BF348B538, 0x59F111F1B605D019, 0x923F82A4AF194F9B, 0xAB1C5ED5DA6D8118,
   0xD807AA98A3030242, 0x12835B0145706FBE, 0x243185BE4EE4B28C, 0x550C7DC3D5FFB4E2,
   0x72BE5D74F27B896F, 0x80DEB1FE3B1696B1, 0x9BDC06A725C71235, 0xC19BF174CF692694] ++
  [0xE49B69C19EF14AD2, 0xEFBE4786384F25E3, 0x0FC19DC68B8CD5B5, 0x240CA1CC77AC9C65,
   0x2DE92C6F592B0275, 0x4A7484AA6EA6E483, 0x5CB0A9DCBD41FBD4, 0x76F988DA831153B5,
   0x983E5152EE66DFAB, 0xA831C66D2DB43210, 0xB00327C898FB213F, 0xBF597FC7BEEF0EE4,
   0xC6E00BF33DA88FC2, 0xD5A79147930AA725, 0x06CA6351E003826F, 0x142929670A0E6E70] ++
  [0x27B70A8546D22FFC, 0x2E1B21385C26C926, 0x4D2C6DFC5AC42AED, 0x53380D139D95B3DF,
   0x650A73548BAF63DE, 0x766A0ABB3C77B2A8, 0x81C2C92E47EDAEE6, 0x92722C851482353B,
   0xA2BFE8A14CF10364, 0xA81A664BBC423001, 0xC24B8B70D0F89791, 0xC76C51A30654BE30,
   0xD192E819D6EF5218, 0xD69906245565A910, 0xF40E35855771202A, 0x106AA07032BBD1B8] ++
  [0x19A4C116B8D2D0C8, 0x1E376C085141AB53, 0x2748774CDF8EEB99, 0x34B0BCB5E19B48A8,
   0x391C0CB3C5C95A63, 0x4ED8AA4AE3418ACB, 0x5B9CCA4F7763E373, 0x682E6FF3D6B2B8A3,
   0x748F82EE5DEFB2FC, 0x78A5636F43172F60, 0x84C87814A1F0AB72, 0x8CC702081A6439EC,
   0x90BEFFFA23631E28, 0xA4506CEBDE82BDE9, 0xBEF9A3F7B2C67915, 0xC67178F2E372532B] ++
  [0xCA273ECEEA26619C, 0xD186B8C721C0C207, 0xEADA7DD6CDE0EB1E, 0xF57D4F7FEE6ED178,
   0x06F067AA72176FBA, 0x0A637DC5A2C898A6, 0x113F9804BEF90DAE, 0x1B710B35131C471B,
   0x28DB77F523047D84, 0x32CAAB7B40C72493, 0x3C9EBE0A15C9BEBC, 0x431D67C49C100D4C,
   0x4CC5D4BECB3E42B6, 0x597F299CFC657E2A, 0x5FCB6FAB3AD6FAEC, 0x6C44198C4A475817]

/-- The initial state. -/
def sha384H : List Nat :=
  [0xCBBB9D5DC1059ED8, 0x629A292A367CD507, 0x9159015A3070DD17, 0x152FECD8F70E5939,
   0x67332667FFC00B31, 0x8EB44A8768581511, 0xDB0C2E0D64F98FA7, 0x47B5481DBEFA4FA4]

def m64 : Nat := 2 ^ 64
/-- A 64-bit rotation to the right. -/
def rotr64 (x n : Nat) : Nat := (x >>> n) ||| ((x <<< (64 - n)) % m64)

/-- The message padded to whole blocks of 128 bytes. -/
def shaPad (l : List Byte) : List Byte :=
  let n := l.length
  l ++ [0x80] ++ List.replicate ((239 - n % 128) % 128) 0 ++ (leBytes 16 (8 * n)).reverse

/-- The eighty words of the schedule, newest first, from the sixteen of the block, newest first. -/
def shaExpand : Nat → List Nat → List Nat
  | 0, w => w
  | n + 1, w =>
    let a := w.getD 1 0
    let b := w.getD 14 0
    let s1 := rotr64 a 19 ^^^ rotr64 a 61 ^^^ (a >>> 6)
    let s0 := rotr64 b 1 ^^^ rotr64 b 8 ^^^ (b >>> 7)
    shaExpand n (((s1 + w.getD 6 0 + s0 + w.getD 15 0) % m64) :: w)

/-- The eight working variables. -/
structure Sha where
  a : Nat
  b : Nat
  c : Nat
  d : Nat
  e : Nat
  f : Nat
  g : Nat
  h : Nat
  deriving DecidableEq, Repr

/-- One round with its constant and its word. -/
def shaRound (x : Sha) (kw : Nat × Nat) : Sha :=
  let s1 := rotr64 x.e 14 ^^^ rotr64 x.e 18 ^^^ rotr64 x.e 41
  let ch := (x.e &&& x.f) ^^^ ((m64 - 1 - x.e) &&& x.g)
  let t1 := x.h + s1 + ch + kw.1 + kw.2
  let s0 := rotr64 x.a 28 ^^^ rotr64 x.a 34 ^^^ rotr64 x.a 39
  let mj := (x.a &&& x.b) ^^^ (x.a &&& x.c) ^^^ (x.b &&& x.c)
  ⟨(t1 + s0 + mj) % m64, x.a, x.b, x.c, (x.d + t1) % m64, x.e, x.f, x.g⟩

/-- One block of 128 bytes. -/
def shaBlock (x : Sha) (blk : List Byte) : Sha :=
  let w := shaExpand 64 ((chunks 8 16 blk).map beNat).reverse
  let y := (sha384K.zip w.reverse).foldl shaRound x
  ⟨(x.a + y.a) % m64, (x.b + y.b) % m64, (x.c + y.c) % m64, (x.d + y.d) % m64, (x.e + y.e) % m64, (x.f + y.f) % m64,
   (x.g + y.g) % m64, (x.h + y.h) % m64⟩

/-- The 48 bytes of SHA-384. -/
def sha384 (l : List Byte) : List Byte :=
  let h := sha384H
  let i : Sha := ⟨h.getD 0 0, h.getD 1 0, h.getD 2 0, h.getD 3 0, h.getD 4 0, h.getD 5 0, h.getD 6 0, h.getD 7 0⟩
  let p := shaPad l
  let x := (chunks 128 (p.length / 128) p).foldl shaBlock i
  [x.a, x.b, x.c, x.d, x.e, x.f].flatMap fun v => (leBytes 8 v).reverse

/-! ### ECDSA on P-384 (FIPS 186-4) -/

def p384 : Nat := 2 ^ 384 - 2 ^ 128 - 2 ^ 96 + 2 ^ 32 - 1
def n384 : Nat := 0xFFFFFFFFFFFFFFFFFFFFFFFFFFFFFFFFFFFFFFFFFFFFFFFFC7634D81F4372DDF581A0DB248B0A77AECEC196ACCC52973
def b384 : Nat := 0xB3312FA7E23EE7E4988E056BE3F82D19181D9C6EFE8141120314088F5013875AC656398D8A2ED19D2A85C8EDD3EC2AEF
def gx384 : Nat := 0xAA87CA22BE8B05378EB1C71EF320AD746E1D3B628BA79B9859F741E082542A385502F25DBF55296C3A545E3872760AB7
def gy384 : Nat := 0x3617DE4A96262C6F5D9E98BF9292DC29F8F41DBD289A147CE9DA3113B5F0B8C00A60B1CE1D7E819D7A431D7C90EA0E5F

/-- x^e mod m, over `fuel` bits of e. -/
def powMod (m : Nat) : Nat → Nat → Nat → Nat
  | 0, _, _ => 1
  | f + 1, x, e =>
    let r := powMod m f (x * x % m) (e / 2)
    if e % 2 = 1 then r * x % m else r

/-- A point in Jacobian coordinates; z = 0 is the point at infinity. -/
structure Jac where
  x : Nat
  y : Nat
  z : Nat
  deriving DecidableEq, Repr

def subP (a b : Nat) : Nat := (a + p384 - b % p384) % p384

def Jac.dbl (q : Jac) : Jac :=
  if q.z = 0 || q.y = 0 then ⟨1, 1, 0⟩
  else
    let y2 := q.y * q.y % p384
    let s := 4 * q.x * y2 % p384
    let z2 := q.z * q.z % p384
    let m := 3 * (subP q.x z2) * ((q.x + z2) % p384) % p384
    let x3 := subP (m * m % p384) (2 * s)
    ⟨x3, subP (m * subP s x3 % p384) (8 * y2 * y2), 2 * q.y * q.z % p384⟩

def Jac.add (q r : Jac) : Jac :=
  if q.z = 0 then r
  else if r.z = 0 then q
  else
    let z1 := q.z * q.z % p384
    let z2 := r.z * r.z % p384
    let u1 := q.x * z2 % p384
    let u2 := r.x * z1 % p384
    let s1 := q.y * z2 * r.z % p384
    let s2 := r.y * z1 * q.z % p384
    if u1 = u2 then (if s1 = s2 then q.dbl else ⟨1, 1, 0⟩)
    else
      let h := subP u2 u1
      let t := subP s2 s1
      let h2 := h * h % p384
      let h3 := h2 * h % p384
      let v := u1 * h2 % p384
      let x3 := subP (subP (t * t % p384) h3) (2 * v)
      ⟨x3, subP (t * subP v x3 % p384) (s1 * h3), h * q.z * r.z % p384⟩

/-- k times a point, over `fuel` bits of k. -/
def Jac.mul : Nat → Nat → Jac → Jac
  | 0, _, _ => ⟨1, 1, 0⟩
  | f + 1, k, q => let r := Jac.mul f (k / 2) q.dbl; if k % 2 = 1 then r.add q else r

/-- The verification of a signature (r, s) of a message hash by a public key given as 97 bytes, 0x04, X and Y. -/
def ecdsaOk (pub hash : List Byte) (r s : Nat) : Bool :=
  let x := beNat ((pub.drop 1).take 48)
  let y := beNat ((pub.drop 49).take 48)
  let onCurve := (y * y) % p384 == (x * x * x + (p384 - 3) * x + b384) % p384
  if pub.head? != some 4 || x ≥ p384 || y ≥ p384 || !onCurve || r = 0 || r ≥ n384 || s = 0 || s ≥ n384 then false
  else
    let w := powMod n384 384 s (n384 - 2)
    let u1 := beNat hash * w % n384
    let u2 := r * w % n384
    let q := (Jac.mul 384 u1 ⟨gx384, gy384, 1⟩).add (Jac.mul 384 u2 ⟨x, y, 1⟩)
    if q.z = 0 then false
    else
      let zi := powMod p384 384 q.z (p384 - 2)
      (q.x * zi * zi % p384) % n384 == r

/-! ### AES-128 (FIPS 197) -/

/-- Multiplication by x in the field of AES. -/
def xtime (a : Nat) : Nat := if a < 128 then 2 * a else (2 * a - 256) ^^^ 0x1B

def gmul : Nat → Nat → Nat → Nat
  | 0, _, _ => 0
  | f + 1, a, b => (if b % 2 = 1 then a else 0) ^^^ gmul f (xtime a) (b / 2)

/-- a^e in the field of AES. -/
def gpow : Nat → Nat → Nat → Nat
  | 0, _, _ => 1
  | f + 1, a, e => let r := gpow f (gmul 8 a a) (e / 2); if e % 2 = 1 then gmul 8 r a else r

def rotl8 (a n : Nat) : Nat := (a * 2 ^ n) % 256 + a / 2 ^ (8 - n)

/-- The substitution of one byte. -/
def aesSub (a : Nat) : Nat :=
  let b := gpow 8 a 254
  b ^^^ rotl8 b 1 ^^^ rotl8 b 2 ^^^ rotl8 b 3 ^^^ rotl8 b 4 ^^^ 0x63

def xorList (a b : List Nat) : List Nat := List.zipWith (fun x y => x ^^^ y) a b

/-- The next round key. -/
def aesNextKey (k : List Nat) (rcon : Nat) : List Nat :=
  let t := [aesSub (k.getD 13 0) ^^^ rcon, aesSub (k.getD 14 0), aesSub (k.getD 15 0), aesSub (k.getD 12 0)]
  let a := xorList (k.take 4) t
  let b := xorList ((k.drop 4).take 4) a
  let c := xorList ((k.drop 8).take 4) b
  a ++ b ++ c ++ xorList ((k.drop 12).take 4) c

def aesShift (s : List Nat) : List Nat :=
  [0, 5, 10, 15, 4, 9, 14, 3, 8, 13, 2, 7, 12, 1, 6, 11].map fun i => s.getD i 0

def aesMixCol (c : List Nat) : List Nat :=
  let a := c.getD 0 0
  let b := c.getD 1 0
  let d := c.getD 2 0
  let e := c.getD 3 0
  [xtime a ^^^ xtime b ^^^ b ^^^ d ^^^ e, a ^^^ xtime b ^^^ xtime d ^^^ d ^^^ e,
   a ^^^ b ^^^ xtime d ^^^ xtime e ^^^ e, xtime a ^^^ a ^^^ b ^^^ d ^^^ xtime e]

def aesMix (s : List Nat) : List Nat :=
  aesMixCol (s.take 4) ++ aesMixCol ((s.drop 4).take 4) ++ aesMixCol ((s.drop 8).take 4) ++ aesMixCol ((s.drop 12).take 4)

/-- The rounds after the first key addition: `n` more with mixing, then the last. -/
def aesRounds : Nat → Nat → List Nat → List Nat → List Nat
  | 0, rcon, k, s => xorList (aesShift (s.map aesSub)) (aesNextKey k rcon)
  | n + 1, rcon, k, s =>
    let k1 := aesNextKey k rcon
    aesRounds n (xtime rcon) k1 (xorList (aesMix (aesShift (s.map aesSub))) k1)

/-- One block under a key, both of 16 bytes. -/
def aes128 (key block : List Nat) : List Nat := aesRounds 9 1 key (xorList block key)

end Sys2Proof.Machine
end

