-- ==== Sys2Proof/Machine/Formats.lean ====
section
/-! DEFINITION. Sys2Proof/Machine/Formats.lean: the number formats of the combiner and the tile array, their rounding and
special values, FP32 arithmetic, microscaling blocks, the exact frame and XS streams (R263 to R282, R296). -/

namespace Sys2Proof.Machine

/-! ### Values -/

/-- The exact value of an element: NaN, an infinity, or a finite value with its sign, which zero has as well. `ovf` marks
an infinity that FP32 arithmetic gave for a finite overflow, which counts in SAT (R282). -/
inductive Val where
  | nan
  | inf (neg ovf : Bool)
  | fin (neg : Bool) (d : Dy)
  deriving DecidableEq, Repr

def Val.zero : Val := .fin false ⟨0, 0⟩
def Val.isNan : Val → Bool
  | .nan => true
  | _ => false

/-- A finite value: its sign is that of `d`, or `neg` for zero. -/
def mkFin (neg : Bool) (d : Dy) : Val := .fin (if d.m = 0 then neg else decide (d.m < 0)) d

/-- The magnitude's mantissa, and a signed mantissa. -/
def signed (neg : Bool) (n : Nat) : Int := if neg then - (n : Int) else (n : Int)

/-! ### Floating formats (R264) -/

/-- A floating format: exponent bits, bias, mantissa bits, and its specials: 0 as IEEE, 1 as E4M3, 2 none. -/
structure FFmt where
  eb   : Nat
  bias : Nat
  mb   : Nat
  kind : Nat
  deriving DecidableEq, Repr

def fp32 : FFmt := ⟨8, 127, 23, 0⟩

/-- The floating format of a code 0x0 to 0x7, or of the elements of MXFP8, MXFP6 and MXFP4 (R263). -/
def ffmt (code : Nat) : FFmt :=
  match code with
  | 0 => fp32
  | 1 => ⟨5, 15, 10, 0⟩
  | 2 => ⟨8, 127, 7, 0⟩
  | 3 => ⟨4, 7, 3, 1⟩
  | 4 => ⟨5, 15, 2, 0⟩
  | 5 => ⟨3, 3, 2, 2⟩
  | 6 => ⟨2, 1, 3, 2⟩
  | 7 => ⟨2, 1, 1, 2⟩
  | 8 => ⟨4, 7, 3, 1⟩
  | 9 => ⟨2, 1, 3, 2⟩
  | 10 => ⟨2, 1, 1, 2⟩
  | _ => fp32

def isFloat (code : Nat) : Bool := decide (code ≤ 7)
def isMx (code : Nat) : Bool := decide (8 ≤ code) && decide (code ≤ 11)
def isInt (code : Nat) : Bool := code == 12 || code == 13

/-- The width of an element outside XS (R263). -/
def fmtWidth (code : Nat) : Nat :=
  match code with
  | 0 => 32 | 1 => 16 | 2 => 16 | 3 => 8 | 4 => 8 | 5 => 6 | 6 => 6 | 7 => 4
  | 8 => 8 | 9 => 6 | 10 => 4 | 11 => 8 | 12 => 8 | 13 => 32 | _ => 64

/-- An encoding's value (R264). -/
def FFmt.decode (f : FFmt) (x : Nat) : Val :=
  let m := x % 2 ^ f.mb
  let e := (x >>> f.mb) % 2 ^ f.eb
  let neg := Nat.testBit x (f.mb + f.eb)
  let top := e == 2 ^ f.eb - 1
  if f.kind = 0 && top then (if m = 0 then .inf neg false else .nan)
  else if f.kind = 1 && top && m == 2 ^ f.mb - 1 then .nan
  else if e = 0 then .fin neg (Fl.norm ⟨signed neg m, 1 - (f.bias : Int) - f.mb⟩)
  else .fin neg (Fl.norm ⟨signed neg (2 ^ f.mb + m), (e : Int) - f.bias - f.mb⟩)

/-- The largest finite encoding without sign. -/
def FFmt.maxBits (f : FFmt) : Nat :=
  if f.kind = 0 then (2 ^ f.eb - 1) * 2 ^ f.mb - 1
  else if f.kind = 1 then 2 ^ (f.eb + f.mb) - 2
  else 2 ^ (f.eb + f.mb) - 1

/-- The encoding of infinity without sign, and the canonical NaN. -/
def FFmt.infBits (f : FFmt) : Nat := (2 ^ f.eb - 1) * 2 ^ f.mb
def FFmt.nanBits (f : FFmt) : Nat :=
  if f.kind = 1 then 2 ^ (f.eb + f.mb) - 1 else f.infBits + 2 ^ (f.mb - 1)

/-- What a conversion counts (R282): NaN results, saturated or overflowed results, and the NaNs that were flushed. -/
structure Cnt where
  nan   : Nat := 0
  sat   : Nat := 0
  flush : Nat := 0
  deriving DecidableEq, Repr

def Cnt.add (a b : Cnt) : Cnt := ⟨a.nan + b.nan, a.sat + b.sat, a.flush + b.flush⟩

/-- How a conversion rounds: to nearest even, or stochastically with a random word (R296). -/
inductive Rnd where
  | even
  | word (rnd : Nat)
  deriving DecidableEq, Repr

/-- n / 2^k rounded to an integer. -/
def Rnd.shift (r : Rnd) (n k : Nat) : Nat :=
  match r with
  | .even => Fl.rneShift n k
  | .word w => n >>> k + (if (65536 * (n % 2 ^ k)) >>> k + w ≥ 65536 then 1 else 0)

/-- A magnitude n · 2^e in units of 2^q, rounded. -/
def Rnd.quant (r : Rnd) (n : Nat) (e q : Int) : Nat :=
  if e ≥ q then n * 2 ^ (e - q).toNat else r.shift n (q - e).toNat

/-- The encoding of a finite magnitude without sign, exponent unbounded above: may exceed `maxBits`. -/
def FFmt.roundBits (f : FFmt) (r : Rnd) (n : Nat) (e : Int) : Nat :=
  let emin : Int := 1 - (f.bias : Int)
  let top : Int := (Fl.bits n : Int) - 1 + e
  let ex := max emin top
  let q := ex - f.mb
  let k := r.quant n e q
  -- k = 2^mb · 1.M in a normal binade; the sum carries into the exponent by itself
  if n = 0 then 0
  else if top < emin then k
  else ((ex - emin).toNat + 1) * 2 ^ f.mb + k - 2 ^ f.mb

/-- A conversion to a floating format (R282). -/
def FFmt.encode (f : FFmt) (satf : Bool) (r : Rnd) (v : Val) : Nat × Cnt :=
  let sg (neg : Bool) : Nat := if neg then 2 ^ (f.eb + f.mb) else 0
  match v with
  | .nan => if f.kind = 2 then (2 ^ (f.eb + f.mb), { flush := 1 }) else (f.nanBits, { nan := 1 })
  | .inf neg ovf =>
    if f.kind = 2 || (f.kind == 1 && satf) then (sg neg + f.maxBits, { sat := 1 })
    else if f.kind = 1 then (f.nanBits, { nan := 1, sat := bit ovf })
    else (sg neg + f.infBits, { sat := bit ovf })
  | .fin neg d =>
    let b := f.roundBits r d.m.natAbs d.e
    if b ≤ f.maxBits then (sg neg + b, {})
    else if f.kind = 2 || satf then (sg neg + f.maxBits, { sat := 1 })
    else if f.kind = 1 then (f.nanBits, { nan := 1, sat := 1 })
    else (sg neg + f.infBits, { sat := 1 })

/-! ### Integers (R282) -/

/-- A conversion to a two's complement integer of `w` bits: the bits. -/
def intEncode (w : Nat) (v : Val) : Nat × Cnt :=
  let lim (neg : Bool) : Nat := if neg then 2 ^ (w - 1) else 2 ^ (w - 1) - 1
  match v with
  | .nan => (0, { flush := 1 })
  | .inf neg _ => (lim neg, { sat := 1 })
  | .fin neg d =>
    let n := Rnd.even.quant d.m.natAbs d.e 0
    if n ≤ lim neg then ((if neg then (2 ^ w - n) % 2 ^ w else n), {}) else (lim neg, { sat := 1 })

def intDecode (w x : Nat) : Val :=
  let v := signedOf w (x % 2 ^ w)
  mkFin false (Fl.norm ⟨v, 0⟩)

/-! ### Elements outside MX and XS -/

/-- The value of an element. -/
def elemDecode (code x : Nat) : Val := if isInt code then intDecode (fmtWidth code) x else (ffmt code).decode x

/-- A conversion to an element. -/
def elemEncode (code : Nat) (satf : Bool) (r : Rnd) (v : Val) : Nat × Cnt :=
  if isInt code then intEncode (fmtWidth code) v else (ffmt code).encode satf r v

/-! ### FP32 arithmetic: each operation rounds once to nearest even, SATF 0 (R282, R308, R499) -/

/-- A value rounded to FP32. -/
def to32 (v : Val) : Val :=
  match v with
  | .fin _ _ =>
    (match fp32.decode (fp32.encode false .even v).1 with
     | .inf neg _ => .inf neg true
     | w => w)
  | w => w
def bits32 (v : Val) : Nat := (fp32.encode false .even v).1
def of32 (x : Nat) : Val := fp32.decode (x % 2 ^ 32)

def Val.neg : Val → Val
  | .nan => .nan
  | .inf s o => .inf (!s) o
  | .fin s d => .fin (!s) (Fl.negExact d)

/-- The exact sum; the sum of opposite zeros is +0. -/
def Val.addExact (a b : Val) : Val :=
  match a, b with
  | .nan, _ => .nan
  | _, .nan => .nan
  | .inf s o, .inf t q => if s = t then .inf s (o || q) else .nan
  | .inf s o, _ => .inf s o
  | _, .inf t q => .inf t q
  | .fin s x, .fin t y => mkFin (s && t) (Fl.addExact x y)

def Val.mulExact (a b : Val) : Val :=
  match a, b with
  | .nan, _ => .nan
  | _, .nan => .nan
  | .inf s o, .inf t q => .inf (s != t) (o || q)
  | .inf s o, .fin t y => if y.m = 0 then .nan else .inf (s != t) o
  | .fin s x, .inf t q => if x.m = 0 then .nan else .inf (s != t) q
  | .fin s x, .fin t y => mkFin (s != t) (Fl.mulExact x y)

def add32 (a b : Val) : Val := to32 (a.addExact b)
def sub32 (a b : Val) : Val := add32 a b.neg
def mul32 (a b : Val) : Val := to32 (a.mulExact b)
def fma32 (a b c : Val) : Val := to32 ((a.mulExact b).addExact c)

/-- A quotient with a sticky bit, exact enough that one rounding to FP32 follows. -/
def divExact (s : Bool) (x y : Dy) : Val :=
  let k := 80 + Fl.bits y.m.natAbs
  let n := x.m.natAbs * 2 ^ k
  let q := n / y.m.natAbs
  let st := if n % y.m.natAbs = 0 then 0 else 1
  mkFin s ⟨signed s (2 * q + st), x.e - y.e - k - 1⟩

def div32 (a b : Val) : Val :=
  match a, b with
  | .nan, _ => .nan
  | _, .nan => .nan
  | .inf _ _, .inf _ _ => .nan
  | .inf s o, .fin t _ => .inf (s != t) o
  | .fin s _, .inf t _ => .fin (s != t) ⟨0, 0⟩
  | .fin s x, .fin t y =>
    if y.m = 0 then (if x.m = 0 then .nan else .inf (s != t) false)
    else if x.m = 0 then .fin (s != t) ⟨0, 0⟩
    else to32 (divExact (s != t) x y)

def sqrt32 (a : Val) : Val :=
  match a with
  | .nan => .nan
  | .inf s o => if s then .nan else .inf false o
  | .fin s x =>
    if x.m = 0 then .fin s ⟨0, 0⟩
    else if s then .nan
    else
      -- an even exponent, and enough bits for the root
      let k : Nat := 120 + (if x.e % 2 = 0 then 0 else 1)
      let n := x.m.natAbs * 2 ^ k
      let r := Nat.sqrt n
      let st := if r * r = n then 0 else 1
      to32 (mkFin false ⟨(2 * r + st : Nat), (x.e - k) / 2 - 1⟩)

/-- The order of R280 on values that are not NaN: −0 below +0. -/
def Val.lt (a b : Val) : Bool :=
  match a, b with
  | .inf s _, .inf t _ => s && !t
  | .inf s _, _ => s
  | _, .inf t _ => !t
  | .fin s x, .fin t y => if x.m = 0 && y.m = 0 then s && !t else Fl.lt x y
  | _, _ => false

/-- Is a value less than another one, neither NaN: zeros are equal. -/
def Val.below (a b : Val) : Bool :=
  match a, b with
  | .fin _ x, .fin _ y => Fl.lt x y
  | _, _ => a.lt b

def maxV (a b : Val) : Val := if a.isNan || b.isNan then .nan else if a.lt b then b else a
def minV (a b : Val) : Val := if a.isNan || b.isNan then .nan else if b.lt a then b else a

/-! ### Streams (R258, R265, R266) -/

/-- Element `i` of width `w` of the number that a stream's bytes spell. -/
def elemAt (n w i : Nat) : Nat := (n >>> (w * i)) % 2 ^ w

/-- Packs elements of width `w`, and the bytes of a packed stream. -/
def pack (w : Nat) : List Nat → Nat
  | [] => 0
  | x :: r => x % 2 ^ w + 2 ^ w * pack w r
def packBytes (w : Nat) (l : List Nat) : List Byte := leBytes ((w * l.length + 7) / 8) (pack w l)

/-- An MX format's blocks in a tile, the byte where its elements begin, and the bytes of a block's elements. -/
def mxBlocks (code : Nat) : Nat := if code = 9 then 142 else if code = 10 then 210 else 108
def mxArea (code : Nat) : Nat := if code = 9 then 144 else if code = 10 then 224 else 128
def mxBytes (code : Nat) : Nat := if code = 9 then 24 else if code = 10 then 16 else 32

/-- Elements in a tile (R265, R266). -/
def perTile (code : Nat) : Nat := if isMx code then 32 * mxBlocks code else 28672 / fmtWidth code

/-- The element value of an MX element with its scale (R267). -/
def mxDecode (code scale x : Nat) : Val :=
  if scale = 255 then .nan
  else
    let v := if code = 11 then (match intDecode 8 x with
        | .fin s d => .fin s (Fl.norm ⟨d.m, d.e - 6⟩)
        | o => o) else (ffmt code).decode x
    match v with
    | .fin s d => .fin s (if d.m = 0 then d else ⟨d.m, d.e + scale - 127⟩)
    | o => o

/-- The elements of one MX tile of 3,584 bytes. -/
def mxTile (code : Nat) (l : List Byte) : List Val :=
  (upto (mxBlocks code)).flatMap fun b =>
    let sc := (l.getD b 0).toNat
    let n := leNat ((l.drop (mxArea code + mxBytes code * b)).take (mxBytes code))
    (upto 32).map fun j => mxDecode code sc (elemAt n (fmtWidth code) j)

/-- The elements of a stream in a format other than XS: of MX formats, those of its whole tiles. -/
def streamVals (code : Nat) (l : List Byte) : List Val :=
  if isMx code then (chunks 3584 (l.length / 3584 + 1) l).flatMap fun t => mxTile code (padTo 3584 t)
  else
    let n := leNat l
    let w := fmtWidth code
    (upto (8 * l.length / w)).map fun i => elemDecode code (elemAt n w i)

/-! ### Producing MX blocks (R268) -/

/-- The magnitude of a finite value as a fraction that `Fl.lt` compares. -/
def Val.mag : Val → Dy
  | .fin _ d => ⟨d.m.natAbs, d.e⟩
  | _ => ⟨0, 0⟩

/-- The exponent of a block's scale, and whether all its values are zero. -/
def mxExp (code : Nat) (vs : List Val) : Int × Bool :=
  let a := vs.foldl (fun m v => if Fl.lt m v.mag then v.mag else m) ⟨0, 0⟩
  if a.m = 0 then (-127, true)
  else
    let emax : Int := if code = 8 then 8 else if code = 11 then 0 else 2
    (max (-127) (min 127 ((Fl.bits a.m.natAbs : Int) - 1 + a.e - emax)), false)

/-- An element of MXINT8: round(value / scale × 64), saturated. -/
def mxIntEncode (r : Rnd) (neg : Bool) (d : Dy) : Nat × Cnt :=
  let n := r.quant d.m.natAbs (d.e + 6) 0
  let lim := if neg then 128 else 127
  if n ≤ lim then ((if neg then (256 - n) % 256 else n), {}) else ((if neg then 128 else 127), { sat := 1 })

/-- A block: its scale byte and its 32 elements. -/
def mxEncode (code : Nat) (rs : List Rnd) (vs : List Val) : Nat × List Nat × Cnt :=
  let special := vs.any fun v => match v with
    | .fin _ _ => false
    | _ => true
  if special then (255, List.replicate 32 0, { nan := 32 })
  else
    let ex := (mxExp code vs).1
    let es := (vs.zip rs).map fun (e : Val × Rnd) =>
      match e.1 with
      | .fin s d => if code = 11 then mxIntEncode e.2 s ⟨d.m, d.e - ex⟩
          else (ffmt code).encode true e.2 (.fin s ⟨d.m, d.e - ex⟩)
      | _ => (0, {})
    ((ex + 127).toNat, es.map (·.1), es.foldl (fun a e => a.add e.2) {})

/-- The bytes of an MX tile from its blocks' scales and elements. -/
def mxTileBytes (code : Nat) (bs : List (Nat × List Nat)) : List Byte :=
  padTo (mxArea code) (bs.map fun b => BitVec.ofNat 8 b.1) ++
  padTo (3584 - mxArea code) (bs.flatMap fun b => leBytes (mxBytes code) (pack (fmtWidth code) b.2))

/-- Values as whole blocks of 32, the last filled with +0. -/
def blocks32 : Nat → List Val → List (List Val)
  | 0, _ => []
  | n + 1, l => if l.isEmpty then [] else (l.take 32 ++ List.replicate (32 - l.length) Val.zero) :: blocks32 n (l.drop 32)

/-! ### Whole streams out (R265, R266) -/

def cntSum (l : List Cnt) : Cnt := l.foldl Cnt.add {}

/-- The bytes of a stream of a format other than XS, with what its conversions count; `rnd i` rounds element `i`. -/
def streamBytes (code : Nat) (satf : Bool) (rnd : Nat → Rnd) (vs : List Val) : List Byte × Cnt :=
  if isMx code then
    let bs := blocks32 vs.length vs
    let es := (upto bs.length).map fun b => mxEncode code ((upto 32).map fun j => rnd (32 * b + j)) (bs.getD b [])
    let per := mxBlocks code
    ((upto ((es.length + per - 1) / per)).flatMap fun t =>
        mxTileBytes code (((es.drop (per * t)).take per).map fun e => (e.1, e.2.1)),
      cntSum (es.map fun e => e.2.2))
  else
    let es := (upto vs.length).map fun i => elemEncode code satf (rnd i) (vs.getD i .nan)
    (packBytes (fmtWidth code) (es.map (·.1)), cntSum (es.map (·.2)))

/-! ### The exact frame (R269, R276, R278) -/

/-- A frame: its integer in units of 2^-149, modulo 2^312, and its flags. -/
structure Frame where
  v    : Int := 0
  nan  : Bool := false
  pinf : Bool := false
  ninf : Bool := false
  deriving DecidableEq, Repr

def wrap312 (v : Int) : Int := (v + 2 ^ 311) % 2 ^ 312 - 2 ^ 311

def Frame.add (a b : Frame) : Frame := ⟨wrap312 (a.v + b.v), a.nan || b.nan, a.pinf || b.pinf, a.ninf || b.ninf⟩

/-- A value enters a frame exactly. -/
def Frame.of (v : Val) : Frame :=
  match v with
  | .nan => { nan := true }
  | .inf true _ => { ninf := true }
  | .inf false _ => { pinf := true }
  | .fin _ d => { v := wrap312 (if d.e ≥ -149 then d.m * 2 ^ (d.e + 149).toNat else d.m / 2 ^ (-149 - d.e).toNat) }

/-- A frame's value, to be rounded once (R278). -/
def Frame.val (f : Frame) : Val :=
  if f.nan || (f.pinf && f.ninf) then .nan
  else if f.pinf then .inf false false
  else if f.ninf then .inf true false
  else mkFin false (Fl.norm ⟨f.v, -149⟩)

/-- The 320 bits of a frame (R269). -/
def Frame.bits (f : Frame) : Nat :=
  (f.v % 2 ^ 312).toNat + bit f.nan * 2 ^ 312 + bit f.pinf * 2 ^ 313 + bit f.ninf * 2 ^ 314
def Frame.ofBits (n : Nat) : Frame :=
  { v := signedOf 312 (n % 2 ^ 312), nan := Nat.testBit n 312, pinf := Nat.testBit n 313, ninf := Nat.testBit n 314 }

/-! ### XS streams (R270 to R273) -/

/-- The number of low zero bits of a nonzero number, at most `fuel`. -/
def lowZeros : Nat → Nat → Nat
  | 0, _ => 0
  | f + 1, n => if n % 2 = 0 then lowZeros f (n / 2) + 1 else 0

/-- BASE + 149 of a block: the largest power of two, at most 2^248, that divides every element (R272). -/
def xsShift (fs : List Frame) : Nat :=
  let nz := fs.filter fun f => f.v != 0
  if nz.isEmpty then 149 else nz.foldl (fun k f => min k (lowZeros 248 f.v.natAbs)) 248

/-- One block of a stream: the 258 bytes of its slot, its extension record if it takes one, and whether it could not be
encoded. `used` counts the records taken so far, of `x`. -/
def xsBlock (x used : Nat) (fs : List Frame) : List Byte × Option (List Byte) × Bool :=
  let k := xsShift fs
  let cs := fs.map fun f => f.v / 2 ^ k
  let plain := fs.all fun f => !(f.nan || f.pinf || f.ninf)
  if plain && cs.all fun c => decide (- 2 ^ 63 ≤ c) && decide (c < 2 ^ 63) then
    (leBytes 2 (((k : Int) - 149) % 1024).toNat ++ cs.flatMap (fun c => leBytes 8 (c % 2 ^ 64).toNat), none, false)
  else if used < x then
    let body := fs.flatMap fun f => leBytes 40 f.bits
    (leBytes 2 (used + 1024) ++ body.take 256, some (body.drop 256), false)
  else (leBytes 2 (0x3FF + 1024) ++ List.replicate 256 0, none, true)

/-- The blocks of a stream in order: slots, extension records, and the index of the first that could not be encoded. -/
def xsBlocks (x : Nat) : Nat → Nat → List (List Frame) → List Byte × List Byte × Option Nat
  | _, _, [] => ([], [], none)
  | used, i, b :: r =>
    let e := xsBlock x used b
    let o := xsBlocks x (if e.2.1.isSome then used + 1 else used) (i + 1) r
    (e.1 ++ o.1, e.2.1.getD [] ++ o.2.1, if e.2.2 then some i else o.2.2)

/-- Frames as whole blocks of 32. -/
def frames32 : Nat → List Frame → List (List Frame)
  | 0, _ => []
  | n + 1, l => if l.isEmpty then [] else (l.take 32 ++ List.replicate (32 - l.length) {}) :: frames32 n (l.drop 32)

/-- Fills a stream up to a whole flit. -/
def toFlits (l : List Byte) : List Byte := padTo ((l.length + 223) / 224 * 224) l

/-- An XS stream of frames with an extension reserve of `x` records (R271), and the first block that does not fit. -/
def xsBytes (x : Nat) (fs : List Frame) : List Byte × Option Nat :=
  let o := xsBlocks x 0 0 (frames32 fs.length fs)
  (toFlits (o.1 ++ padTo (1024 * x) o.2.1), o.2.2)

/-- The blocks of an XS stream of `n` bytes (R271). -/
def xsCount (x n : Nat) : Nat := (n - 1024 * x) / 258

/-- A block header: BASE + 149 or the extension index, FORM, and whether R273 refuses it. -/
def xsHead (x h : Nat) : Nat × Bool × Bool :=
  let b := h % 1024
  if Nat.testBit h 10 then (b, true, decide (b ≥ x) || b == 1023 || h / 2048 != 0)
  else
    let v := signedOf 10 b
    ((v + 149).toNat, false, decide (v < -149) || decide (v > 99) || h / 2048 != 0)

/-- Is block `b` of a stream refused. -/
def xsBad (x : Nat) (l : List Byte) (b : Nat) : Bool := (xsHead x (fieldAt l (258 * b) 2)).2.2

/-- The 32 frames of block `b` of a stream of `nb` blocks. -/
def xsFrames (x nb : Nat) (l : List Byte) (b : Nat) : List Frame :=
  let h := xsHead x (fieldAt l (258 * b) 2)
  let slot := (l.drop (258 * b + 2)).take 256
  if h.2.1 then
    let body := slot ++ (l.drop (258 * nb + 1024 * h.1)).take 1024
    (upto 32).map fun j => Frame.ofBits (fieldAt body (40 * j) 40)
  else (upto 32).map fun j => { v := wrap312 (signedOf 64 (fieldAt slot (8 * j) 8) * 2 ^ h.1) }

/-- The frames of a whole XS stream. -/
def xsAll (x : Nat) (l : List Byte) : List Frame :=
  let nb := xsCount x l.length
  (upto nb).flatMap fun b => xsFrames x nb l b

end Sys2Proof.Machine
end

