-- ==== Sys2Proof/Machine/HallMem.lean ====
section
/-! DEFINITION. Sys2Proof/Machine/HallMem.lean: a VD's offsets as side accesses see them (R240, R242, R502): main memory,
the image region, the staging rows and the sprockets. -/

namespace Sys2Proof.Machine

/-! ### Staging rows (R321, R324, R327) -/

/-- The first row that no schedule may name: from it on the rows hold the core queues (R240, R411). -/
def eventRows : Nat := 782336

/-- A row of the core queues: the records of `ring`, eight to a row, in order (R411). -/
def State.eventRow (s : State) (r : Nat) : List Byte :=
  (upto 8).flatMap fun k =>
    match s.evq.ring.find? fun e => e.1 == 8 * (r - eventRows) + k with
    | some e => e.2.bytes
    | none => List.replicate 32 0

/-- A row's 256 bytes: zeros until written (AON reset clears every row). -/
def State.rowBytes (s : State) (r : Nat) : List Byte :=
  if eventRows ≤ r then s.eventRow r else padTo 256 (s.stg.rows.get r [])

def State.setRow (s : State) (r : Nat) (l : List Byte) : State :=
  { s with stg := { s.stg with rows := s.stg.rows.set r l } }

def State.setRowMeta (s : State) (r : Nat) (m : RowMeta) : State :=
  { s with stg := { s.stg with info := s.stg.info.set r m } }

/-- A staging fault: logged in STG_FAULT_LOG, and the step counts as holding a rejected tile (R327). Kinds as in the log:
1 SLOT_ORDER, 2 SLOT_OVERRUN, 3 SIDE_INTO_SCHEDULED, 4 ACC_ORDER, 5 XS_FULL. -/
def State.stgFault (s : State) (kind row exp found req : Nat) : State :=
  let s1 := s.setReg Reg.STG_FAULT_LOG
    (mkw [(0, row % 2 ^ 20), (20, kind), (24, exp % 65536), (40, found % 65536), (56, req)])
  let s2 : State := { s1 with stg := { s1.stg with faultStep := s1.stg.faultStep || s1.cad.st == .running } }
  s2.raise (if kind = 1 then Fld.STG_STATUS_SLOT_ORDER else if kind = 2 then Fld.STG_STATUS_SLOT_OVERRUN
    else if kind = 3 then Fld.STG_STATUS_SIDE_INTO_SCHEDULED else if kind = 4 then Fld.STG_STATUS_ACC_ORDER
    else Fld.STG_STATUS_XS_FULL)

/-- The bank of a row (R321). -/
def bankOf (r : Nat) : Nat := r % 96

/-- A scheduled request for `c` bank cycles of a row's bank. A bank has four in a slot; a request that it cannot serve within
its slot is a slip (R322; log entry 49). -/
def State.bankAsk (s : State) (r c : Nat) : State :=
  let n := s.stg.load.get (bankOf r) 0 + c
  let s1 : State := { s with stg := { s.stg with load := s.stg.load.set (bankOf r) n } }
  if n > 4 then (s1.addCount Fld.STG_COUNT_SLIPS 1).raise Fld.STG_STATUS_SLIP else s1

/-- A slot's bank cycles have passed: what is left over goes first in the next one. -/
def State.bankSlot (s : State) : State :=
  { s with stg := { s.stg with load := (s.stg.load.map fun (e : Nat × Nat) => (e.1, e.2 - 4)).filter fun e => e.2 != 0 } }

/-- The bank cycles of 640 ps that have passed of the slot in progress. -/
def State.bankCycles (s : State) : Nat :=
  match s.fab.passAt with
  | some b => (s.ht * 100 / 65536 - (b.toNat * 100 + 256 * (s.fab.slot - 1))) / 64
  | none => 4

/-- A side request waits for the scheduled requests that are pending for its row's bank (R322). -/
def State.sideStall (s : State) (r : Nat) : State :=
  let n := s.stg.load.get (bankOf r) 0 - s.bankCycles
  if n = 0 then s else s.addCount Fld.STG_COUNT_SIDE_STALLS n

/-- A side access to `n` bytes of staging from an offset on: one request for each row. -/
def State.sideStalls (s : State) (o n : Nat) : State :=
  (upto ((o % 256 + n + 255) / 256)).foldl (fun t k => t.sideStall (o / 256 + k)) s

/-- The byte at an offset of the staging range. -/
def State.stgByte (s : State) (o : Nat) : Byte := (s.rowBytes (o / 256)).getD (o % 256) 0

/-- A side write of bytes that lie in one row: stores them and sets SIDE; into a row that a scheduled write of this step
has written, while RUNNING, it is a fault too (R332). -/
def State.sideRow (s : State) (o : Nat) (d : List Byte) : State :=
  let r := o / 256
  let m := s.rowMeta r
  let s1 := (s.setRow r (overlay (s.rowBytes r) (o % 256) d)).setRowMeta r { m with side := true }
  if m.cur && s.cad.st == .running then s1.stgFault 3 r 0 m.stamp 9 else s1

/-- A side write across rows, row by row. -/
def State.sideRows (s : State) : Nat → Nat → List Byte → State
  | 0, _, _ => s
  | n + 1, o, d =>
    if d.isEmpty then s
    else
      let k := 256 - o % 256
      State.sideRows (s.sideRow o (d.take k)) n (o + k) (d.drop k)

/-! ### The address map of R240 -/

def memEnd : Nat := 0x859C468000
def popEnd : Nat := 0x861C468000
def stgBase : Nat := 0xFF00000000
def stgEvt : Nat := 0xFF0BF00000
def stgEnd : Nat := 0xFF0C000000

/-- May the unit's main memory hold these addresses: below the image region. -/
def inMain (a n : Nat) : Bool := decide (a + n ≤ memEnd)

/-- A byte of the image region (R171): the byte of a held image that lies there, as far as the image is there; the layout is
open (log entry 36). -/
def State.imageByte (s : State) (o : Nat) : Byte :=
  let k := Config.imagePlace s.img.changes o
  match if k % 2 = 0 then s.img.committed else s.img.shadow with
  | some img => if img.holds (k / 2) 1 then (img.bytes (k / 2) 1).headD 0 else Config.imageRegionByte s.img.changes o
  | none => Config.imageRegionByte s.img.changes o

/-- A read or write of `n` bytes at an aligned offset of this unit: the status of R244 and the data read (R240, R242). -/
def State.memAccess (s : State) (write : Bool) (o n : Nat) (d : List Byte) : State × Nat × List Byte :=
  if o % 8 ≠ 0 || n % 8 ≠ 0 || o % 4096 + n > 4096 then (s, 2, [])
  else if o < memEnd then
    (if write then ({ s with fab := { s.fab with ram := Memory.writeBytes s.fab.ram o d } }, 0, [])
     else (s, 0, Memory.readBytes s.fab.ram o n))
  else if o < popEnd then
    (if write then (s, 2, []) else (s, 0, (upto n).map fun i => s.imageByte (o - memEnd + i)))
  else if o < stgBase then (s, 1, [])
  else if o < stgEvt then
    (if !s.flag Fld.STG_CTRL_SIDE_EN then (s, 2, [])
     else if write then ((s.sideStalls (o - stgBase) n).sideRows 17 (o - stgBase) d, 0, [])
     else (s.sideStalls (o - stgBase) n, 0, (upto n).map fun i => s.stgByte (o - stgBase + i)))
  else if o < stgEnd then (s, 2, [])
  else (s, 1, [])

/-! ### READ_SPK (R502) -/

/-- The status and value of a sprocket of this unit, by its physical number. -/
def State.spkStatusOf (s : State) (p : Nat) : Nat × Option W :=
  if p ≥ s.nSpk then (1, none)
  else
    match (s.meta p).st with
    | .free => (9, none)
    | .evicted => (10, none)
    | .ownerLost => (11, some (s.spkVal p))
    | _ => (0, some (s.spkVal p))

/-- READ_SPK at the unit that holds the sprocket: ADDR[39:16], or ADDR[39:21] with ADDR[20] = 1, must be zero. -/
def State.readSpkAt (s : State) (addr : Nat) : Nat × List Byte :=
  let hi := (addr >>> 21) % 2 ^ 19
  let bad := hi != 0 || (!Nat.testBit addr 20 && (addr >>> 16) % 16 != 0)
  if bad then (1, [])
  else
    let r := s.spkStatusOf (addr % 65536)
    (r.1, match r.2 with
      | some v => leBytes 8 v.toNat
      | none => [])

/-- A request of this unit's own to itself. -/
def State.ownAccess (s : State) (op addr len8 : Nat) (d : List Byte) : State × Nat × List Byte :=
  let o := addr % 2 ^ 40
  if op = 0 then s.memAccess false o (8 * (len8 + 1)) []
  else if op = 1 then s.memAccess true o (8 * (len8 + 1)) (padTo (8 * (len8 + 1)) d)
  else if op = 2 then (s, 0, [])
  else if op = 3 then
    let r := s.readSpkAt addr
    (s, r.1, r.2)
  else (s, 5, [])

end Sys2Proof.Machine
end

