-- ==== Sys2Proof/Machine/Route.lean ====
section
/-! DEFINITION. Sys2Proof/Machine/Route.lean: where side flits go (R219, R229, R233 to R235), how a unit sends a side
request of its own (R242, R245, R249), and how a sprocket operation completes (R137, R159, R160, R498). -/

namespace Sys2Proof.Machine

/-! ### The DNO table (R233) -/

def entKind (e : Nat) : Nat := e % 4
def entPod (e : Nat) : Nat := (e >>> 2) % 32
def entPos (e : Nat) : Nat := (e >>> 7) % 32
def entHome (e : Nat) : Nat := (e >>> 12) % 4096
def entDie (e : Nat) : Nat := (e >>> 24) % 16
def entFenced (e : Nat) : Bool := Nat.testBit e 28

/-- The unit that a DNO is routed as: a die window as its HOME (R234). -/
def State.homeOf (s : State) (d : Nat) : Nat := if entKind (s.dnoEnt d) = 3 then entHome (s.dnoEnt d) else d

/-- Where a side flit goes (R219, R234). -/
inductive Route where
  | loc
  | die (d : Nat)
  | port (p : Nat)
  | noRoute
  | unreach
  deriving DecidableEq, Repr

/-- The port of a row that names one port, by that port's state (R219). -/
def State.namedPort (s : State) (p : Nat) : Route :=
  match (s.port p).st with
  | .up | .retrain => .port p
  | .isolated => .unreach
  | _ => .noRoute

/-- The candidate of a row that offers several: number (src ^ d ^ (d >> 5)) mod n. -/
def pickPort (src d : Nat) (l : List Nat) : Option Nat := l[(src ^^^ d ^^^ (d >>> 5)) % l.length]?

/-- The port of a row that offers candidates; in the place of one that is DOWN or TRAINING another UP one (R219). -/
def State.candPort (s : State) (src d : Nat) (l : List Nat) : Route :=
  match pickPort src d l with
  | none => .noRoute
  | some p =>
    match s.namedPort p with
    | .noRoute =>
      (match pickPort src d (l.filter fun q => s.portUp q) with
       | some q => .port q
       | none => .noRoute)
    | r => r

/-- The port of a die port that is in use for it: P(2d) while that is UP, else P(2d + 1) (R234). -/
def State.diePort (s : State) (d : Nat) : Nat := if !s.portUp (2 * d) && s.portUp (2 * d + 1) then 2 * d + 1 else 2 * d

/-- A route that names a die, by the state of the die's port in use. -/
def State.exit (s : State) (r : Route) : Route :=
  match r with
  | .die k => s.namedPort (s.diePort k)
  | r => r

/-- The protocol level of a part code (R3): 0 for one that is not listed. -/
def partLevel (part : Nat) : Nat :=
  if part = 0x0101 then 1 else if part = 0x0201 then 2 else if part = 0x0301 then 3 else 0

/-- The protocol level of the die on a die port, by its identity register (R3); 0 until that has been read. -/
def State.dieLevel (s : State) (d : Nat) : Nat := partLevel ((((s.die d).idPart.getD 0).toNat >>> 16) % 65536)

/-- The up-ports that XF_POD_ROUTE offers toward a pod. -/
def State.podPorts (s : State) (q : Nat) : List Nat :=
  ((upto 64).filter fun p => decide (32 ≤ p) && (s.fab.podAct.get q 0).getLsbD p)

/-- The route of a side flit; a die number that a destination names is a logical position (R357), a window's DIE_PORT a
physical port.  From source unit `src` to destination unit `d` (R234). `die` names the die port of this unit
that it is for when `d` is this unit: a DST_SUB below 16, a window's die, or a READ_SPK with ADDR[20]. -/
def State.route (s : State) (src d : Nat) (die : Option Nat) : Route :=
  if !s.isVd then s.namedPort (if s.portUp 0 then 0 else 1)
  else
    let e := s.dnoEnt d
    let h := s.homeOf d
    let eh := s.dnoEnt h
    let own := s.dnoEnt s.ident.dno
    if entFenced e || entFenced eh then .unreach
    else if h = s.ident.dno then
      (if entKind e = 3 then .die (entDie e)
       else
         match die with
         | some k => .die (s.physOf k)
         | none => .loc)
    else if s.isDome then
      (if entPod eh = entPod own && entKind eh = 2 then s.namedPort (32 + entPos eh)
       else if entPod eh = entPod own && entKind eh = 1 then
         s.candPort src h ((upto 64).filter fun p => decide (32 ≤ p) && s.portUp p)
       else if entKind eh = 0 then .noRoute
       else s.candPort src h (s.podPorts (entPod eh)))
    else
      (if entPod eh = entPod own && entKind eh = 1 then s.namedPort (entPos eh)
       else if entPod eh = entPod own && entKind eh = 2 then
         s.candPort src h ((upto 32).filter fun p => s.portUp p)
       else if entKind eh = 0 then .noRoute
       else s.candPort src h (s.podPorts (entPod eh)))

/-- The way out for a side flit of this unit's own, by the states of the ports (R219, R234). -/
def State.wayOut (s : State) (d : Nat) (die : Option Nat) : Route := s.exit (s.route s.srcDno d die)

/-- The level of a side flit of this unit's own to a unit (R229). A VSU holds no table of pods: theirs is a free value for it
(log entry 35); a U1 sends MGMT and LOCAL only (R456). -/
def State.levelTo (s : State) (d : Nat) : Nat :=
  if s.isVd then
    let h := s.homeOf d
    if h = s.ident.dno then 1
    else if entPod (s.dnoEnt h) = entPod (s.dnoEnt s.ident.dno) then 2
    else 3
  else if s.ident.kind == .u1 || d == s.ident.hdn / 16 then 1
  else if Config.podOf d = Config.podOf (s.ident.hdn / 16) then 2
  else 3

/-! ### Putting side flits into a port's level queue -/

/-- Adds a flit to a port's queue of its level; `from'` is the port whose level buffer it lies in, none for a flit of
the unit itself. -/
def State.queueFlit (s : State) (p : Nat) (src : Option Nat) (f : Flit) : State :=
  let x := s.port p
  s.setPort p { x with q := setAt x.q f.level (x.q.getD f.level [] ++ [(src, f)]) }

def State.queueFlits (s : State) (p : Nat) (src : Option Nat) (fs : List Flit) : State :=
  fs.foldl (fun t f => t.queueFlit p src f) s

/-! ### How a sprocket operation completes (R137, R144, R159, R160, R443) -/

/-- Completes an operation with a status and a value. A host page shows status and kind, and the value of a READ; a host
WAIT also writes an SPK_WAIT_DONE record, a BUSY one only where its queue can take the record now (R414; log entry 187); a
port or core gets a response. `no` is the operation's number on its page: the
page shows its last operation and its last READ, whichever ends later. -/
def State.spkDone (s : State) (src : SpkSrc) (kind ctx id tag no status : Nat) (v : W) : State :=
  match src with
  | .hostPage =>
    let x := s.ctx ctx
    let last := x.opNo = no
    let y := { x with
      lastStatus := if last then status else x.lastStatus, lastKind := if last then kind else x.lastKind,
      readValue := if kind = 2 && x.readNo = no then v else x.readValue }
    let s1 : State := { s with spk := { s.spk with ctxs := s.spk.ctxs.set ctx y } }
    if kind = 1 && !(status = 8 && !s1.queueTakes (s1.ctxQ ctx)) then
      s1.recordKept 0x581 (spkArg0 ctx id tag status) v (s1.ctxQ ctx)
    else s1
  | _ => s.emit (.spkDone src kind tag status v)

/-! ### Side requests of the unit's own (R242 to R245, R249) -/

/-- The destination unit of a hall address. -/
def hallUnit (a : Nat) : Nat := (a >>> 40) % 4096

/-- The die port of this unit that a request's address names: READ_SPK with ADDR[20] = 1 (R242). -/
def spkDie (op addr : Nat) : Option Nat :=
  if op = 3 && Nat.testBit addr 20 then some ((addr >>> 16) % 16) else none

/-- The body of a request's flits. -/
def State.reqBody (s : State) (r : SideOut) : FlitBody :=
  .sideReq r.op r.tag r.addr r.len8 s.srcSub s.srcDno

/-- The status of R498 for a side response to READ_SPK. -/
def spkStatus (st : Nat) : Nat :=
  if st = 0 then 0 else if st = 11 then 2 else if st = 10 then 11 else if st = 9 || st = 1 then 4
  else if st = 2 then 5 else if st = 3 || st = 4 then 10 else if st = 6 then 1 else 4

/-- Logs a failed request in MEM_ERR_LOG (R256), and raises MEM_TIMEOUT or MEM_ERROR. -/
def State.memFail (s : State) (r : SideOut) (st : Nat) (bar2 : Bool) : State :=
  let s1 := s.setReg Reg.MEM_ERR_LOG (mkw [(0, r.addr % 2 ^ 52), (52, st), (56, r.op % 16), (60, bit bar2)])
  if st = 6 then s1.raise Fld.MEM_STATUS_TIMEOUT else s1.raise Fld.MEM_STATUS_ERROR

/-- A BAR2 access that is split into several requests collects their answers: the access's number, what is still to come,
and the data by offset. -/
def State.bar2Piece (s : State) (n off st : Nat) (data : List Byte) : State :=
  match s.fab.bar2.find? fun e => e.1 == n with
  | none => s
  | some (_, left, got) =>
    let got1 := got ++ [(off, if st = 0 then data else [])]
    let bad := st != 0 || got.any fun e => e.2.isEmpty
    if left ≤ 1 then
      let all := (got1.mergeSort fun a b => a.1 ≤ b.1).flatMap fun (e : Nat × List Byte) => e.2
      { s with fab := { s.fab with bar2 := s.fab.bar2.filter fun e => e.1 != n },
               out := s.out ++ [.bar2Done (bit bad) (if bad then [] else all)] }
    else
      { s with fab := { s.fab with bar2 := s.fab.bar2.map fun e => if e.1 == n then (n, left - 1, got1) else e } }

/-- What a completed request means to the part of the unit that made it (R244, R247, R289, R498): a SIDE_LOAD that fails
makes the step count as holding a rejected tile. -/
def State.sideComplete (s : State) (r : SideOut) (st : Nat) (data : List Byte) (link : List FlitLink := []) : State :=
  match r.use with
  | .spkRead src ctx id tag no v32 =>
    let v := BitVec.ofNat 64 (if st = 0 || st = 11 then leNat (data.take 8) % (if v32 then 2 ^ 32 else 2 ^ 64) else 0)
    (if st = 0 then s else s.memFail r st false).spkDone src 2 ctx id tag no (spkStatus st) v
  | .bar2Read n off => (if st = 0 then s else s.memFail r st true).bar2Piece n off st data
  | .bar2Write => if st = 0 then s else s.memFail r st true
  | .sig .. => s
  | .hostSig .. => s
  | .stream =>
    (if st = 0 then s else s.memFail r st false).emits
      ((asReceived (sideFlits (.sideRsp st r.tag s.srcDno s.srcSub) 0 data) link).map fun f => .srx 2 f)
  | .cmb i w =>
    let d : Option (List Byte) := if st = 0 then some data else none
    let here := decide (s.cad.wsc.toNat % 65536 = w) && s.cmb.runs.any fun c => c.instr == i
    let s1 : State := if here then { s with cmb := { s.cmb with
        faultStep := s.cmb.faultStep || st != 0,
        runs := s.cmb.runs.map fun c => if c.instr == i then { c with side := some d } else c } } else s
    if st = 0 then s1 else s1.memFail r st false

/-- Is an address refused before it is routed, with ADDR_ERR: a READ_SPK of a die window, or of a die of this unit that is
not at protocol level 3 (R502), or an address in a die window whose HOME is no DOME that the unit knows (R244; log
entry 148). -/
def State.addrBad (s : State) (op addr : Nat) : Bool :=
  let d := hallUnit addr
  let e := s.dnoEnt d
  s.isVd && ((op == 3 && entKind e == 3) || (entKind e == 3 && entKind (s.dnoEnt (entHome e)) != 1) ||
    (d == s.ident.dno && (spkDie op addr).any fun k => s.dieLevel (s.physOf k) != 3))

/-- Sends a request that has its tag, or completes it at once where it has no route (R219, R235). -/
def State.sideSend (s : State) (r : SideOut) : State :=
  let d := hallUnit r.addr
  let fs := sideFlits (s.reqBody r) (if r.use == .stream then r.lvl else s.levelTo d) r.data
  let keep (t : State) : State :=
    { t with fab := { t.fab with side := t.fab.side ++ [{ r with sentAt := t.time.now }] } }
  if s.addrBad r.op r.addr then s.sideComplete r 1 []
  else
  match s.wayOut d (spkDie r.op r.addr) with
  | .port p => (keep s).queueFlits p none fs
  | .die k => (keep s).queueFlits (s.diePort k) none fs
  | .loc =>
    let x := s.ownAccess r.op r.addr r.len8 r.data
    x.1.sideComplete r x.2.1 x.2.2
  | .noRoute => s.sideComplete r 3 []
  | .unreach => s.sideComplete r 4 []

/-- Does a new request or SIGNAL to a unit wait behind what waits already: a route change holds the pair, or an earlier one
of it waits (R248, R249). -/
def State.pairHeld (s : State) (d : Nat) : Bool :=
  s.fab.holdDst.contains d || s.fab.sideWait.any fun w => hallUnit w.addr == d

/-- Do two accesses overlap, by their addresses and lengths. -/
def overlap (a n b m : Nat) : Bool := decide (a < b + m) && decide (b < a + n)

/-- Must a request follow a WRITE of its pair that is not answered yet, and so may have to be sent again (R243, R248): a FENCE,
and an access that overlaps it. -/
def State.afterWrite (s : State) (op addr len8 : Nat) : Bool :=
  s.fab.side.any fun r => r.op == 1 && hallUnit r.addr == hallUnit addr &&
    (op == 2 || (decide (op < 2) && overlap r.addr (8 * (r.len8 + 1)) addr (8 * (len8 + 1))))

/-- Does a new request to a unit wait at its source: no tag is free, its pair is held, or it must follow a WRITE (R245, R248,
R249). -/
def State.sideWaits (s : State) (op addr len8 : Nat) : Bool :=
  decide (s.fab.side.length ≥ 4096) || s.pairHeld (hallUnit addr) || s.afterWrite op addr len8

/-- Does a SIGNAL to a unit wait: behind what its pair holds back, and behind a WRITE of the pair (R248, R249). -/
def State.signalWaits (s : State) (d : Nat) : Bool :=
  s.pairHeld d || s.fab.side.any fun r => r.op == 1 && hallUnit r.addr == d

/-- The next tag that is not in use. -/
def State.freeTag (s : State) : Nat :=
  ((upto 4096).map fun i => (s.fab.nextTag + i) % 4096).find? (fun t => !s.fab.side.any fun r => r.tag == t)
    |>.getD 0

/-- Starts a side request of the unit's own. -/
def State.sideStart (s : State) (op addr len8 : Nat) (data : List Byte) (use : SideUse) : State :=
  let r : SideOut := { tag := 0, op, addr, len8, data, sentAt := s.time.now, tries := 0, use }
  if s.sideWaits op addr len8 then { s with fab := { s.fab with sideWait := s.fab.sideWait ++ [r] } }
  else
    let t := s.freeTag
    ({ s with fab := { s.fab with nextTag := (t + 1) % 4096 } }).sideSend { r with tag := t }

/-- Starts a request that the host die of a VSU put on the stream port, under the tag and at the level that it gave
(R245, R448). -/
def State.streamStart (s : State) (r : SideOut) : State :=
  if s.sideWaits r.op r.addr r.len8 || s.fab.side.any (fun x => x.tag == r.tag) then
    { s with fab := { s.fab with sideWait := s.fab.sideWait ++ [r] } }
  else s.sideSend r

end Sys2Proof.Machine
end

