-- ==== Sys2Proof/Machine/Image.lean ====
section
/-! DEFINITION. Sys2Proof/Machine/Image.lean: how images arrive and are checked and loaded (R186 to R201, R285, R312): the
checks of R195 in their order, each of which answers the place of its failure. -/

namespace Sys2Proof.Machine

/-! ### Helpers of the checks -/

/-- A failure of a check, or none. -/
def failIf (bad : Bool) (code phase item off : Nat) : Option ChkFail :=
  if bad then some { code, phase, item := item % 65536, off := off % 2 ^ 32 } else none

/-- The first failure of a list. -/
def firstFail : List (Option ChkFail) → Option ChkFail
  | [] => none
  | some f :: _ => some f
  | none :: r => firstFail r

/-- Is a byte range of an image all zeros. -/
def Img.zeros (img : Img) (off n : Nat) : Bool := (img.bytes off n).all fun b => b == 0

/-- A directory entry's sorting key (R168). -/
def DirEnt.key (e : DirEnt) : Nat := e.kind * 65536 + e.unit

/-- The protocol level that agrees with a KIND (R168). -/
def kindLevel (k : Nat) : Nat := if k = 4 then 2 else if k = 5 then 1 else 3

/-- SEC_MAGIC of a KIND (R169, R458). -/
def secMagic (k : Nat) : Nat := if k = 4 then 0x4B565532 else if k = 5 then 0x4B565531 else 0x4B565345

/-! ### Logical ports of a DOME (R357, R362): what the live set names for a logical position -/

/-- The physical port of a port number in a table of this unit. -/
def State.physPort (s : State) (o : Nat) : Nat :=
  if s.isDome && o < 32 then 2 * s.physOf (o / 2) + o % 2 else o

/-- The logical port of a physical port. -/
def State.logPort (s : State) (p : Nat) : Nat :=
  if s.isDome && p < 32 then 2 * s.logicalOf (p / 2) + p % 2 else p

/-- Is a port trained: UP or RETRAIN. -/
def State.trained (s : State) (p : Nat) : Bool := (s.port p).st == .up || (s.port p).st == .retrain

/-! ### Common part (R195) -/

/-- BAD_HEADER in the header and the directory. -/
def Img.headerFail (img : Img) : Option ChkFail :=
  let n := img.nPhases
  if img.magic ≠ 0x4B56494D || img.format ≠ 1 || n < 1 || n > 16 || img.entryPhase ≥ n ||
      img.dirOff ≠ 0x100 + 128 * n || img.dirCount < 1 || img.dirCount > 18432 ||
      img.isSigned != (img.sigOff != 0) then failIf true 1 0 0 0
  else
    let es := img.dir
    let same (a b : DirEnt) : Bool := a.unit == b.unit && decide (a.kind ≤ 2) == decide (b.kind ≤ 2)
    firstFail ((upto es.length).map fun i =>
      match es[i]? with
      | some b =>
        failIf ((match es[i - 1]? with
          | some a => decide (0 < i) && decide (a.key ≥ b.key)
          | none => false) || (es.take i).any fun a => same a b) 1 0 i (img.dirOff + 80 * i)
      | none => none)

/-- The parts of an image: offset and length of each, equal sections once. -/
def Img.parts (img : Img) : List (Nat × Nat) :=
  let secs : List (Nat × Nat) := img.dir.map fun e => (e.secOff, e.secLen)
  let sig : List (Nat × Nat) := if img.isSigned then [(img.sigOff, 256)] else []
  ((0, img.dirOff + up64 (80 * img.dirCount)) :: (sig ++ secs)).mergeSort
    fun a b => decide (a.1 < b.1) || (a.1 == b.1 && decide (a.2 ≤ b.2))

/-- Does a sorted list of parts overlap. -/
def partsOverlap : List (Nat × Nat) → Bool
  | [] => false
  | [_] => false
  | a :: b :: r => (a != b && decide (a.1 + a.2 > b.1)) || partsOverlap (b :: r)

/-- BAD_LENGTH of the common part. A TOTAL_LEN beyond 64 GiB counts as a bad length (log entry 44). -/
def Img.lengthFail (img : Img) : Option ChkFail :=
  let tl := img.totalLen
  let bad (off len : Nat) : Bool := off % 64 != 0 || decide (off + len > tl)
  firstFail
    [failIf (decide (tl > 2 ^ 36) || bad 0 img.dirEnd || (img.isSigned && bad img.sigOff 256)) 2 0 0 0,
     firstFail ((upto img.dir.length).map fun i =>
      let e := img.dirEnt i
      failIf (bad e.secOff e.secLen) 2 0 i (img.dirOff + 80 * i)),
     failIf (partsOverlap img.parts) 2 0 0 0]

/-- RESERVED in the common part and the signature block. -/
def Img.reservedFail (img : Img) : Option ChkFail :=
  firstFail
    [failIf (img.flags / 4 != 0 || !img.zeros 0x1A 2 || !img.zeros 0x40 64 || !img.zeros 0xB0 80) 3 0 0 0,
     firstFail ((upto img.nPhases).map fun p =>
      let b := 0x100 + 128 * p
      failIf (img.nat (b + 0x18) 2 / 2 != 0 || !img.zeros (b + 0x1A) 6 || !img.zeros (b + 0x30) 80) 3 p 0 b),
     firstFail ((upto img.dir.length).map fun i =>
      let b := img.dirOff + 80 * i
      let e := img.dirEnt i
      failIf (e.kind < 1 || e.kind > 5 || !img.zeros (b + 6) 2 || !img.zeros (b + 0x48) 8) 3 0 i b),
     failIf (!img.zeros img.dirEnd (up64 img.dirEnd - img.dirEnd)) 3 0 0 img.dirEnd,
     failIf (img.isSigned && (!img.zeros (img.sigOff + 4) 4 || !img.zeros (img.sigOff + 0x69) 7 ||
      !img.zeros (img.sigOff + 0xD0) 48)) 3 0 0 img.sigOff]

/-- COMMON_DIGEST (R186). -/
def Img.commonDigest (img : Img) : List Byte :=
  sha384 (img.bytes 0 0x80 ++ img.bytes 0x100 (img.dirEnd - 0x100))

/-- SHA-384 of the accepted public key (R188). -/
def State.keyHash (s : State) : List Byte := (upto 6).flatMap fun k => leBytes 8 (s.preg (Reg.IMG_KEYHASH + 8 * k)).toNat

/-- Codes 0x04 to 0x07: digest and signature. -/
def State.signFail (s : State) (img : Img) : Option ChkFail :=
  let so := img.sigOff
  let pub := img.bytes (so + 8) 97
  firstFail
    [failIf (img.bytes 0x80 48 != img.commonDigest) 4 0 0 0x80,
     failIf (!img.isSigned && (s.preg Reg.IMG_POLICY).getLsbD 0) 5 0 0 0,
     failIf (img.isSigned && sha384 pub != s.keyHash) 6 0 0 so,
     failIf (img.isSigned && (img.nat so 4 != 0x4B565347 ||
      !ecdsaOk pub (img.bytes 0x80 48) (beNat (img.bytes (so + 0x70) 48)) (beNat (img.bytes (so + 0xA0) 48)))) 7 0 0 so]

/-- Does a logical die position count for NO_SECTION. -/
def State.posCounts (s : State) (l : Nat) : Bool :=
  let d := s.physOf l
  (s.portUp (2 * d) || s.portUp (2 * d + 1)) && s.dieRole d != 2 && s.dieRole d != 3

/-- NO_SECTION. -/
def State.sectionFail (s : State) (img : Img) : Option ChkFail :=
  firstFail
    [failIf (s.ownEnt img).isNone 8 0 0 0,
     if s.isDome then
      firstFail ((upto 16).map fun l =>
        failIf (s.posCounts l && (img.dieEnt (s.ident.dno * 16 + l)).isNone) 8 0 (s.physOf l) 0)
     else none]

/-- PHASE_FIELD of one descriptor (R167). -/
def Img.phaseFail (img : Img) (p : Nat) : Option ChkFail :=
  let d := img.phaseDesc p
  failIf (d.stepNs < 200 || d.tableSlots < 1 || d.tableSlots > 32768 ||
    !(decide (d.successor < img.nPhases) || (decide (16 ≤ d.successor) && decide (d.successor < 32)) || d.successor == 255) ||
    d.holdDist < 1 || (d.ckptOffset != 0 && decide (d.ckptOffset ≥ d.ckptEvery))) 0xB p 0 (0x100 + 128 * p)

/-- The sections that a unit keeps, in directory order: its own, and at a DOME those of its logical die positions. -/
def State.kept' (s : State) (img : Img) : List (Nat × DirEnt) :=
  ((upto img.dir.length).map fun i => (i, img.dirEnt i)).filter fun e =>
    (if s.isVd then (e.2.kind == 1 || e.2.kind == 2) && e.2.unit == s.ident.dno
     else e.2.kind ≥ 3 && e.2.unit == s.ident.hdn) ||
    (s.isDome && e.2.kind ≥ 3 && e.2.unit / 16 == s.ident.dno)

/-- The length of the common part: the first half of the header, the descriptors and the directory (R164). -/
def Img.commonLen (img : Img) : Nat := img.dirEnd - 0x80

/-- The length of the held image, and its limit (R171). -/
def State.heldLen (s : State) (img : Img) : Nat :=
  img.commonLen + (((s.kept' img).map fun e => (e.2.secOff, e.2.secLen)).eraseDups.map (·.2)).sum
def State.heldMax (s : State) : Nat := if s.isVd then 2 ^ 30 else 2 ^ 22

/-- The checks of the common part in code order. -/
def State.commonFail (s : State) (img : Img) : Option ChkFail :=
  match img.headerFail with
  | some f => some f
  | none =>
    match img.lengthFail with
    | some f => some f
    | none =>
      firstFail
        [img.reservedFail, s.signFail img, s.sectionFail img,
         firstFail ((upto img.nPhases).map img.phaseFail),
         failIf (img.jobDies != (img.dir.filter fun e => decide (3 ≤ e.kind) && decide (e.kind ≤ 5)).length) 0xC 0 0 0x1C,
         failIf (decide (s.heldLen img > s.heldMax)) 0xD 0 0 0]

/-! ### Sections (R195) -/

/-- BAD_LENGTH inside a section: its phase subsections and their arrays. -/
def Img.secLenFail (img : Img) (i : Nat) (e : DirEnt) : Option ChkFail :=
  if e.secLen < 192 then failIf true 2 0 i 0
  else
    firstFail ((upto img.nPhases).map fun p =>
      let o := img.phOff e.secOff p
      failIf (o != 0 && (o % 64 != 0 || decide (o + 64 > e.secLen) ||
        decide (o + (img.lay (e.secOff + o)).stop > e.secLen))) 2 p i o)

/-- ID_MISMATCH of an entry: the unit's own by its role and identity register; a die's by its port. -/
def State.idFail (s : State) (i : Nat) (e : DirEnt) : Option ChkFail :=
  let own := viewId s 0
  let rev := (own.toNat >>> 32) % 256
  let grade := (own.toNat >>> 40) % 256
  let bad (kind level rv gr : Nat) : Bool :=
    e.kind != kind || e.level != level || (e.rev != 255 && e.rev != rv) || (e.grade != 255 && e.grade != gr)
  if s.isVd && e.kind ≤ 2 then failIf (bad (if s.isDome then 1 else 2) 3 rev grade) 0xA 0 i 0
  else if s.isDome then
    let d := s.physOf (e.unit % 16)
    let v := ((s.die d).idPart.getD 0).toNat
    failIf (s.posCounts (e.unit % 16) &&
      bad (6 - s.dieLevel d) (s.dieLevel d) ((v >>> 32) % 256) ((v >>> 40) % 256)) 0xA 0 d 0
  else failIf (bad (6 - s.level) s.level rev grade) 0xA 0 i 0

/-! ### Subsections: RESERVED and CAPACITY (R171 to R174, R195, R458) -/

/-- Where a set lies: the image, the section's offset, the offset of the phase's subsection in it, and its layout. -/
structure SetPlace where
  img : Img
  sec : Nat
  ph  : Nat
  lay : SubLay
  deriving DecidableEq, Repr

/-- The first failing run of a set: `bad` is asked of each output, the run's first slot, and the run. -/
def runFail (q : SetPlace) (ps : PhaseSet) (code : Nat) (bad : Nat → Nat → Run → Bool) : Option ChkFail :=
  firstFail ((upto ps.outs.length).map fun o =>
    let first := q.img.nat (q.sec + q.ph + q.lay.outs + 4 * o) 4
    let rs := runStarts (ps.outs.getD o []) 0
    firstFail ((upto rs.length).map fun j =>
      match rs[j]? with
      | some e => failIf (bad o e.1 e.2) code ps.phase o (q.ph + q.lay.runs + 8 * (first + j))
      | none => none))

/-- The first failing element of an array of a set. -/
def itemFail {α : Type} (l : List α) (code phase off size : Nat) (bad : Nat → α → Bool) : Option ChkFail :=
  firstFail ((upto l.length).map fun i =>
    match l[i]? with
    | some x => failIf (bad i x) code phase i (off + size * i)
    | none => none)

/-- The number of outputs of a kind of unit (R170), and of a unit's injector queues (R456). -/
def outsOf (k : UnitKind) : Nat := if k == .vd then 108 else 2
def State.nOuts (s : State) : Nat := outsOf s.ident.kind
def State.nQueues (s : State) : Nat :=
  match s.ident.kind with
  | .u1 => 4
  | .u2 => 8
  | _ => 16

/-- Is ARG zero where R174 leaves it no meaning. -/
def argOk (o : Nat) (r : Run) : Bool :=
  if r.action = 1 then
    if 80 ≤ r.source && r.source < 104 || 80 ≤ o && o < 104 then true
    else if 104 ≤ r.source && r.source < 108 then decide (r.arg < 2 ^ 22)
    else if 104 ≤ o then decide (r.arg < 2 ^ 20)
    else r.arg == 0
  else if r.action = 3 then decide (r.arg < 2 ^ 26)
  else if r.action = 4 then decide (r.arg < 2 ^ 12)
  else r.arg == 0

/-- RESERVED in a subsection: reserved bytes and bits, counts that the member must hold at 0, invalid codes of signal
entries and ACC_WRITE (R170 to R174, R180, R328). -/
def setReserved (k : UnitKind) (q : SetPlace) (ps : PhaseSet) : Option ChkFail :=
  let b := q.sec + q.ph
  let die := k != .vd
  let fore := k == .u1 || k == .u2
  let raw (off n k : Nat) : List Nat := (q.img.array (b + off) k n).map leNat
  firstFail
    [failIf (!q.img.zeros (b + 2) 2 || !q.img.zeros (b + 0x24) 28 || ps.outs.length != outsOf k ||
      (die && (!ps.cmbs.isEmpty || !ps.tils.isEmpty || !ps.keeps.isEmpty || ps.eWork != 0 || ps.eFw != 0)))
      3 ps.phase 0 q.ph,
     itemFail (raw q.lay.runs (q.img.nat (b + 0x14) 4) 8) 3 ps.phase (q.ph + q.lay.runs) 8 (fun _ n => n >>> 58 != 0),
     runFail q ps 3 (fun o _ r => !argOk o r || (r.action == 3 && ((r.arg >>> 20) % 16 == 15 || (r.arg >>> 24) % 4 == 3 ||
      ((r.arg >>> 20) % 16 == 14 && (r.arg >>> 24) % 4 != 0)))),
     itemFail (raw q.lay.sigs ps.sigs.length 16) 3 ps.phase (q.ph + q.lay.sigs) 16 (fun i n =>
      let g := ps.sigs.getD i ⟨0, false, 0, 0, 0⟩
      g.kind < 1 || g.kind > (if fore then 2 else 3) || g.inc == 0 || (fore && decide (g.inc ≥ 2 ^ 31)) ||
      (g.kind == 1 && g.target != 0) || (n >>> 48) % 2 ^ 16 != 0 || n >>> 96 != 0),
     itemFail (raw q.lay.cmbs ps.cmbs.length 16) 3 ps.phase (q.ph + q.lay.cmbs) 16 (fun _ n => (n >>> 58) % 64 != 0),
     itemFail (raw q.lay.tils ps.tils.length 16) 3 ps.phase (q.ph + q.lay.tils) 16 (fun _ n => n >>> 126 != 0),
     itemFail (raw q.lay.keeps ps.keeps.length 8) 3 ps.phase (q.ph + q.lay.keeps) 8 (fun _ n => n >>> 40 != 0)]

/-- CAPACITY of a set (R171, R458): its entries as the subsection counts them. -/
def setCapacity (k : UnitKind) (q : SetPlace) : Bool :=
  let b := q.sec + q.ph
  let lim := match k with
    | .vd => (1048576, 4096)
    | .vsu => (16384, 256)
    | .u2 => (8192, 128)
    | .u1 => (4096, 64)
  decide (q.img.nat (b + 0x14) 4 > lim.1) || decide (q.img.nat (b + 0x12) 2 > lim.2) ||
  (k == .vd && (decide (q.img.nat (b + 0x18) 4 > 65536) || decide (q.img.nat (b + 0x1C) 4 > 16384) ||
    decide (q.img.nat (b + 0x20) 4 > 1024)))

/-- The place of phase `p` of an entry's section. -/
def Img.place (img : Img) (e : DirEnt) (p : Nat) : SetPlace :=
  let ph := img.phOff e.secOff p
  ⟨img, e.secOff, ph, img.lay (e.secOff + ph)⟩

/-- The kind of unit that a directory entry names (R168). -/
def DirEnt.unitKind (e : DirEnt) : UnitKind :=
  if e.kind ≤ 2 then .vd else if e.kind = 3 then .vsu else if e.kind = 4 then .u2 else .u1

/-- The first failure of a check over the phase subsections of a section. -/
def Img.eachPhase (img : Img) (e : DirEnt) (f : SetPlace → Nat → Option ChkFail) : Option ChkFail :=
  firstFail ((upto img.nPhases).map fun p =>
    if img.phOff e.secOff p = 0 then none else f (img.place e p) p)

/-- RESERVED in every phase subsection of a section, and CAPACITY of each. -/
def Img.phasesReserved (img : Img) (e : DirEnt) : Option ChkFail :=
  img.eachPhase e fun q p => setReserved e.unitKind q (img.phaseSet e.secOff p)
def Img.phasesCapacity (img : Img) (e : DirEnt) : Option ChkFail :=
  img.eachPhase e fun q p => failIf (setCapacity e.unitKind q) 0xD p 0 q.ph

/-- Does the held image of the VSU that a section is for exceed its 4 MiB: the common part and that section (R171). -/
def Img.vsuLong (img : Img) (e : DirEnt) : Bool := e.kind == 3 && decide (img.commonLen + e.secLen > 2 ^ 22)

/-- The checks of one kept section in code order. Inside a forerunner's section the DOME checks no more than that its parts
lie in it: the block itself applies the checks that concern its fields (R458). -/
def State.secFail (s : State) (img : Img) (i : Nat) (e : DirEnt) : Option ChkFail :=
  let b := e.secOff
  firstFail
    [failIf (img.nat b 4 != secMagic e.kind || img.nat (b + 4) 1 != img.nPhases || img.nat (b + 8) 2 != e.unit) 1 0 i 0,
     img.secLenFail i e,
     failIf (!img.zeros (b + 5) 3 || !img.zeros (b + 0xA) 54 ||
      (upto 16).any fun p => decide (p ≥ img.nPhases) && img.phOff b p != 0) 3 0 i 0,
     if e.kind ≤ 3 then img.phasesReserved e else none,
     failIf (sha384 (img.bytes b e.secLen) != e.digest) 9 0 i 0,
     s.idFail i e,
     failIf (img.vsuLong e) 0xD 0 i 0,
     if e.kind ≤ 3 then img.phasesCapacity e else none]

/-- The checks of the kept sections in directory order: the first failure, and the entries that passed. -/
def State.secsFail (s : State) (img : Img) : List (Nat × DirEnt) → Option ChkFail × List DirEnt
  | [] => (none, [])
  | (i, e) :: r =>
    match s.secFail img i e with
    | some f => (some f, [])
    | none => let x := s.secsFail img r; (x.1, e :: x.2)

/-- The shadow's checks. A VSU checks SEC_MAGIC and UNIT of its section and that it can hold the image, and takes the rest as
verified (R171, R189); a forerunner block also checks the fields of its own format (R458). -/
def State.shadowFail (s : State) (img : Img) : Option ChkFail × List DirEnt :=
  if s.isVd then
    match s.commonFail img with
    | some f => (some f, [])
    | none => s.secsFail img (s.kept' img)
  else
    match s.ownEnt img with
    | none => (failIf true 8 0 0 0, [])
    | some e =>
      (firstFail
        [failIf (img.nat e.secOff 4 != secMagic e.kind || img.nat (e.secOff + 8) 2 != e.unit) 1 0
           ((img.dir.findIdx? (· == e)).getD 0) 0,
         if s.isFore then img.phasesReserved e else none,
         failIf (decide (s.heldLen img > s.heldMax)) 0xD 0 0 0,
         if s.isFore then img.phasesCapacity e else none], [])

/-! ### The next set's checks (R195) -/

/-- Is the source and action of a run valid for its output (R173, R174, R458). -/
def State.routeValid (s : State) (o : Nat) (r : Run) : Bool :=
  if r.action = 1 then (if s.isVd then decide (r.source < 108) else decide (r.source < s.nQueues))
  else if r.action = 3 then s.isVd && decide (104 ≤ o) && decide (o < 108) && decide (r.source < 104)
  else if r.action = 2 then decide (o < 64) && r.source == 127
  else if r.action = 0 || r.action = 4 then r.source == 127
  else false

/-- Is a port that a table names trained; a DOUBTED die port's position passes on the ports of its staged spare. -/
def State.portUsable (s : State) (o : Nat) : Bool :=
  if s.isDome && o < 32 then
    s.trained (s.physPort o) ||
    ((s.die (s.physOf (o / 2))).judge.st == .doubted &&
      match s.stagedFor (o / 2) with
      | some d => s.trained (2 * d + o % 2)
      | none => false)
  else s.trained o

/-- BAD_ROUTE of a run. -/
def State.routeBad (s : State) (ps : PhaseSet) (o : Nat) (r : Run) : Bool :=
  !s.routeValid o r ||
  ((r.action == 1 || r.action == 3) && s.isVd && decide (r.source < 64) && !s.portUsable r.source) ||
  (r.action == 1 && decide (o < (if s.isVd then 64 else 2)) && !s.portUsable o) ||
  (r.action == 4 && decide (o < (if s.isVd then 64 else 2)) && !s.portUsable o &&
    ps.sigs.any fun g => g.kind != 1 && ps.sigs.getD r.arg ⟨0, false, 0, 0, 0⟩ == g)

/-- Does a port run at half rate: the die on it, or the unit itself, is at protocol level 1 or 2 (R179). -/
def State.halfRate (s : State) (o : Nat) : Bool :=
  if s.isFore then decide (o < 2)
  else s.isDome && decide (o < 32) &&
    ((s.port (s.physPort o)).level == 1 || (s.port (s.physPort o)).level == 2)

/-- Do all rows of a range lie inside one of a set's KEEP ranges, row by row. -/
def inKeep (ks : List Keep) (row n : Nat) : Bool :=
  (upto n).all fun i => ks.any fun k => decide (k.row ≤ row + i) && decide (row + i < k.row + k.count)

/-- Flits of 256 bytes in a memory port's range, and below the image region (R240, R241). -/
def portFlits : Nat := 0x59682F0
def memFlits : Nat := 0x859C4680

/-- May a schedule use flits `a` .. `a + n - 1` of memory port `m`. -/
def memRange (m a n : Nat) : Bool :=
  decide (m * portFlits ≤ a) && decide (a + n ≤ (m + 1) * portFlits) && decide (a + n ≤ memFlits)

/-- Bytes of a matrix of `e` elements in a format, in rows of 224 (R265, R266, R312). -/
def matRows (fmt e : Nat) : Nat :=
  let b := if isMx fmt then (e + perTile fmt - 1) / perTile fmt * 3584 else (e * fmtWidth fmt + 7) / 8
  (b + 223) / 224

def TilInstr.aTile (t : TilInstr) : Nat := t.opnd % 65536
def TilInstr.bTile (t : TilInstr) : Nat := (t.opnd >>> 16) % 65536
def TilInstr.cTile (t : TilInstr) : Nat := (t.opnd >>> 32) % 65536
def TilInstr.ageA (t : TilInstr) : Nat := (t.opnd >>> 48) % 4
def TilInstr.ageB (t : TilInstr) : Nat := (t.opnd >>> 50) % 4
def TilInstr.acc (t : TilInstr) : Bool := Nat.testBit t.opnd 52

/-- Fields of OPERANDS (R286 to R289). -/
def CmbInstr.bits (i : CmbInstr) (lo w : Nat) : Nat := (i.opnd.toNat >>> lo) % 2 ^ w
def CmbInstr.famR (i : CmbInstr) : Bool := decide (1 ≤ i.opcode) && decide (i.opcode ≤ 4)
def CmbInstr.famE (i : CmbInstr) : Bool := decide (0x10 ≤ i.opcode) && decide (i.opcode ≤ 0x18)
def CmbInstr.famO (i : CmbInstr) : Bool := i.opcode == 0x20 || i.opcode == 0x21
def CmbInstr.famM (i : CmbInstr) : Bool := i.opcode == 0x28 || i.opcode == 0x29
def CmbInstr.famS (i : CmbInstr) : Bool := decide (0x30 ≤ i.opcode) && decide (i.opcode ≤ 0x33)

/-- The memory flits that an instruction's stream starts at: B of family E, the state of family O. -/
def CmbInstr.memBad (i : CmbInstr) : Bool :=
  if i.famE && Nat.testBit i.opnd.toNat 56 then
    decide (i.bits 0 5 ≥ 24) || !memRange (i.bits 0 5) (i.bits 0 5 * portFlits + i.bits 5 27) 1
  else if i.famO then decide (i.bits 1 5 ≥ 24) || !memRange (i.bits 1 5) (i.bits 1 5 * portFlits + i.bits 6 27) 1
  else false

/-- The staging row of an instruction's record. -/
def CmbInstr.paramRow (i : CmbInstr) : Nat :=
  if i.famE then i.bits 32 20 else if i.famO then i.bits 33 20 else if i.famM then i.bits 34 20 else 0

/-- The flits of a run that begins at slot `a`: one a slot, or one a pair of slots where its output or its source runs at half
rate (R179, R225). -/
def State.runFlits (s : State) (o : Nat) (a : Nat) (r : Run) : Nat :=
  if s.halfRate o || (s.isVd && decide (r.source < 64) && s.halfRate r.source) then
    (if r.len = 0 then 0 else (a + r.len - 1) / 2 - a / 2 + 1)
  else r.len

/-- ADDR_RANGE of a run. -/
def State.runAddrBad (s : State) (ps : PhaseSet) (o a : Nat) (r : Run) : Bool :=
  let n := s.runFlits o a r
  let row := r.arg % 2 ^ 20
  if r.action = 1 && s.isVd then
    (decide (80 ≤ r.source) && decide (r.source < 104) && !memRange (r.source - 80) r.arg n) ||
    (decide (104 ≤ r.source) && (decide (row + n > eventRows) ||
      ((r.arg >>> 20) % 4 != 0 && !inKeep ps.keeps row n))) ||
    (decide (80 ≤ o) && decide (o < 104) && !memRange (o - 80) r.arg n) ||
    (decide (104 ≤ o) && decide (row + n > eventRows))
  else if r.action = 3 then decide (row + n > eventRows)
  else if r.action = 4 then decide (r.arg % 4096 ≥ ps.sigs.length)
  else false

/-- ADDR_RANGE of a tile instruction (R312): rows, and C in a KEEP range under ACC. -/
def TilInstr.addrBad (t : TilInstr) (ks : List Keep) : Bool :=
  let ra := matRows t.fmt (t.m * t.k)
  let rb := matRows t.fmt (t.k * t.n)
  let rc := matRows 0 (t.m * t.n)
  t.opcode != 0 &&
  (decide (16 * t.aTile + ra > eventRows) || decide (16 * t.bTile + rb > eventRows) ||
   decide (16 * t.cTile + rc > eventRows) || (t.acc && !inKeep ks (16 * t.cTile) rc))

/-- CMB_ENCODING of an instruction alone (R284, R285). -/
def CmbInstr.bad (i : CmbInstr) : Bool :=
  let n := i.ncell
  let tap := i.bits 0 32
  let fm (c : Nat) : Bool := isFloat c || isMx c
  let tapBad := decide (tap ≥ 2 ^ min 32 (4 * n)) ||
    (Nat.testBit i.opnd.toNat 32 && (upto 16).any fun k => Nat.testBit tap (2 * k) != Nat.testBit tap (2 * k + 1))
  let common := decide (i.cell0 + n > 16) || decide (i.stop < i.start) || i.fmtA == 15 || i.fmtR == 15
  let eIn (c : Nat) : Bool := fm c || c == 12
  common ||
  (if i.opcode = 0 then i.mode != 0
   else if i.famR then
    i.mode == 3 || tapBad || i.bits 45 19 != 0 ||
    (i.mode == 2 && (Nat.testBit i.opnd.toNat 33 || i.fmtA == 14)) ||
    (i.mode == 0 && (i.fmtA == 14 || i.fmtR == 14)) ||
    ((i.opcode == 2 || i.opcode == 3) && (i.fmtA == 14 || i.fmtR == 14)) ||
    (i.opcode == 4 && (!fm i.fmtA || !(i.fmtR == 0 || i.fmtR == 14)))
   else if i.famE then
    let fb := i.bits 52 4
    let buse := Nat.testBit i.opnd.toNat 56
    i.mode != 0 || i.bits 58 6 != 0 || decide (i.fmtR ≥ 14) ||
    (if i.opcode = 0x10 then decide (i.fmtA ≥ 14) else !eIn i.fmtA) ||
    (if buse then (if i.opcode = 0x10 then decide (fb ≥ 14) else !eIn fb)
     else fb != 0 || i.bits 0 5 != 0 || i.bits 5 27 != 0)
   else if i.famO then
    i.mode != 0 || !(fm i.fmtA || i.fmtA == 14) || !fm i.fmtR || (i.fmtA != 14 && i.bits 54 10 != 0)
   else if i.famM then
    i.mode != 0 || tapBad || i.bits 55 9 != 0 || (i.opcode == 0x29 && !(isFloat i.fmtA && isFloat i.fmtR))
   else if i.opcode = 0x30 then i.mode != 0 || i.bits 0 12 != 0 || i.bits 52 12 != 0
   else if i.opcode = 0x31 || i.opcode = 0x32 then i.mode != 0 || i.opnd != 0
   else if i.opcode = 0x33 then i.mode != 0 || i.bits 20 44 != 0 || i.fmtR != 13
   else true)

/-- Do two instructions share a cell with overlapping windows (R258). -/
def CmbInstr.clash (a b : CmbInstr) : Bool :=
  decide (a.cell0 < b.cell0 + b.ncell) && decide (b.cell0 < a.cell0 + a.ncell) &&
  decide (a.start ≤ b.stop) && decide (b.start ≤ a.stop)

/-- Must an instruction carry V (R182, R284). -/
def CmbInstr.needsV (i : CmbInstr) : Bool := (i.famR && i.mode == 0) || i.opcode == 0x30 || i.opcode == 0x31 || i.opcode == 0x32

/-- Sub-columns of a tile format, 0 for a format the array refuses (R307). -/
def tilSub (f : Nat) : Nat :=
  if f = 1 || f = 2 then 1
  else if f = 3 || f = 4 || f = 8 || f = 11 || f = 12 then 2
  else if f = 5 || f = 6 || f = 7 || f = 9 || f = 10 then 4
  else 0

/-- TIL_ENCODING of an instruction. -/
def TilInstr.bad (t : TilInstr) : Bool :=
  t.opcode > 4 ||
  (t.opcode != 0 && (t.m < 8 || t.n < 8 || t.k < 8 || tilSub t.fmt == 0 || (t.opcode ≥ 2 && isMx t.fmt)))

/-- Passes and nominal latency (R314, R315). -/
def TilInstr.passes (t : TilInstr) : Nat :=
  let w := 128 * max 1 (tilSub t.fmt)
  ((t.n + w - 1) / w) * ((t.k + 127) / 128)
def TilInstr.turn (t : TilInstr) : Nat := if t.opcode ≥ 2 then 128 else 0
def TilInstr.nominal (t : TilInstr) : Nat :=
  414 + t.turn + (t.passes - 1) * max t.m 130 + t.m

/-- Codes 0x0E to 0x12 of a set. -/
def State.setRuns' (s : State) (q : SetPlace) (ps : PhaseSet) : Option ChkFail :=
  let ts := ps.desc.tableSlots
  firstFail
    [failIf (decide (ts * 256 > ps.desc.stepNs * 100)) 0xE ps.phase 0 0,
     itemFail ps.outs 0xF ps.phase (q.ph + q.lay.outs) 4 (fun _ l => (l.map (·.len)).sum != ts),
     runFail q ps 0x10 (fun o _ r => s.routeBad ps o r),
     runFail q ps 0x11 (fun o a r => r.action == 1 && s.halfRate o && (a % 2 != 0 || r.len % 2 != 0)),
     itemFail ps.outs 0x12 ps.phase (q.ph + q.lay.outs) 4 (fun o l =>
      decide (o < 64) && (l.any fun r => r.action == 1) &&
      decide (((l.filter fun r => r.action == 2).map (·.len)).sum * 100 < 3 * ts))]

/-- ADDR_RANGE over runs, combiner and tile instructions. -/
def State.setAddr (s : State) (q : SetPlace) (ps : PhaseSet) : Option ChkFail :=
  firstFail
    [runFail q ps 0x13 (fun o a r => s.runAddrBad ps o a r),
     itemFail ps.cmbs 0x13 ps.phase (q.ph + q.lay.cmbs) 16 (fun _ i => i.memBad || decide (i.paramRow ≥ eventRows)),
     itemFail ps.tils 0x13 ps.phase (q.ph + q.lay.tils) 16 (fun _ t => t.addrBad ps.keeps)]

/-- Codes 0x14 to 0x17. -/
def setProgs (q : SetPlace) (ps : PhaseSet) : Option ChkFail :=
  firstFail
    [itemFail ps.cmbs 0x14 ps.phase (q.ph + q.lay.cmbs) 16 (fun k i =>
      i.bad || (upto k).any fun j => (ps.cmbs.getD j i).clash i),
     itemFail ps.cmbs 0x15 ps.phase (q.ph + q.lay.cmbs) 16 (fun _ i => i.needsV && !i.v),
     itemFail ps.tils 0x16 ps.phase (q.ph + q.lay.tils) 16 (fun _ t => t.bad),
     itemFail ps.tils 0x17 ps.phase (q.ph + q.lay.tils) 16 (fun _ t => t.opcode != 0 && decide (t.lat < t.nominal + 2))]

/-- COMP_SPK of a set: an increment, and a LIVE sprocket. -/
def State.compBad (s : State) (ps : PhaseSet) : Bool :=
  ps.compInc == 0 || decide (ps.compSpk ≥ s.nSpk) || (s.meta ps.compSpk).st != .live

/-- Does the load take the shadow under a successor that names it, without the chain that R195 asks for. -/
def State.prevBad (s : State) (img : Img) (chain : Bool) : Bool :=
  chain && (s.img.shState != .checked || !img.isChained ||
    match s.img.committed with
    | some c => img.prevId != c.id
    | none => true)

/-- The checks of a set that is loaded, in code order. -/
def State.setFail (s : State) (img : Img) (e : DirEnt) (ps : PhaseSet) (chain : Bool) : Option ChkFail :=
  let q := img.place e ps.phase
  let ph := q.ph
  firstFail
    [setReserved s.ident.kind q ps,
     (firstFail ((s.kept' img).map fun k => s.idFail k.1 k.2)).map fun f => { f with phase := ps.phase },
     img.phaseFail ps.phase,
     failIf (setCapacity s.ident.kind q) 0xD ps.phase 0 ph,
     s.setRuns' q ps,
     s.setAddr q ps,
     setProgs q ps,
     failIf (s.compBad ps) 0x18 ps.phase 0 ph,
     failIf (s.isVd && (ps.eWork == 0 || decide (ps.eFw > ps.eWork))) 0x19 ps.phase 0 (ph + 8),
     failIf (s.prevBad img chain) 0x1A ps.phase 0 0]

/-! ### Arrival -/

/-- A shadow emptied; a next set that came from it goes to NONE (R201). -/
def ImgSt.noShadow (x : ImgSt) : ImgSt :=
  { x with shadow := none, shState := .empty, changes := x.changes + 1,
           next := if x.nxSrc then none else x.next, nxState := if x.nxSrc then .none else x.nxState, nxSrc := false }

/-- An unlocked shadow holds another image from now on. -/
def ImgSt.newShadow (x : ImgSt) (img : Img) (st : ShState) : ImgSt :=
  { x.noShadow with shadow := some img, shState := st }

/-- A tile of an image in main memory. -/
def State.ramTile (s : State) (base len i : Nat) : List Byte :=
  padTo tileBytes (Memory.readBytes s.fab.ram (base + tileBytes * i) (min tileBytes (len - tileBytes * i)))

/-- An image with more tiles read from main memory. -/
def State.ramTiles (s : State) (base len : Nat) (img : Img) (is : List Nat) : Img :=
  { img with tiles := is.foldl (fun t i => if t.has i then t else t.set i (s.ramTile base len i)) img.tiles }

/-- The image that a local load takes (R190): the header, the directory, and the parts that the unit needs. -/
def State.loadedImg (s : State) : Img :=
  let base := (s.reg Reg.IMG_LOAD_BASE).toNat % 2 ^ 40
  let len := (s.reg Reg.IMG_LOAD_LEN).toNat % 2 ^ 40
  let a := s.ramTiles base len { id := 0 } [0]
  let d : Img := { a with id := a.imageId }
  let b := s.ramTiles base len d (tilesOf (0, min d.dirEnd (0x100 + 128 * 16 + 80 * 18432)))
  s.ramTiles base len b (((s.neededRanges b).filter fun r => decide (r.2 ≤ 2 ^ 36)).flatMap tilesOf)

/-- IMG_CMD.LOAD_LOCAL: refused while the shadow is locked or RECEIVING (R200). -/
def State.doLoadLocal (s : State) : State :=
  if !s.isVd || !s.awake then s
  else if s.img.lock || s.img.shState == .receiving then s.raise Fld.IMG_STATUS_CMD_REFUSED
  else ({ s with img := s.img.newShadow s.loadedImg .checking }).loseReady

/-- IMG_CMD.DISCARD (R194): empties the shadow and unlocks it; a unit that has armed shows DISARM. -/
def State.doDiscard (s : State) : State :=
  if s.awake then ({ s with img := { s.img.noShadow with lock := false } }).loseReady else s

/-- A VSU copies an image from one half of its window to the other: the shadow's when it becomes the committed image, and the
committed one's at a RECALL (R449). -/
def State.copyWindow (s : State) (toShadow : Bool) (len : Nat) : State :=
  if s.isVsu then
    let b := s.ident.memImgBase * 2 ^ 23
    let src := if toShadow then b else b + 2 ^ 22
    let dst := if toShadow then b + 2 ^ 22 else b
    s.memReqs (beats (fun k => .imageCopy (dst + k)) false src (min len (2 ^ 22)) [])
  else s

/-- IMG_CMD.RECALL (R200). -/
def State.doRecall (s : State) : State :=
  if !s.awake then s
  else
    match s.img.committed with
    | some c =>
      if s.img.lock || s.img.shState == .receiving then s.raise Fld.IMG_STATUS_CMD_REFUSED
      else ((({ s with img := s.img.newShadow c .checked }).raise Fld.IMG_STATUS_SHADOW_READY).copyWindow true
        (s.heldLen c)).loseReady
    | none => s.raise Fld.IMG_STATUS_CMD_REFUSED

/-! ### Broadcast (R191 to R193) -/

/-- The sixteen flits of a broadcast tile (R207 to R209). -/
def bcastFlits (id tile kind : Nat) (bytes : List Byte) : List Flit :=
  let b := padTo tileBytes bytes
  (upto 16).map fun i =>
    mkFlit (.bcast id tile kind) 0 i false ((b.drop (224 * i)).take 224) (if i = 15 then crc64 b else 0)

/-- Queues tiles of an image on a port. -/
def State.sendTiles (s : State) (p id kind : Nat) (ts : List (Nat × List Byte)) : State :=
  ts.foldl (fun t e => t.queueFlits p none (bcastFlits id e.1 kind e.2)) s

/-- The fixed tree ports of a spire, and a SPIRE 0's down-ports (R192). -/
def State.treePorts (s : State) (src : Option Nat) : List Nat :=
  (upto 64).filter fun p => s.portUp p && src != some p &&
    (s.portFixed p || (decide (p < 32) && entPos (s.dnoEnt s.ident.dno) % 16 == 0))

/-- IMG_CMD.BROADCAST at a root spire: every tile of the image, in order, on its fixed tree ports. -/
def State.doBroadcast (s : State) : State :=
  if s.isRoot && s.awake then
    let base := (s.reg Reg.IMG_LOAD_BASE).toNat % 2 ^ 40
    let len := (s.reg Reg.IMG_LOAD_LEN).toNat % 2 ^ 40
    let id := fieldAt (Memory.readBytes s.fab.ram (base + 8) 4) 0 4
    let ts := (upto ((len + tileBytes - 1) / tileBytes)).map fun i => (i, s.ramTile base len i)
    ((upto 64).filter fun p => s.portUp p && s.portFixed p).foldl (fun t p => t.sendTiles p id 0 ts) s
  else s

/-- The DNO of the SPIRE of this DOME's pod at position 16 · plane + index. -/
def State.spireDno (s : State) (pos : Nat) : Option Nat :=
  (upto 4096).find? fun d =>
    entKind (s.dnoEnt d) == 2 && entPos (s.dnoEnt d) == pos && entPod (s.dnoEnt d) == entPod (s.dnoEnt s.ident.dno)

/-- The tiles of an image that a DOME owes the SPIRE on an up-port: those of the common part and of its section. -/
def State.spireTiles (s : State) (img : Img) (p : Nat) : List Nat :=
  if img.dirHere then
    let sec := match (s.spireDno (p - 32)).bind img.vdEnt with
      | some e => tilesOf (e.secOff, e.secLen)
      | none => []
    (tilesOf (0, img.dirEnd) ++ sec).eraseDups.filter fun i => img.tiles.has i
  else (if img.holds 0 256 then tilesOf (0, img.dirEnd) else [0]).filter fun i => img.tiles.has i

/-- What a VD sends on when it has accepted a tile: `old` is the image before it (R192). -/
def State.forwardTile (s : State) (port kind : Nat) (old img : Img) (tile : Nat) (bytes : List Byte) : State :=
  if s.isSpire then
    (if s.isRoot || entPos (s.dnoEnt s.ident.dno) % 16 = 0 then
      (s.treePorts (some port)).foldl (fun t p => t.sendTiles p img.id kind [(tile, bytes)]) s
     else s)
  else if s.isDome then
    let ups := (upto 64).filter fun p => decide (32 ≤ p) && s.portUp p && (p - 32) % 16 != 0 && p != port
    if kind = 0 then
      ups.foldl (fun t p =>
        let now := s.spireTiles img p
        let before := s.spireTiles old p
        t.sendTiles p img.id 0 ((now.filter fun i => !before.contains i).map fun i => (i, img.tiles.get i []))) s
    else
      (ups ++ ((upto 16).map s.diePort).filter s.portUp).foldl
        (fun t p => t.sendTiles p img.id kind [(tile, bytes)]) s
  else s

/-- Does the shadow hold every tile that the unit needs. -/
def State.complete (s : State) (img : Img) : Bool :=
  img.dirHere && (s.neededTiles img).all fun i => img.tiles.has i

/-- A VSU keeps an accepted tile behind its memory port, in the shadow's half of the image window (R449); where in it is
open, and a free value (log entry 68). -/
def State.storeTile (s : State) (bytes : List Byte) : State :=
  if s.isVd then s
  else
    let a := s.ident.memImgBase * 2 ^ 23 + 2 ^ 22 + 32 * (Config.imageGranule s.free % 130960)
    { s with free := s.free + 1 }.memReqs (beats (fun _ => .imageWrite) true a tileBytes bytes)

/-- A VSU reads its section from the window when it loads a set (R449); where it lies there is open, and a free value (log entry
68). -/
def State.readWindow (s : State) (shadow : Bool) (len : Nat) : State :=
  if s.isVsu then
    let n := min len (2 ^ 22)
    let a := s.ident.memImgBase * 2 ^ 23 + (if shadow then 2 ^ 22 else 0) +
      32 * (Config.imageGranule s.free % ((2 ^ 22 - n) / 32 + 1))
    { s with free := s.free + 1 }.memReqs (beats (fun _ => .imageRead) false a n [])
  else s

/-- An image tile whose CRC-64 has passed (R193, R194, R201). -/
def State.imageTile (s : State) (port id tile : Nat) (bytes : List Byte) : State :=
  let cur : Option Img := match s.img.shadow with
    | some x => if x.id == id then some x else none
    | none => none
  if cur.isNone && s.img.lock then s.setBit Fld.IMG_STATUS_FOREIGN
  else
    let old : Img := cur.getD { id }
    if old.tiles.has tile then s
    else
      let img : Img := { old with tiles := old.tiles.set tile bytes }
      let x := if cur.isNone then s.img.newShadow img .receiving else { s.img with shadow := some img }
      let done := x.shState == .receiving && s.complete img
      let s1 : State := { s with img := { x with shState := if done then .checking else x.shState } }
      let s2 := (s1.forwardTile port 0 old img tile bytes).storeTile bytes
      if cur.isNone then s2.loseReady else s2

/-- A tile of a parameter broadcast: the first valid copy is kept and sent on (R192, R193, R197). -/
def State.paramTile (s : State) (port id tile : Nat) (bytes : List Byte) : State :=
  let t := s.img.params.get id []
  if t.has tile then s
  else
    let s1 : State := { s with img := { s.img with params := s.img.params.set id (t.set tile bytes) } }
    s1.forwardTile port 1 { id } { id } tile bytes

/-- BCAST_TILE_RX: a tile that passes its CRC-64; notices and messages have commands of their own. -/
def State.doBcastTileRx (s : State) (port id tile bkind : Nat) (bytes : List Byte) (tcrc : Nat) : State :=
  let b := padTo tileBytes bytes
  if !s.awake || !s.portUp port || crc64 b ≠ tcrc then s
  else if bkind = 0 then s.imageTile port id tile b
  else if bkind = 1 then s.paramTile port id tile b
  else s

/-! ### SHADOW_CHECK (R195) -/

/-- A failure is written to IMG_CHECK and raised. -/
def State.checkFails (s : State) (f : ChkFail) : State :=
  ({ s with img := { s.img with check := f } }).raise Fld.IMG_STATUS_CHECK_FAIL

/-- A DOME delivers the common part and a verified section to each die position (R192). -/
def State.deliverDies (s : State) (img : Img) (es : List DirEnt) : State :=
  (es.filter fun e => e.kind ≥ 3).foldl (fun t e =>
    let p := s.diePort (s.physOf (e.unit % 16))
    if s.portUp p then
      t.sendTiles p img.id 0 (((tilesOf (0, img.dirEnd) ++ tilesOf (e.secOff, e.secLen)).eraseDups).map fun i =>
        (i, img.tiles.get i []))
    else t) s

/-- SHADOW_CHECK: the shadow that holds every tile is checked; CHECKED or FAILED. -/
def State.doShadowCheck (s : State) : State :=
  match s.img.shadow with
  | some img =>
    if s.awake && s.img.shState == .checking then
      let r := s.shadowFail img
      let s1 := if s.isDome then s.deliverDies img r.2 else s
      match r.1 with
      | some f => ({ s1 with img := { s1.img with shState := .failed } }).checkFails f
      | none =>
        ({ s1 with img := { s1.img with
            shState := .checked, shadow := some { img with signed := s.isVd && img.isSigned } } }).raise
          Fld.IMG_STATUS_SHADOW_READY
    else s
  | none => s

/-! ### NEXT_SET_LOAD (R196) -/

/-- The phase to load, whether from the shadow, and whether a successor that names the shadow asks for it. -/
def State.nextWanted (s : State) : Option (Nat × Bool × Bool) :=
  match s.cad.st with
  | .running =>
    (match s.img.live with
     | some l =>
       let u := l.desc.successor
       if u < 16 then some (u, false, false)
       else if u < 32 then (if s.img.shState == .checked then some (u - 16, true, true) else none)
       else none
     | none => none)
  | .idle =>
    (match s.img.shState, s.img.shadow with
     | .checked, some i => some (i.entryPhase, true, false)
     | _, _ => none)
  | .held =>
    match s.cad.spare with
    | some (running, ph) => if (running || s.cad.rearmed) && s.img.shState == .checked then some (ph, true, false) else none
    | none =>
      if s.cad.rearmed then some (s.fld Fld.IMG_CTRL_RESUME_PHASE, s.flag Fld.IMG_CTRL_RESUME_SRC, false) else none

/-- Loads a phase of an image as the next set and checks it against the unit's own state. -/
def State.loadNext (s : State) (img : Img) (p : Nat) (src chain : Bool) : State :=
  let fails (f : ChkFail) (ps : Option PhaseSet) : State :=
    ({ s with img := { s.img with next := ps, nxState := .failed, nxPhase := p, nxSrc := src,
                                  nxRoute := f.code == 0x10, nxChain := chain } }).checkFails f
  match s.ownEnt img with
  | none => fails { code := 0xB, phase := p } none
  | some e =>
    if p ≥ img.nPhases || img.phOff e.secOff p = 0 then fails { code := 0xB, phase := p } none
    else
      let ps := img.phaseSet e.secOff p
      match s.setFail img e ps chain with
      | some f => (fails f (some ps)).readWindow src e.secLen
      | none =>
        ({ s with img := { s.img with
            next := some ps, nxState := .loaded, nxPhase := p, nxSrc := src, nxRoute := false,
            nxChain := chain } } : State).readWindow src e.secLen

/-- NEXT_SET_LOAD: while the next set is NONE and its condition holds. A RESUME that names a shadow that is not CHECKED
loads nothing (log entry 45); nor does a VD whose core 2 is held in reset (R402). -/
def State.doNextSetLoad (s : State) : State :=
  if s.awake && !s.coreHeld 2 && s.img.nxState == .none then
    match s.nextWanted with
    | some (p, true, chain) =>
      (match s.img.shadow with
       | some img => if s.img.shState == .checked then s.loadNext img p true chain else s
       | none => s)
    | some (p, false, _) =>
      (match s.img.committed with
       | some img => s.loadNext img p false false
       | none => s)
    | none => s
  else s

/-- NEXT_SET_RECHECK (R195): a set that failed BAD_ROUTE, or that is LOADED, is checked again when a port changes state;
one that failed another check stays FAILED. -/
def State.doNextSetRecheck (s : State) : State :=
  match s.img.next with
  | some ps =>
    if s.awake && (s.img.nxState == .loaded || (s.img.nxState == .failed && s.img.nxRoute)) then
      let img? := if s.img.nxSrc then s.img.shadow else s.img.committed
      match img?.bind fun img => (s.ownEnt img).map fun e => (img, e) with
      | some (img, e) =>
        (match s.setFail img e ps s.img.nxChain with
         | none => { s with img := { s.img with nxState := .loaded, nxRoute := false } }
         | some f =>
           let s1 : State := { s with img := { s.img with nxState := .failed, nxRoute := f.code == 0x10 } }
           if s.img.nxState == .failed then s1.checkFails f else (s1.checkFails f).loseReady)
      | none => s
    else s
  | none => s

/-- LOAD_LOCAL (R190). IMG_CMD.LOAD_LOCAL copies an image from the VD's memory into its shadow and delivers die
sections. -/
def execLoadLocal (s : State) : Host.Outcome State Fault Refusal :=
  .next (s.doLoadLocal)

/-- BROADCAST (R191). IMG_CMD.BROADCAST makes a root spire send an image on its plane in tiles. -/
def execBroadcast (s : State) : Host.Outcome State Fault Refusal :=
  .next (s.doBroadcast)

/-- DISCARD (R194). IMG_CMD.DISCARD empties the shadow and sets DISARM until the decision has passed. -/
def execDiscard (s : State) : Host.Outcome State Fault Refusal :=
  .next (s.doDiscard)

/-- RECALL (R200). IMG_CMD.RECALL copies the committed image into the shadow as CHECKED, or is refused. -/
def execRecall (s : State) : Host.Outcome State Fault Refusal :=
  .next (s.doRecall)

/-- BCAST_TILE_RX (R193). A unit receives an image or parameter broadcast tile, keeps the first valid copy and
forwards it. -/
def execBcastTileRx (port : Nat) (id : Nat) (tile : Nat) (bkind : Nat) (bytes : List Byte) (tcrc : Nat) (s : State) : Host.Outcome State Fault Refusal :=
  .next (s.doBcastTileRx port id tile bkind bytes tcrc)

/-- SHADOW_CHECK (R195). Once a unit holds every tile it needs, it checks the shadow part by part. -/
def execShadowCheck (s : State) : Host.Outcome State Fault Refusal :=
  .next (s.doShadowCheck)

/-- NEXT_SET_LOAD (R196). When its condition holds, a unit loads the next phase's set and checks it. -/
def execNextSetLoad (s : State) : Host.Outcome State Fault Refusal :=
  .next (s.doNextSetLoad)

/-- NEXT_SET_RECHECK (R195). A next set that failed BAD_ROUTE is checked again when a port changes state. -/
def execNextSetRecheck (s : State) : Host.Outcome State Fault Refusal :=
  .next (s.doNextSetRecheck)


end Sys2Proof.Machine
end

