-- ==== Sys2Proof/Machine/Straggler.lean ====
section
/-! DEFINITION. Sys2Proof/Machine/Straggler.lean: the recorder of stragglers in a DOME (R349 to R353). -/

namespace Sys2Proof.Machine

def State.setDie (s : State) (d : Nat) (x : DieSt) : State :=
  { s with flt := { s.flt with dies := s.flt.dies.set d x } }

/-- w0 of R349: the WSC launched at the last START, RESUME or PHASE boundary; a die port that a swap has put into a position
counts from the swap point's (R362). -/
def State.armedWsc (s : State) : W :=
  match s.cad.comps.getLast? with
  | some g => g.w0
  | none => s.cad.baseWsc

/-- The HT of the boundary that launched a working step. -/
def State.launchNs (s : State) (w : W) : W := ((s.flt.launches.find? fun e => e.1 == w).map (·.2)).getD 0

/-- The lateness of a die's SIGNAL (R351). -/
def State.lateness (s : State) (g : DieSig) : Int :=
  (g.ns.toNat : Int) - (s.launchNs g.wsc).toNat - s.dueNs (s.logicalOf g.die)

/-- A die port's score, late window and grace after a recorded step, and its mark (R352, R353). -/
def DieSt.afterStep (d : DieSt) (last late : Bool) (l : Int) : DieSt :=
  let sc := d.score - d.score / 64 + (if last then 262144 else 0)
  let win := (d.lateWin <<< 1) ||| (if late then 1 else 0)
  let n := popcount 1024 win.toNat
  let mark := if sc < 2097152 then false else d.mark || (sc > 4194304 && n > 10 && d.grace == 0)
  { d with score := sc, lateWin := win, grace := d.grace - 1, mark := mark, lastLate := l }

/-- Of two arrivals, is the second the later one: by cycle, then lateness, then die port (R352). -/
def State.laterSig (s : State) (a b : DieSig) : Bool :=
  if a.cyc = b.cyc then
    (if s.lateness a = s.lateness b then decide (a.die < b.die) else decide (s.lateness a < s.lateness b))
  else decide (a.cyc < b.cyc)

/-- The last of the SIGNALs of a step. -/
def State.lastSig (s : State) : List DieSig → Option DieSig
  | [] => none
  | g :: r =>
    match s.lastSig r with
    | some h => if s.laterSig h g then some g else some h
    | none => some g

/-- Updates one die port for a recorded step; a new mark raises FLT_MARK. -/
def State.recordDie (s : State) (d : Nat) (last late : Bool) (l : Int) : State :=
  let x := (s.die d).afterStep last late l
  let s1 := s.setDie d x
  if x.mark && !(s.die d).mark then s1.raise Fld.FLT_STATUS_MARK else s1

/-- Records a working step: from the SIGNALs that arrived; a die whose SIGNAL is missing counts as last and as late, and
its lateness is a free value (log entry 37). -/
def State.recordStep (s : State) (w : W) : State :=
  let got := s.flt.sigs.filter fun g => g.wsc == w
  let dies := s.jobDies
  let lost := dies.filter fun d => !(got.any fun g => g.die == d)
  let free := Config.missingLate s.free
  let lastD := match lost.getLast?, s.lastSig got with
    | some d, _ => some (d, free)
    | none, some g => some (g.die, s.lateness g)
    | none, none => none
  let th : Int := s.threshNs
  let s1 := dies.foldl (fun t d =>
    match got.find? fun g => g.die == d with
    | some g =>
      let l := s.lateness g
      t.recordDie d (lost.isEmpty && (lastD.map (·.1)) == some d) (decide (l > th)) l
    | none => t.recordDie d true true free) s
  { s1 with
    free := if lost.isEmpty then s1.free else s1.free + 1,
    flt := { s1.flt with
      recorded := w,
      sigs := s1.flt.sigs.filter fun g => g.wsc != w,
      launches := s1.flt.launches.filter fun e => e.1 != w,
      lastPort := match lastD with
        | some e => e.1
        | none => s1.flt.lastPort,
      lastLog := match lastD with
        | some e => s.logicalOf e.1
        | none => s1.flt.lastLog,
      lastBad := match lastD with
        | some e => decide (e.2 > th) || !lost.isEmpty
        | none => s1.flt.lastBad,
      lastWsc := w,
      lastLate := match lastD with
        | some e => e.2
        | none => s1.flt.lastLate } }

/-- Records the next working step if the SIGNAL of every job die port has arrived (R352). -/
def State.recordDue (s : State) : State :=
  let w := s.flt.recorded + 1
  let dies := s.jobDies
  if !dies.isEmpty && dies.all fun d => s.flt.sigs.any fun g => g.die == d && g.wsc == w then s.recordStep w else s

/-- A SIGNAL to the completion sprocket of the phase in force from a die port: counted for a port that holds a logical
position (R349). Answers whether it is to be applied: a SIGNAL of a die port without a position is discarded. -/
def State.dieSignal (s : State) (d phys : Nat) : State × Bool :=
  match s.img.live with
  | some ps =>
    if s.isDome && ps.compSpk = phys then
      (if s.dieRole d = 1 then
        let x := s.die d
        let w := x.sigW0.getD s.armedWsc + BitVec.ofNat 64 x.sigCount
        let g : DieSig := { wsc := w, die := d, ns := s.htNs, cyc := s.time.now }
        let s1 := s.setDie d { x with sigCount := x.sigCount + 1 }
        let s2 : State := { s1 with flt := { s1.flt with sigs := s1.flt.sigs ++ [g] } }
        (s2.recordDue, true)
       else (s, false))
    else (s, true)
  | none => (s, true)

/-- A DOME that enters HELD records every step launched that it has not recorded yet (R352). -/
def State.recordHeld (s : State) : State :=
  if s.isDome && !s.jobDies.isEmpty then (s.flt.launches.map (·.1)).foldl (fun t w => t.recordStep w) s else s

/-- A START, RESUME or PHASE boundary: the counts start again (R349); a START gives every die port its grace (R353). -/
def State.recordArm (s : State) (w0 : W) (start : Bool) : State :=
  { s with flt := { s.flt with
      sigs := [], launches := [], recorded := w0 - 1,
      dies := (upto 16).foldl (fun t d =>
        let x := s.die d
        t.set d { x with sigCount := 0, sigW0 := none, grace := if start then 1024 else x.grace }) s.flt.dies } }

/-- A working boundary launches a step at a DOME. -/
def State.recordLaunch (s : State) (w b : W) : State :=
  if s.isDome then { s with flt := { s.flt with launches := s.flt.launches ++ [(w, b)] } } else s

end Sys2Proof.Machine
end

