-- ==== Sys2Proof/Machine/Sprocket.lean ====
section
/-! DEFINITION. Sys2Proof/Machine/Sprocket.lean: sprockets (R133 to R163, R443, R444, R497, R501, R503): the operations,
what a new value releases, contexts with their translation, save and restore, and physical sprockets. -/

namespace Sys2Proof.Machine

/-! ### Values and what they release (R134, R135, R141, R145, R146) -/

/-- R135, on 64 bits or in the 32-bit view. -/
def reachedIn (view32 : Bool) (v e : W) : Bool :=
  if view32 then decide ((v.toNat + 2 ^ 32 - e.toNat % 2 ^ 32) % 2 ^ 32 < 2 ^ 31) else reached v e

/-- A value as a view shows it. -/
def viewOf (view32 : Bool) (v : W) : W := if view32 then BitVec.ofNat 64 (v.toNat % 2 ^ 32) else v

/-- Writes the one SPK_NOTIFY record of a registration (R142). -/
def State.notifyFire (s : State) (n : Notify) (status : Nat) (v : W) : State :=
  s.recordKept 0x580 (spkArg0 n.ctx n.id n.tag status) v (s.ctxQ n.ctx)

/-- Completes a wait. -/
def State.waitDone (s : State) (w : Wait) (status : Nat) (v : W) : State :=
  s.spkDone w.src 1 w.ctx w.id w.tag w.no status (viewOf w.view32 v)

/-- Are a context's registrations in the hands of a save engine that writes its area: they fire after the RESTORE (R153). -/
def State.saving (s : State) (c : Nat) : Bool := s.spk.job.any fun j => j.ctx == c && j.writing && !j.restore

/-- Evaluates a sprocket's waits and registrations against its value: every wait that has been reached is released,
every registration fires and is dropped (R141, R145), and the completion of steps is taken up (R104). -/
def State.wake (s : State) (p : Nat) : State :=
  let v := s.spkVal p
  let hit (w : Wait) : Bool := w.phys == p && !w.lost && reachedIn w.view32 v w.expected
  let hitN (n : Notify) : Bool := n.phys == p && !n.lost && !s.saving n.ctx && reachedIn n.view32 v n.threshold
  let s1 : State := { s with spk := { s.spk with
      waits := s.spk.waits.filter fun w => !hit w, notifs := s.spk.notifs.filter fun n => !hitN n } }
  let s2 := (s.spk.waits.filter hit).foldl (fun t w => t.waitDone w 0 v) s1
  ((s.spk.notifs.filter hitN).foldl (fun t n => t.notifyFire n 0 v) s2).refreshComplete

def State.setVal (s : State) (p : Nat) (v : W) : State :=
  { s with spk := { s.spk with vals := s.spk.vals.set p v } }

/-- The value after an increment: 64 bits, or 32 in a forerunner block. -/
def State.incVal (s : State) (p inc : Nat) : W :=
  if s.isFore then BitVec.ofNat 64 (((s.spkVal p).toNat + inc) % 2 ^ 32) else s.spkVal p + BitVec.ofNat 64 inc

/-- SIGNAL applied to a local sprocket (R134, R137). -/
def State.applySignal (s : State) (p inc : Nat) : State := (s.setVal p (s.incVal p inc)).wake p

/-! ### Deferred SIGNALs (R239) -/

/-- Does the unit hold a rejected tile of the step, or count as holding one (R239, R289, R318, R327). -/
def State.holdsRejected (s : State) : Bool := !s.fab.rejected.isEmpty || s.stg.faultStep || s.til.faultStep || s.cmb.faultStep

/-- Is a sprocket the live set's completion sprocket, or named in a GATED entry of it. -/
def State.deferred (s : State) (p : Nat) : Bool :=
  match s.img.live with
  | some ps => ps.compSpk == p || ps.sigs.any fun g => g.gated && g.kind == 1 && g.phys == p
  | none => false

/-- A SIGNAL reaches a local sprocket that accepts it: counted for the recorder if it came from a die port (R349), then
applied, or deferred while a rejected tile is held (R239). -/
def State.signalIn (s : State) (p inc : Nat) (die : Option Nat) (gated : Bool) (ack : Option (Nat × Nat × Nat)) :
    State :=
  let r := match die with
    | some d => s.dieSignal d p
    | none => (s, true)
  if r.2 then
    (if s.holdsRejected && (gated || s.deferred p) then
      { r.1 with fab := { r.1.fab with defer := r.1.fab.defer ++ [{ phys := p, inc := BitVec.ofNat 64 inc, ack := ack, gated := gated }] } }
     else r.1.applySignal p inc)
  else r.1

/-! ### Remote SIGNALs at their source (R140, R250, R251) -/

/-- The 16 bytes of a record (R250). -/
def sigBytes (r : SigRec) : List Byte :=
  leBytes 2 r.phys ++ [0, 0] ++ leBytes 4 r.inc ++ leBytes 4 r.seq ++ leBytes 4 r.sentUs

/-- Sends one record as a side SIGNAL flit, where there is a route. -/
def State.sendSignal (s : State) (dst sub : Nat) (r : SigRec) : State :=
  match s.wayOut dst (if sub < 16 then some sub else none) with
  | .port p => s.queueFlits p none (sideFlits (.signal dst sub 1 s.srcDno s.srcSub) (s.levelTo dst) (sigBytes r))
  | _ => s

/-- The target in the form of R149 [31:16]. -/
def sigTarget (dst sub : Nat) : W := BitVec.ofNat 64 (if sub < 16 then dst * 16 + sub else dst)

/-- A remote SIGNAL given up: SPK_UNREACHABLE, in the queues of R409 and the context's queue, once each (R140), and
MEM_STATUS.SIG_UNREACHABLE. -/
def State.signalLost (s : State) (dst sub ctx : Nat) : State :=
  let q := s.ctxQ ctx
  (s.setBit Fld.MEM_STATUS_SIG_UNREACHABLE).raiseArg Fld.SPK_STATUS_UNREACHABLE (sigTarget dst sub)
    (if (s.routes 5).contains q then [] else [q])

/-- SEQ of the next record to a destination: from 1 per pair; 0 is never used (R250). -/
def nextSeq (n : Nat) : Nat := if (n + 1) % 2 ^ 32 = 0 then 1 else (n + 1) % 2 ^ 32

/-- Sends a remote SIGNAL that the fabric has accepted: the next record of its pair, kept until it is acknowledged; one that
has lost its route while it waited is given up. -/
def State.signalGo (s : State) (ctx dst sub phys inc : Nat) : State :=
  match s.wayOut dst (if sub < 16 then some sub else none) with
  | .port _ =>
    let k := dst * 32 + sub
    let q := nextSeq (s.fab.sigSeq.get k 0)
    let r : SigRec := { phys := phys, inc := inc, seq := q, sentUs := s.htNs.toNat / 1000 % 2 ^ 32 }
    let o : SigOut := { dst, sub, record := r, firstAt := s.time.now, lastAt := s.time.now, ctx }
    let s1 : State := { s with fab := { s.fab with
        sigSeq := s.fab.sigSeq.set k q, sigOut := s.fab.sigOut ++ [o] } }
    s1.sendSignal dst sub r
  | .loc => if (s.spkStatusOf phys).1 = 0 then s.signalIn phys inc none false none else s.signalLost dst sub ctx
  | _ => s.signalLost dst sub ctx

/-- A remote SIGNAL: status OK once the fabric accepts it, UNREACHABLE where R234 gives no route (R137); it waits behind the
requests of its pair that wait (R248, R249). -/
def State.signalRemote (s : State) (ctx dst sub phys inc : Nat) : State × Nat :=
  match s.wayOut dst (if sub < 16 then some sub else none) with
  | .noRoute => (s, 10)
  | .unreach => (s, 10)
  | _ =>
    if s.signalWaits dst then
      ({ s with fab := { s.fab with sideWait := s.fab.sideWait ++
          [{ tag := 0, op := 0, addr := dst * 2 ^ 40, len8 := 0, data := [], sentAt := s.time.now, tries := 0,
             use := .sig sub phys inc ctx }] } }, 0)
    else (s.signalGo ctx dst sub phys inc, 0)

/-- Is a request or a SIGNAL of this unit's own to a destination under way. -/
def State.dstBusy (s : State) (d : Nat) : Bool :=
  (s.fab.side.any fun r => hallUnit r.addr == d) || s.fab.sigOut.any fun o => o.dst == d

/-- Sends a side flit of the host die's on the way to its DOME. -/
def State.streamSend (s : State) (body : FlitBody) (lvl : Nat) (data : List Byte) : State :=
  match s.namedPort (if s.portUp 0 then 0 else 1) with
  | .port p => s.queueFlits p none (sideFlits body lvl data)
  | _ => s

/-- A SIGNAL of the host die's: `n` records to a unit; it waits as its requests do. -/
def State.hostSignal (s : State) (dst sub n lvl : Nat) (data : List Byte) : State :=
  if s.signalWaits dst then
    { s with fab := { s.fab with sideWait := s.fab.sideWait ++
        [{ tag := 0, op := 0, addr := dst * 2 ^ 40, len8 := 0, data := data, sentAt := s.time.now, tries := 0,
           use := .hostSig sub n, lvl := lvl }] } }
  else s.streamSend (.signal dst sub n s.srcDno s.srcSub) lvl data

/-- Lets the requests and SIGNALs go that waited and need not wait any more, in their order; a SIGNAL that finds no route any
more has been accepted, and is given up (R140, R251). -/
def State.sideRelease (s : State) : State :=
  let s0 : State := { s with fab := { s.fab with holdDst := s.fab.holdDst.filter s.dstBusy, sideWait := [] } }
  s.fab.sideWait.foldl (fun t w =>
    match w.use with
    | .stream => t.streamStart w
    | .hostSig sub n => t.hostSignal (hallUnit w.addr) sub n w.lvl w.data
    | .sig sub phys inc ctx =>
      let r := t.signalRemote ctx (hallUnit w.addr) sub phys inc
      if r.2 = 0 then r.1 else t.signalLost (hallUnit w.addr) sub ctx
    | u => t.sideStart w.op w.addr w.len8 w.data u) s0

/-! ### Translation (R148, R149, R503) -/

def xPhys (e : W) : Nat := e.toNat % 65536
def xTarget (e : W) : Nat := (e.toNat >>> 16) % 65536
def xKind (e : W) : Nat := (e.toNat >>> 32) % 4
def xOwner (e : W) : Bool := e.getLsbD 34

/-- The right that an operation needs. -/
def xRight (e : W) (kind : Nat) : Bool :=
  if kind = 0 then e.getLsbD 35 else if kind = 1 then e.getLsbD 36 else if kind = 2 then e.getLsbD 37
  else e.getLsbD 38

/-- Are an operation's judgements made in the 32-bit view: by its entry, or for a forerunner die (R146, R149). -/
def view32Of (src : SpkSrc) (e : W) : Bool :=
  match src with
  | .diePort _ => true
  | _ => e.getLsbD 39

/-- The destination unit and die port of a remote entry. -/
def xDst (e : W) : Nat × Nat :=
  if xKind e = 2 then (xTarget e % 4096, 16) else (xTarget e % 2 ^ 14 / 16, xTarget e % 16)

/-- The hall address of READ_SPK through a remote entry (R242). -/
def xSpkAddr (e : W) : Nat :=
  let d := xDst e
  d.1 * 2 ^ 40 + xPhys e + (if d.2 < 16 then 2 ^ 20 + d.2 * 2 ^ 16 else 0)

/-! ### Capacity (R143, R414) -/

/-- Does a record that waits for its queue belong to a context, of a code. -/
def recOf (code ctx : Nat) (r : EvtRec) : Bool := r.code == code && r.arg0.toNat % 256 == ctx
def State.held581 (s : State) (p : EvtRec → Bool) : Nat := (s.evq.defer.filter fun e => p e.2).length

def sharesHost : SpkSrc → Bool
  | .hostPage => true
  | .diePort _ => true
  | _ => false

/-- Would one more pending wait exceed a limit of R143. -/
def State.waitFull (s : State) (src : SpkSrc) (ctx : Nat) : Bool :=
  match src with
  | .vsuPort _ => decide ((s.spk.waits.filter fun w => w.src == src).length ≥ 64)
  | .core _ => decide ((s.spk.waits.filter fun w => w.src == src).length ≥ 256)
  | _ =>
    if s.isVd then
      let ws := s.spk.waits.filter fun w => sharesHost w.src
      decide (ws.length + s.held581 (fun r => r.code == 0x581) ≥ 4096) ||
      decide ((ws.filter fun w => w.ctx == ctx).length + s.held581 (recOf 0x581 ctx) ≥ 256)
    else false

def State.notifyFull (s : State) (ctx : Nat) : Bool :=
  if s.isFore then false
  else
    decide (s.spk.notifs.length + s.held581 (fun r => r.code == 0x580) ≥ (if s.isVd then 16384 else 4096)) ||
    decide ((s.spk.notifs.filter fun n => n.ctx == ctx).length + s.held581 (recOf 0x580 ctx) ≥ 256)

/-! ### The operations (R137) -/

def State.opDone (s : State) (o : SpkOp) (status : Nat) (v : W) : State :=
  s.spkDone o.src o.kind o.ctx o.id o.tag o.no status v

/-- Would the record that ends a context's WAIT or fires its NOTIFY have to wait in the unit (R414). -/
def State.recWaits (s : State) (ctx : Nat) : Bool := !s.queueTakes (s.ctxQ ctx)

/-- BUSY, with SPK_STATUS.BUSY_SEEN and its event (R143). -/
def State.opBusy (s : State) (o : SpkOp) : State := (s.raise Fld.SPK_STATUS_BUSY_SEEN).opDone o 8 0

def dieOf : SpkSrc → Option Nat
  | .diePort d => some d
  | _ => none

/-- A WAIT on a local sprocket (R137, R138). -/
def State.opWait (s : State) (o : SpkOp) (p : Nat) (v32 : Bool) : State :=
  let v := s.spkVal p
  if reachedIn v32 v o.val then s.opDone o 0 (viewOf v32 v)
  else if o.dl ≠ BitVec.allOnes 64 && decide (o.dl.toNat ≤ s.htNs.toNat) then s.opDone o 1 (viewOf v32 v)
  else if s.waitFull o.src o.ctx then s.opBusy o
  else
    { s with spk := { s.spk with waits := s.spk.waits ++
        [{ src := o.src, ctx := o.ctx, id := o.id, phys := p, expected := o.val, deadline := o.dl, tag := o.tag,
           view32 := v32, no := o.no }] } }

/-- A NOTIFY on a local sprocket: fires at once if the threshold has been reached (R141); at the limit it is BUSY, and so is
one that would fire a record that must wait (R143, R414). -/
def State.opNotify (s : State) (o : SpkOp) (p : Nat) (v32 : Bool) : State :=
  let v := s.spkVal p
  let n : Notify := { ctx := o.ctx, id := o.id, tag := o.tag, threshold := o.val, phys := p, view32 := v32 }
  let fires := reachedIn v32 v o.val
  if s.notifyFull o.ctx && (!fires || s.recWaits o.ctx) then s.opBusy o
  else if fires then (s.notifyFire n 0 v).opDone o 0 (viewOf v32 v)
  else { s with spk := { s.spk with notifs := s.spk.notifs ++ [n] } }.opDone o 0 (viewOf v32 v)

/-- NOTIFY with cancel: the registration of the same context, id and tag is removed (R141). -/
def State.opCancel (s : State) (o : SpkOp) : State :=
  let same (n : Notify) : Bool := n.ctx == o.ctx && n.id == o.id && n.tag == o.tag
  if s.spk.notifs.any same then
    { s with spk := { s.spk with notifs := s.spk.notifs.filter fun n => !same n } }.opDone o 9 0
  else s.opDone o 4 0

/-- An operation on local sprocket `p`, with the right that it needs or without, by the sprocket's state (R144, R154, R156,
R497): FREE, beyond the unit's count and EVICTED come before the right, OWNER_LOST after it (log entry 149). -/
def State.opLocal (s : State) (o : SpkOp) (p : Nat) (right v32 : Bool) : State :=
  if p ≥ s.nSpk then s.opDone o 4 0
  else
    match (s.meta p).st, right with
    | .free, _ => s.opDone o 4 0
    | .evicted, _ => s.opDone o 11 0
    | _, false => s.opDone o 5 0
    | .ownerLost, _ => s.opDone o 2 (if o.kind = 2 then viewOf v32 (s.spkVal p) else 0)
    | _, _ =>
      if o.kind = 0 then
        let s1 := s.signalIn p o.val.toNat (dieOf o.src) false none
        s1.opDone o 0 (viewOf v32 (s1.spkVal p))
      else if o.kind = 1 then s.opWait o p v32
      else if o.kind = 2 then s.opDone o 0 (viewOf v32 (s.spkVal p))
      else if o.kind = 3 then s.opNotify o p v32
      else s.opCancel o

/-- An operation with its translation entry (R137, R139, R149). -/
def State.opWith (s : State) (o : SpkOp) (e : W) : State :=
  let v32 := view32Of o.src e
  if xKind e = 0 then s.opDone o 4 0
  else if xKind e = 1 then s.opLocal o (xPhys e) (xRight e o.kind) v32
  else if o.kind != 0 && o.kind != 2 then s.opDone o 6 0
  else if !xRight e o.kind then s.opDone o 5 0
  else if o.kind = 0 then
    let d := xDst e
    let r := s.signalRemote o.ctx d.1 d.2 (xPhys e) o.val.toNat
    r.1.opDone o r.2 0
  else
    match s.wayOut (xDst e).1 (spkDie 3 (xSpkAddr e)) with
    | .noRoute => if s.addrBad 3 (xSpkAddr e) then s.opDone o 4 0 else s.opDone o 10 0
    | .unreach => s.opDone o 10 0
    | _ => s.sideStart 3 (xSpkAddr e) 0 [] (.spkRead o.src o.ctx o.id o.tag o.no v32)

/-- The address of an operation's translation entry, in the table that is committed now (R148, R151). -/
def State.xlatAddr (s : State) (ctx id : Nat) : Nat := ((s.ctx ctx).xlatActive.toNat + 8 * id) % 2 ^ 48

/-- May this source issue operations on this unit: host pages and lantern cores at a VD, a VSU's four ports, a die port at
protocol level 1 or 2 at its DOME; a VSU port takes one request at a time while it waits for an entry (R443). -/
def State.srcOk (s : State) (src : SpkSrc) : Bool :=
  match src with
  | .hostPage => s.isVd && s.pwr.perstN
  | .core c => s.isVd && decide (c < 4)
  | .diePort d => s.isDome && decide (d < 16) && (s.dieLevel d == 1 || s.dieLevel d == 2)
  | .vsuPort p =>
    !s.isVd && decide (p < 4) &&
    !((s.fab.mem.map (·.2) ++ s.fab.memQ.map (·.use)).any fun u =>
      match u with
      | .xlat o => o.src == src
      | _ => false)

/-- Numbers an operation of a host page: it is the last one on the page from now on, and a READ the last READ (R159). -/
def State.numbered (s : State) (o : SpkOp) : State × SpkOp :=
  if o.src == .hostPage && decide (o.ctx < s.nCtx) then
    let x := s.ctx o.ctx
    let n := x.opNo + 1
    let y := { x with opNo := n, readNo := if o.kind = 2 then n else x.readNo }
    ({ s with spk := { s.spk with ctxs := s.spk.ctxs.set o.ctx y } }, { o with no := n })
  else (s, o)

/-- An operation that a unit takes (R137, R497, R503): judged by its context's state, then its argument, then its entry. A WAIT
of a host page ends in a record whatever its status; where that would wait for its queue, it counts as a wait does, and the
WAIT is BUSY at the limit (R143, R414). -/
def State.spkTake (s0 : State) (o0 : SpkOp) : State :=
  let n := s0.numbered o0
  let s := n.1
  let o := n.2
  if o.kind = 1 && o.src == .hostPage && s.recWaits o.ctx && s.waitFull o.src o.ctx then s.opBusy o
  else if s.isFore then
    (if o.kind = 0 && (o.val.toNat = 0 || o.val.toNat ≥ 2 ^ 32) then s.opDone o 7 0
     else s.opLocal o o.id true true)
  else if o.ctx ≥ s.nCtx then s.opDone o 4 0
  else
    match (s.ctx o.ctx).st with
    | .free => s.opDone o 4 0
    | .saved => s.opDone o 3 0
    | .reset => s.opDone o 2 0
    | .active =>
      if s.spk.job.any fun j => j.ctx == o.ctx then s.opDone o 3 0
      else if o.kind = 0 && (o.val.toNat = 0 || o.val.toNat ≥ 2 ^ 32) then s.opDone o 7 0
      else
        let a := s.xlatAddr o.ctx o.id
        if s.isVd then s.opWith o (BitVec.ofNat 64 (leNat (Memory.readBytes s.fab.ram a 8)))
        else s.memReq { use := .xlat o, write := false, addr := a / 32 * 32, bytes := [] }

/-- An operation that a source issues. -/
def State.spkOp (s : State) (o : SpkOp) : State := if s.awake && s.srcOk o.src then s.spkTake o else s

/-- The five operations as their sources form them. A WAIT through a host page takes its expected value and deadline from the
page, and a NOTIFY its threshold (R159). The tag of a port's SIGNAL comes back with its response; a host page's SIGNAL has
none (R159, R438). -/
def signalOp (via : SigVia) (ctx id : Nat) (inc : W) : SpkOp :=
  { kind := 0, src := via.src, ctx, id := id % 4096, val := inc, dl := 0,
    tag := if via.src == .hostPage then 0 else via.tag % 65536 }

def State.waitOp (s : State) (src : SpkSrc) (ctx id : Nat) (expected deadline : W) (tag : Nat) : SpkOp :=
  let host := src == .hostPage
  { kind := 1, src, ctx, id := id % 4096, tag := tag % 65536,
    val := if host then (s.ctx ctx).argValue else expected,
    dl := if host then (s.ctx ctx).argDeadl else deadline }

def readOp (src : SpkSrc) (ctx id tag : Nat) : SpkOp :=
  { kind := 2, src, ctx, id := id % 4096, val := 0, dl := 0, tag := tag % 65536 }

def State.notifyOp (s : State) (src : SpkSrc) (ctx id : Nat) (threshold : W) (tag : Nat) : SpkOp :=
  { kind := 3, src, ctx, id := id % 4096, tag := tag % 65536, dl := 0,
    val := if src == .hostPage then (s.ctx ctx).argValue else threshold }

def cancelOp (src : SpkSrc) (ctx id tag : Nat) : SpkOp :=
  { kind := 4, src, ctx, id := id % 4096, val := 0, dl := 0, tag := tag % 65536 }

/-- SPK_SIGNAL; a VSU port's REQ_OP above 4 completes with BAD_ARG (R438). -/
def State.doSpkSignal (s : State) (via : SigVia) (ctx id : Nat) (inc : W) : State :=
  let o := signalOp via ctx id inc
  if 4 < via.op then
    match via.src with
    | .vsuPort _ => if s.awake && s.srcOk via.src then s.opDone { o with kind := via.op } 7 0 else s
    | _ => s
  else s.spkOp o

def State.doSpkWait (s : State) (src : SpkSrc) (ctx id : Nat) (expected deadline : W) (tag : Nat) : State :=
  s.spkOp (s.waitOp src ctx id expected deadline tag)

def State.doSpkRead (s : State) (src : SpkSrc) (ctx id tag : Nat) : State := s.spkOp (readOp src ctx id tag)

def State.doSpkNotify (s : State) (src : SpkSrc) (ctx id : Nat) (threshold : W) (tag : Nat) : State :=
  s.spkOp (s.notifyOp src ctx id threshold tag)

def State.doSpkNotifyCancel (s : State) (src : SpkSrc) (ctx id tag : Nat) : State := s.spkOp (cancelOp src ctx id tag)

/-- An unreleased wait whose deadline HT_NS has reached completes with TIMEOUT (R138). -/
def State.doSpkWaitTimeout (s : State) (ctx id tag : Nat) : State :=
  let due (w : Wait) : Bool := w.ctx == ctx && w.id == id && w.tag == tag && w.deadline != BitVec.allOnes 64 &&
    decide (w.deadline.toNat ≤ s.htNs.toNat)
  match s.spk.waits.find? due with
  | some w => { s with spk := { s.spk with waits := s.spk.waits.erase w } }.waitDone w 1 (s.spkVal w.phys)
  | none => s

/-- An operation goes on with its entry, or completes with BAD_ID where the read failed (R459). A WAIT or NOTIFY whose context
has been saved, reset or freed since, or is being saved, ends as R497 says: no wait or registration of it may begin any
more (R153). -/
def State.xlatFill (s : State) (o : SpkOp) (e : W) (err : Bool) : State :=
  let keeps := !s.isFore && (o.kind = 1 || o.kind ≥ 3)
  if err then s.opDone o 4 0
  else if keeps && (s.ctx o.ctx).st == .free then s.opDone o 4 0
  else if keeps && (s.ctx o.ctx).st == .reset then s.opDone o 2 0
  else if keeps && ((s.ctx o.ctx).st == .saved || s.spk.job.any fun j => j.ctx == o.ctx) then s.opDone o 3 0
  else s.opWith o e

/-- SPK_XLAT_FILL: the read of a translation entry completes. -/
def State.doSpkXlatFill (s : State) (memTag : Nat) (entry : W) (err : Bool) : State :=
  match s.fab.mem.find? fun e => e.1 == memTag with
  | some (_, .xlat o) => (s.memFree memTag).xlatFill o entry err
  | _ => s

/-! ### Owner loss (R156) -/

/-- Every wait and registration on a sprocket that entered OWNER_LOST completes with OWNER_LOST. -/
def State.flushLost (s : State) : State :=
  let s1 : State := { s with spk := { s.spk with
      waits := s.spk.waits.filter fun w => !w.lost, notifs := s.spk.notifs.filter fun n => !n.lost } }
  let s2 := (s.spk.waits.filter fun w => w.lost).foldl (fun t w => t.waitDone w 2 (t.spkVal w.phys)) s1
  (s.spk.notifs.filter fun n => n.lost).foldl (fun t n => t.notifyFire n 2 (t.spkVal n.phys)) s2

/-- OWNER_LOST_FLUSH while IDLE or HELD; while RUNNING the next boundary does it. -/
def State.doOwnerLostFlush (s : State) : State := if s.notRunning then s.flushLost else s

/-! ### Contexts (R151 to R157) -/

def State.cmdDone (s : State) : State := s.setBit Fld.SPK_CMD_STATUS_DONE
def State.cmdRefused (s : State) : State := s.setBit Fld.SPK_CMD_STATUS_REFUSED

def State.setCtx (s : State) (c : Nat) (x : Ctx) : State :=
  { s with spk := { s.spk with ctxs := s.spk.ctxs.set c x } }

/-- The context that SPK_CTX_SEL selects. -/
def State.selCtx (s : State) : Nat := s.fld Fld.SPK_CTX_SEL_CTX

/-- Makes a context's shadow table the committed one. -/
def State.xlatCommit (s : State) (c : Nat) : State :=
  let x := s.ctx c
  (s.setCtx c { x with xlatActive := x.xlatShadow, xlatPend := false }).cmdDone

/-- COMMIT_XLAT: at once while IDLE or HELD, else at the next boundary fired (R151). -/
def State.doCommitXlat (s : State) : State :=
  let c := s.selCtx
  if !s.awake then s
  else if c ≥ s.nCtx || s.isFore then s.cmdRefused
  else if s.notRunning then s.xlatCommit c
  else s.setCtx c { s.ctx c with xlatPend := true }

/-- The sprockets that a context owns. -/
def State.owned (s : State) (c : Nat) : List Nat :=
  (s.spk.info.filter fun e => e.2.owner == c && (e.2.st == .live || e.2.st == .saved)).map (·.1)

def State.setMeta (s : State) (p : Nat) (m : SpkMeta) : State :=
  { s with spk := { s.spk with info := s.spk.info.set p m } }

def setMetas (t : Tab SpkMeta) (ps : List Nat) (f : SpkMeta → SpkMeta) : Tab SpkMeta :=
  ps.foldl (fun u p => u.set p (f (u.get p {}))) t

/-- The pending waits of a context complete with PREEMPTED (R153). -/
def State.preempt (s : State) (c : Nat) : State :=
  let s1 : State := { s with spk := { s.spk with waits := s.spk.waits.filter fun w => w.ctx != c } }
  (s.spk.waits.filter fun w => w.ctx == c).foldl (fun t w => t.waitDone w 3 (t.spkVal w.phys)) s1

/-- The entry of a virtual identifier in the bytes of a translation table. -/
def tableEnt (table : List Byte) (id : Nat) : W := BitVec.ofNat 64 (fieldAt table (8 * id) 8)

/-- The virtual identifiers whose entries own a local sprocket that the context owns. -/
def State.ownedIds (s : State) (c : Nat) (table : List Byte) : List Nat :=
  (upto 4096).filter fun id =>
    let e := tableEnt table id
    xKind e == 1 && xOwner e && (s.owned c).contains (xPhys e)

/-- The save area of R152: header, table, owned sprockets, registrations, zeros, and the CRC-64 over all of it. -/
def State.saveArea (s : State) (c : Nat) (table : List Byte) : List Byte :=
  let ids := s.ownedIds c table
  let regs := s.spk.notifs.filter fun n => n.ctx == c
  let x := s.ctx c
  let head (crc : Nat) : List Byte :=
    leBytes 4 0x534B5053 ++ leBytes 2 1 ++ leBytes 2 c ++ leBytes 4 ids.length ++ leBytes 4 regs.length ++
      leBytes 8 s.htNs.toNat ++ leBytes 8 s.cad.sc.toNat ++ leBytes 8 s.cad.wsc.toNat ++
      leBytes 8 (x.notifyKind + 256 * x.notifyQ) ++ leBytes 8 0 ++ leBytes 8 crc
  let own := ids.flatMap fun id =>
    let p := xPhys (tableEnt table id)
    leBytes 2 id ++ leBytes 2 p ++ leBytes 1 (s.meta p).st.code ++ [0, 0, 0] ++ leBytes 8 (s.spkVal p).toNat
  let reg := regs.flatMap fun n => leBytes 2 n.id ++ leBytes 2 n.tag ++ leBytes 4 0 ++ leBytes 8 n.threshold.toNat
  let rest := padTo 32768 table ++ padTo 65536 own ++ padTo 32704 reg
  head (crc64 (head 0 ++ rest)) ++ rest

def saveLen : Nat := 131072
def tableLen : Nat := 32768

/-- The end of SAVE: the registrations are removed, the owned sprockets and the context are SAVED (R153). -/
def State.saveEnd (s : State) (c : Nat) : State :=
  let x := s.ctx c
  ({ s with spk := { s.spk with
      notifs := s.spk.notifs.filter fun n => n.ctx != c,
      info := setMetas s.spk.info (s.owned c) fun m => { m with st := .saved },
      ctxs := s.spk.ctxs.set c { x with st := .saved },
      job := none } }).cmdDone

/-- SAVE (R153): a VD writes the area in its main memory; a VSU reads the table and writes the area through its memory
port, while the context accepts no operation (log entry 38). -/
def State.doCtxSave (s : State) : State :=
  let c := s.selCtx
  let x := s.ctx c
  if !s.awake then s
  else if c ≥ s.nCtx || s.isFore || x.st != .active || s.spk.job.isSome then s.cmdRefused
  else
    let s1 := s.preempt c
    if s.isVd then
      let table := Memory.readBytes s.fab.ram (x.xlatActive.toNat % 2 ^ 40) tableLen
      ({ s1 with fab := { s1.fab with
          ram := Memory.writeBytes s1.fab.ram (x.saveBase.toNat % 2 ^ 40) (s1.saveArea c table) } }).saveEnd c
    else
      ({ s1 with spk := { s1.spk with job := some ⟨c, false, false, tableLen / 32, []⟩ } }).memReqs
        (beats .job false x.xlatActive.toNat tableLen [])

/-- A record of an owned sprocket in a save area: virtual id, physical index, value. -/
def areaOwned (a : List Byte) (i : Nat) : Nat × Nat × W :=
  let o := 0x8040 + 16 * i
  (fieldAt a o 2, fieldAt a (o + 2) 2, BitVec.ofNat 64 (fieldAt a (o + 8) 8))

/-- Do the checks of RESTORE pass: magic, format, and the CRC-64 over the area with its own field as 0 (R155). -/
def areaOk (a : List Byte) : Bool :=
  fieldAt a 0 4 == 0x534B5053 && fieldAt a 4 2 == 1 &&
  fieldAt a 56 8 == crc64 (overlay a 56 (leBytes 8 0)) && decide (a.length = saveLen)

/-- The table that a save area holds. -/
def areaTable (a : List Byte) : List Byte := (a.drop 64).take tableLen

/-- The owned sprockets of an area: the physical index that the restored table names, whether it is still resident and
SAVED, and the saved value; none if an index is in a state that refuses the restore. -/
def State.areaPlan (s : State) (c : Nat) (a : List Byte) : Option (List (Nat × Bool × W)) :=
  ((upto (min 4096 (fieldAt a 8 4))).map fun i =>
    let r := areaOwned a i
    let p := xPhys (tableEnt (areaTable a) r.1)
    let m := s.meta p
    if p ≥ s.nSpk then none
    else if m.st = .saved && m.owner = c then some (p, true, r.2.2)
    else if m.st = .free || m.st = .evicted then some (p, false, r.2.2)
    else none).foldr (fun x l => match x, l with
      | some y, some r => some (y :: r)
      | _, _ => none) (some [])

/-- Registers the NOTIFYs of an area again; one whose threshold has been reached fires at once (R155), and one on a sprocket
that is OWNER_LOST completes so with the others (R156). -/
def State.areaNotifs (s : State) (c : Nat) (a : List Byte) : State :=
  (upto (min 256 (fieldAt a 12 4))).foldl (fun t i =>
    let o := 0x18040 + 16 * i
    let e := tableEnt (areaTable a) (fieldAt a o 2)
    let n : Notify := { ctx := c, id := fieldAt a o 2, tag := fieldAt a (o + 2) 2, phys := xPhys e,
                        threshold := BitVec.ofNat 64 (fieldAt a (o + 8) 8), view32 := e.getLsbD 39,
                        lost := (t.meta (xPhys e)).st == .ownerLost }
    let v := t.spkVal n.phys
    if !n.lost && reachedIn n.view32 v n.threshold then t.notifyFire n 0 v
    else { t with spk := { t.spk with notifs := t.spk.notifs ++ [n] } }) s

/-- The effect of a RESTORE whose checks have passed, the write of the table apart. -/
def State.restoreWith (s : State) (c : Nat) (a : List Byte) (plan : List (Nat × Bool × W)) : State :=
  let x := s.ctx c
  let s1 : State := { s with spk := { s.spk with
      vals := plan.foldl (fun t (e : Nat × Bool × W) => if e.2.1 then t else t.set e.1 e.2.2) s.spk.vals,
      info := setMetas s.spk.info (plan.map (·.1)) fun m => { m with st := .live, owner := c },
      ctxs := s.spk.ctxs.set c { x with st := .active, xlatActive := x.xlatShadow, xlatPend := false },
      job := none } }
  ((s1.areaNotifs c a).refreshComplete).cmdDone

/-- RESTORE refused: the context stays SAVED (R155). -/
def State.restoreRefused (s : State) : State :=
  ({ s with spk := { s.spk with job := none } }.raise Fld.SPK_STATUS_RESTORE_FAIL).cmdRefused

/-- RESTORE (R155). -/
def State.doCtxRestore (s : State) : State :=
  let c := s.selCtx
  let x := s.ctx c
  if !s.awake then s
  else if c ≥ s.nCtx || s.isFore || x.st != .saved || s.spk.job.isSome then s.cmdRefused
  else if s.isVd then
    let a := Memory.readBytes s.fab.ram (x.saveBase.toNat % 2 ^ 40) saveLen
    match areaOk a, s.areaPlan c a with
    | true, some plan =>
      { s with fab := { s.fab with
          ram := Memory.writeBytes s.fab.ram (x.xlatShadow.toNat % 2 ^ 40) (areaTable a) } }.restoreWith c a plan
    | _, _ => s.restoreRefused
  else
    ({ s with spk := { s.spk with job := some ⟨c, true, false, saveLen / 32, []⟩ } }).memReqs
      (beats .job false x.saveBase.toNat saveLen [])

/-- The bytes that a job has read, in order. -/
def CtxJob.bytes (j : CtxJob) : List Byte := j.got.flatMap fun (e : Nat × List Byte) => e.2

/-- The reads of a VSU's save engine are complete: it goes on to its writes, or refuses. -/
def State.jobRead (s : State) (j : CtxJob) : State :=
  let x := s.ctx j.ctx
  if j.restore then
    let a := j.bytes
    match areaOk a, s.areaPlan j.ctx a with
    | true, some _ =>
      ({ s with spk := { s.spk with job := some { j with writing := true, left := tableLen / 32 } } }).memReqs
        (beats .job true x.xlatShadow.toNat tableLen (areaTable a))
    | _, _ => s.restoreRefused
  else
    ({ s with spk := { s.spk with job := some { j with writing := true, left := saveLen / 32 } } }).memReqs
      (beats .job true x.saveBase.toNat saveLen (s.saveArea j.ctx j.bytes))

/-- The writes of a VSU's save engine are complete. -/
def State.jobWritten (s : State) (j : CtxJob) : State :=
  if j.restore then
    let a := j.bytes
    match s.areaPlan j.ctx a with
    | some plan => s.restoreWith j.ctx a plan
    | none => s.restoreRefused
  else s.saveEnd j.ctx

/-- Evaluates the registrations of a context whose save has ended without effect. -/
def State.wakeCtx (s : State) (c : Nat) : State :=
  (((s.spk.notifs.filter fun n => n.ctx == c).map (·.phys)).eraseDups).foldl (fun t p => t.wake p) s

/-- A beat of the save engine is answered; an error ends the job: a SAVE with REFUSED and the context ACTIVE (R459), a
RESTORE as its checks do. -/
def State.jobBeat (s : State) (off : Nat) (data : List Byte) (err : Bool) : State :=
  match s.spk.job with
  | none => s
  | some j =>
    if err then
      (if j.restore then s.restoreRefused
       else (({ s with spk := { s.spk with job := none } }.wakeCtx j.ctx).cmdRefused))
    else
      let j1 : CtxJob := { j with left := j.left - 1, got := if j.writing then j.got else j.got.set off (padTo 32 data) }
      if j1.left = 0 then (if j.writing then s.jobWritten j1 else s.jobRead j1)
      else { s with spk := { s.spk with job := some j1 } }

/-- RESET (R156): every sprocket that the context owns enters OWNER_LOST with its value frozen; the waits and
registrations on them complete at the next boundary. -/
def State.doCtxReset (s : State) : State :=
  let c := s.selCtx
  if !s.awake then s
  else if c ≥ s.nCtx || s.isFore then s.cmdRefused
  else
    let ps := s.owned c
    let x := s.ctx c
    let s1 : State := { s with spk := { s.spk with
        info := setMetas s.spk.info ps fun m => { m with st := .ownerLost },
        waits := s.spk.waits.map fun w => { w with lost := w.lost || ps.contains w.phys },
        notifs := s.spk.notifs.map fun n => { n with lost := n.lost || ps.contains n.phys },
        ctxs := s.spk.ctxs.set c { x with st := .reset } } }
    (if ps.isEmpty then s1 else s1.raise Fld.SPK_STATUS_OWNER_LOST).cmdDone

/-- ACTIVATE: a FREE or RESET context becomes ACTIVE, its page's arguments at their first values (R157, R159). -/
def State.doCtxActivate (s : State) : State :=
  let c := s.selCtx
  let x := s.ctx c
  if !s.awake then s
  else if c < s.nCtx && !s.isFore && (x.st = .free || x.st = .reset) then
    (s.setCtx c { x with st := .active, argValue := 0, argDeadl := BitVec.allOnes 64 }).cmdDone
  else s.cmdRefused

/-! ### Physical sprockets (R133, R150, R154, R157, R163) -/

/-- The sprocket that SPK_PHYS_SEL selects, and the context it names. -/
def State.selPhys (s : State) : Nat := s.fld Fld.SPK_PHYS_SEL_PHYS
def State.selAdopt (s : State) : Nat := s.fld Fld.SPK_PHYS_SEL_ADOPT_CTX

/-- Is any wait or registration pending on a sprocket. -/
def State.waitedOn (s : State) (p : Nat) : Bool :=
  s.spk.waits.any (fun w => w.phys == p) || s.spk.notifs.any fun n => n.phys == p

/-- A command of SPK_PHYS_CMD: refused beyond the unit's count, or where its condition fails. -/
def State.physCmd (s : State) (ok : Nat → SpkMeta → Bool) (f : SpkMeta → SpkMeta) : State :=
  let p := s.selPhys
  if !s.awake || s.isFore then s
  else if p < s.nSpk && ok p (s.meta p) then (s.setMeta p (f (s.meta p))).cmdDone
  else s.cmdRefused

def State.doPhysAlloc (s : State) : State :=
  s.physCmd (fun _ m => m.st == .free || m.st == .evicted) fun m => { m with st := .live, owner := s.selAdopt }

def State.doPhysEvict (s : State) : State :=
  s.physCmd (fun p m => m.st == .saved && m.shares == 0 && !s.waitedOn p) fun m => { m with st := .evicted }

def State.doPhysAdopt (s : State) : State :=
  s.physCmd (fun _ m => m.st == .ownerLost) fun m => { m with st := .live, owner := s.selAdopt }

def State.doShareInc (s : State) : State :=
  s.physCmd (fun _ m => decide (m.shares < 256)) fun m => { m with shares := m.shares + 1 }

def State.doShareDec (s : State) : State :=
  s.physCmd (fun _ m => decide (0 < m.shares)) fun m => { m with shares := m.shares - 1 }

def State.doPhysFree (s : State) : State :=
  s.physCmd (fun p m => m.st == .live && m.shares == 0 && !(s.spk.waits.any fun w => w.phys == p))
    fun m => { m with st := .free }

/-- ZERO, accepted only while IDLE (R133). -/
def State.doPhysZero (s : State) : State :=
  let p := s.selPhys
  if !s.awake || s.isFore then s
  else if p < s.nSpk && s.cad.st == .idle then ((s.setVal p 0).wake p).cmdDone
  else s.cmdRefused

/-- RECORD_PLACE_DEFERRED (R414, R501). -/
def State.doRecordPlaceDeferred (s : State) : State := s.placeDeferred

/-- SPK_SIGNAL (R137). A SIGNAL adds its increment to a sprocket and evaluates every wait and NOTIFY on it, or is sent
remote. -/
def execSpkSignal (via : SigVia) (ctx : Nat) (id : Nat) (inc : W) (s : State) : Host.Outcome State Fault Refusal :=
  .next (s.doSpkSignal via ctx id inc)

/-- SPK_WAIT (R137). A WAIT is posted on a local sprocket with expected value, deadline and tag. -/
def execSpkWait (src : SpkSrc) (ctx : Nat) (id : Nat) (expected : W) (deadline : W) (tag : Nat) (s : State) : Host.Outcome State Fault Refusal :=
  .next (s.doSpkWait src ctx id expected deadline tag)

/-- SPK_READ (R137). A READ returns a sprocket's value locally or sends READ_SPK to a remote unit. -/
def execSpkRead (src : SpkSrc) (ctx : Nat) (id : Nat) (tag : Nat) (s : State) : Host.Outcome State Fault Refusal :=
  .next (s.doSpkRead src ctx id tag)

/-- SPK_NOTIFY (R141). A NOTIFY registers a one-shot record for a threshold on a local sprocket. -/
def execSpkNotify (src : SpkSrc) (ctx : Nat) (id : Nat) (threshold : W) (tag : Nat) (s : State) : Host.Outcome State Fault Refusal :=
  .next (s.doSpkNotify src ctx id threshold tag)

/-- SPK_NOTIFY_CANCEL (R141). A NOTIFY with cancel removes the matching registration and returns CANCELLED or BAD_ID.
-/
def execSpkNotifyCancel (src : SpkSrc) (ctx : Nat) (id : Nat) (tag : Nat) (s : State) : Host.Outcome State Fault Refusal :=
  .next (s.doSpkNotifyCancel src ctx id tag)

/-- SPK_WAIT_TIMEOUT (R138). An unreleased wait reaches its deadline and completes with TIMEOUT. -/
def execSpkWaitTimeout (ctx : Nat) (id : Nat) (tag : Nat) (s : State) : Host.Outcome State Fault Refusal :=
  .next (s.doSpkWaitTimeout ctx id tag)

/-- SPK_XLAT_FILL (R148). A translation-cache miss completes its memory read and the waiting operation proceeds. -/
def execSpkXlatFill (memTag : Nat) (entry : W) (err : Bool) (s : State) : Host.Outcome State Fault Refusal :=
  .next (s.doSpkXlatFill memTag entry err)

/-- OWNER_LOST_FLUSH (R156). Waits and registrations on OWNER_LOST sprockets complete with OWNER_LOST at the next
boundary or within 1 µs. -/
def execOwnerLostFlush (s : State) : Host.Outcome State Fault Refusal :=
  .next (s.doOwnerLostFlush)

/-- COMMIT_XLAT (R151). SPK_CTX_CMD.COMMIT_XLAT makes the shadow translation table committed at the next boundary or
at once. -/
def execCommitXlat (s : State) : Host.Outcome State Fault Refusal :=
  .next (s.doCommitXlat)

/-- CTX_SAVE (R153). SPK_CTX_CMD.SAVE stops the context, completes its waits with PREEMPTED and writes its save area.
-/
def execCtxSave (s : State) : Host.Outcome State Fault Refusal :=
  .next (s.doCtxSave)

/-- CTX_RESTORE (R155). SPK_CTX_CMD.RESTORE checks the save area and restores sprockets, registrations and the
translation table, or refuses. -/
def execCtxRestore (s : State) : Host.Outcome State Fault Refusal :=
  .next (s.doCtxRestore)

/-- CTX_RESET (R156). SPK_CTX_CMD.RESET puts every owned sprocket into OWNER_LOST and freezes its value. -/
def execCtxReset (s : State) : Host.Outcome State Fault Refusal :=
  .next (s.doCtxReset)

/-- CTX_ACTIVATE (R157). SPK_CTX_CMD.ACTIVATE returns a FREE or RESET context to ACTIVE. -/
def execCtxActivate (s : State) : Host.Outcome State Fault Refusal :=
  .next (s.doCtxActivate)

/-- PHYS_ALLOC (R154). SPK_PHYS_CMD.ALLOC makes a FREE or EVICTED sprocket LIVE, owned by ADOPT_CTX. -/
def execPhysAlloc (s : State) : Host.Outcome State Fault Refusal :=
  .next (s.doPhysAlloc)

/-- PHYS_EVICT (R154). SPK_PHYS_CMD.EVICT frees a SAVED sprocket for reuse, or is refused. -/
def execPhysEvict (s : State) : Host.Outcome State Fault Refusal :=
  .next (s.doPhysEvict)

/-- PHYS_ADOPT (R157). SPK_PHYS_CMD.ADOPT gives an OWNER_LOST sprocket a new owner. -/
def execPhysAdopt (s : State) : Host.Outcome State Fault Refusal :=
  .next (s.doPhysAdopt)

/-- SHARE_INC (R150). SPK_PHYS_CMD.SHARE_INC adds one to SHARES. -/
def execShareInc (s : State) : Host.Outcome State Fault Refusal :=
  .next (s.doShareInc)

/-- SHARE_DEC (R150). SPK_PHYS_CMD.SHARE_DEC takes one from SHARES, refused at 0. -/
def execShareDec (s : State) : Host.Outcome State Fault Refusal :=
  .next (s.doShareDec)

/-- PHYS_FREE (R163). SPK_PHYS_CMD.FREE frees a LIVE sprocket with no shares and no waiters. -/
def execPhysFree (s : State) : Host.Outcome State Fault Refusal :=
  .next (s.doPhysFree)

/-- PHYS_ZERO (R133). SPK_PHYS_CMD.ZERO sets a sprocket to 0 while IDLE, and is refused otherwise. -/
def execPhysZero (s : State) : Host.Outcome State Fault Refusal :=
  .next (s.doPhysZero)

/-- RECORD_PLACE_DEFERRED (R414). A held SPK_NOTIFY or SPK_WAIT_DONE record is placed once its queue is enabled and
has room. -/
def execRecordPlaceDeferred (s : State) : Host.Outcome State Fault Refusal :=
  .next (s.doRecordPlaceDeferred)


end Sys2Proof.Machine
end

