-- ==== Sys2Proof/Machine/Frames.lean ====
section
/-! DEFINITION. Sys2Proof/Machine/Frames.lean: what a port's frames carry, byte by byte: tags and quarters (R205), flits
(R207 to R209), and ordered sets with their records (R210 to R216), out and in. -/

namespace Sys2Proof.Machine

/-! ### Records out -/

def zeros (n : Nat) : List Byte := List.replicate n 0

/-- A signed value in `n` bytes. -/
def leInt (n : Nat) (z : Int) : List Byte := leBytes n (z % 2 ^ (8 * n)).toNat

def DecKind.code : DecKind → Nat
  | .start => 0
  | .phase => 1
  | .hold => 2
  | .resume => 3
  | .ratio => 4
  | .stop => 5

/-- A decision record of 40 bytes (R216); one that carries nothing has VALID clear. -/
def decBytes : Option Decision → List Byte
  | none => zeros 40
  | some d =>
    leBytes 2 d.seq ++ leBytes 1 d.epoch ++ leBytes 1 (DecKind.code d.kind + 128) ++ leBytes 1 d.phase ++ leBytes 1 d.ratio ++
      zeros 2 ++ leBytes 8 d.target.toNat ++ leBytes 8 d.anchor.toNat ++ leBytes 8 d.wsc.toNat ++ leBytes 8 d.base.toNat

/-- A domain record of 40 bytes (R213). -/
def domBytes (r : DomRec) : List Byte :=
  leInt 4 r.offset ++ leBytes 1 (r.ql % 16 + 16 * r.sbql) ++ leBytes 1 r.hop ++ leBytes 2 r.upDno ++
    leBytes 1 (bit r.valid + 2 * bit r.leader + 4 * bit r.mark + 8 * bit r.disarm) ++ leBytes 1 r.epoch ++
    leBytes 2 r.lastSeq ++ leBytes 4 r.arm ++ leBytes 8 r.grant.toNat ++ leBytes 8 r.complete.toNat ++ zeros 8

/-- A residence record of 24 bytes (R214). -/
def resBytes (r : ResRec) : List Byte :=
  leBytes 2 r.seq ++ leBytes 1 (r.reqLane % 4 + 4 * (r.rspLane % 4) + 128 * bit r.valid) ++ zeros 5 ++
    leInt 8 r.residence ++ leInt 4 r.rtMean ++ leInt 4 r.asym

/-- A rotating record of 24 bytes (R215). -/
def rotBytes (r : RotRec) : List Byte :=
  leBytes 1 r.kind ++ leBytes 1 r.arg ++ zeros 6 ++ leBytes 8 r.v0.toNat ++ leBytes 8 r.v1.toNat

/-- SENDER (R210): the identifier in [13:0], its kind in [15:14]. -/
def senderField (kind id : Nat) : Nat := id % 2 ^ 14 + 2 ^ 14 * kind

/-- The bytes of a heartbeat before its CRC (R212). -/
def hbBytes (h : Heartbeat) : List Byte :=
  leBytes 1 1 ++
    leBytes 1 (bit h.timeValid + 2 * bit h.root + 4 * bit h.issuer + 8 * bit h.relay + 16 * bit h.issueInit) ++
    leBytes 2 h.seq ++ leBytes 2 (senderField h.senderKind h.sender) ++ leBytes 1 h.level ++ zeros 1 ++
    leBytes 8 h.prevNs.toNat ++ leBytes 2 h.prevFrac ++ zeros 6 ++ domBytes h.doms.a ++ domBytes h.doms.b ++
    resBytes h.res ++ rotBytes h.rot ++ decBytes h.d0 ++ decBytes h.d1

/-- The body of an ordered set, its OS_TYPE first (R210). The ACK that R221 puts into CREDIT has no offset in the table; it
stands at [2], and a TRAIN, whose layout the manual does not give, shows its type alone (log entry 150). -/
def osBody : OSet → List Byte
  | .heartbeat h => hbBytes h
  | .delayReq lane seq sender => leBytes 1 2 ++ leBytes 1 (lane % 4) ++ leBytes 2 seq ++ leBytes 2 sender
  | .delayResp lane seq sender => leBytes 1 3 ++ leBytes 1 (lane % 4) ++ leBytes 2 seq ++ leBytes 2 sender
  | .decision d0 d1 => leBytes 1 4 ++ zeros 7 ++ decBytes (some d0) ++ decBytes d1
  | .credit levels ack => leBytes 1 5 ++ zeros 1 ++ leBytes 2 ack ++ (levels.take 4).flatMap (leBytes 2)
  | .retryReq ranges =>
    leBytes 1 6 ++ zeros 1 ++ leBytes 1 ranges.length ++ zeros 1 ++
      ranges.flatMap fun (r : Nat × Nat) => leBytes 2 r.1 ++ leBytes 2 r.2
  | .refetch wsc slot mask tile =>
    leBytes 1 7 ++ zeros 1 ++ leBytes 2 wsc ++ leBytes 2 slot ++ leBytes 2 mask ++ leBytes 4 tile
  | .refetchFail wsc slot mask tile reason =>
    leBytes 1 8 ++ zeros 1 ++ leBytes 2 wsc ++ leBytes 2 slot ++ leBytes 2 mask ++ leBytes 4 tile ++ leBytes 1 reason
  | .train _ => leBytes 1 9

/-- The 256 content bytes of an ordered set: its body, zeros, and the CRC-32C over bytes 0 to 251. -/
def osBytes (o : OSet) : List Byte :=
  let b := padTo 252 (osBody o)
  b ++ leBytes 4 (crc32c b)

/-! ### Records in -/

/-- The signed field of `n` bytes at an offset. -/
def intAt (l : List Byte) (o n : Nat) : Int := signedOf (8 * n) (fieldAt l o n)

def wordAt (l : List Byte) (o : Nat) : W := BitVec.ofNat 64 (fieldAt l o 8)

def decKindOf (n : Nat) : Option DecKind :=
  match n with
  | 0 => some .start
  | 1 => some .phase
  | 2 => some .hold
  | 3 => some .resume
  | 4 => some .ratio
  | 5 => some .stop
  | _ => none

/-- The decision record at an offset; none where VALID is clear or KIND is not used. -/
def decAt (l : List Byte) (o : Nat) : Option Decision :=
  let k := fieldAt l (o + 3) 1
  if k / 128 % 2 = 1 then
    (decKindOf (k % 8)).map fun kind =>
      { seq := fieldAt l o 2, epoch := fieldAt l (o + 2) 1, kind := kind, target := wordAt l (o + 8),
        phase := fieldAt l (o + 4) 1, anchor := wordAt l (o + 0x10), wsc := wordAt l (o + 0x18), base := wordAt l (o + 0x20),
        ratio := fieldAt l (o + 5) 1 }
  else none

def domAt (l : List Byte) (o : Nat) : DomRec :=
  let q := fieldAt l (o + 4) 1
  let f := fieldAt l (o + 8) 1
  { offset := intAt l o 4, ql := q % 16, sbql := q / 16, hop := fieldAt l (o + 5) 1, upDno := fieldAt l (o + 6) 2,
    valid := Nat.testBit f 0, leader := Nat.testBit f 1, mark := Nat.testBit f 2, disarm := Nat.testBit f 3,
    epoch := fieldAt l (o + 9) 1, lastSeq := fieldAt l (o + 0xA) 2, arm := fieldAt l (o + 0xC) 4,
    grant := wordAt l (o + 0x10), complete := wordAt l (o + 0x18) }

def resAt (l : List Byte) (o : Nat) : ResRec :=
  let f := fieldAt l (o + 2) 1
  { seq := fieldAt l o 2, reqLane := f % 4, rspLane := f / 4 % 4, valid := Nat.testBit f 7, residence := intAt l (o + 8) 8,
    rtMean := intAt l (o + 0x10) 4, asym := intAt l (o + 0x14) 4 }

def rotAt (l : List Byte) (o : Nat) : RotRec :=
  { kind := fieldAt l o 1, arg := fieldAt l (o + 1) 1, v0 := wordAt l (o + 8), v1 := wordAt l (o + 0x10) }

/-- The heartbeat in 256 bytes. -/
def hbAt (l : List Byte) : Heartbeat :=
  let f := fieldAt l 1 1
  let w := fieldAt l 4 2
  { timeValid := Nat.testBit f 0, root := Nat.testBit f 1, issuer := Nat.testBit f 2, relay := Nat.testBit f 3,
    issueInit := Nat.testBit f 4, seq := fieldAt l 2 2, senderKind := w / 2 ^ 14, sender := w % 2 ^ 14,
    level := fieldAt l 6 1, prevNs := wordAt l 8, prevFrac := fieldAt l 0x10 2, doms := ⟨domAt l 0x18, domAt l 0x40⟩,
    res := resAt l 0x68, rot := rotAt l 0x80, d0 := decAt l 0x98, d1 := decAt l 0xC0 }

/-- The ordered set in 256 content bytes; none where its CRC fails or its type is not listed (R210). A TRAIN reaches the unit
as PORT_TRAIN_START, and a DECISION without a valid record says nothing. -/
def osOf (l : List Byte) : Option OSet :=
  if l.length ≠ 256 || fieldAt l 252 4 ≠ crc32c (l.take 252) then none
  else
    match fieldAt l 0 1 with
    | 1 => some (.heartbeat (hbAt l))
    | 2 => some (.delayReq (fieldAt l 1 1 % 4) (fieldAt l 2 2) (fieldAt l 4 2))
    | 3 => some (.delayResp (fieldAt l 1 1 % 4) (fieldAt l 2 2) (fieldAt l 4 2))
    | 4 => (decAt l 8).map fun d => .decision d (decAt l 48)
    | 5 => some (.credit ((upto 4).map fun i => fieldAt l (4 + 2 * i) 2) (fieldAt l 2 2))
    | 6 => some (.retryReq ((upto (fieldAt l 2 1)).map fun i => (fieldAt l (4 + 4 * i) 2, fieldAt l (6 + 4 * i) 2)))
    | 7 => some (.refetch (fieldAt l 2 2) (fieldAt l 4 2) (fieldAt l 6 2) (fieldAt l 8 4))
    | 8 => some (.refetchFail (fieldAt l 2 2) (fieldAt l 4 2) (fieldAt l 6 2) (fieldAt l 8 4) (fieldAt l 12 1))
    | _ => none

/-- The operands of an ordered set lie in their fields; a TRAIN's layout is not given. -/
def OSet.wf : OSet → Bool
  | .heartbeat h => h.wf
  | .delayReq lane seq sender => laneWf lane && fits 16 seq && fits 16 sender
  | .delayResp lane seq sender => laneWf lane && fits 16 seq && fits 16 sender
  | .decision d0 d1 => d0.wf && d1.all Decision.wf
  | .credit levels ack => levels.length == 4 && (levels.all fun n => fits 16 n) && fits 12 ack
  | .retryReq ranges => rangesWf ranges
  | .refetch wsc slot mask tile => refetchWf wsc slot mask tile
  | .refetchFail wsc slot mask tile reason => refetchWf wsc slot mask tile && fits 8 reason
  | .train _ => false

/-! ### Flits (R207 to R209) -/

/-- The 256 bytes of a flit. -/
def flitBytes (f : Flit) : List Byte :=
  leBytes 16 (flitHeader f) ++ padTo 224 f.payload ++ leBytes 4 f.fcrc ++ flitTrailer f

/-- Bits `lo` to `lo + w - 1` of a header. -/
def hdrBits (h lo w : Nat) : Nat := (h >>> lo) % 2 ^ w

/-- Header bits [127:32], by TYPE; an invalid TYPE has none. -/
def bodyOf (h : Nat) : Option FlitBody :=
  match hdrBits h 0 4 with
  | 1 => some (.sched (hdrBits h 32 16) (hdrBits h 48 20) (hdrBits h 68 12) (hdrBits h 80 5) (hdrBits h 85 15) (hdrBits h 100 4))
  | 2 => some (.sideReq (hdrBits h 32 4) (hdrBits h 36 12) (hdrBits h 48 52) (hdrBits h 100 9) (hdrBits h 109 5) (hdrBits h 114 12))
  | 3 => some (.sideRsp (hdrBits h 32 4) (hdrBits h 36 12) (hdrBits h 48 12) (hdrBits h 60 5))
  | 4 => some (.signal (hdrBits h 32 12) (hdrBits h 44 5) (hdrBits h 49 5) (hdrBits h 54 12) (hdrBits h 66 5))
  | 5 => some (.sigAck (hdrBits h 32 12) (hdrBits h 44 5) (hdrBits h 64 32) (hdrBits h 96 4))
  | 6 => some (.bcast (hdrBits h 32 32) (hdrBits h 64 28) (hdrBits h 92 2))
  | _ => none

/-- The flit in 256 content bytes; none where its TYPE is invalid. -/
def flitOf (l : List Byte) : Option Flit :=
  let h := fieldAt l 0 16
  if l.length ≠ 256 then none
  else
    (bodyOf h).map fun b =>
      { resent := Nat.testBit h 4, last := Nat.testBit h 5, level := hdrBits h 6 2, fidx := hdrBits h 8 4,
        crdLevel := hdrBits h 12 2, crdCount := hdrBits h 14 6, body := b, payload := (l.drop 16).take 224,
        fcrc := fieldAt l 240 4, lseq := fieldAt l 244 2 % 4096, ack := fieldAt l 246 2 % 4096, tcrc := fieldAt l 248 8 }

/-! ### Frames (R205) -/

def tagFlit : Nat := 0x0F
def tagOset : Nat := 0x33
def tagIdle : Nat := 0x55

/-- The tag and the 256 content bytes of a frame that leaves a port. -/
def frameOf : Emit → Option (Nat × List Byte)
  | .flit _ f => some (tagFlit, flitBytes f)
  | .oset _ o => some (tagOset, osBytes o)
  | .idle _ => some (tagIdle, zeros 256)
  | _ => none

/-- Quarter `i` of a frame: tag bits [2i + 1 : 2i] in its header, and bytes 64i to 64i + 63. -/
def quarter (tag : Nat) (content : List Byte) (i : Nat) : Nat × List Byte := (tag / 4 ^ i % 4, (content.drop (64 * i)).take 64)

/-- The frame of four quarters, whichever way they came: on four lanes at once, or one after another on a lane alone. -/
def frameOfQuarters (q : List (Nat × List Byte)) : Nat × List Byte :=
  (((upto 4).map fun i => (q.getD i (0, [])).1 * 4 ^ i).foldl (· + ·) 0, q.flatMap (·.2))

end Sys2Proof.Machine
end

