-- ==== Sys2Proof/Machine/Staging.lean ====
section
/-! DEFINITION. Sys2Proof/Machine/Staging.lean: scheduled reads and writes of staging rows (R324 to R327) and
accumulate-on-write (R328 to R330). -/

namespace Sys2Proof.Machine

/-! ### Flits as rows hold them (R207, R321) -/

/-- The payload bytes of a row. -/
def State.rowPayload (s : State) (r : Nat) : List Byte := ((s.rowBytes r).drop 16).take 224

/-- WSC[15:0] of the step in progress. -/
def State.wsc16 (s : State) : Nat := s.cad.wsc.toNat % 65536

/-- The metadata that a scheduled write leaves. -/
def State.writtenMeta (s : State) (m : RowMeta) (drain : Bool) : RowMeta :=
  { m with stamp := s.wsc16, valid := true, cur := true, drain := drain, side := false }

/-- A scheduled write that is not an accumulation (R324, R326). -/
def State.schedWrite (s : State) (r req : Nat) (l : List Byte) : State :=
  let m := s.rowMeta r
  let s1 := if m.drain then s.stgFault 2 r 0 m.stamp req else s
  (s1.setRow r (padTo 256 l)).setRowMeta r (s.writtenMeta m (m.drain || !s.kept r))

/-- A scheduled read (R325): the row's contents, SLOT_ORDER where its stamp is not the expected one and SIDE is clear;
the first read that expects the row's stamp drains it. -/
def State.schedRead (s : State) (r age req : Nat) : State × List Byte :=
  let m := s.rowMeta r
  let exp := (s.wsc16 + 65536 - age) % 65536
  let s1 := if m.side || (m.valid && m.stamp == exp) then s else s.stgFault 1 r exp m.stamp req
  let s2 := if m.drain && m.stamp == exp then s1.setRowMeta r { m with drain := false } else s1
  (s2, s.rowBytes r)

/-! ### Accumulation (R328, R330) -/

/-- The combination of a stored and an incoming value: 0 sum, 1 max, 2 min. -/
def accVal (op : Nat) (a b : Val) : Val := if op = 0 then a.addExact b else if op = 1 then maxV a b else minV a b

/-- Replaces `w` bits of a number at bit `off`. -/
def putBits (n off w v : Nat) : Nat := n - ((n >>> off) % 2 ^ w) * 2 ^ off + (v % 2 ^ w) * 2 ^ off

/-- An element accumulated: rounded once to the format, SATF 0. -/
def accElem (fmt op a b : Nat) : Nat := (elemEncode fmt false .even (accVal op (elemDecode fmt a) (elemDecode fmt b))).1

/-- The elements of one format, other than MX and XS, whose last bit lies in the last `224` bytes of a span: the span's
stored bytes with the incoming ones accumulated. `base` is the stream byte at which the span begins. -/
def accPlain (fmt op base : Nat) (old inc : List Byte) : List Byte :=
  let w := fmtWidth fmt
  let lo := 8 * (base + old.length - 224)
  let hi := 8 * (base + old.length)
  let first := (lo + w) / w - 1
  let a := leNat old
  let b := leNat inc
  leBytes old.length (((upto (hi / w - first)).map (· + first)).foldl (fun n i =>
    let off := w * i - 8 * base
    if w * i < 8 * base then n else putBits n off w (accElem fmt op ((a >>> off) % 2 ^ w) ((b >>> off) % 2 ^ w))) a)

/-- One MX tile accumulated: each block's elements combined exactly and encoded again (R268). -/
def accMx (fmt op : Nat) (old inc : List Byte) : List Byte :=
  let a := mxTile fmt old
  let b := mxTile fmt inc
  let vs := (a.zip b).map fun (e : Val × Val) => accVal op e.1 e.2
  mxTileBytes fmt (((blocks32 (mxBlocks fmt) vs).map fun l => mxEncode fmt (List.replicate 32 .even) l).map
    fun e => (e.1, e.2.1))

/-- One XS block accumulated with no extension record, and whether it could not be encoded. -/
def accXsBlock (old inc : List Byte) : List Byte × Bool :=
  let bad := xsBad 0 old 0
  let fs := (xsFrames 0 1 old 0).zip (xsFrames 0 1 inc 0)
  let e := xsBlock 0 0 (fs.map fun (p : Frame × Frame) => p.1.add p.2)
  if bad then (leBytes 2 (0x3FF + 1024) ++ List.replicate 256 0, true) else (e.1, e.2.2)

/-- The XS blocks whose last byte lies in the last flit of a span, accumulated; how many could not be encoded. -/
def accXs (base : Nat) (old inc : List Byte) : List Byte × Nat :=
  let hi := base + old.length
  let first := (hi - 224) / 258
  ((upto (hi / 258 - first)).map (· + first)).foldl (fun x b =>
    let off := 258 * b - base
    if 258 * b < base then x
    else
      let r := accXsBlock ((x.1.drop off).take 258) ((inc.drop off).take 258)
      (overlay x.1 off r.1, x.2 + bit r.2)) (old, 0)

/-- How many flits before the last one an accumulation reaches back: elements and blocks may span flits. -/
def accBack (fmt pos : Nat) : Nat :=
  if fmt = 14 then min 2 pos
  else if isMx fmt then pos % 16
  else if fmt = 5 || fmt = 6 then min 1 pos
  else 0

/-- The new payload of a span of rows. -/
def accSpan (fmt op pos back : Nat) (old inc : List Byte) : List Byte × Nat :=
  let base := 224 * (pos - back)
  if fmt = 14 then accXs base old inc
  else if isMx fmt then (if pos % 16 = 15 then accMx fmt op old inc else old, 0)
  else (accPlain fmt op base old inc, 0)

/-- Lays payloads over rows, 224 bytes a row. -/
def State.putPayloads (s : State) (row : Nat) : Nat → List Byte → State
  | 0, _ => s
  | n + 1, l =>
    State.putPayloads (s.setRow row (overlay (s.rowBytes row) 16 (l.take 224))) (row + 1) n (l.drop 224)

/-- Applies one contribution: it initialises a row whose CUR is 0, and accumulates into one whose CUR is 1. -/
def State.accApply (s : State) (e : AccEnt) (f : Flit) : State :=
  let m := s.rowMeta e.row
  let keep (t : State) : State :=
    { t with stg := { t.stg with xsPrev := (e.run, e.row, padTo 224 f.payload) :: t.stg.xsPrev } }
  if !m.cur then keep ((s.setRow e.row (flitBytes f)).setRowMeta e.row (s.writtenMeta m m.drain))
  else
    let n := accBack e.fmt e.pos
    let r0 := e.row - n
    let rows := (upto (n + 1)).map (· + r0)
    let old := rows.flatMap fun r => s.rowPayload r
    let inc := (rows.take n).flatMap (fun r =>
      match s.stg.xsPrev.find? fun x => x.1 == e.run && x.2.1 == r with
      | some x => x.2.2
      | none => List.replicate 224 0) ++ padTo 224 f.payload
    let r := accSpan e.fmt e.op e.pos n old inc
    let s1 := (s.putPayloads r0 (n + 1) r.1).setRowMeta e.row (s.writtenMeta m m.drain)
    keep ((upto r.2).foldl (fun t _ => t.stgFault 5 e.row 0 m.stamp 8) s1)

/-- Have the rows before a contribution's, which its first element or block may reach back into, had theirs (R328, R330): what
spans rows is combined once, whole. -/
def State.accBefore (s : State) (e : AccEnt) : Bool :=
  !(s.rowMeta e.row).cur || (upto (accBack e.fmt e.pos)).all fun k =>
    s.stg.xsPrev.any fun x => x.1 == e.run && x.2.1 == e.row - 1 - k

/-- The first contribution that may be applied: its flit is verified, those before it in its run are applied as far as it spans
them, and none before it waits for the same row (R329). -/
def State.accReady (s : State) : List Nat → List AccEnt → Option (AccEnt × Flit)
  | _, [] => none
  | seen, e :: r =>
    match e.flit with
    | some f => if seen.contains e.row || !s.accBefore e then s.accReady (e.row :: seen) r else some (e, f)
    | none => s.accReady (e.row :: seen) r

/-- Applies what may be applied, in the order of the slots. -/
def State.accDrain (s : State) : Nat → State
  | 0 => s
  | n + 1 =>
    match s.accReady [] s.stg.acc with
    | some (e, f) =>
      State.accDrain (({ s with stg := { s.stg with acc := s.stg.acc.filter fun x => x.ord != e.ord } }.bankAsk e.row 2).accApply
        e f) n
    | none => s

/-- A staging port that would hold more than 64 flits back drops the ones beyond (R329). -/
def State.accLimit (s : State) (out : Nat) : State :=
  let held := s.stg.acc.filter fun e => e.out == out && e.flit.isSome
  match (held.drop 64).getLast? with
  | some e =>
    { s with stg := { s.stg with acc := s.stg.acc.filter fun x =>
        !((held.drop 64).any fun y => y.ord == x.ord) } }.stgFault 4 e.row 0 (s.rowMeta e.row).stamp 8
  | none => s

/-- A verified contribution takes its place. -/
def State.accFill (s : State) (out ord : Nat) (f : Flit) : State :=
  let s1 : State := { s with stg := { s.stg with
      acc := s.stg.acc.map fun e => if e.ord == ord then { e with flit := some f } else e } }
  (s1.accDrain s1.stg.acc.length).accLimit out

/-- The scheduled writes of a slot land in the order of R322: those of the staging ports, then the accumulations. -/
def State.landWrites (s : State) : State :=
  if s.stg.writes.isEmpty && s.stg.accs.isEmpty then s
  else
    let s0 : State := { s with stg := { s.stg with writes := [], accs := [] } }
    let s1 := (s.stg.writes.mergeSort fun a b => a.1 ≤ b.1).foldl
      (fun t (e : Nat × Nat × List Byte) => (t.bankAsk e.2.1 1).schedWrite e.2.1 e.1 e.2.2) s0
    s.stg.accs.foldl (fun t (e : Nat × Nat × Flit) => t.accFill e.1 e.2.1 e.2.2) s1

/-- Is a tile of an ACC_WRITE run in XS refused (R330): a whole block header in its payload that R273 refuses, or is of
an extended block. `base` is the stream byte of the tile's first payload byte. -/
def accXsReject (base : Nat) (data : List Byte) : Bool :=
  (upto (data.length / 258 + 2)).any fun i =>
    let b := (base + 257) / 258 + i
    decide (258 * b + 2 ≤ base + data.length) && xsBad 0 (data.drop (258 * b - base)) 0

/-! ### Memory flits (R174, R241): the granule holds the whole flit, as a row does (log entry 50) -/

def State.memFlit (s : State) (idx : Nat) : List Byte := Memory.readBytes s.fab.ram (256 * idx) 256
def State.putMemFlit (s : State) (idx : Nat) (l : List Byte) : State :=
  { s with fab := { s.fab with ram := Memory.writeBytes s.fab.ram (256 * idx) (padTo 256 l) } }

/-! ### Register reads -/

def State.doStgFaultLogRead (s : State) (via : ReadVia) : State := s.readClear via Reg.STG_FAULT_LOG
def State.doStgCountRead (s : State) (via : ReadVia) : State := s.readClear via Reg.STG_COUNT

/-- STG_FAULT_LOG_READ (R334). A read of STG_FAULT_LOG returns and clears the last staging fault. -/
def execStgFaultLogRead (via : ReadVia) (s : State) : Host.Outcome State Fault Refusal :=
  .next (s.doStgFaultLogRead via)

/-- STG_COUNT_READ (R334). A read of STG_COUNT returns and clears the slip and stall counts. -/
def execStgCountRead (via : ReadVia) (s : State) : Host.Outcome State Fault Refusal :=
  .next (s.doStgCountRead via)


end Sys2Proof.Machine
end

