-- ==== Sys2Proof/Machine/Time.lean ====
section
/-! DEFINITION. Sys2Proof/Machine/Time.lean: hall time (R9 to R35): the counter, loads, spread depth, profile starts and
the servo's states.  A command whose instant has not come, or whose condition does not hold, changes nothing
(log entry 10). -/

namespace Sys2Proof.Machine

/-! ### The arithmetic of the counter (R17, R18) -/

/-- The height of a profile tick. -/
def triOf (j : Nat) : Nat := if j ≤ 500 then j else 1000 - j

/-- The stretch table s[t] of a depth, in 2^-48 ns (R18). -/
def stretch (d t : Nat) : Nat := Fl.rneDiv (2 ^ 47 * d * t) 1000000

/-- The true length of a cycle that begins at whole nanosecond `ns` (R18). -/
def period (d ns : Nat) : Nat := 2 ^ 47 + stretch d (triOf (tickOf ns))

/-- The command to the synthesiser for a cycle of length `p` (R18). -/
def synthWord (p : Nat) (y : Int) : Nat := ((p * (2 ^ 44 - y) / 2 ^ 44).toNat) % 2 ^ 48

/-- 20 ppm per ms, for one time-clock edge of 500 ps or more, in units of 2^-44 (R30). -/
def slewEdge : Int := 175

/-- A frequency word that moves towards a target by at most `lim` (R30). -/
def slewTo (lim y target : Int) : Int := max (y - lim) (min (y + lim) target)

/-- ±100 ppm in units of 2^-44, between which the unspread frequency stays (R30). -/
def ppm100 : Int := 1759218604

def clampTo (lim e : Int) : Int := max (-lim) (min lim e)

/-- Commands a frequency word: the word in use moves to it edge by edge (R30, log entry 23). -/
def State.steerTo (s : State) (y : Int) : State := { s with time := { s.time with yTo := clampTo ppm100 y } }

/-! ### Class (R22, R23, R28, R29) -/

/-- Does the unit's DOME report that its die port's trim has never been written (R29, R55). -/
def State.trimMissing (s : State) : Bool := !s.isVd && s.tdc.dieTrimMiss.any fun e => e.2

/-- The accuracy class by servo state, staleness and trims: 0 U, 1 H, 2 H degraded. -/
def State.classNow (s : State) : Nat :=
  match s.time.servo with
  | .locked | .holdover => if s.stale || s.trimMissing then 2 else 1
  | .bridge =>
    if s.time.now - s.time.bridgeAt < msX then (if s.stale || s.trimMissing then 2 else 1) else 0
  | _ => 0

/-- Takes up the class; a fall from 1 raises HT_CLASS_DROP (R35). -/
def State.reclass (s : State) : State :=
  let c := s.classNow
  let s1 := { s with time := { s.time with cls := c } }
  if s.time.cls = 1 && c != 1 then s1.raise Fld.HT_STATUS_CLASS_DROP else s1

/-! ### Servo states (R22) -/

/-- The DPLL code at entry to ACQUIRE (R76). -/
def State.bwEntry (s : State) : Nat := if s.fld Fld.REF_BW_FINAL = 7 then 7 else 6

/-- Entry to ACQUIRE: acc starts at 0 (R495), the DPLLs at their entry code (R76), depth 0 (R20), and no bias (log entry
136). -/
def State.enterAcquire (s : State) : State :=
  { s with
    time := { s.time with servo := .acquire, acc := ⟨Fl.zero, Fl.zero⟩, run50 := 0, discard := ⟨0, 0⟩, depthUse := 0 },
    ref := { s.ref with bwCur := s.bwEntry, bwRun := 0, bwRoot := 3, bwRootRun := 0, rootOn := false,
                        rootOff := 0, bias := 0 } }.reclass

/-- Entry to FREERUN: depth 0 (R20), no selected input, code 6 for the next ACQUIRE (R76), the lock count at 0 (R88), and
no bias (log entry 136). -/
def State.enterFreerun (s : State) : State :=
  { s with
    time := { s.time with servo := .freerun, run50 := 0, depthUse := 0, yHist := [] },
    ref := { s.ref with sel := ⟨none, none⟩, bwCur := 6, bwRun := 0, bias := 0, lockAt := none,
                        qualified := false } }.reclass

/-- The frequency words of the last 1 ms (R22: 976 heartbeats) and of the last 1,024 s (R89: 10^9 heartbeats). -/
def bridgeBeats : Nat := 976
def holdBeats : Nat := 1000000000

/-- Entry to BRIDGE: y frozen at its mean over the last 1 ms of LOCKED, rounded half to even (log entry 8). -/
def State.enterBridge (s : State) : State :=
  (({ s with time := { s.time with servo := .bridge, bridgeAt := s.time.now } }.steerTo
      (if s.time.yHist.isEmpty then s.time.y else meanOf (s.time.yHist.take bridgeBeats))).raise
    Fld.HT_STATUS_BRIDGE_SEEN).reclass

/-- Entry to HOLDOVER at a root: y fixed at its mean over the last 1,024 s of lock, the minutes at 0 (R88, R89). -/
def State.enterHoldover (s : State) : State :=
  let f := if s.time.yHist.isEmpty then s.time.y else meanOf (s.time.yHist.take holdBeats)
  ({ s with
    time := { s.time with servo := .holdover },
    ref := { s.ref with holdFreq := f, holdQual := s.ref.qualified, qualified := false, lockAt := none } }.steerTo f).reclass

/-- The return to LOCKED: the servo goes on from where it is. -/
def State.enterLocked (s : State) : State :=
  { s with time := { s.time with servo := .locked, discard := ⟨0, 0⟩ } }.reclass

/-! ### The counter (R17, R18) -/

/-- One time-clock edge: the counter and the command word of R18, and the coarse count of R39; the frequency word moves
towards the one commanded (R30); a COARSE load is complete one edge later (R22).  `now` counts the true lengths of the
cycles (log entry 88).  A unit without VDD_AON, or in AON reset, has no time clock. -/
def State.tick (s : State) : State :=
  if s.belfryOn then
    let p := period s.time.depthUse s.htNs.toNat
    let s1 : State :=
      { s with time := { s.time with
                 htx := s.time.htx + BitVec.ofNat 112 p, now := s.time.now + p, synth := synthWord p s.time.y,
                 y := slewTo slewEdge s.time.y s.time.yTo },
               tdc := { s.tdc with coarse := s.tdc.coarse + 1 } }
    if s1.time.servo == .coarse then s1.enterAcquire else s1
  else s

/-! ### Reading HT (R10) -/

/-- The address of HT_NS on a path: the belfry window and the sideband have BEL_HT_NS. -/
def htNsAddr : Path → Nat
  | .belfry | .sideband => Reg.BEL_HT_NS
  | _ => Reg.HT_NS

/-- A read of HT_NS: the value, and the latch of HT_FRAC for the reading path. -/
def State.doHtNsRead (s : State) (via : ReadVia) : State :=
  s.readVia via fun t =>
    if t.reach via.path (htNsAddr via.path) then
      { t with time := { t.time with latch := t.time.latch.set via.path t.htFrac },
               out := t.out ++ [.readData via.path t.htNs] }
    else { t with out := t.out ++ [.readData via.path 0] }

/-! ### Loads of HT at a root (R12, R13) -/

/-- Moves HT by `d`, in 2^-48 ns: the anchors and the arrivals and departures that the unit holds keep what was added, so
that intervals across the load stay what they are (log entry 12); the pulse outputs move with HT (R94), and what the
edges of a reference are predicted from moves with it (R80). -/
def State.moveHt (s : State) (d : Int) : State :=
  let q := d / 2 ^ 32
  { s with
    time := { s.time with htx := s.time.htx + BitVec.ofInt 112 d },
    tdc := { s.tdc with
      anchors := s.tdc.anchors.map fun a => { a with adj := a.adj + d },
      trips := s.tdc.trips.map fun x => { x with t1 := x.t1 + q, t4 := x.t4.map (· + q) },
      rspDue := s.tdc.rspDue.map fun r => { r with t2 := r.t2 + q },
      commitHt := s.tdc.commitHt + q },
    ref := { s.ref with
      refs := s.ref.refs.map fun (e : Nat × RefIn) =>
        (e.1, { e.2 with since := e.2.since + q, lastHt := e.2.lastHt.map (· + q), applied := e.2.applied + q * 2 ^ 44 }),
      rootOffAt := s.ref.rootOffAt + q,
      pps := { s.ref.pps with last := s.ref.pps.last.map (· + q) },
      clk10 := { s.ref.clk10 with last := s.ref.clk10.last.map (· + q) } },
    fab := { s.fab with
      ports := s.fab.ports.map fun (e : Nat × PortSt) =>
        (e.1, { e.2 with rxHb := e.2.rxHb.map fun h => (h.1, h.2.map fun a => { a with ht := a.ht + q }) }) } }

/-- Sets HT. -/
def State.loadHt (s : State) (h : BitVec 112) : State := s.moveHt ((h.toNat : Int) - (s.time.htx.toNat : Int))

/-- A refused load (R13). -/
def State.loadRefuse (s : State) : State :=
  { s with time := { s.time with loadAt := none } }.setBit Fld.HT_LOAD_CTRL_REFUSED

def State.doHtLoadArm (s : State) (v : W) : State :=
  if s.isVd && s.present Reg.HT_LOAD_CTRL then
    let s1 := (s.clearW1c Reg.HT_LOAD_CTRL 0xC00 v).putMasked Reg.HT_LOAD_CTRL 3 v
    if s.isRoot && !s.cad.firedAny then { s1 with time := { s1.time with loadAt := some s.time.now } }
    else s1.loadRefuse
  else s

def State.doHtLoadApply (s : State) (ref : Nat) : State :=
  match s.time.loadAt with
  | some t =>
    if ref = s.fld Fld.HT_LOAD_CTRL_REF_SEL && s.time.now - t < 2000 * msX then
      if s.cad.firedAny || !s.isRoot then s.loadRefuse
      else
        let h := (s.reg Reg.HT_LOAD_NS).toNat * 2 ^ 48 + s.fld Fld.HT_LOAD_FRAC_FRAC * 2 ^ 32
        let s1 := s.loadHt (BitVec.ofNat 112 h)
        ({ s1 with time := { s1.time with loadAt := none } }.setBit Fld.HT_LOAD_CTRL_DONE).enterAcquire
    else s
  | none => s

def State.doHtLoadTimeout (s : State) : State :=
  match s.time.loadAt with
  | some t => if s.time.now - t ≥ 2000 * msX then s.loadRefuse else s
  | none => s

/-! ### Spread depth (R19, R20) -/

/-- A write of HT_CTRL: a depth of 0 to 10 becomes pending; other depths are ignored. -/
def State.doSpreadDepthWrite (s : State) (v : W) : State :=
  if s.present Reg.HT_CTRL then
    let d := v.toNat % 16
    let s1 := s.putMasked Reg.HT_CTRL (if d ≤ 10 then 0x10F else 0x100) v
    let s2 := if s.isVsu && v.getLsbD 8 != s.flag Fld.HT_CTRL_DISC_OUT_EN then s1.emit (.discClk (v.getLsbD 8)) else s1
    if d ≤ 10 then { s2 with time := { s2.time with depthPend := some (d, s.time.now), depthWait := true } } else s2
  else s

/-- Commits a pending depth that is at least 64 µs old. -/
def State.commitDepth (s : State) : State :=
  match s.time.depthPend with
  | some (d, t) =>
    if s.time.now - t ≥ 64 * usX then { s with time := { s.time with depthPend := none, depthComm := d } } else s
  | none => s

def State.doSpreadDepthCommit (s : State) : State := if s.notRunning then s.commitDepth else s

/-- An anchor's HT on the scale of now, in 2^-48 ns. -/
def Anchor.htNow (a : Anchor) : Int := (a.ns.toNat * 2 ^ 48 + a.frac.toNat * 2 ^ 32 : Nat) + a.adj

/-- Is a profile start due: the tick is 0, and this profile's anchor has not been latched. -/
def State.profileDue (s : State) : Bool :=
  s.belfryOn && tickOf s.htNs.toNat == 0 &&
  match s.tdc.anchors with
  | [] => true
  | a :: _ => a.htNow / 2 ^ 48 / 32000 != (s.htNs.toNat / 32000 : Nat)

/-- May the modulator spread in a servo state (R20). -/
def Servo.spreads : Servo → Bool
  | .locked | .bridge | .holdover => true
  | _ => false

/-- A profile start: the modulator takes up the committed depth, and the anchor is latched (R19, R20, R41). -/
def State.doProfileStart (s : State) : State :=
  if s.profileDue then
    let d := if s.time.servo.spreads then s.time.depthComm else 0
    { s with
      time := { s.time with depthUse := d, depthWait := s.time.depthPend.isSome },
      tdc := { s.tdc with
        anchors := ({ cnt := s.tdc.coarse, ns := s.htNs, frac := s.htFrac, depth := d } :: s.tdc.anchors).take 4 } }
  else s

/-! ### Stamps into HT ("The raw stamp", R39 to R41) -/

/-- Repeats the edge arithmetic of R18 over `n` cycles at a depth; at depth 0 one multiplication. -/
def edges (d : Nat) : Nat → Nat → Nat
  | 0, h => h
  | n + 1, h => edges d n (h + period d (h / 2 ^ 48))

def edgesFrom (d n h : Nat) : Nat := if d = 0 then h + n * 2 ^ 47 else edges d n h

/-- A stamp's HT in 2^-48 ns by one anchor, if the anchor precedes it. -/
def Anchor.convert (a : Anchor) (st : Nat) : Option Int :=
  let n := (st / 256 + 2 ^ 40 - a.cnt % 2 ^ 40) % 2 ^ 40
  if n < 2 ^ 39 then
    let h := edgesFrom a.depth n (a.ns.toNat * 2 ^ 48 + a.frac.toNat * 2 ^ 32)
    some ((h + period a.depth (h / 2 ^ 48) * (st % 256) / 256 : Nat) + a.adj)
  else none

/-- stamp_ht in units of 2^-16 ns, by the newest anchor that lies at or before the stamp; none without one. -/
def State.stampHt (s : State) (st : BitVec 48) : Option Int :=
  (s.tdc.anchors.findSome? fun a => a.convert st.toNat).map fun h => h / 2 ^ 32

/-- stamp_ht after the code-density correction, for round trips. -/
def State.stampHtFine (s : State) (st : BitVec 48) : Option Int :=
  (s.stampHt st).map fun h => h + Config.fineCorrection s.tdc.cdRuns (st.toNat % 256)

/-- HT_NS_READ (R10). A read of HT_NS returns HT at the sampled time-clock edge and latches HT_FRAC for the reading
path. -/
def execHtNsRead (via : ReadVia) (s : State) : Host.Outcome State Fault Refusal :=
  .next (s.doHtNsRead via)

/-- HT_LOAD_ARM (R12). A write of HT_LOAD_CTRL.ARM arms a root spire to load HT at the next active reference edge, or
refuses the load under R13. -/
def execHtLoadArm (v : W) (s : State) : Host.Outcome State Fault Refusal :=
  .next (s.doHtLoadArm v)

/-- HT_LOAD_APPLY (R12). The first active edge on the selected reference input after ARM applies the loaded HT, sets
DONE and takes the root into ACQUIRE. -/
def execHtLoadApply (ref : Nat) (s : State) : Host.Outcome State Fault Refusal :=
  .next (s.doHtLoadApply ref)

/-- HT_LOAD_TIMEOUT (R13). No active edge arrives within 2 s of ARM, so the load is refused and REFUSED is set. -/
def execHtLoadTimeout (s : State) : Host.Outcome State Fault Refusal :=
  .next (s.doHtLoadTimeout)

/-- SPREAD_DEPTH_WRITE (R19). A write to HT_CTRL.SPREAD_DEPTH makes a depth of 0 to 10 pending and ignores other
values. -/
def execSpreadDepthWrite (v : W) (s : State) : Host.Outcome State Fault Refusal :=
  .next (s.doSpreadDepthWrite v)

/-- SPREAD_DEPTH_COMMIT (R19). The pending depth commits 64 µs after the write while IDLE or HELD, or at the first
boundary at least 64 µs later. -/
def execSpreadDepthCommit (s : State) : Host.Outcome State Fault Refusal :=
  .next (s.doSpreadDepthCommit)

/-- PROFILE_START (R41). At each profile start the unit shifts the anchor slots, latches a new anchor and lets the
modulator take up a committed depth. -/
def execProfileStart (s : State) : Host.Outcome State Fault Refusal :=
  .next (s.doProfileStart)


end Sys2Proof.Machine
end

