-- ==== Sys2Proof/Machine/Stamps.lean ====
section
/-! DEFINITION. Sys2Proof/Machine/Stamps.lean: the TDC's channels and how an event on one becomes a record (R36 to R48).
A command that carries the stamps of what it names is the event itself, and records it here; TDC_STAMP is an event that
no other command carries (log entry 137). -/

namespace Sys2Proof.Machine

/-- The channels that a unit has (R42). -/
def State.hasChannel (s : State) (ch : Nat) : Bool :=
  decide (ch < s.nLanes) || (decide (256 ≤ ch) && decide (ch < 256 + s.nPorts)) ||
  (s.isVd && decide (320 ≤ ch) && decide (ch < 324)) || ch == 324 || ch == 325

/-- Is a channel powered: the crystal channel runs in the belfry (R42). -/
def State.channelOn (s : State) (ch : Nat) : Bool := if ch = 324 then s.belfryOn else s.awake

/-- Is a channel that of an external reference. -/
def refChannel (ch : Nat) : Bool := decide (320 ≤ ch) && decide (ch < 324)

/-- The transmit channel of a port (R42). -/
def txChannel (p : Nat) : Nat := 256 + p

/-- Does a channel take events: the unit has it, it is powered, and a reference channel is enabled and not disarmed
(R47). -/
def State.armedCh (s : State) (ch : Nat) : Bool :=
  s.hasChannel ch && s.channelOn ch &&
  !(refChannel ch && (!(s.reg (Reg.TDC_REF_CFG + 8 * (ch - 320))).getLsbD 9 ||
    decide (s.time.now < s.tdc.disarmTill.get ch 0)))

/-- Would an event on a channel be stamped now: the channel takes events, and it is not in its dead time (R37). -/
def State.stamps (s : State) (ch : Nat) : Bool := s.armedCh ch && decide (s.tdc.deadTill.get ch 0 ≤ s.time.now)

/-- The vernier count of an event that lies `delta` 65,536ths of a cycle before the edge after it (R36). -/
def vernier (delta : Nat) : Nat := max 1 (min 256 ((delta + 255) / 256))

/-- The raw stamp of an event (R39). -/
def rawStamp (coarse delta : Nat) : Nat := (coarse % 2 ^ 40) * 256 + (256 - vernier delta) % 256

/-- A FIFO record (R63). -/
def fifoRec (stamp ch kind status : Nat) : BitVec 64 :=
  BitVec.ofNat 64 (stamp % 2 ^ 48 + ch % 1024 * 2 ^ 48 + kind % 8 * 2 ^ 58 + status % 4 * 2 ^ 61 + 2 ^ 63)

/-- Writes a record into TDC_FIFO, or counts it in OVERFLOW when 4,096 records are held (R45). -/
def State.fifoPut (s : State) (r : BitVec 64) : State :=
  if s.tdc.fifo.length < 4096 then { s with tdc := { s.tdc with fifo := s.tdc.fifo ++ [r] } }
  else s.addCount Fld.TDC_FIFO_STATUS_OVERFLOW 1

/-- 160 ns of dead time, in the units of `now`. -/
def deadTime : Nat := 160 * nsX

/-- A stamped event: binned during a code-density run on channel 324 (R48, R49), recorded otherwise. -/
def State.stampOut (s : State) (ch kind stamp : Nat) : State :=
  match s.tdc.cdRun with
  | some (n + 1) =>
    if ch = 324 then
      { s with tdc := { s.tdc with
          cdRun := some n, hist := s.tdc.hist.set (stamp % 256) (min (2 ^ 32 - 1) (s.tdc.hist.get (stamp % 256) 0 + 1)) } }
    else s.fifoPut (fifoRec stamp ch kind (bit (!s.tdc.ringLock)))
  | some 0 => if ch = 324 then s else s.fifoPut (fifoRec stamp ch kind (bit (!s.tdc.ringLock)))
  | none => s.fifoPut (fifoRec stamp ch kind (bit (!s.tdc.ringLock)))

/-- An event on a channel: a disarmed or disabled reference channel takes none (R47); one in dead time counts it as missed
(R37); otherwise its stamp goes out, and the timeout of a reference channel starts again (R44). -/
def State.tdcTake (s : State) (ch kind stamp : Nat) : State :=
  if !s.armedCh ch then s
  else if !s.stamps ch then s.addCount Fld.TDC_STATUS_MISSED 1
  else
    { s with tdc := { s.tdc with
        deadTill := s.tdc.deadTill.set ch (s.time.now + deadTime),
        waitFrom := if refChannel ch then s.tdc.waitFrom.set ch s.tdc.coarse else s.tdc.waitFrom } }.stampOut ch kind stamp

/-- Is the conversion of a record still under way: its channel counts k = 256 - STAMP[7:0] fast-ring cycles from the edge
after the coarse count (R36, R39). -/
def State.converting (s : State) (r : BitVec 64) : Bool :=
  let c := r.toNat / 256 % 2 ^ 40
  decide ((s.tdc.coarse + 2 ^ 40 - c) % 2 ^ 40 < 257 - r.toNat % 256) && (r.toNat / 2 ^ 61) % 4 == 0

/-- The same record with status FINE_INVALID. -/
def fineInvalid (r : BitVec 64) : BitVec 64 := r ||| 0x2000000000000000

/-! ### Stamped ordered sets out (R43, R211) -/

/-- The period of 1,024 ns of HT that runs now. -/
def State.beatNo (s : State) : Nat := s.htNs.toNat / 1024

/-- May a port send a stamped ordered set: none has left it for 256 ns (R43), and no flit is due (R211). -/
def State.osClear (s : State) (p : Nat) : Bool :=
  let x := s.port p
  (match x.lastOs with
   | some t => decide (s.time.now - t ≥ 256 * nsX)
   | none => true) && x.txq.isEmpty

/-- Is a heartbeat due on a port: none has left in this period of 1,024 ns (R211). -/
def State.hbDue (s : State) (p : Nat) : Bool := s.osClear p && (s.port p).hbTick != some s.beatNo

/-- May DELAY_REQ or DELAY_RESP leave a port: from 512 ns of the period on, once (R211). -/
def State.dlDue (s : State) (p : Nat) : Bool :=
  s.osClear p && decide (s.htNs.toNat % 1024 ≥ 512) && (s.port p).dlTick != some s.beatNo

/-- A DELAY_REQ or DELAY_RESP has left a port. -/
def State.dlSent (s : State) (p : Nat) : State :=
  s.setPort p { s.port p with lastOs := some s.time.now, dlTick := some s.beatNo }

/-- The stamp of a marker that leaves on the present time-clock edge. -/
def State.edgeStamp (s : State) : Nat := rawStamp s.tdc.coarse 65536

end Sys2Proof.Machine
end

