-- ==== Sys2Proof/Machine/Reference.lean ====
section
/-! DEFINITION. Sys2Proof/Machine/Reference.lean: references, tandem domains and holdover (R64 to R96), and the DPLL that
the chosen input feeds (R21, R495). -/

namespace Sys2Proof.Machine

/-! ### Candidates (R25, R67, R68) -/

/-- 50 ps, 25 ps and 2 ns in units of 2^-16 ns. -/
def ps50 : Nat := 3276
def ps25 : Nat := 1638
def ns2 : Nat := 131072

/-- Is a lane eligible as a time input: it carries time, and its entry has been calibrated since it last retrained
(R25, R60). -/
def State.laneEligible (s : State) (l : Nat) : Bool := s.laneCarries l && (s.delayEnt l).state != 0

/-- Is a port a candidate for a domain (R67). A die has no DNO to compare. -/
def State.candidate (s : State) (d : Dom) (p : Nat) : Bool :=
  let t := s.portTime d p
  s.portFixed p && (upto 4).any (fun i => s.laneEligible (laneOf p i)) && t.valid && decide (t.ql ≤ 14) &&
  decide (t.hop ≤ 6) && !(s.isVd && t.upDno == s.ident.dno) && !t.lost && decide (t.errs.length ≥ 64)

/-- Does a port deliver a domain's time: a set with valid time came on it at the last heartbeat, on a lane that carries
time, and its input is not lost. -/
def State.delivers (s : State) (d : Dom) (p : Nat) : Bool :=
  let t := s.portTime d p
  s.portFixed p && (upto 4).any (fun i => s.laneCarries (laneOf p i)) && t.valid && !t.lost

/-- Are all inputs of both domains lost (R22, ACQUIRE): neither domain has a selected input, and no port delivers time
that it could take one from (log entry 138). -/
def State.noInputs (s : State) : Bool :=
  s.ref.sel.a.isNone && s.ref.sel.b.isNone &&
  (upto s.nPorts).all fun p => !s.delivers .A p && !s.delivers .B p

def State.portPrio (s : State) (p : Nat) : Nat := (s.reg (Reg.REF_PORT_PRIO + 8 * p)).toNat % 16

/-- The rank key of R68: lower is better. -/
def State.portKey (s : State) (d : Dom) (p : Nat) : Nat := ((s.portTime d p).ql * 16 + s.portPrio p) * 64 + p

/-- The one of a list with the lowest key. -/
def bestBy (key : Nat → Nat) : List Nat → Option Nat
  | [] => none
  | x :: r =>
    match bestBy key r with
    | some y => if key y < key x then some y else some x
    | none => some x

/-- The best candidate of a domain. -/
def State.bestPort (s : State) (d : Dom) : Option Nat :=
  bestBy (s.portKey d) ((upto s.nPorts).filter fun p => s.candidate d p)

/-- The received QL of a domain's selected input. -/
def State.domQl (s : State) (d : Dom) : Nat :=
  match s.ref.sel.get d with
  | some p => (s.portTime d p).ql
  | none => 15

def State.domLeader (s : State) (d : Dom) : Bool :=
  match s.ref.sel.get d with
  | some p => (s.portTime d p).leader
  | none => false

def domNum : Dom → Nat
  | .A => 0
  | .B => 1

/-- The rank key of a domain (R69): QL, then the LEADER flag, then A first. -/
def State.domKey (s : State) (d : Dom) : Nat := (s.domQl d * 2 + bit (!s.domLeader d)) * 2 + domNum d

/-- The domain that REF_CTRL forces, if it has a selected input (R69). -/
def State.forced (s : State) : Option Dom :=
  if s.flag Fld.REF_CTRL_FORCE_EN then
    let d : Dom := if s.flag Fld.REF_CTRL_FORCE_DOMAIN then .B else .A
    if (s.ref.sel.get d).isSome then some d else none
  else none

/-- Does candidate `q` of QL `ql` and key `kq` wait to restore against a selected source: better in a revertive unit,
clearly better in either (R70). -/
def State.wouldReturn (s : State) (ql selQl kq kSel : Nat) : Bool :=
  decide (ql + s.fld Fld.REF_CTRL_QL_HYST < selQl) || (s.flag Fld.REF_CTRL_REVERTIVE && decide (kq < kSel))

/-! ### External references (R69, R80, R81) -/

def State.refIn (s : State) (n : Nat) : RefIn := s.ref.refs.get n {}
def State.refQl (s : State) (n : Nat) : Nat := ((s.preg (Reg.REF_IN_CFG + 8 * n)).toNat >>> 4) % 16
def State.refPrio (s : State) (n : Nat) : Nat := ((s.preg (Reg.REF_IN_CFG + 8 * n)).toNat >>> 8) % 16
def State.refKey (s : State) (n : Nat) : Nat := (s.refQl n * 16 + s.refPrio n) * 4 + n
def State.refQualified (s : State) (n : Nat) : Bool := s.refUse n && (s.refIn n).state == 2

/-- The period P of an input, in 2^-16 ns. -/
def State.refP (s : State) (n : Nat) : Nat :=
  let c := ((s.preg (Reg.REF_IN_CFG + 8 * n)).toNat >>> 1) % 4
  (if c = 0 then 1000000000 else if c = 1 then 100000000 else if c = 2 then 10000000 else 1000000) * 65536

def State.refDelay (s : State) (n : Nat) : Int := signedOf 32 ((s.preg (Reg.REF_IN_DELAY + 8 * n)).toNat % 2 ^ 32)

def State.bestRef (s : State) : Option Nat := bestBy s.refKey ((upto 4).filter s.refQualified)

/-- A root's own source QL: the selected reference's, the leader's domain's while it follows, or the holdover QL
(R66, R84, R89). -/
def State.rootQl (s : State) : Nat :=
  if s.following then s.domQl s.otherDom
  else
    match s.ref.selRef with
    | some n => s.refQl n
    | none => if s.ref.holdQual then s.pfld Fld.REF_ROOT_CFG_QL_QUAL else s.pfld Fld.REF_ROOT_CFG_QL_UNQ

/-- A root's standby QL: the best among its qualified references (R64); 15 without one. -/
def State.standbyQl (s : State) : Nat :=
  match s.bestRef with
  | some n => s.refQl n
  | none => 15

/-- The other root's standby QL, as received with its domain (R64). -/
def State.otherStandby (s : State) : Nat :=
  match s.ref.sel.get s.otherDom with
  | some p => (s.portTime s.otherDom p).sbql
  | none => 15

/-! ### Timers (R71, R85) -/

/-- The candidates that wait to restore now. -/
def State.returning (s : State) : List WtrSel :=
  let inputs (d : Dom) : List WtrSel :=
    match s.ref.sel.get d with
    | some q => ((upto s.nPorts).filter fun p => p != q && s.candidate d p &&
        s.wouldReturn (s.portTime d p).ql (s.portTime d q).ql (s.portKey d p) (s.portKey d q)).map (WtrSel.input d)
    | none => []
  let doms : List WtrSel :=
    let o := s.activeDom.other
    if !s.isRoot && s.forced.isNone && (s.ref.sel.get o).isSome &&
      s.wouldReturn (s.domQl o) (s.domQl s.activeDom) (s.domKey o) (s.domKey s.activeDom) then [.domain o] else []
  let refs : List WtrSel :=
    match s.ref.selRef with
    | some q => ((upto 4).filter fun n => n != q && s.refQualified n &&
        s.wouldReturn (s.refQl n) (s.refQl q) (s.refKey n) (s.refKey q)).map WtrSel.ref
    | none => []
  inputs .A ++ inputs .B ++ doms ++ refs

/-- Is the leader's own source clearly worse than the follower's standby QL (R85). -/
def State.clearlyWorse (s : State) : Bool :=
  s.isRoot && s.ref.leader && decide (s.otherStandby + s.fld Fld.REF_CTRL_QL_HYST < s.rootQl)

/-- Starts and stops the wait-to-restore timers (R71) and the timer of R85. -/
def State.wtrRefresh (s : State) : State :=
  let now := s.returning
  let kept := s.ref.wtr.filter fun w => now.contains w.sel
  let fresh := now.filter fun x => !(kept.any fun w => w.sel == x)
  { s with ref := { s.ref with
      wtr := kept ++ fresh.map fun x => { sel := x, startAt := s.time.now },
      worseAt := if s.clearlyWorse then some (s.ref.worseAt.getD s.time.now) else none } }

def State.wtrTime (s : State) : Nat := s.fld Fld.REF_CTRL_WTR * 1000 * msX

/-! ### Changes of source (R70, R72) -/

/-- The domain whose errors steer the unit: the active one; at a following root, the leader's (R84). -/
def State.driveDom (s : State) : Dom := if s.following then s.otherDom else s.activeDom

/-- The mean error of a source over the last 64 heartbeats. -/
def State.srcErr (s : State) (d : Dom) : Option Nat → Int
  | some p => (s.portTime d p).meanErr
  | none => 0

/-- The mean error of the active domain's source, if it has one. -/
def State.activeErr (s : State) : Option Int :=
  (s.ref.sel.get s.activeDom).map fun p => s.srcErr s.activeDom (some p)

/-- Changes the selected input of a domain. On the domain that steers, and from one input to another, the difference of
their means joins the bias (R72); `eOld` is the mean error of the outgoing input. The class of a unit that is left without an
input is taken up by `State.settleActive`. -/
def State.setInput (s : State) (d : Dom) (p : Option Nat) (eOld : Int) : State :=
  let old := s.ref.sel.get d
  if old = p then s
  else
    let b := if d = s.driveDom && old.isSome && p.isSome && !s.ref.split then s.srcErr d p - eOld else 0
    let s1 := { s with ref := { s.ref with
      sel := s.ref.sel.set d p, bias := s.ref.bias + b,
      lastIn := if old.isSome then s.ref.lastIn.set d old else s.ref.lastIn } }
    let s2 := s1.raise Fld.REF_STATUS_SWITCHED
    if p.isNone then s2.raise Fld.REF_STATUS_DOMAIN_LOST else s2.reclass

/-- Makes the other domain active; `eOld` is the mean error of the outgoing source, if there is one (R72). -/
def State.setActive (s : State) (d : Dom) (eOld : Option Int) : State :=
  if s.ref.active = d then s
  else
    let b := match eOld with
      | some e => s.srcErr d (s.ref.sel.get d) - e
      | none => 0
    ({ s with ref := { s.ref with active := d, bias := s.ref.bias + b } }.raise Fld.REF_STATUS_SWITCHED).reclass

/-- What follows when the active domain has no selected input left: the other domain, or BRIDGE from LOCKED, or, once no
port delivers time, FREERUN from ACQUIRE (R22, R70); `eOld` is the mean error of the source that was lost. A root's
active domain is its own (R79). -/
def State.settleActive (s : State) (eOld : Int) : State :=
  if s.isRoot || (s.ref.sel.get s.ref.active).isSome then s.reclass
  else if (s.ref.sel.get s.ref.active.other).isSome then s.setActive s.ref.active.other (some eOld)
  else
    match s.time.servo with
    | .locked => s.enterBridge
    | .acquire => if s.noInputs then s.enterFreerun else s.reclass
    | _ => s.reclass

/-- The tandem and the holdover of a LOCKED or holding root (R22, R86, R91): a follower without the leader's domain is
split; a root without a source holds over; one with a source is LOCKED. -/
def State.settleRoot (s : State) : State :=
  if s.isRoot && (s.time.servo == .locked || s.time.servo == .holdover) then
    let s1 :=
      if !s.ref.leader && (s.ref.sel.get s.otherDom).isNone && !s.ref.split then
        { s with ref := { s.ref with split := true, splitRun := 0, splitDpll := false } }.raise
          Fld.REF_STATUS_TANDEM_SPLIT
      else if (s.ref.sel.get s.otherDom).isNone then
        { s with ref := { s.ref with splitRun := 0, splitDpll := false } }
      else s
    let src := s1.ref.selRef.isSome || s1.following
    match s1.time.servo, src with
    | .locked, false => s1.enterHoldover
    | .locked, true =>
      { s1 with ref := { s1.ref with lockAt := some (s1.ref.lockAt.getD s1.time.now) } }
    | .holdover, true =>
      let s2 := s1.enterLocked
      { s2 with ref := { s2.ref with lockAt := some s2.time.now } }
    | _, _ => s1
  else s

/-- The changes that fall due at a heartbeat of a domain (R70): a source that is no candidate gives way to the best; a
domain without a source takes its best candidate; a forced domain becomes active. In ACQUIRE, a unit whose inputs are
all lost goes to FREERUN (R22). -/
def State.reselect (s : State) (d : Dom) : State :=
  if s.isRoot && d == s.ownDom || s.time.servo == .bridge || s.time.servo == .freerun then s
  else
    let s1 :=
      match s.ref.sel.get d with
      | some p => if s.candidate d p then s else (s.setInput d (s.bestPort d) (s.srcErr d (some p))).settleActive (s.srcErr d (some p))
      | none => if (s.bestPort d).isSome then s.setInput d (s.bestPort d) 0 else s
    let s2 :=
      if s1.isRoot || s1.time.servo == .bridge || s1.time.servo == .freerun then s1
      else if s1.time.servo == .acquire && s1.noInputs then s1.enterFreerun
      else
        match s1.forced with
        | some f => s1.setActive f (s1.activeErr)
        | none =>
          if (s1.ref.sel.get s1.ref.active).isNone && (s1.ref.sel.get s1.ref.active.other).isSome then
            s1.setActive s1.ref.active.other none
          else s1
    s2.settleRoot

/-! ### The loop of R495 -/

/-- The bandwidth of a code, in Hz, as the nearest double (R75). -/
def bwHz (c : Nat) : Dy :=
  match c with
  | 0 => Fl.ofRat 53 1 1000
  | 1 => Fl.ofRat 53 1 100
  | 2 => Fl.ofRat 53 1 10
  | 3 => ⟨1, 0⟩
  | 4 => ⟨5, 1⟩
  | 5 => ⟨25, 2⟩
  | 6 => ⟨125, 3⟩
  | _ => ⟨125, 5⟩

/-- 2 * pi as a double. -/
def twoPi : Dy := ⟨884279719003555, -47⟩

def loopKp (c : Nat) : Dy := Fl.mul64 twoPi (bwHz c)
def loopKi (c : Nat) : Dy := let k := loopKp c; Fl.div64 (Fl.mul64 k k) ⟨25, 2⟩

/-- An error in 2^-16 ns as seconds: f64(e) * 2^-16 * 1e-9. -/
def errSeconds (e : Int) : Dy := Fl.mul64 (Fl.mul64 (Fl.f64 ⟨e, 0⟩) ⟨1, -16⟩) (Fl.ofRat 53 1 1000000000)

/-- One heartbeat, 1.024e-6 s. -/
def beatT : Dy := Fl.ofRat 53 1024 1000000000

/-- The integral path: acc - ki * e_s * t. -/
def loopAcc (c : Nat) (t acc : Dy) (e : Int) : Dy :=
  Fl.sub64 acc (Fl.mul64 (Fl.mul64 (loopKi c) (errSeconds e)) t)

/-- The frequency word: clamp(round((acc - kp * e_s) * 2^44)); the rounding is half to even (log entry 8). -/
def loopY (c : Nat) (acc : Dy) (e : Int) : Int :=
  let v := Fl.toIntRne (Fl.mul64 (Fl.sub64 acc (Fl.mul64 (loopKp c) (errSeconds e))) ⟨1, 44⟩)
  max (-(2 ^ 31)) (min (2 ^ 31 - 1) v)

/-- A frequency word as the fraction that the loop's integral path holds, and that path as a word. -/
def ofWord (y : Int) : Dy := Fl.f64 ⟨y, -44⟩
def toWord (a : Dy) : Int := Fl.toIntRne (Fl.mul64 a ⟨1, 44⟩)

/-- MAX_SLEW x 10 ppb in units of 2^-44: the largest offset with which the reference loop steers (R82, R86). -/
def State.slewMax (s : State) : Int := (s.fld Fld.REF_ROOT_CTRL_MAX_SLEW * 2 ^ 44 / 100000000 : Nat)

/-! ### Heartbeats of a domain (R21, R495) -/

/-- The heartbeats within ±50 ps that narrowing asks for: the longer of 1,024 and 10 / bandwidth (R76). -/
def narrowBeats (c : Nat) : Nat :=
  match c with
  | 7 => 2442
  | 6 => 9766
  | 5 => 97657
  | 4 => 976563
  | 3 => 9765625
  | 2 => 97656250
  | 1 => 976562500
  | _ => 9765625000

/-- Commits the shadow delay table at the instant `b`, in 2^-16 ns of HT; the delays that it replaces stay for the sets that
arrived up to it (R26, R59). -/
def State.commitDelays (s : State) (b : Int) : State :=
  if s.tdc.shadow.isEmpty then s
  else
    { s with tdc := { s.tdc with
        delays := s.tdc.shadow.foldl (fun (t : Tab DelayEnt) (e : Nat × Int) =>
          t.set e.1 { t.get e.1 {} with delay := e.2, commitAt := some s.time.now, state := 1 }) s.tdc.delays,
        prevDelay := s.tdc.shadow.map fun (e : Nat × Int) => (e.1, (s.delayEnt e.1).delay),
        commitHt := b, shadow := [] } }.reclass

/-- A heartbeat of a domain that yielded only discarded errors (R21): nothing is updated, and the active domain counts. -/
def State.discardBeat (s : State) (d : Dom) : State :=
  let on := d = s.driveDom
  { s with time := { s.time with
             discard := s.time.discard.set d (s.time.discard.get d + 1), run50 := if on then 0 else s.time.run50 },
           ref := { s.ref with bwRun := if on then 0 else s.ref.bwRun, splitRun := if on then 0 else s.ref.splitRun } }

/-- The widening of the loop that a write of FINAL asks for; a unit in BRIDGE keeps its code (R76). -/
def State.widen (s : State) : State :=
  if s.time.servo == .bridge || s.time.servo == .freerun || s.time.servo == .coarse then s else
  let f := s.fld Fld.REF_BW_FINAL
  let r := s.fld Fld.REF_BW_ROOT_FINAL
  { s with ref := { s.ref with bwCur := max s.ref.bwCur f, bwRoot := max s.ref.bwRoot (min r 3) } }

/-- The error used: the raw error less the bias, on the domain that steers (R72). -/
def State.errUsed (s : State) (d : Dom) (e : Int) : Int := if d = s.driveDom then e - s.ref.bias else e

/-- Retires one unit of the bias (R72). -/
def retire (b : Int) : Int := if b > 0 then b - 1 else if b < 0 then b + 1 else 0

/-- The count of consecutive heartbeats within a bound. -/
def runWithin (bound : Nat) (e : Int) (n : Nat) : Nat := if e.natAbs ≤ bound then n + 1 else 0

/-- The loop on an error of a domain: acc and the recorded y; on the domain that steers, the runs within ±50 ps, which take
the error that the loop uses (log entry 139), the bias, and the frequency word in use for the means of R22 and R89.
`drive` says that this DPLL's y drives the synthesiser. -/
def State.loopBeat (s : State) (d : Dom) (e : Int) (steers drive : Bool) : State :=
  let u := s.errUsed d e
  let acc := loopAcc s.ref.bwCur beatT (s.time.acc.get d) u
  let yd := loopY s.ref.bwCur acc u
  let s1 := if drive then s.steerTo yd else s
  { s1 with
    time := { s1.time with
      acc := s.time.acc.set d acc, yDom := s.time.yDom.set d yd,
      phaseErr := if d = s.activeDom then e else s.time.phaseErr,
      discard := s.time.discard.set d 0,
      run50 := if steers then runWithin ps50 u s.time.run50 else s.time.run50,
      yHist := if steers && s.time.servo == .locked then s.time.y :: s.time.yHist else s.time.yHist },
    ref := { s.ref with
      bwRun := if steers then runWithin ps50 u s.ref.bwRun else s.ref.bwRun,
      bias := if steers then retire s.ref.bias else s.ref.bias } }

/-- The phase that a frequency offset has added to every input's prediction since it was applied. -/
def State.carryOffset (s : State) (t : Int) : State :=
  { s with ref := { s.ref with
      refs := s.ref.refs.map fun e => (e.1, { e.2 with applied := e.2.applied + s.ref.rootOff * (t - s.ref.rootOffAt) }),
      rootOffAt := t } }

/-- Changes the offset that the reference loop applies, from now on. -/
def State.setOff (s : State) (off : Int) : State :=
  let s1 := s.carryOffset s.ht
  { s1 with ref := { s1.ref with rootOff := off } }

/-- The reference loop on an error, in the form of R495 over a time `t` (R78). It takes over from the frequency in use. The
word that it commands lies within MAX_SLEW x 10 ppb of its integral path, and the integral path rests while the loop asks
for more (R82; log entry 14). -/
def State.refLoop (s : State) (t : Dy) (e : Int) : State :=
  let acc := if s.ref.rootOn then s.ref.rootAcc else ofWord s.time.y
  let acc' := loopAcc s.ref.bwRoot t acc e
  let want := loopY s.ref.bwRoot acc' e - toWord acc
  let off := clampTo s.slewMax want
  let s1 := (s.setOff off).steerTo (toWord acc + off)
  { s1 with ref := { s1.ref with rootOn := true, rootAcc := if off = want then acc' else acc } }

/-- The reference loop steers no more where the root follows by its DPLL or has no source. -/
def State.refIdle (s : State) : State :=
  let dpll := s.following && !(s.ref.split && !s.ref.splitDpll)
  if s.ref.rootOn && (dpll || (!s.following && s.ref.selRef.isNone)) then
    let s1 := s.setOff 0
    { s1 with ref := { s1.ref with rootOn := false } }
  else s

/-- A split follower that has the leader's domain again (R86): the reference loop with that domain as its reference, by
frequency alone and within MAX_SLEW, until the first heartbeat within ±25 ps; and the run within ±25 ps. -/
def State.splitBeat (s : State) (e : Int) : State :=
  let dpll := s.ref.splitDpll || decide (e.natAbs ≤ ps25)
  let run := runWithin ps25 e s.ref.splitRun
  if dpll then { s with ref := { s.ref with splitDpll := true, splitRun := run } }
  else
    let s1 := s.refLoop beatT e
    { s1 with ref := { s1.ref with splitRun := run } }

/-- The heartbeat of a domain with error `e`. -/
def State.beat (s : State) (d : Dom) (e : Int) : State :=
  match s.time.servo with
  | .acquire | .locked | .holdover =>
    if s.isRoot then
      if d = s.ownDom then (s.loopBeat d 0 (!s.following) false).refIdle
      else if s.following && s.ref.split then
        let s1 := s.splitBeat e
        s1.loopBeat d e true s1.ref.splitDpll
      else s.loopBeat d e s.following s.following
    else s.loopBeat d e (d == s.driveDom) (d == s.driveDom)
  | _ => s

/-- Counts a root's heartbeats in LOCKED, for R108; a root in HOLDOVER is locked in this sense (log entry 27). -/
def State.countLocked (s : State) : State :=
  let on := s.time.servo == .locked || s.time.servo == .holdover
  { s with cad := { s.cad with root := { s.cad.root with
      lockedHbs := if on then min 64 (s.cad.root.lockedHbs + 1) else 0 } } }

/-- Clears a port's errors, their mean kept for a change of source that follows (R72). -/
def PortTime.clear (t : PortTime) : PortTime := { t with errs := [], mean := t.meanErr, fresh := none }

/-- A port on which no heartbeat has come since the domain's last update delivers no time and has no error at this
heartbeat (R67). -/
def State.dropSilent (s : State) (d : Dom) : State :=
  { s with ref := { s.ref with
      pt := s.ref.pt.set d ((s.ref.pt.get d).map fun (e : Nat × PortTime) =>
        (e.1, if e.2.heard then e.2 else { e.2.clear with valid := false })) } }

/-- The heartbeat of a domain is over: each port's error has been used or not. -/
def State.endBeat (s : State) (d : Dom) : State :=
  { s with ref := { s.ref with
      pt := s.ref.pt.set d ((s.ref.pt.get d).map fun (e : Nat × PortTime) =>
        (e.1, { e.2 with heard := false, fresh := none })) } }

/-- DPLL_HEARTBEAT_UPDATE: the changes of source due at this heartbeat, the error that the selected input has ready, and
the loop. A heartbeat at which the selected input has no eligible lane, and so no error, neither counts towards the 16 of
R21 nor breaks their run (log entry 140). While core 1 is in reset, an error counts as discarded (R402). While no boundary
fires, the shadow delay table commits here (log entry 15). -/
def State.doDpllHeartbeatUpdate (s : State) (d : Dom) : State :=
  if s.awake then
    let s0 := (if s.notRunning then s.commitDelays s.ht else s).widen
    let s1 := (s0.dropSilent d).reselect d
    let s2 :=
      if s1.isRoot && d == s1.ownDom then s1.countLocked.beat d 0
      else
        match s1.ref.sel.get d with
        | none => s1
        | some p =>
          match (s1.portTime d p).fresh with
          | none => s1
          | some none => s1.discardBeat d
          | some (some e) => if s1.coreHeld 1 then s1.discardBeat d else s1.beat d e
    (s2.endBeat d).wtrRefresh
  else s

/-! ### Servo transitions (R21, R22) -/

/-- Are the delay entries of the lanes of the selected inputs calibrated (R22); a root has no such lanes. -/
def State.inputsCalibrated (s : State) : Bool :=
  s.isRoot ||
  match s.ref.sel.get s.activeDom with
  | some p =>
    (upto 4).any (fun i => s.laneCarries (laneOf p i)) &&
    (upto 4).all fun i => !s.laneCarries (laneOf p i) || (s.delayEnt (laneOf p i)).state != 0
  | none => false

/-- The alignment of the crossings at the first entry to LOCKED after AON reset (R382); a VSU measures the offset of its host
clock with it, a free value (R129; log entry 170). -/
def State.alignCrossings (s : State) : State :=
  if s.clk.aligned then s
  else if s.isVsu then
    { s with free := s.free + 1, clk := { s.clk with aligned := true, hostOff := Config.hostOffset s.free } }
  else { s with clk := { s.clk with aligned := true } }

/-- SERVO_LOCK: after 4,096 heartbeats within ±50 ps, LOCKED; the crossings are aligned once, and a root takes its
LEADER flag from LEADER_INIT (R83). -/
def State.doServoLock (s : State) : State :=
  if s.time.servo == .acquire && decide (s.time.run50 ≥ 4096) && s.inputsCalibrated then
    let s1 := s.enterLocked
    let s2 := s1.alignCrossings
    let s3 :=
      if s2.isRoot && (s2.preg Reg.REF_ROOT_CFG).getLsbD 1 && !s2.ref.leader then
        { s2 with ref := { s2.ref with leader := true } }.raise Fld.REF_STATUS_ROLE_CHANGE
      else s2
    s3.settleRoot
  else s

/-- DOMAIN_INPUT_LOST: 16 heartbeats of the active domain with only discarded errors; the input is lost, and the next best
source takes its place at once. -/
def State.doDomainInputLost (s : State) (d : Dom) : State :=
  if decide (s.time.discard.get d ≥ 16) && (d == s.activeDom || d == s.driveDom) then
    match s.ref.sel.get d with
    | some p =>
      let s1 := { s with
        time := { s.time with discard := s.time.discard.set d 0 },
        ref := { s.ref with
          pt := s.ref.pt.set d ((s.ref.pt.get d).set p { (s.portTime d p).clear with lost := true }) } }
      let s2 := s1.raise Fld.HT_STATUS_DISCARD_RUN
      (((s2.setInput d (s2.bestPort d) (s.srcErr d (some p))).settleActive (s.srcErr d (some p))).settleRoot).wtrRefresh
    | none => s
  else s

/-- BRIDGE_TIMEOUT: 1 ms in BRIDGE without a return; the unit goes to FREERUN. -/
def State.doBridgeTimeout (s : State) : State :=
  if s.time.servo == .bridge && decide (s.time.now - s.time.bridgeAt ≥ msX) then s.enterFreerun else s

/-- The return from BRIDGE (R22, R74): within 1 ms, an input of either domain that is a candidate and whose last error is
within ±50 ps; the bias is its mean. -/
def State.bridgeReturn (s : State) : State :=
  if s.time.servo == .bridge && !s.isRoot && decide (s.time.now - s.time.bridgeAt < msX) then
    let ok (d : Dom) (p : Nat) : Bool :=
      s.candidate d p && (match (s.portTime d p).errs with
        | e :: _ => decide (e.natAbs ≤ ps50)
        | [] => false)
    let pick (d : Dom) : Option Nat := bestBy (s.portKey d) ((upto s.nPorts).filter (ok d))
    let go (d : Dom) (p : Nat) : State :=
      ({ s with ref := { s.ref with
          sel := s.ref.sel.set d (some p), active := d, bias := meanOf (s.portTime d p).errs } }.raise
        Fld.REF_STATUS_SWITCHED).enterLocked
    match pick s.ref.active with
    | some p => go s.ref.active p
    | none =>
      match pick s.ref.active.other with
      | some p => go s.ref.active.other p
      | none => s
  else s

/-- Has a candidate waited WTR seconds, still a candidate and still better (R70, R71). -/
def State.wtrDue (s : State) (sel : WtrSel) : Bool :=
  s.returning.contains sel && s.ref.wtr.any fun w => w.sel == sel && decide (s.time.now - w.startAt ≥ s.wtrTime)

/-- Is what two timers choose the same choice, and the first the better (R68, R69). -/
def State.wtrBeats (s : State) : WtrSel → WtrSel → Bool
  | .input d p, .input d' p' => d == d' && decide (s.portKey d p < s.portKey d p')
  | .ref n, .ref n' => decide (s.refKey n < s.refKey n')
  | _, _ => false

/-- WTR_EXPIRY: a candidate has waited WTR seconds; the change of R70 is made. Of two changes of one choice that fall due
together, only that to the better source is made. -/
def State.doWtrExpiry (s : State) (sel : WtrSel) : State :=
  if s.wtrDue sel && !(s.ref.wtr.any fun w => s.wtrDue w.sel && s.wtrBeats w.sel sel) then
    let s1 :=
      match sel with
      | .input d p => s.setInput d (some p) (s.srcErr d (s.ref.sel.get d))
      | .domain d => s.setActive d s.activeErr
      | .ref n => { s with ref := { s.ref with selRef := some n } }.raise Fld.REF_STATUS_SWITCHED
    s1.settleRoot.wtrRefresh
  else s

/-- The length of the run within ±50 ps, in ns, that the reference loop's narrowing asks for (R76, R78). -/
def rootNarrowNs (c : Nat) : Nat :=
  match c with
  | 3 => 10000000000
  | 2 => 100000000000
  | 1 => 1000000000000
  | _ => 10000000000000

/-- DPLL_NARROW: one code narrower, down to the final code; a unit in BRIDGE keeps its code (R76). -/
def State.doDpllNarrow (s : State) (sel : LoopSel) : State :=
  match sel with
  | .domain =>
    if decide (s.ref.bwCur > s.fld Fld.REF_BW_FINAL) && decide (s.ref.bwRun ≥ narrowBeats s.ref.bwCur) &&
      (s.time.servo == .acquire || s.time.servo == .locked || s.time.servo == .holdover) then
      { s with ref := { s.ref with bwCur := s.ref.bwCur - 1, bwRun := 0 } }
    else s
  | .reference =>
    if s.isRoot && decide (s.ref.bwRoot > s.fld Fld.REF_BW_ROOT_FINAL) &&
      decide (s.ref.bwRootRun ≥ rootNarrowNs s.ref.bwRoot) then
      { s with ref := { s.ref with bwRoot := s.ref.bwRoot - 1, bwRootRun := 0 } }
    else s

/-! ### Reference edges (R78 to R82) -/

/-- The error of an edge against the grid (R80). -/
def edgeErr (p : Nat) (x : Int) : Int := x - p * Fl.rneDivInt x p

/-- 100 ns in units of 2^-16 ns. -/
def ns100 : Nat := 6553600

/-- Is an edge valid: the first since the input was enabled, or within 100 ns of its prediction, errors a whole period
apart being one (R80; log entry 16). -/
def RefIn.validEdge (r : RefIn) (p : Nat) (err : Int) : Bool :=
  r.lastHt.isNone || decide ((edgeErr p (err - (r.err + r.applied / 2 ^ 44))).natAbs ≤ ns100)

/-- The reference loop at a valid edge of the selected input, with the input's period for t (R78, R82), and the run within
±50 ps. -/
def State.refSteer (s : State) (p : Nat) (err : Int) : State :=
  let s1 := s.refLoop (Fl.ofRat 53 (p / 65536 : Nat) 1000000000) err
  { s1 with ref := { s1.ref with bwRootRun := if err.natAbs ≤ ps50 then s.ref.bwRootRun + p / 65536 else 0 } }

/-- The edge of an input of a root spire, stamped. A root without a selected reference takes the best qualified one at once
(log entry 13). While core 1 is held in reset, no error steers (R402). -/
def State.refEdge (s : State) (n : Nat) (stamp : BitVec 48) : State :=
    match s.stampHt stamp with
    | none => s
    | some t =>
      let s1 := s.carryOffset t
      let r := s1.refIn n
      let p := s1.refP n
      let err := edgeErr p (t - s1.refDelay n)
      if r.validEdge p err then
        let run := if r.state = 3 then 1 else min 16 (r.run + 1)
        let r' : RefIn := { r with
          state := if run ≥ 16 || r.state = 2 then 2 else 1, run, err, lastHt := some t, applied := 0 }
        let s2 := { s1 with ref := { s1.ref with refs := s1.ref.refs.set n r' } }
        let s3 :=
          if s2.ref.selRef.isNone && s2.bestRef.isSome then
            { s2 with ref := { s2.ref with selRef := s2.bestRef } }.raise Fld.REF_STATUS_SWITCHED
          else s2
        let s4 :=
          if s3.ref.selRef = some n && !s3.following && !s3.coreHeld 1 &&
            (s3.time.servo == .acquire || s3.time.servo == .locked || s3.time.servo == .holdover)
          then s3.refSteer p err else s3
        s4.settleRoot.wtrRefresh
      else
        { s1 with ref := { s1.ref with
            refs := s1.ref.refs.set n { r with run := 0 } } }

/-- REF_EDGE: an edge of a reference input: its stamp is recorded (R45), and one that is stamped and enabled at a root
spire is judged. -/
def State.doRefEdge (s : State) (n : Nat) (stamp : BitVec 48) : State :=
  if n < 4 then
    let s1 := s.tdcTake (320 + n) 3 stamp.toNat
    if s.refUse n && s.stamps (320 + n) then s1.refEdge n stamp else s1
  else s

/-- REF_LOSS: three grid instants have passed without a valid edge within ±P/2, since the last one or since the input was
enabled (R81). -/
def State.doRefLoss (s : State) (n : Nat) : State :=
  let r := s.refIn n
  let p : Int := s.refP n
  let k := match r.lastHt with
    | some t => Fl.rneDivInt (t - s.refDelay n) p.toNat
    | none => (r.since - s.refDelay n) / p
  if n < 4 && s.refUse n && (r.state == 1 || r.state == 2) &&
    decide ((s.ht : Int) - s.refDelay n ≥ (k + 3) * p + p / 2) then
    let s1 := { s with ref := { s.ref with refs := s.ref.refs.set n { r with state := 3, run := 0 } } }
    let s2 := s1.raise Fld.REF_STATUS_REF_LOST
    let s3 :=
      if s2.ref.selRef = some n then
        { s2 with ref := { s2.ref with selRef := s2.bestRef, lostRef := some n } }.raise Fld.REF_STATUS_SWITCHED
      else s2
    s3.settleRoot.wtrRefresh
  else s

/-! ### The tandem (R83 to R86) and holdover (R88) -/

/-- LEADER_YIELD: the leader's source has been clearly worse for WTR seconds; it clears LEADER and follows. -/
def State.doLeaderYield (s : State) : State :=
  match s.ref.worseAt with
  | some t =>
    if s.clearlyWorse && decide (s.time.now - t ≥ s.wtrTime) then
      ({ s with ref := { s.ref with leader := false, worseAt := none, split := false, sawLead := false, yielded := true } }.raise
        Fld.REF_STATUS_ROLE_CHANGE).settleRoot
    else s
  | none => s

/-- May a root take the lead that it sees free: once it has seen the other root lead; before that, at the start, the root
of plane A, and not a root that has just yielded (R83, R85; log entry 25). -/
def State.mayLead (s : State) : Bool := s.ref.sawLead || (s.ownDom == .A && !s.ref.yielded)

/-- What a root does about the other root's LEADER flag, as it arrives with its domain: it takes a lead that is free
(R85); where both lead, the root of plane A does (R83). -/
def State.leaderTake (s : State) (flag : Bool) : State :=
  if s.isRoot && (s.time.servo == .locked || s.time.servo == .holdover) then
    if flag then
      let s1 := { s with ref := { s.ref with sawLead := true, yielded := false } }
      if s.ref.leader && s.ownDom == .B then
        ({ s1 with ref := { s1.ref with leader := false } }.raise Fld.REF_STATUS_ROLE_CHANGE).settleRoot
      else s1
    else if !s.ref.leader && s.mayLead then
      ({ s with ref := { s.ref with leader := true, split := false } }.raise Fld.REF_STATUS_ROLE_CHANGE).settleRoot
    else s
  else s

/-- TANDEM_JOIN: 1,024 consecutive heartbeats within ±25 ps; SPLIT is cleared. -/
def State.doTandemJoin (s : State) : State :=
  if s.ref.split && s.following && decide (s.ref.splitRun ≥ 1024) then
    { s with ref := { s.ref with split := false, splitRun := 0, splitDpll := false } }
  else s

/-- HOLDOVER_QUALIFY: 240 minutes of continuous lock (R88). -/
def State.doHoldoverQualify (s : State) : State :=
  if s.isRoot && decide (s.lockMinutes ≥ 240) then { s with ref := { s.ref with qualified := true } } else s

/-! ### UTC by PTP (R92, R93) -/

/-- HT now in whole ns, as the lantern reads it. -/
def State.htInt (s : State) : Int := (s.ht : Int)

/-- An offset sample, UTC - HT in 2^-16 ns: minus the offset of IEEE 1588, ((t2 - t1) - (t4 - t3)) / 2, less
currentUtcOffset (R93); an odd sum's half is rounded down (log entry 178). -/
def ptpSample (t1 t2 t3 t4 utcOff : Int) : Int :=
  -(((t2 - t1 * 65536) - (t4 * 65536 - t3)) / 2) - utcOff * 1000000000 * 65536

/-! The best-master choice is that of IEEE 1588-2019, which R92 names (log entry 17). -/

/-- Four announce intervals of a clock, in 2^-48 ns: the window in which its Announces count. -/
def announceWindow (c : PtpClock) : Nat :=
  if 0 ≤ c.logInt then 4000 * msX * 2 ^ c.logInt.toNat else 4000 * msX / 2 ^ (-c.logInt).toNat

/-- Is a list of numbers lower than another, the first difference deciding. -/
def lexLower : List Nat → List Nat → Bool
  | a :: r, b :: q => decide (a < b) || (a == b && lexLower r q)
  | _, _ => false

/-- Is a clock's data set better than another's: of one grandmaster the one fewer steps away, then by sending port; of two, by
priority 1, class, accuracy, variance, priority 2 and identity. -/
def PtpForeign.better (x y : PtpForeign) : Bool :=
  if x.data.gm = y.data.gm then lexLower [x.data.steps, x.src] [y.data.steps, y.src]
  else
    lexLower [x.data.prio1, x.data.cls, x.data.accuracy, x.data.variance, x.data.prio2, x.data.gm]
      [y.data.prio1, y.data.cls, y.data.accuracy, y.data.variance, y.data.prio2, y.data.gm]

/-- May a clock be chosen: two of its Announces lie within its window, and it is fewer than 255 steps from its
grandmaster. -/
def PtpForeign.qualified (x : PtpForeign) : Bool :=
  decide (x.data.steps < 255) && x.before.any fun t => decide (x.heardAt ≤ t + announceWindow x.data)

/-- The best of the clocks that may be chosen. -/
def bestMaster : List PtpForeign → Option PtpForeign
  | [] => none
  | x :: r =>
    match bestMaster r with
    | some y => if x.qualified && x.better y then some x else some y
    | none => if x.qualified then some x else none

/-- An Announce at time `at_`: clocks whose window has passed drop out, and the best of the others is the master. -/
def PtpSt.announce (p : PtpSt) (src : Nat) (c : PtpClock) (at_ : Nat) : PtpSt :=
  let kept := p.foreign.filter fun x => x.src != src && decide (at_ ≤ x.heardAt + announceWindow x.data)
  let before := (p.foreign.find? fun x => x.src == src).map (·.heardAt)
  let l := { src := src, data := c, heardAt := at_, before := before } :: kept
  match bestMaster l with
  | some x =>
    if p.master = some x.src then { p with foreign := l, utcOff := x.data.utcOffset }
    else
      { p with foreign := l, master := some x.src, utcOff := x.data.utcOffset, t1 := none, t3 := none, twoStep := none,
               state := 2 }
  | none => { p with foreign := l, master := none, t1 := none, t3 := none, twoStep := none, state := 1 }

/-- The client's part in a message with local time `now` (R92), heard at `at_`: an Announce takes part in the choice of the
master; a one-step Sync of the master carries t1, a two-step one waits for its Follow_Up; Delay_Req leaves at t3, and its
Delay_Resp completes a sample. -/
def PtpSt.take (p : PtpSt) (now : Int) (at_ : Nat) (m : PtpMsg) : PtpSt :=
  let h := m.hdr
  let ours := p.master == some h.src
  match m.body with
  | .announce c => p.announce h.src c at_
  | .sync ts two =>
    if !ours then p
    else if two then { p with twoStep := some (h.seq, now), syncs := p.syncs + 1 }
    else { p with t1 := some ts, t2 := now, twoStep := none, syncs := p.syncs + 1 }
  | .followUp ts =>
    match p.twoStep with
    | some (n, t) => if ours && n == h.seq then { p with t1 := some ts, t2 := t, twoStep := none } else p
    | none => p
  | .delayReqSent => { p with t3 := some now, reqSeq := h.seq }
  | .delayResp ts =>
    match p.t1, p.t3 with
    | some t1, some t3 =>
      if ours && h.seq == p.reqSeq then
        { p with t3 := none, state := 3, samples := (ptpSample t1 p.t2 t3 ts p.utcOff :: p.samples).take 16 }
      else p
    | _, _ => p

/-- PTP_MESSAGE_RX: a message on the client's transport and in its domain (R92). -/
def State.doPtpMessageRx (s : State) (m : PtpMsg) : State :=
  if s.isRoot && s.flag Fld.REF_PTP_CFG_EN && m.hdr.domain == s.fld Fld.REF_PTP_CFG_DOMAIN_NUM &&
    m.hdr.ieee == s.flag Fld.REF_PTP_CFG_TRANSPORT then
    { s with ref := { s.ref with ptp := s.ref.ptp.take s.htInt s.time.now m } }
  else s

/-- Inserts into an ascending list. -/
def insertInt (x : Int) : List Int → List Int
  | [] => [x]
  | y :: r => if x ≤ y then x :: y :: r else y :: insertInt x r

/-- The median: of an even count, the mean of the two in the middle, half to even (log entry 8). -/
def medianOf (l : List Int) : Int :=
  let a := l.foldl (fun acc x => insertInt x acc) []
  let n := a.length
  if n = 0 then 0
  else if n % 2 = 1 then a.getD (n / 2) 0
  else Fl.rneDivInt (a.getD (n / 2 - 1) 0 + a.getD (n / 2) 0) 2

/-- UTC_OFFSET_UPDATE: after 16 Sync intervals, the median of the last 16 samples (R93). -/
def State.doUtcOffsetUpdate (s : State) : State :=
  if s.isRoot && s.flag Fld.REF_PTP_CFG_EN && decide (s.ref.ptp.syncs ≥ 16) && decide (s.ref.ptp.samples.length ≥ 16) then
    let m := medianOf s.ref.ptp.samples
    let s1 := { s with ref := { s.ref with ptp := { s.ref.ptp with syncs := 0 } } }
    (s1.setReg Reg.REF_UTC_OFFSET_NS (BitVec.ofInt 64 (m / 65536))).setReg Reg.REF_UTC_OFFSET_FRAC
      (BitVec.ofInt 64 (m % 65536))
  else s

/-! ### Pulse outputs (R94, R95) -/

/-- One second, in 2^-16 ns. -/
def secF : Nat := 1000000000 * 65536

/-- The phase of the PPS grid, in 2^-16 ns: where HT + offset + delay is a whole second. -/
def gridPhase (offset : Int) (delay : Int) : Nat := ((- offset - delay * 65536) % secF).toNat

/-- HT_UTC_OFFSET in 2^-16 ns. -/
def State.utcOffset (s : State) : Int := s.time.utcNs.toInt * 65536 + s.time.utcFrac.toNat

/-- The first grid instant at or after `t` of a grid with a period and a phase. -/
def gridAtOrAfter (period phase t : Nat) : Nat :=
  t + (phase + period - t % period) % period

/-- The last grid instant at or before `t`, if there is one. -/
def gridAtOrBefore (period phase t : Nat) : Option Nat :=
  let back := (t + period - phase % period) % period
  if back ≤ t then some (t - back) else none

/-- REALIGN_GO: a write of REF_REALIGN; with no REALIGN under way, the new grids of the selected outputs and S. -/
def State.doRealignGo (s : State) (v : W) : State :=
  if s.present Reg.REF_REALIGN then
    let s1 := s.putMasked Reg.REF_REALIGN 0x1E v
    if s.ref.realign.isSome then s1
    else
      let d := signedOf 32 ((s1.reg Reg.REF_OUT_CFG).toNat / 65536 % 2 ^ 32)
      let ph := gridPhase s1.utcOffset d
      let c := s1.reg Reg.REF_OUT_CFG
      { s1 with ref := { s1.ref with realign := some {
          s := gridAtOrAfter secF ph (s.ht + secF), pps := v.getLsbD 1, clk := v.getLsbD 2, mark0 := v.getLsbD 3,
          mark1 := v.getLsbD 4, phase := ph, ppsEn := c.getLsbD 0, clkEn := c.getLsbD 1, m0En := c.getLsbD 2,
          m1En := c.getLsbD 3, m0Cfg := s1.reg Reg.REF_MARK_CFG, m1Cfg := s1.reg (Reg.REF_MARK_CFG + 8),
          clkMoved := false } } }
  else s

/-- A STEP_MARK output at S of a REALIGN: its new fields, and those that the boundaries before S keep. -/
def OutSt.regrid (o : OutSt) (en : Bool) (cfg : W) (s : Nat) : OutSt :=
  { o with en := en, cfg := cfg, old := some (o.en, o.cfg, s) }

/-- REALIGN_DONE: at S the selected outputs take their new grids and enables (R95). -/
def State.doRealignDone (s : State) : State :=
  match s.ref.realign with
  | none => s
  | some r =>
    if s.ht < r.s then s
    else
      let clk : OutSt :=
        if r.clkMoved then { s.ref.clk10 with en := r.clkEn, phase := r.phase }
        else { en := r.clkEn, phase := r.phase, cfg := 0, last := none }
      ({ s with ref := { s.ref with
          realign := none, pulsesOn := s.ref.pulsesOn || s.time.servo == Servo.locked,
          pps := if r.pps then { s.ref.pps with en := r.ppsEn, phase := r.phase } else s.ref.pps,
          clk10 := if r.clk then clk else s.ref.clk10,
          mark0 := if r.mark0 then s.ref.mark0.regrid r.m0En r.m0Cfg r.s else s.ref.mark0,
          mark1 := if r.mark1 then s.ref.mark1.regrid r.m1En r.m1Cfg r.s else s.ref.mark1 } }).raise
        Fld.REF_STATUS_REALIGN_DONE

/-- Whole ns of a time in 2^-16 ns. -/
def wholeNs (t : Nat) : W := BitVec.ofNat 64 (t / 65536)

/-- Is an old-grid PPS pulse at `g` withheld by a REALIGN (R95): from S - 500 ms on. -/
def State.ppsWithheld (s : State) (g : Nat) : Bool :=
  match s.ref.realign with
  | some r => r.pps && decide (g + secF / 2 ≥ r.s)
  | none => false

/-- PPS_PULSE: at each whole second of the grid, once. -/
def State.doPpsPulse (s : State) : State :=
  match gridAtOrBefore secF s.ref.pps.phase s.ht with
  | none => s
  | some g =>
    if s.ref.pulsesOn && s.ref.pps.en && (match s.ref.pps.last with
        | some l => decide (l < g)
        | none => true) && !s.ppsWithheld g && s.isVd then
      { s with ref := { s.ref with pps := { s.ref.pps with last := some g } }, out := s.out ++ [.pps (wholeNs g)] }
    else s

/-- 100 ns in 2^-16 ns, the period of CLK10M_OUT. -/
def tenMhz : Nat := 100 * 65536

/-- The instant of the next rising edge of CLK10M_OUT, with the phase that it runs on from there: its grid, or the first
edge after S - 1 ms of a REALIGN, delayed to the new grid (R95). -/
def State.clkNext (s : State) : Nat × Nat × Bool :=
  let o := s.ref.clk10
  let e := match o.last with
    | some l => gridAtOrAfter tenMhz (o.phase % tenMhz) (l.toNat + 1)
    | none => (gridAtOrBefore tenMhz (o.phase % tenMhz) s.ht).getD (gridAtOrAfter tenMhz (o.phase % tenMhz) s.ht)
  match s.ref.realign with
  | some r =>
    if r.clk && !r.clkMoved && decide (e + secF / 1000 > r.s) then
      (gridAtOrAfter tenMhz (r.phase % tenMhz) (e + 1), r.phase, true)
    else (e, o.phase, false)
  | none => (e, o.phase, false)

/-- CLK10M_EDGE: the next rising edge of CLK10M_OUT. -/
def State.doClk10mEdge (s : State) : State :=
  let n := s.clkNext
  if s.isVd && s.ref.pulsesOn && s.ref.clk10.en && decide (n.1 ≤ s.ht) then
    { s with
      ref := { s.ref with
        clk10 := { s.ref.clk10 with phase := n.2.1, last := some (n.1 : Int) },
        realign := if n.2.2 then s.ref.realign.map fun r => { r with clkMoved := true } else s.ref.realign },
      out := s.out ++ [.clk10 (wholeNs n.1)] }
  else s

/-- The latest boundary that lies at or before HT `x` in ns, of a run with step length `l` whose boundary `m` lies at `a`, and
its instant. -/
def lastBoundary (m a l : Nat) (x : Int) : Option (Nat × Nat) :=
  let y := x - a
  if y < 0 || l = 0 then none else some (m + (y / l).toNat, a + (y / l).toNat * l)

/-- The latest boundary at or before HT `x`, as the unit knows its run: past a PHASE that it holds with the next set's step
length, and of a run that is to begin from its START or RESUME on. A boundary from which a HOLD or STOP ends the run is none
(log entry 179). -/
def State.boundaryAt (s : State) (x : Int) : Option (Nat × Nat) :=
  let lNext := match s.img.next with
    | some n => n.desc.stepNs
    | none => 0
  let r :=
    if s.cad.st == .running then
      let here := lastBoundary s.cad.anchorSc.toNat s.cad.anchorNs.toNat s.stepNs x
      match s.cad.decs.find? fun e => e.kind == .phase with
      | some e => (lastBoundary e.target.toNat (s.boundaryNs e.target).toNat lNext x).orElse fun _ => here
      | none => here
    else s.launchDec.bind fun e => lastBoundary e.target.toNat e.anchor.toNat lNext x
  r.filter fun q => !(s.cad.decs.any fun e => (e.kind == .hold || e.kind == .stop) && decide (e.target.toNat ≤ q.1))

/-- The boundary that a mark of a REF_MARK_CFG word would announce now, and its instant: the latest n whose boundary lies
DELAY ns or less after HT, if its SC is marked. -/
def State.markAt (s : State) (cfg : W) : Option (Nat × Nat) :=
  let every := 2 ^ (cfg.toNat % 32)
  (s.boundaryAt ((s.htNs.toNat : Int) + signedOf 32 (cfg.toNat / 2 ^ 32))).filter fun q =>
    q.1 % every == (cfg.toNat / 256 % 2 ^ 20) % every

/-- A STEP_MARK output's next pulse: the boundary announced. Boundaries at or after S of a REALIGN, under way or the last,
use its new fields, and those before S the old ones (R95). -/
def State.markDue (s : State) (o : OutSt) (sel : Bool) (newEn : Bool) (newCfg : W) (sNs : Nat) : Option Nat :=
  let fresh (m : Option (Nat × Nat)) (ok : Nat → Bool) : Option Nat :=
    match m with
    | some (n, b) =>
      if ok b && (match o.last with
        | some l => decide (l < (n : Int))
        | none => true) then some n else none
    | none => none
  if sel then
    match (if newEn then fresh (s.markAt newCfg) fun b => decide (b * 65536 ≥ sNs) else none) with
    | some n => some n
    | none => if o.en then fresh (s.markAt o.cfg) fun b => decide (b * 65536 < sNs) else none
  else
    match o.old with
    | some (en, cfg, sNs) =>
      (match (if o.en then fresh (s.markAt o.cfg) fun b => decide (b * 65536 ≥ sNs) else none) with
       | some n => some n
       | none => if en then fresh (s.markAt cfg) fun b => decide (b * 65536 < sNs) else none)
    | none => if o.en then fresh (s.markAt o.cfg) fun _ => true else none

/-- STEP_MARK_PULSE: STEP_MARK0 or STEP_MARK1 rises DELAY ns before a marked boundary (R94). -/
def State.doStepMarkPulse (s : State) (n : Nat) : State :=
  let o := if n = 0 then s.ref.mark0 else s.ref.mark1
  let due := match s.ref.realign with
    | some r => s.markDue o (if n = 0 then r.mark0 else r.mark1) (if n = 0 then r.m0En else r.m1En)
        (if n = 0 then r.m0Cfg else r.m1Cfg) r.s
    | none => s.markDue o false false 0 0
  match due with
  | some m =>
    if s.isVd && s.ref.pulsesOn && n < 2 then
      let o' := { o with last := some (m : Int) }
      { s with ref := if n = 0 then { s.ref with mark0 := o' } else { s.ref with mark1 := o' },
               out := s.out ++ [.stepMark n s.htNs] }
    else s
  | none => s

/-- DPLL_HEARTBEAT_UPDATE (R495). At each heartbeat of a domain the DPLL takes the mean phase error, applies the bias
and updates acc and y. -/
def execDpllHeartbeatUpdate (d : Dom) (s : State) : Host.Outcome State Fault Refusal :=
  .next (s.doDpllHeartbeatUpdate d)

/-- SERVO_LOCK (R22). After 4,096 consecutive heartbeats within ±50 ps with calibrated delays, a unit enters LOCKED
and aligns its crossings. -/
def execServoLock (s : State) : Host.Outcome State Fault Refusal :=
  .next (s.doServoLock)

/-- DOMAIN_INPUT_LOST (R21). Sixteen consecutive heartbeats with only discarded errors make the unit treat the
domain's input as lost, possibly entering BRIDGE or HOLDOVER. -/
def execDomainInputLost (d : Dom) (s : State) : Host.Outcome State Fault Refusal :=
  .next (s.doDomainInputLost d)

/-- BRIDGE_TIMEOUT (R22). One millisecond in BRIDGE without a returning input takes the unit to FREERUN. -/
def execBridgeTimeout (s : State) : Host.Outcome State Fault Refusal :=
  .next (s.doBridgeTimeout)

/-- WTR_EXPIRY (R71). A candidate's wait-to-restore timer expires and the unit changes its selected input or active
domain. -/
def execWtrExpiry (sel : WtrSel) (s : State) : Host.Outcome State Fault Refusal :=
  .next (s.doWtrExpiry sel)

/-- DPLL_NARROW (R76). After the active error stays within ±50 ps for the required time, the DPLL narrows by one
bandwidth code. -/
def execDpllNarrow (sel : LoopSel) (s : State) : Host.Outcome State Fault Refusal :=
  .next (s.doDpllNarrow sel)

/-- REF_EDGE (R80). A root spire computes the error of a stamped reference edge against the HT grid and judges its
validity and qualification. -/
def execRefEdge (n : Nat) (stamp : BitVec 48) (s : State) : Host.Outcome State Fault Refusal :=
  .next (s.doRefEdge n stamp)

/-- REF_LOSS (R81). Three grid instants pass without a valid edge and the reference input is lost. -/
def execRefLoss (n : Nat) (s : State) : Host.Outcome State Fault Refusal :=
  .next (s.doRefLoss n)

/-- LEADER_YIELD (R85). The leader's source has been clearly worse than the follower's standby QL for WTR seconds and
it clears LEADER. -/
def execLeaderYield (s : State) : Host.Outcome State Fault Refusal :=
  .next (s.doLeaderYield)

/-- TANDEM_JOIN (R86). The follower's error has stayed within ±25 ps for 1,024 heartbeats and SPLIT is cleared. -/
def execTandemJoin (s : State) : Host.Outcome State Fault Refusal :=
  .next (s.doTandemJoin)

/-- HOLDOVER_QUALIFY (R88). A root's count of minutes of continuous lock reaches 240 and QUALIFIED is set. -/
def execHoldoverQualify (s : State) : Host.Outcome State Fault Refusal :=
  .next (s.doHoldoverQualify)

/-- PTP_MESSAGE_RX (R92). The root's lantern receives a PTP message and takes its local time. -/
def execPtpMessageRx (m : PtpMsg) (s : State) : Host.Outcome State Fault Refusal :=
  .next (s.doPtpMessageRx m)

/-- UTC_OFFSET_UPDATE (R93). Every 16 Sync intervals the lantern writes the median offset to REF_UTC_OFFSET. -/
def execUtcOffsetUpdate (s : State) : Host.Outcome State Fault Refusal :=
  .next (s.doUtcOffsetUpdate)

/-- REALIGN_GO (R95). A write of REF_REALIGN.GO computes the new grids of the selected outputs. -/
def execRealignGo (v : W) (s : State) : Host.Outcome State Fault Refusal :=
  .next (s.doRealignGo v)

/-- REALIGN_DONE (R95). At instant S the outputs take their new grids and REALIGN_DONE is set. -/
def execRealignDone (s : State) : Host.Outcome State Fault Refusal :=
  .next (s.doRealignDone)

/-- PPS_PULSE (R94). PPS_OUT emits a pulse at each whole second of its grid. -/
def execPpsPulse (s : State) : Host.Outcome State Fault Refusal :=
  .next (s.doPpsPulse)

/-- STEP_MARK_PULSE (R94). STEP_MARK rises DELAY ns before each marked boundary. -/
def execStepMarkPulse (n : Nat) (s : State) : Host.Outcome State Fault Refusal :=
  .next (s.doStepMarkPulse n)

/-- CLK10M_EDGE (R95). CLK10M_OUT rises on its HT grid every 100 ns, with the first edge after S minus 1 ms of a
REALIGN delayed to the new grid. -/
def execClk10mEdge (s : State) : Host.Outcome State Fault Refusal :=
  .next (s.doClk10mEdge)


end Sys2Proof.Machine
end

