-- ==== Sys2Proof/Machine/Tdc.lean ====
section
/-! DEFINITION. Sys2Proof/Machine/Tdc.lean: vernier stamps, calibration, round trips, lane swap and the delay table (R36 to
R63, R496).  Times of the converter are counted in time-clock cycles. -/

namespace Sys2Proof.Machine

/-! ### Events on a channel (R36 to R48) -/

/-- The number of markers of a loopback run (R50). -/
def lbMarkers : Nat := 4096

/-- Does a loopback run use a channel: channel 325 and the transmit channel of the lane's port, until its markers have been
stamped there (R50). -/
def State.lbChannel (s : State) (ch : Nat) : Bool :=
  match s.tdc.lbLane with
  | some l => (ch == 325 && decide (0 < s.tdc.lbLeft)) || (ch == txChannel (lanePort l) && decide (0 < s.tdc.lbTxLeft))
  | none => false

/-- The kinds of record that a channel's events make (R42, R50, R63): the stamped ordered sets on lanes and ports, edges
on the reference channels, LOOPBACK where a loopback run uses the channel. -/
def State.kindOk (s : State) (ch kind : Nat) : Bool :=
  if kind = 4 then s.lbChannel ch
  else if ch = 325 then false
  else if 320 ≤ ch then kind == 3
  else decide (kind ≤ 2)

/-- Counts a loopback marker that is stamped. -/
def State.lbCount (s : State) (ch kind : Nat) : State :=
  if kind = 4 && s.stamps ch then
    { s with tdc := { s.tdc with
        lbLeft := if ch = 325 then s.tdc.lbLeft - 1 else s.tdc.lbLeft,
        lbTxLeft := if ch = 325 then s.tdc.lbTxLeft else s.tdc.lbTxLeft - 1 } }
  else s

/-- A DELAY_RESP stamped on a lane ends the wait of the oldest round trip that awaits one there (R44). -/
def State.respCame (s : State) (ch kind : Nat) : State :=
  if kind = 2 && decide (ch < 256) && s.stamps ch then
    match s.tdc.trips.find? fun t => t.waitFrom.isSome && laneOf t.port t.rspLane == ch with
    | some x => { s with tdc := { s.tdc with
        trips := s.tdc.trips.map fun t => if t = x then { t with waitFrom := none } else t } }
    | none => s
  else s

/-- TDC_STAMP: an event of a kind that the channel takes. -/
def State.doTdcStamp (s : State) (ch kind delta : Nat) : State :=
  if s.kindOk ch kind then
    ((s.lbCount ch kind).respCame ch kind).tdcTake ch kind (rawStamp s.tdc.coarse delta)
  else s

/-- Has a time of R44 run out since a coarse count. -/
def State.timedOut (s : State) (c : Nat) : Bool := decide (s.tdc.coarse - c ≥ 2 ^ s.fld Fld.TDC_CTRL_TIMEOUT_EXP)

/-- The round trip on a lane whose DELAY_RESP has timed out, the oldest (R44). -/
def State.lostTrip (s : State) (ch : Nat) : Option Trip :=
  s.tdc.trips.find? fun t => laneOf t.port t.rspLane == ch && (match t.waitFrom with
    | some c => s.timedOut c
    | none => false)

/-- Writes a TIMEOUT record; its STAMP is a free value (log entry 18). -/
def State.timeoutRec (s : State) (ch kind : Nat) : State :=
  { s with free := s.free + 1 }.fifoPut (fifoRec (Config.timeoutStamp s.free) ch kind 2)

/-- TDC_TIMEOUT: a waiting channel's timeout expires; a record with status TIMEOUT, and the channel re-arms (R44). A
DELAY_RESP that has not come drops its round trip (R52). -/
def State.doTdcTimeout (s : State) (ch : Nat) : State :=
  if refChannel ch then
    (if s.tdc.waitFrom.has ch && s.timedOut (s.tdc.waitFrom.get ch 0) then
      { s with tdc := { s.tdc with waitFrom := s.tdc.waitFrom.set ch s.tdc.coarse } }.timeoutRec ch 3
     else s)
  else
    match s.lostTrip ch with
    | some x => { s with tdc := { s.tdc with trips := s.tdc.trips.erase x } }.timeoutRec ch 2
    | none => s

/-- TDC_LOCK_FELL: a ring has drifted beyond 0.25 LSB (R38); the records whose conversion is under way carry FINE_INVALID
(R48). -/
def State.doTdcLockFell (s : State) : State :=
  if s.tdc.ringLock then
    { s with tdc := { s.tdc with
        ringLock := false, fifo := s.tdc.fifo.map fun r => if s.converting r then fineInvalid r else r } }.raise Fld.TDC_STATUS_LOCK_FELL
  else s

/-- RING_LOCK_REGAIN: the loops hold both rings within 0.25 LSB. -/
def State.doRingLockRegain (s : State) : State := { s with tdc := { s.tdc with ringLock := true } }

/-! ### Reads (R45, R63) -/

/-- TDC_FIFO_READ: pops the oldest record; 0 from an empty FIFO. -/
def State.doTdcFifoRead (s : State) (via : ReadVia) : State :=
  s.readVia via fun t =>
    if t.reach via.path Reg.TDC_FIFO then
      { t with tdc := { t.tdc with fifo := t.tdc.fifo.drop 1 },
               out := t.out ++ [.readData via.path (t.tdc.fifo.headD 0)] }
    else { t with out := t.out ++ [.readData via.path 0] }

def State.doTdcStatusRead (s : State) (via : ReadVia) : State := s.readClear via Reg.TDC_STATUS
def State.doTdcFifoStatusRead (s : State) (via : ReadVia) : State := s.readClear via Reg.TDC_FIFO_STATUS

/-- TDC_ANCHOR_READ: the count of a slot, and the latch of the same slot's NS and FRAC for the path. -/
def State.doTdcAnchorRead (s : State) (k : Nat) (via : ReadVia) : State :=
  s.readVia via fun t =>
    if k < 4 && t.reach via.path (Reg.TDC_ANCHOR_CNT + 8 * k) then
      let a := anchorAt t k
      { t with tdc := { t.tdc with
                 anchorLatch := t.tdc.anchorLatch.set via.path ((t.tdc.anchorLatch.get via.path).set k (a.ns, a.frac)) },
               out := t.out ++ [.readData via.path (BitVec.ofNat 64 (a.cnt % 2 ^ 40))] }
    else { t with out := t.out ++ [.readData via.path 0] }

/-! ### Calibration (R49, R50) -/

/-- The RW fields of a write of TDC_CAL_CTRL. -/
def State.calCtrl (s : State) (v : W) : State := s.putMasked Reg.TDC_CAL_CTRL 0xFF003E v

/-- Starts a code-density run; one that is under way starts again. -/
def State.cdGo (s : State) : State :=
  { s with tdc := { s.tdc with cdRun := some (2 ^ s.fld Fld.TDC_CAL_CTRL_CD_LOG2), hist := [] } }

/-- Starts a loopback run on LB_LANE, if none is under way and the unit has the lane. -/
def State.lbGo (s : State) : State :=
  let l := s.fld Fld.TDC_CAL_CTRL_LB_LANE
  if s.tdc.lbLane.isSome || !decide (l < s.nLanes) then s
  else ({ s with tdc := { s.tdc with lbLane := some l, lbLeft := lbMarkers, lbTxLeft := lbMarkers } } : State).reclass

/-- A write of TDC_CAL_CTRL. -/
def State.calWrite (s : State) (v : W) (cd lb : Bool) : State :=
  if s.present Reg.TDC_CAL_CTRL then
    let s1 := s.calCtrl v
    let s2 := if cd then s1.cdGo else s1
    if lb then s2.lbGo else s2
  else s

def State.doCdStart (s : State) (v : W) : State := s.calWrite v true (v.getLsbD 6)
def State.doLbStart (s : State) (v : W) : State := s.calWrite v (v.getLsbD 0) true

/-- CD_DONE: the run has binned its count. -/
def State.doCdDone (s : State) : State :=
  match s.tdc.cdRun with
  | some 0 =>
    { s with tdc := { s.tdc with cdRun := none, cdRuns := s.tdc.cdRuns + 1 } }.setBit Fld.TDC_CAL_STATUS_CD_DONE
  | _ => s

/-- LB_DONE: the loopback's markers have been stamped on both channels. -/
def State.doLbDone (s : State) : State :=
  if s.tdc.lbLane.isSome && s.tdc.lbLeft == 0 && s.tdc.lbTxLeft == 0 then
    ({ s with tdc := { s.tdc with lbLane := none } }.setBit Fld.TDC_CAL_STATUS_LB_DONE).reclass
  else s

/-! ### Round trips (R51 to R53) -/

/-- TDC_PORT_CFG.ASYM_SRC of a port: 0 none, 1 TRIM, 2 SWAP. -/
def State.asymSrc (s : State) (p : Nat) : Nat := (s.reg (Reg.TDC_PORT_CFG + 8 * p)).toNat % 4
def State.rtEn (s : State) (p : Nat) : Bool := (s.reg (Reg.TDC_PORT_CFG + 8 * p)).getLsbD 2

/-- The lane trim of a lane (R50), and the medium's asymmetry of a port by its source (R496). -/
def State.laneTrim (s : State) (l : Nat) : Int :=
  signedOf 16 ((s.preg (Reg.TDC_LANE_TRIM + 8 * l)).toNat % 65536)
def State.aMed (s : State) (p : Nat) : Int :=
  if s.asymSrc p = 1 then
    (if s.isVd then signedOf 32 ((s.preg (Reg.TDC_PORT_TRIM + 8 * p)).toNat % 2 ^ 32) else s.tdc.peerTrim.get p 0)
  else if s.asymSrc p = 2 then signedOf 32 ((s.reg (Reg.TDC_PORT_ASYM + 8 * p)).toNat % 2 ^ 32)
  else 0

/-- The peer's lane trim, from its rotating record (R215). -/
def State.peerLaneTrim (s : State) (l : Nat) : Int := s.tdc.dieTrim.get l 0

/-- a_i of R496; halves are taken towards zero (log entry 19). -/
def State.aLane (s : State) (p i : Nat) : Int :=
  s.aMed p + (s.peerLaneTrim (laneOf p i) - s.laneTrim (laneOf p i)).tdiv 2

/-- The heartbeats between two requests on a lane (R51). -/
def State.reqPeriod (s : State) (p : Nat) : Nat := if s.asymSrc p = 2 then 48 else 192

/-- Does a lane of a port run round trips: time travels over the port (R32), and the lane carries ordered sets. -/
def State.rtLane (s : State) (p lane : Nat) : Bool := s.awake && s.portFixed p && s.laneOs p lane

/-- May a port send a DELAY_REQ on a lane now (R51): a tray trim measures every lane, a lane swap lane 0; the instant is
one of R211's. -/
def State.reqDue (s : State) (p lane : Nat) : Bool :=
  s.rtLane p lane && s.dlDue p && s.stamps (txChannel p) && s.rtEn p && (s.asymSrc p == 1 && decide (lane < 4) || s.asymSrc p == 2 && lane == 0) &&
  (!s.tdc.reqAt.has (laneOf p lane) ||
    decide ((s.port p).hbSeq - s.tdc.reqAt.get (laneOf p lane) 0 ≥ s.reqPeriod p))

/-- The SENDER field of the unit's ordered sets (R210). -/
def State.senderWord (s : State) : Nat := s.sender + s.senderKind * 2 ^ 14

/-- DELAY_REQ_SEND: the request leaves with departure stamp `t1`, which is recorded (R45). On a SWAP port the lane on which
the answer is awaited is the request's number mod 4, as the peer answers on lanes 0 to 3 in turn (R51; log entry 141). -/
def State.doDelayReqSend (s : State) (port lane : Nat) (t1 : BitVec 48) : State :=
  if s.reqDue port lane then
    match s.stampHtFine t1 with
    | none => s
    | some t =>
      let seq := s.tdc.reqSeq.get port 0
      let rsp := if s.asymSrc port = 2 then seq % 4 else lane
      let s1 := (s.tdcTake (txChannel port) 1 t1.toNat).dlSent port
      { s1 with
        tdc := { s1.tdc with
          reqSeq := s1.tdc.reqSeq.set port ((seq + 1) % 65536),
          reqAt := s1.tdc.reqAt.set (laneOf port lane) (s.port port).hbSeq,
          trips := s1.tdc.trips ++ [{
            port, reqLane := lane, seq, t1 := t, rspLane := rsp, waitFrom := some s.tdc.coarse }] },
        out := s1.out ++ [.oset port (.delayReq lane seq s.senderWord)] }
  else s

/-- DELAY_REQ_RX: the arrival is stamped, and the answer is due on the same lane, or on lanes 0 to 3 in turn (R51). -/
def State.doDelayReqRx (s : State) (port lane reqSeq sender : Nat) (t2 : BitVec 48) : State :=
  if s.rtLane port lane then
    let s1 := s.tdcTake (laneOf port lane) 1 t2.toNat
    match (if s.stamps (laneOf port lane) then s.stampHtFine t2 else none) with
    | none => s1
    | some t =>
      let turn := s.tdc.rspTurn.get port 0
      let swap := s.asymSrc port == 2
      { s1 with tdc := { s1.tdc with
          rspTurn := if swap then s1.tdc.rspTurn.set port ((turn + 1) % 4) else s1.tdc.rspTurn,
          rspDue := s1.tdc.rspDue ++ [{
            port, reqLane := lane, rspLane := if swap then turn else lane, seq := reqSeq, sender,
            t2 := t, since := s.time.now }] } }
  else s

/-- The running mean round trip of a lane's pairing: of the batch under way, or of the last one. -/
def State.runMean (s : State) (l : Nat) : Int :=
  let e := s.delayEnt l
  if e.batch = 0 then s.tdc.rtMean.get l 0 else Fl.rneDivInt e.sum e.batch

/-- DELAY_RESP_SEND: at an instant of R211 at least 128 ns after the request's arrival, the answer, its departure stamped;
its residence waits for the next heartbeat (R214). -/
def State.doDelayRespSend (s : State) (port : Nat) (t3 : BitVec 48) : State :=
  match s.tdc.rspDue.find? fun r => r.port == port with
  | none => s
  | some r =>
    if s.rtLane port r.rspLane && s.dlDue port && s.stamps (txChannel port) &&
      decide (s.time.now - r.since ≥ 128 * nsX) then
      match s.stampHtFine t3 with
      | none => s
      | some t =>
        let rr : ResRec := {
          seq := r.seq, reqLane := r.reqLane, rspLane := r.rspLane, valid := true,
          residence := t - r.t2, rtMean := s.runMean (laneOf port r.rspLane), asym := s.aMed port }
        let s1 := (s.tdcTake (txChannel port) 2 t3.toNat).dlSent port
        { s1 with
          tdc := { s1.tdc with
            rspDue := s1.tdc.rspDue.erase r,
            resQ := s1.tdc.resQ.set port (s1.tdc.resQ.get port [] ++ [rr]) },
          out := s1.out ++ [.oset port (.delayResp r.rspLane r.seq s.senderWord)] }
    else s

/-- Completes every round trip whose four parts are known: rt = (t4 - t1) - residence joins its lane's batch. -/
def State.closeTrips (s : State) : State :=
  s.tdc.trips.foldl (fun t x =>
    match x.t4, x.resid with
    | some t4, some r =>
      let l := laneOf x.port x.rspLane
      let e := t.delayEnt l
      let rt := (t4 - x.t1) - r
      { t with tdc := { t.tdc with
          trips := t.tdc.trips.erase x,
          firstRt := if t.tdc.firstRt.has x.port then t.tdc.firstRt else t.tdc.firstRt.set x.port rt,
          delays := if e.batch < 256 then t.tdc.delays.set l { e with batch := e.batch + 1, sum := e.sum + rt }
            else t.tdc.delays } }
    | _, _ => t) s

/-- DELAY_RESP_RX: the arrival is stamped as t4 of the round trip that it answers, whose wait ends (R44, R51). -/
def State.doDelayRespRx (s : State) (port lane reqSeq : Nat) (t4 : BitVec 48) : State :=
  if s.rtLane port lane then
    let s1 := s.tdcTake (laneOf port lane) 2 t4.toNat
    match (if s.stamps (laneOf port lane) then s.stampHtFine t4 else none) with
    | none => s1
    | some t =>
      let s2 : State := { s1 with tdc := { s1.tdc with
          trips := s1.tdc.trips.map fun x =>
            if x.port == port && x.seq == reqSeq && x.t4.isNone then
              { x with t4 := some t, rspLane := lane, waitFrom := none }
            else x } }
      s2.closeTrips
  else s

/-- ROUND_TRIP_DROP: the residence has not arrived within 16 heartbeats (R52). -/
def State.doRoundTripDrop (s : State) (port lane : Nat) : State :=
  { s with tdc := { s.tdc with
      trips := s.tdc.trips.filter fun x =>
        !(x.port == port && x.rspLane == lane && x.waitFrom.isNone && x.resid.isNone && decide (x.hbs ≥ 16)) } }

/-- 16 ps in 2^-16 ns (R53). -/
def ps16 : Nat := 1048

/-- The delay into the unit on a lane from a mean round trip (R496); lanes 1 to 3 of a SWAP port by the cross pairings,
with rt00 the accepted mean of lane 0. -/
def State.delayFrom (s : State) (p i : Nat) (m : Int) : Int :=
  if s.asymSrc p = 2 && i != 0 then m - ((s.tdc.rtAcc.get (laneOf p 0) 0).tdiv 2 - s.aLane p 0)
  else m.tdiv 2 + s.aLane p i

/-- Is what the delay of a lane needs beside its own mean known: on lanes 1 to 3 of a SWAP port, rt00. -/
def State.rtKnown (s : State) (p i : Nat) : Bool := s.asymSrc p != 2 || i == 0 || s.tdc.rtAcc.has (laneOf p 0)

/-- BATCH_COMPLETE: after 256 round trips, the comparison with the peer's mean, and the new delay (R53, R59, R60). -/
def State.doBatchComplete (s : State) (port reqLane rspLane : Nat) : State :=
  let l := laneOf port rspLane
  let e := s.delayEnt l
  if decide (port < s.nPorts) && decide (rspLane < 4) && (reqLane == rspLane || (s.asymSrc port == 2 && reqLane == 0)) &&
    e.batch == 256 && s.tdc.peerMean.has l && s.rtKnown port rspLane then
    let ours := Fl.rneDivInt e.sum 256
    let peer := s.tdc.peerMean.get l 0
    let s1 := { s with tdc := { s.tdc with
        rtMean := s.tdc.rtMean.set l ours, delays := s.tdc.delays.set l { e with batch := 0, sum := 0 } } }
    if (ours - peer).natAbs > ps16 then s1.raise Fld.TDC_STATUS_RT_MISMATCH
    else
      let m := Fl.rneDivInt (ours + peer) 2
      let d := s1.delayFrom port rspLane m
      let s1 : State := { s1 with tdc := { s1.tdc with rtAcc := s1.tdc.rtAcc.set l m } }
      if e.state = 0 then
        { s1 with tdc := { s1.tdc with
            delays := s1.tdc.delays.set l { delay := d, commitAt := some s.time.now, state := 1 } } }.reclass
      else { s1 with tdc := { s1.tdc with shadow := s1.tdc.shadow.set l d } }
  else s

/-- DELAY_ENTRY_STALE: an entry's AGE exceeds 10,000 ms (R61). -/
def State.doDelayEntryStale (s : State) (lane : Nat) : State :=
  let e := s.delayEnt lane
  match e.commitAt with
  | some t =>
    if e.state = 1 && (s.time.now - t) / msX > 10000 then
      { s with tdc := { s.tdc with delays := s.tdc.delays.set lane { e with state := 2 } } }.reclass
    else s
  | none => s

/-- Discards a lane's entry, its batch and its round trips, when the lane begins to retrain (R25, R60). -/
def State.dropEntry (s : State) (l : Nat) : State :=
  { s with tdc := { s.tdc with
      delays := s.tdc.delays.del l, shadow := s.tdc.shadow.del l, prevDelay := s.tdc.prevDelay.del l,
      peerMean := s.tdc.peerMean.del l, rtMean := s.tdc.rtMean.del l, rtAcc := s.tdc.rtAcc.del l,
      trips := s.tdc.trips.filter (fun x => laneOf x.port x.rspLane != l),
      rspDue := s.tdc.rspDue.filter fun r => laneOf r.port r.rspLane != l } }.reclass

/-! ### Lane swap (R57) -/

/-- LANE_SWAP_START: a write of TDC_SWAP_CTRL with START; a swap under way goes on. -/
def State.doLaneSwapStart (s : State) (v : W) : State :=
  if s.present Reg.TDC_SWAP_CTRL then
    let s1 := s.putMasked Reg.TDC_SWAP_CTRL 0x3F v
    let p := v.toNat % 64
    if s.tdc.swap.step != 0 || !decide (p < s.nPorts) then s1
    else
      ({ s1 with tdc := { s1.tdc with
          swap := { port := p, step := 1, startAt := s.time.now, rt00 := s.tdc.rtAcc.get (laneOf p 0) 0 } } } : State).reclass
  else s

/-- Lane 0 of a port begins to retrain in an orientation: its delay entry is discarded (R57, R60), and in the swapped
orientation it carries ordered sets alone, at 112 Gb/s (R204). -/
def State.swapRetrain (s : State) (p : Nat) (swapped : Bool) : State :=
  (s.dropEntry (laneOf p 0)).setPort p { s.port p with
    lane0Swap := swapped, retrainLanes := if (s.port p).retrainLanes.contains 0 then (s.port p).retrainLanes
      else 0 :: (s.port p).retrainLanes, locked := (s.port p).locked &&& 14 }

/-- Lane 0 of a port is locked again. -/
def State.swapTrained (s : State) (p : Nat) : State :=
  s.setPort p { s.port p with
    retrainLanes := (s.port p).retrainLanes.filter (· != 0), locked := (s.port p).locked ||| 1 }

/-- The name of the tile that a SCHED flit belongs to (R237). -/
def flitKey (f : Flit) : TileKey :=
  match f.body with
  | .sched wsc tile dno sub _ _ => ⟨dno, sub, wsc, tile⟩
  | _ => ⟨0, 0, 0, 0⟩

def isSched (f : Flit) : Bool :=
  match f.body with
  | .sched .. => true
  | _ => false

/-- Scheduled flits that never left the unit count as not consumed where they were received (R253). -/
def State.notLeft (s : State) (fs : List Flit) : State :=
  let hit (u : RxUnit) : Bool := u.flit.any fun g => isSched g && fs.any fun f => flitKey f == flitKey g && f.fidx == g.fidx
  { s with fab := { s.fab with ports := s.fab.ports.map fun (e : Nat × PortSt) =>
      (e.1, { e.2 with rx := e.2.rx.map fun u => if hit u then { u with pend := u.pend + 1 } else u }) } }

/-- The scheduled flits that are due on a port are dropped and counted in HOLES; nothing of them is resent (R219, R254). -/
def State.dropDue (s : State) (p : Nat) : State :=
  let x := s.port p
  let due := x.txq.filter isSched
  if due.isEmpty then s
  else
    ((s.setPort p { x with
      txq := x.txq.filter fun f => !isSched f,
      replay := x.replay.filter fun r => !(due.any fun f => f.lseq == r.lseq) }).addCount
        ((Fld.XF_PORT_ERR_HOLES).at p) due.length).notLeft due

/-- A lane of a port has lost lock, or has passed its limit: its delay entry goes (R25, R60), and the port is in RETRAIN,
with every lane that retrains (R218). -/
def State.laneLost (s : State) (port lane : Nat) : State :=
  let x := s.port port
  let first := x.st == .up
  let y : PortSt := { x with
    st := .retrain, sinceAt := if first then s.time.now else x.sinceAt, fails := if first then 0 else x.fails,
    retrains := if first then min 65535 (x.retrains + 1) else x.retrains,
    retrainLanes := if x.retrainLanes.contains lane then x.retrainLanes else lane :: x.retrainLanes,
    locked := x.locked &&& (15 - 2 ^ lane) }
  let s1 := (s.setPort port y).dropEntry (laneOf port lane)
  if first then (s1.dropDue port).raise Fld.XF_STATUS_RETRAIN else s1

/-- A lane swap that ends early on a port: lane 0, if it was swapped or retraining, is discarded and retrains in the normal
orientation (R57, R60). -/
def State.swapUndo (s : State) (p : Nat) (step : Nat) : State :=
  let s1 := s.setPort p { s.port p with lane0Swap := false }
  if decide (3 ≤ step) && s1.carriesOs p then s1.laneLost p 0 else s1

/-- The swap fails: FAILED is set, and TDC_PORT_ASYM stays. -/
def State.swapFail (s : State) : State :=
  let w := s.tdc.swap
  (({ s with tdc := { s.tdc with swap := {} } }.swapUndo w.port w.step).setBit Fld.TDC_SWAP_STATUS_FAILED).reclass

/-- The number of heartbeats that an averaging step takes. -/
def swapBeats : Nat := 4096

/-- a0 = (e_n - e_s) / 2. -/
def SwapSt.a0 (w : SwapSt) : Int := (Fl.rneDivInt w.sumN w.cntN - Fl.rneDivInt w.sumS w.cntS).tdiv 2

/-- LANE_SWAP_STEP_END: the step under way has ended, well or not. Lane 0 retrains in swapped orientation in step 3 and in
normal orientation in step 5. -/
def State.doLaneSwapStepEnd (s : State) (ok : Bool) : State :=
  let w := s.tdc.swap
  let goStep (n : Nat) : State := { s with tdc := { s.tdc with swap := { w with step := n } } }
  if w.step = 0 then s
  else if !ok then s.swapFail
  else if w.step = 1 then goStep 2
  else if w.step = 2 then
    (if w.cntN < swapBeats then s else (goStep 3).swapRetrain w.port true)
  else if w.step = 3 then (goStep 4).swapTrained w.port
  else if w.step = 4 then
    (if w.cntS < swapBeats then s else (goStep 5).swapRetrain w.port false)
  else
    let s1 : State := { s with tdc := { s.tdc with swap := {}, asymSet := s.tdc.asymSet.set w.port true } }
    (((s1.swapTrained w.port).setReg (Reg.TDC_PORT_ASYM + 8 * w.port) (BitVec.ofNat 64 (satBits 32 w.a0))).setBit
      Fld.TDC_SWAP_STATUS_DONE).reclass

/-- LANE_SWAP_TIMEOUT: the swap has taken longer than 200 ms. -/
def State.doLaneSwapTimeout (s : State) : State :=
  if s.tdc.swap.step != 0 && decide (s.time.now - s.tdc.swap.startAt > 200 * msX) then s.swapFail else s

/-- TDC_STAMP (R36). An event on a TDC channel is converted into a raw stamp and written to TDC_FIFO, or counted as
MISSED in dead time. -/
def execTdcStamp (ch : Nat) (kind : Nat) (delta : Nat) (s : State) : Host.Outcome State Fault Refusal :=
  .next (s.doTdcStamp ch kind delta)

/-- TDC_TIMEOUT (R44). A channel awaiting DELAY_RESP or a reference edge times out, writes a TIMEOUT record and
re-arms. -/
def execTdcTimeout (ch : Nat) (s : State) : Host.Outcome State Fault Refusal :=
  .next (s.doTdcTimeout ch)

/-- TDC_LOCK_FELL (R38). A ring drifts beyond 0.25 LSB, RING_LOCK falls and later stamps carry FINE_INVALID. -/
def execTdcLockFell (s : State) : Host.Outcome State Fault Refusal :=
  .next (s.doTdcLockFell)

/-- TDC_FIFO_READ (R45). A read of TDC_FIFO pops one stamp record. -/
def execTdcFifoRead (via : ReadVia) (s : State) : Host.Outcome State Fault Refusal :=
  .next (s.doTdcFifoRead via)

/-- TDC_STATUS_READ (R63). A read of TDC_STATUS returns and clears the MISSED count. -/
def execTdcStatusRead (via : ReadVia) (s : State) : Host.Outcome State Fault Refusal :=
  .next (s.doTdcStatusRead via)

/-- TDC_FIFO_STATUS_READ (R45). A read of TDC_FIFO_STATUS returns and clears the OVERFLOW count. -/
def execTdcFifoStatusRead (via : ReadVia) (s : State) : Host.Outcome State Fault Refusal :=
  .next (s.doTdcFifoStatusRead via)

/-- TDC_ANCHOR_READ (R63). A read of TDC_ANCHOR_CNT latches the NS and FRAC of the same anchor slot for the reading
path. -/
def execTdcAnchorRead (k : Nat) (via : ReadVia) (s : State) : Host.Outcome State Fault Refusal :=
  .next (s.doTdcAnchorRead k via)

/-- CD_START (R49). A write of CD_START clears the histogram and starts a code-density run on channel 324. -/
def execCdStart (v : W) (s : State) : Host.Outcome State Fault Refusal :=
  .next (s.doCdStart v)

/-- CD_DONE (R49). The code-density run has binned its count of fine codes and CD_DONE is set. -/
def execCdDone (s : State) : Host.Outcome State Fault Refusal :=
  .next (s.doCdDone)

/-- LB_START (R50). A write of LB_START runs the selected lane in near-end loopback for 4,096 markers. -/
def execLbStart (v : W) (s : State) : Host.Outcome State Fault Refusal :=
  .next (s.doLbStart v)

/-- LB_DONE (R50). The loopback run ends after its markers and LB_DONE is set. -/
def execLbDone (s : State) : Host.Outcome State Fault Refusal :=
  .next (s.doLbDone)

/-- DELAY_REQ_SEND (R51). Every 192 or 48 heartbeats a unit sends DELAY_REQ on a lane and stamps its departure. -/
def execDelayReqSend (port : Nat) (lane : Nat) (t1 : BitVec 48) (s : State) : Host.Outcome State Fault Refusal :=
  .next (s.doDelayReqSend port lane t1)

/-- DELAY_REQ_RX (R51). A peer receives and stamps a DELAY_REQ and schedules its answer. -/
def execDelayReqRx (port : Nat) (lane : Nat) (reqSeq : Nat) (sender : Nat) (t2 : BitVec 48) (s : State) : Host.Outcome State Fault Refusal :=
  .next (s.doDelayReqRx port lane reqSeq sender t2)

/-- DELAY_RESP_SEND (R211). At the first slot-free instant at least 128 ns after a request, the peer sends DELAY_RESP.
-/
def execDelayRespSend (port : Nat) (t3 : BitVec 48) (s : State) : Host.Outcome State Fault Refusal :=
  .next (s.doDelayRespSend port t3)

/-- DELAY_RESP_RX (R51). The requester stamps the arrival of DELAY_RESP as t4. -/
def execDelayRespRx (port : Nat) (lane : Nat) (reqSeq : Nat) (t4 : BitVec 48) (s : State) : Host.Outcome State Fault Refusal :=
  .next (s.doDelayRespRx port lane reqSeq t4)

/-- ROUND_TRIP_DROP (R52). A round trip whose residence has not arrived within 16 heartbeats is dropped and replaced
in the batch. -/
def execRoundTripDrop (port : Nat) (lane : Nat) (s : State) : Host.Outcome State Fault Refusal :=
  .next (s.doRoundTripDrop port lane)

/-- BATCH_COMPLETE (R53). After 256 round trips a unit compares means with the peer and writes the new delay into the
shadow table or raises RT_MISMATCH. -/
def execBatchComplete (port : Nat) (reqLane : Nat) (rspLane : Nat) (s : State) : Host.Outcome State Fault Refusal :=
  .next (s.doBatchComplete port reqLane rspLane)

/-- DELAY_ENTRY_STALE (R61). A delay entry's AGE exceeds 10,000 ms and the entry becomes STALE. -/
def execDelayEntryStale (lane : Nat) (s : State) : Host.Outcome State Fault Refusal :=
  .next (s.doDelayEntryStale lane)

/-- LANE_SWAP_START (R57). A write of TDC_SWAP_CTRL.START begins a lane swap on the named port with its peer. -/
def execLaneSwapStart (v : W) (s : State) : Host.Outcome State Fault Refusal :=
  .next (s.doLaneSwapStart v)

/-- LANE_SWAP_STEP_END (R57). An averaging or retraining step of the lane swap completes and the next begins, with A0
written at the end. -/
def execLaneSwapStepEnd (ok : Bool) (s : State) : Host.Outcome State Fault Refusal :=
  .next (s.doLaneSwapStepEnd ok)

/-- LANE_SWAP_TIMEOUT (R57). A lane swap that exceeds 200 ms sets FAILED and leaves TDC_PORT_ASYM unchanged. -/
def execLaneSwapTimeout (s : State) : Host.Outcome State Fault Refusal :=
  .next (s.doLaneSwapTimeout)

/-- RING_LOCK_REGAIN (R38). A ring's control loop brings it back within 0.25 LSB, RING_LOCK returns to 1 and stamps
cease to carry FINE_INVALID. -/
def execRingLockRegain (s : State) : Host.Outcome State Fault Refusal :=
  .next (s.doRingLockRegain)


end Sys2Proof.Machine
end

