-- ==== Sys2Proof/Machine/Assembly.lean ====
section
/-! DEFINITION. Sys2Proof/Machine/Assembly.lean: consumers of tiles (R236 to R239, R253): the assembly of a tile, its
verification and rejection, what a verified tile enters, and the SIGNALs that a rejected tile defers. -/

namespace Sys2Proof.Machine

/-! ### Helpers -/

def State.setFab (s : State) (f : FabSt → FabSt) : State := { s with fab := f s.fab }

/-- The slot of a SCHED flit. -/
def flitSlot (f : Flit) : Nat :=
  match f.body with
  | .sched _ _ _ _ slot _ => slot
  | _ => 0

/-- Adjusts how many consumers a slot unit waits for (R253). -/
def State.pendUnit (s : State) (u : Nat × Nat) (f : Nat → Nat) : State :=
  let x := s.port u.1
  match x.rx[u.2]? with
  | some r => s.setPort u.1 { x with rx := x.rx.set u.2 { r with pend := f r.pend } }
  | none => s

def State.unpend (s : State) (u : Option (Nat × Nat)) : State :=
  match u with
  | some p => s.pendUnit p fun n => n - 1
  | none => s

/-- The cell of an instruction that takes a slot's ingress flits, by output and slot of the pass (R258, R259). -/
def State.ingressInstr (s : State) (o t : Nat) : Option Nat :=
  match s.img.live with
  | some ps =>
    (upto ps.cmbs.length).find? fun i =>
      match ps.cmbs[i]? with
      | some c => c.opcode != 0 && decide (c.cell0 ≤ o - 64) && decide (o - 64 < c.cell0 + c.ncell) &&
          decide (c.start ≤ t) && decide (t ≤ c.stop) && !c.famS &&
          (c.famE || c.famO || Nat.testBit c.opnd.toNat 33)
      | none => false
  | none => none

/-! ### SIGNAL acknowledgements (R250, R252) -/

/-- Sends a SIG_ACK back to the source of a record. -/
def State.sendAck (s : State) (dno sub seq status : Nat) : State :=
  match s.wayOut dno (if sub < 16 then some sub else none) with
  | .port p => s.queueFlits p none (sideFlits (.sigAck dno sub seq status) (s.levelTo dno) [])
  | _ => s

/-- The NAK status of a sprocket that does not accept a SIGNAL; 0 for one that does (R252). -/
def State.nakOf (s : State) (phys : Nat) : Nat :=
  let st := (s.spkStatusOf phys).1
  if st = 0 then 0 else if st = 9 then 2 else if st = 10 then 3 else if st = 11 then 4 else 5

/-! ### Deferred SIGNALs (R239) -/

/-- Sends a SCHED-path SIGNAL of SEQ 0 to another unit (R253): on an external output in its slot, else by R234. -/
def signalFlit (s : State) (dst sub phys inc : Nat) (lvl : Nat) : Flit :=
  let f := mkFlit (.signal dst sub 1 s.srcDno s.srcSub) lvl 0 true
    (sigBytes { phys, inc, seq := 0, sentUs := s.htNs.toNat / 1000 % 2 ^ 32 }) 0
  { f with tcrc := crc64 (sigBytes { phys, inc, seq := 0, sentUs := s.htNs.toNat / 1000 % 2 ^ 32 }) }

/-- A replay buffer's size (R221, R456). -/
def State.replayMax (s : State) : Nat :=
  match s.ident.kind with
  | .vd => 1024
  | .vsu => 512
  | .u2 => 256
  | .u1 => 128

/-- Numbers a flit and hands it to the port's transmitter (R221). -/
def State.pushTx (s : State) (p : Nat) (sched : Bool) (f : Flit) : State :=
  let x := s.port p
  let g : Flit := { f with lseq := x.lseqTx }
  let rep := x.replay ++ [{ lseq := x.lseqTx, sched := sched, resends := 0, flit := some g }]
  s.setPort p { x with lseqTx := (x.lseqTx + 1) % 4096, txq := x.txq ++ [g],
                       replay := rep.drop (rep.length - s.replayMax) }

/-- Sends a scheduled SIGNAL to another unit. -/
def State.remoteSignal (s : State) (out dst sub phys inc : Nat) : State :=
  if out < s.nPorts then
    (if s.flitsOn out then s.pushTx out false (signalFlit s dst sub phys inc 0)
     else s.addCount ((Fld.XF_PORT_ERR_HOLES).at out) 1)
  else
    match s.wayOut dst (if sub < 16 then some sub else none) with
    | .port p => s.queueFlit p none (signalFlit s dst sub phys inc (s.levelTo dst))
    | .loc => if (s.spkStatusOf phys).1 = 0 then s.signalIn phys inc none true none else s
    | _ => s

/-- Is a deferred entry a record of a pair. -/
def DefSig.ofPair (d : DefSig) (dno sub : Nat) : Bool :=
  match d.ack with
  | some a => a.1 == dno && a.2.1 == sub
  | none => false

/-- What has been judged of a pair of source and destination (R250). -/
def State.judged (s : State) (dno sub : Nat) : SigJudge := s.fab.judge.get (dno * 32 + sub) {}

def State.setJudged (s : State) (dno sub : Nat) (j : SigJudge) : State :=
  s.setFab fun f => { f with judge := f.judge.set (dno * 32 + sub) j }

/-- A record of a pair has been applied. -/
def State.noteApplied (s : State) (dno sub seq : Nat) : State :=
  let j := s.judged dno sub
  s.setJudged dno sub { j with
    applied := if serialHigher 32 seq j.applied then seq else j.applied, fresh := j.fresh ++ [seq] }

/-- The records applied of a source that may be acknowledged: those before a deferred one. -/
def State.ackable (s : State) (dno sub : Nat) : List Nat :=
  let j := s.judged dno sub
  match (s.fab.defer.filter fun d => d.ofPair dno sub).head?.bind (·.ack) with
  | some a => j.fresh.filter fun q => serialHigher 32 a.2.2 q
  | none => j.fresh

/-- The highest of them, or the last one acknowledged. -/
def State.ackSeqOf (s : State) (dno sub : Nat) : Nat :=
  (s.ackable dno sub).foldl (fun m q => if serialHigher 32 q m then q else m) (s.judged dno sub).acked

/-- Acknowledges the highest record applied of a pair, once (R252). -/
def State.ackPair (s : State) (dno sub : Nat) : State :=
  let j := s.judged dno sub
  let a := s.ackSeqOf dno sub
  if serialHigher 32 a j.acked then
    (s.setJudged dno sub { j with acked := a, fresh := j.fresh.filter fun q => serialHigher 32 q a }).sendAck dno sub a 0
  else s

/-- The pairs of deferred records, each once. -/
def pairsOf (l : List DefSig) : List (Nat × Nat) := (l.filterMap fun d => d.ack.map fun a => (a.1, a.2.1)).eraseDups

/-- Applies one deferred SIGNAL. Its sprocket is judged now: one that no longer accepts a SIGNAL stays as it is, and a side
record is refused (R156, R250); so is one that was refused while it had to wait its turn. -/
def State.undefer (s : State) (d : DefSig) : State :=
  match d.remote with
  | some r => s.remoteSignal r.2.2 r.1 r.2.1 d.phys d.inc.toNat
  | none =>
    let nak := if d.nak != 0 then d.nak else s.nakOf d.phys
    match d.ack with
    | some a =>
      if nak = 0 then (s.applySignal d.phys d.inc.toNat).noteApplied a.1 a.2.1 a.2.2 else s.sendAck a.1 a.2.1 a.2.2 nak
    | none => if nak = 0 then s.applySignal d.phys d.inc.toNat else s

/-- When no rejected tile is held any more, the deferred SIGNALs are applied in the order in which they arrived, and the
pairs of their records acknowledged. -/
def State.releaseDeferred (s : State) : State :=
  if s.holdsRejected then s
  else
    let l := s.fab.defer
    (pairsOf l).foldl (fun t e => t.ackPair e.1 e.2) (l.foldl (fun t d => t.undefer d) (s.setFab fun f => { f with defer := [] }))

/-! ### Rejection (R237, R238) -/

def sameTile (k : TileKey) (c : Nat) (a : TileAsm) : Bool := a.key == k && a.cons == c

/-- Is a tile's source the link peer of a port. -/
def State.peerIsSrc (s : State) (p : Nat) (k : TileKey) : Bool :=
  let x := s.port p
  if k.sub = 16 then x.peerKind == 0 && x.peerId == k.dno else x.peerKind == 1 && x.peerId == k.dno * 16 + k.sub

/-- Writes XF_REJECT_LOG. -/
def State.rejectLog (s : State) (k : TileKey) (p outcome : Nat) : State :=
  s.setReg Reg.XF_REJECT_LOG
    (mkw [(0, k.wsc % 65536), (16, k.tile % 2 ^ 20), (36, k.dno % 4096), (48, k.sub % 32), (53, p % 64), (59, outcome)])

/-- Updates OUTCOME where the log shows this tile. -/
def State.rejectOutcome (s : State) (k : TileKey) (outcome : Nat) : State :=
  if (s.reg Reg.XF_REJECT_LOG).toNat % 2 ^ 53 =
      k.wsc % 65536 + k.tile % 2 ^ 20 * 2 ^ 16 + k.dno % 4096 * 2 ^ 36 + k.sub % 32 * 2 ^ 48 then
    s.setFld Fld.XF_REJECT_LOG_OUTCOME outcome
  else s

/-- The flits of a tile, one for each FIDX, in FIDX order. -/
def TileAsm.parts (a : TileAsm) : List AsmFlit :=
  (a.flits.mergeSort fun x y => x.fidx ≤ y.fidx).foldl (fun l x => if l.any fun y => y.fidx == x.fidx then l else l ++ [x]) []

/-- Rejects a tile: its flits are discarded, it is logged and counted, and re-fetched where its source is the link peer and
the step has a RETRY slot left on the peer's output, which the unit cannot see (a free value, log entry 151). REFETCH names
the slot of the tile's first flit. -/
def State.rejectTile (s : State) (a : TileAsm) : State :=
  let s1 := (s.rejectLog a.key a.port 0).addCount ((Fld.XF_PORT_ERR_REJECTS).at a.port) 1
  let empty (x : TileAsm) : TileAsm := { x with flits := x.flits.map fun f => { f with flit := none } }
  let s2 := s1.setFab fun f => { f with
      rejected := if f.rejected.any fun r => r.key == a.key && r.cons == a.cons then f.rejected
        else f.rejected ++ [⟨a.key, a.cons, a.port⟩],
      asm := (f.asm.filter fun x => !sameTile a.key a.cons x) ++ [empty a] }
  let s3 := s2.raise Fld.XF_STATUS_TILE_REJECT
  if s3.flag Fld.XF_CTRL_REFETCH_EN && s3.peerIsSrc a.port a.key && s3.portUp a.port then
    let s4 : State := { s3 with free := s3.free + 1 }
    if Config.peerRetry s3.free then
      let fs := a.parts.filterMap (·.flit)
      let mask := fs.foldl (fun m f => m ||| 2 ^ f.fidx) 0
      s4.queueOs a.port (.refetch a.key.wsc ((fs.head?.map flitSlot).getD 0) mask a.key.tile)
    else s4
  else s3

/-! ### The input streams of the combiner (R259, R262, R271, R273) -/

/-- Has the start of slot `g` of a pass from `b` come. -/
def State.slotDue (s : State) (b : W) (g : Nat) : Bool := decide (s.ht * 100 ≥ (b.toNat * 100 + 256 * g) * 65536)

/-- The places of a contributor in their order. -/
def CellRun.places' (r : CellRun) (con : Nat) : List CmbPlace :=
  (r.places.filter fun p => p.con == con).mergeSort fun a b => a.ord ≤ b.ord

/-- The flits of a pair of ports, taken in turn (R259). -/
def interleave : List CmbPlace → List CmbPlace → List CmbPlace
  | [], _ => []
  | a :: _, [] => [a]
  | a :: r, b :: q => a :: b :: interleave r q

/-- Has the window of an instruction closed for the step (R262). -/
def State.windowClosed (s : State) (ps : PhaseSet) (c : CmbInstr) : Bool :=
  match s.fab.passAt with
  | none => true
  | some b =>
    let ts := max 1 ps.desc.tableSlots
    let inside (g : Nat) : Bool := decide (c.start ≤ g % ts) && decide (g % ts ≤ c.stop)
    let n := slotsIn ps.desc.stepNs
    (upto (n - s.fab.slot)).all (fun k => !inside (s.fab.slot + k)) &&
    decide (0 < s.fab.slot) && (!inside (s.fab.slot - 1) || s.slotDue b s.fab.slot)

/-- X of an instruction's XS streams. -/
def CmbInstr.xsExt (c : CmbInstr) : Nat := if c.famO then c.bits 54 10 else if c.famR then c.bits 34 10 else 0

/-- The contributors of an instruction in contributor order, as lists of places (R259). -/
def CellRun.contribs (r : CellRun) (c : CmbInstr) : List (List CmbPlace) :=
  let m := c.opnd.toNat
  let taps :=
    if !(c.famR || c.famM) then []
    else if Nat.testBit m 32 then
      ((upto 16).filter fun k => Nat.testBit m (2 * k) && Nat.testBit m (2 * k + 1)).map fun k =>
        interleave (r.places' (2 * k)) (r.places' (2 * k + 1))
    else ((upto 32).filter fun j => Nat.testBit m j).map fun j => r.places' j
  let xin := if c.famE || c.famO || ((c.famR || c.famM) && Nat.testBit m 33) then [r.places' 99] else []
  taps ++ xin

/-- How many blocks a stream of `n` flits so far surely has: all of it where there is no extension reserve; else, until it has
ended, those that enough bytes follow. -/
def xsSure (x n : Nat) (closed : Bool) : Nat := if x = 0 && !closed then (224 * n + 257) / 258 else xsCount x (224 * n)

/-- What R273 says of flit `k` of an XS stream of `n` flits so far: refused, good, or not known before the stream's length
is. -/
def xsFlit (x n k : Nat) (closed : Bool) (d : List Byte) : Option Bool :=
  let b := (224 * k + 257) / 258
  if 258 * b ≥ 224 * (k + 1) then some false
  else if b < xsSure x n closed then some (xsHead x (fieldAt d (258 * b - 224 * k) 2)).2.2
  else if closed || x == 0 then some false
  else none

/-- The instruction that consumes a tile as an XS input, if one does. -/
def State.xsConsumer (s : State) (cons : Nat) : Option (PhaseSet × CmbInstr × CellRun) :=
  let i := (cons - 256) / 2
  match s.img.live with
  | none => none
  | some ps =>
    match ps.cmbs[i]?, s.cmb.runs.find? fun r => r.instr == i with
    | some c, some r => if 256 ≤ cons && c.fmtA == 14 then some (ps, c, r) else none
    | _, _ => none

/-- What R273 says of each flit of a tile that an instruction takes in. -/
def State.xsFlits (s : State) (a : TileAsm) : List (Option Bool) :=
  match s.xsConsumer a.cons with
  | none => []
  | some (ps, c, r) =>
    let closed := s.windowClosed ps c
    (r.contribs c).flatMap fun l =>
      ((upto l.length).zip l).filterMap fun (e : Nat × CmbPlace) =>
        (a.flits.find? fun y => y.ord == e.2.ord && (e.2.con == 99) == (a.cons % 2 == 1)).bind fun y =>
          y.flit.map fun f => xsFlit c.xsExt l.length e.1 closed (padTo 224 f.payload)

/-- Does a tile of an XS input hold a header that R273 refuses. -/
def State.xsBadTile (s : State) (a : TileAsm) : Bool := (s.xsFlits a).contains (some true)

/-- Is it still open whether a tile of an XS input holds such a header. -/
def State.xsOpenTile (s : State) (a : TileAsm) : Bool := (s.xsFlits a).contains none

/-! ### What a verified tile enters (R237) -/

/-- The verified flits of a combiner instruction take their places (R259); what is verified at one instant is verified in
one cycle (R275). -/
def State.fillPlaces (s : State) (i : Nat) (a : TileAsm) : State :=
  let upd (p : CmbPlace) : CmbPlace :=
    match a.flits.find? fun x => x.ord == p.ord with
    | some x => { p with data := x.flit.map fun f => padTo 224 f.payload, ver := s.time.now, key := some a.key }
    | none => p
  { s with
    cmb := { s.cmb with runs := s.cmb.runs.map fun r =>
      if r.instr == i then { r with places := r.places.map upd } else r } }

/-- The consumer of the memory outputs, of the staging outputs and of a VSU's host die; those of the cells lie above. -/
def consMem : Nat := 80
def consStg : Nat := 104
def consHost : Nat := 200

/-- One flit of a verified tile into memory, or to the writes of staging that land in their order (R322). -/
def State.enterFlit (s : State) (cons : Nat) (x : AsmFlit) : State :=
  match x.flit with
  | some f =>
    if cons = consMem then s.putMemFlit x.arg (flitBytes f)
    else if x.acc then { s with stg := { s.stg with accs := s.stg.accs ++ [(x.out, x.ord, f)] } }
    else { s with stg := { s.stg with writes := s.stg.writes ++ [(x.out - 104, x.arg % 2 ^ 20, flitBytes f)] } }
  | none => s

/-- A verified tile enters its operation, its memory or its die. -/
def State.enterTile (s : State) (a : TileAsm) : State :=
  if a.cons = consMem || a.cons = consStg then a.flits.foldl (fun t x => t.enterFlit a.cons x) s
  else if a.cons = consHost then s.emits (a.parts.filterMap fun x => x.flit.map fun f => .srx 0 f)
  else s.fillPlaces ((a.cons - 256) / 2) a

/-- The lowest FIDX of a tile's flits. -/
def TileAsm.low (a : TileAsm) : Nat := (a.flits.map (·.fidx)).foldl min 15

/-- Are a tile's flits there from its first up to FIDX 15 without a gap: a whole tile, or what may be a short one (R237,
R262). -/
def TileAsm.whole (a : TileAsm) : Bool :=
  (a.flits.any fun x => x.fidx == 15) && (a.flits.all fun x => x.flit.isSome) && a.parts.length == 16 - a.low

/-- Is a consumer still to get a flit in the step: one that it is owed, a hole, or one of a slot that is still to come (log
entry 152). -/
def State.awaits (s : State) (cons : Nat) : Bool :=
  (s.fab.owed.any fun o => o.cons == cons) ||
  (s.fab.ports.any fun e => e.2.rx.any fun u => u.flit.isNone && !u.gone && u.taps.any fun t => t.1 == cons) ||
  match s.fab.passAt, s.img.live with
  | some _, some ps =>
    let left := (upto (slotsIn ps.desc.stepNs - s.fab.slot)).map fun k => (s.fab.slot + k) % max 1 ps.desc.tableSlots
    let takes (o t : Nat) : Bool :=
      match runAt (ps.outs.getD o []) t with
      | some (r, _) => r.action == 1 || r.action == 3
      | none => false
    if cons = consMem then left.any fun t => (upto 24).any fun k => takes (80 + k) t
    else if cons = consStg then left.any fun t => (upto 4).any fun k => takes (104 + k) t
    else if cons = consHost then !left.isEmpty
    else match ps.cmbs[(cons - 256) / 2]? with
      | some c => !s.windowClosed ps c
      | none => false
  | _, _ => false

/-- The payload of a tile's flits. -/
def TileAsm.payload (a : TileAsm) : List Byte :=
  a.parts.flatMap fun y => (y.flit.map fun g => padTo 224 g.payload).getD []

/-- Does the CRC-64 of a whole tile match the TCRC of its flit 15. -/
def TileAsm.good (a : TileAsm) : Bool :=
  match a.parts.getLast?.bind (·.flit) with
  | some f => f.tcrc == crc64 a.payload
  | none => false

/-- Is a verified tile of an ACC_WRITE run in XS refused (R330). -/
def TileAsm.xsRefused (a : TileAsm) : Bool :=
  a.cons == consStg &&
  match a.parts.head? with
  | some x => x.acc && (x.arg >>> 20) % 16 == 14 && accXsReject (224 * x.pos) a.payload
  | none => false

/-- Is a tile held as rejected by its consumer. -/
def State.isRejected (s : State) (a : TileAsm) : Bool := s.fab.rejected.any fun r => r.key == a.key && r.cons == a.cons

/-- A tile's rejection ends with a copy that replaces it (R239). -/
def State.endReject (s : State) (a : TileAsm) : State :=
  if s.isRejected a then
    ((s.setFab fun f => { f with
      rejected := f.rejected.filter fun r => !(r.key == a.key && r.cons == a.cons) }).rejectOutcome a.key 1).releaseDeferred
  else s

/-- A verified tile enters, and its slot units are consumed. A crossbar output that takes a flit of it later finds it in
`done`, and so does a combiner instruction that refuses it (R273). -/
def State.acceptTile (s : State) (a : TileAsm) : State :=
  let s1 := (s.setFab fun f => { f with
      asm := f.asm.filter fun x => !sameTile a.key a.cons x, done := f.done ++ [a] }).enterTile a
  a.flits.foldl (fun t x => t.unpend x.unit) s1

/-- Checks a whole tile: it enters, or is rejected. What could be the end of a longer tile waits for the flits that its
consumer is to get (log entry 152). A copy that replaces a rejected tile ends its rejection (R239); where it is open whether
R273 refuses a block of it, the rejection stays until that is known. -/
def State.checkTile (s : State) (k : TileKey) (c : Nat) : State :=
  match s.fab.asm.find? (sameTile k c) with
  | some a =>
    if !a.whole then s
    else if a.good then
      if a.xsRefused || s.xsBadTile a then (s.rejectTile a).raise Fld.CMB_STATUS_XS_REJECT
      else if s.xsOpenTile a then s.acceptTile a
      else (s.acceptTile a).endReject a
    else if a.low != 0 && s.awaits c then s
    else s.rejectTile a
  | none => s

/-- The verified flit that a crossbar output takes again: the same payload under the same FIDX; or one of zeros before the
flits of a tile that was taken for a short one, whose CRC-64 it does not change. -/
def State.doneFlit (s : State) (k : TileKey) (cons : Nat) (x : AsmFlit) : Bool :=
  s.fab.done.any fun a => sameTile k cons a &&
    ((a.flits.any fun y => y.fidx == x.fidx && y.flit.map (·.payload) == x.flit.map (·.payload)) ||
      (decide (x.fidx < a.low) && x.flit.any fun f => f.payload.all (· == 0)))

/-- Adds a flit to a tile under assembly. A second copy that an output holds already is dropped; a flit of a rejected tile
takes the place of the discarded one. -/
def TileAsm.add (a : TileAsm) (port : Nat) (x : AsmFlit) : TileAsm :=
  let pt := if x.fidx = 15 then port else a.port
  let same (y : AsmFlit) : Bool := y.fidx == x.fidx && y.out == x.out
  match a.flits.find? same with
  | some y =>
    if y.flit.isSome then a
    else { a with port := pt, flits := a.flits.map fun z => if same z then { z with flit := x.flit } else z }
  | none => { a with port := pt, flits := a.flits ++ [x] }

/-- A flit reaches a consumer; one of a tile that its consumer has verified enters at once (R224). -/
def State.asmPut (s : State) (cons port : Nat) (x : AsmFlit) : State :=
  match x.flit with
  | none => s
  | some f =>
    let k := flitKey f
    let x0 : AsmFlit := { x with fidx := f.fidx }
    if s.doneFlit k cons x0 then (s.enterTile ⟨k, cons, [x0], port⟩).unpend x0.unit
    else
      let asm := if s.fab.asm.any (sameTile k cons) then
          s.fab.asm.map fun a => if sameTile k cons a then a.add port x0 else a
        else s.fab.asm ++ [{ key := k, cons := cons, flits := [x0], port := port }]
      (s.setFab fun g => { g with asm := asm }).checkTile k cons

/-- Short tiles that failed their check and waited for more flits are checked again. -/
def State.recheckShort (s : State) : State :=
  (s.fab.asm.filter fun a => a.low != 0 && a.whole).foldl (fun t a => t.checkTile a.key a.cons) s

/-- Whole short tiles whose consumer is owed nothing any more are checked again. -/
def State.recheckTiles (s : State) (cons : Nat) : State :=
  (s.fab.asm.filter fun a => a.cons == cons).foldl (fun t a => t.checkTile a.key cons) s

end Sys2Proof.Machine
end

