-- ==== Sys2Proof/Machine/Phy.lean ====
section
/-! DEFINITION. Sys2Proof/Machine/Phy.lean: the coding of a lane (R204): the scrambler 1 + x^39 + x^58, the code RS(544,514)
over 10-bit symbols, Gray-coded PAM4, and the cut of codewords into quarters (R205). R204 names the code of IEEE 802.3, which
gives the field polynomial x^10 + x^3 + 1, the generator with the roots α^0 to α^29, and the orders of bits (log entry 133). -/

namespace Sys2Proof.Machine

/-! ### The scrambler -/

/-- `n` bits through the scrambler, least significant first; `h` holds the last 58 bits on the line, the newest in bit 0. With
`rx`, through the descrambler. Answers the new history and the bits. -/
def scramble (rx : Bool) : Nat → Nat → Nat → Nat × Nat
  | 0, h, _ => (h, 0)
  | n + 1, h, w =>
    let o := (w + h / 2 ^ 38 + h / 2 ^ 57) % 2
    let r := scramble rx n ((2 * h + if rx then w % 2 else o) % 2 ^ 58) (w / 2)
    (r.1, o + 2 * r.2)

/-! ### The field of 1,024 elements -/

/-- A product of two polynomials over GF(2), the second of `n` bits. -/
def clMul : Nat → Nat → Nat → Nat
  | 0, _, _ => 0
  | n + 1, a, b => (if b % 2 = 1 then a else 0) ^^^ 2 * clMul n a (b / 2)

/-- A polynomial of up to 10 + n bits, reduced by x^10 + x^3 + 1. -/
def gfReduce : Nat → Nat → Nat
  | 0, x => x
  | n + 1, x => gfReduce n (if Nat.testBit x (n + 10) then x ^^^ 0x409 * 2 ^ n else x)

def gfMul (a b : Nat) : Nat := gfReduce 10 (clMul 10 a b)

/-- `n` powers of α from `a` on. -/
def powersFrom : Nat → Nat → List Nat
  | 0, _ => []
  | n + 1, a => a :: powersFrom n (gfMul a 2)

/-- α^0 to α^(n-1). -/
def alphas (n : Nat) : List Nat := powersFrom n 1

/-- The inverse, by a^1022. -/
def gfInv (a : Nat) : Nat :=
  ((upto 9).foldl (fun (p : Nat × Nat) _ => let q := gfMul p.1 p.1; (q, gfMul p.2 q)) (a, 1)).2

/-- A polynomial's value; its coefficients stand highest first. -/
def gfEval (p : List Nat) (x : Nat) : Nat := p.foldl (fun acc c => gfMul acc x ^^^ c) 0

/-! ### RS(544,514) -/

/-- The generator's 30 coefficients below the leading one, highest first. -/
def rsGen : List Nat :=
  ((alphas 30).foldl (fun (g : List Nat) a =>
    (List.zipWith (· ^^^ ·) (g ++ [0]) (0 :: g.map (gfMul a)))) [1]).drop 1

/-- The parity symbols of 514 information symbols, both in the order of sending. -/
def rsParity (info : List Nat) : List Nat :=
  info.foldl (fun (r : List Nat) m =>
    let f := m ^^^ r.headD 0
    List.zipWith (fun x g => x ^^^ gfMul f g) (r.drop 1 ++ [0]) rsGen) (List.replicate 30 0)

def rsEncode (info : List Nat) : List Nat := info ++ rsParity info

/-- The error locator, lowest coefficient first, and its length, from the 30 syndromes (Berlekamp and Massey). -/
def rsLocator (syn : List Nat) : List Nat × Nat :=
  let start : List Nat × List Nat × Nat × Nat := ([1], [1], 0, 1)
  let r := (upto 30).foldl (fun (st : List Nat × List Nat × Nat × Nat) n =>
    let c := st.1
    let b := 0 :: st.2.1
    let d := ((upto (st.2.2.1 + 1)).map fun i => gfMul (c.getD i 0) (syn.getD (n - i) 0)).foldl (· ^^^ ·) 0
    if d = 0 then (c, b, st.2.2)
    else
      let k := gfMul d (gfInv st.2.2.2)
      let m := max c.length b.length
      let c1 := (upto m).map fun i => c.getD i 0 ^^^ gfMul k (b.getD i 0)
      if 2 * st.2.2.1 ≤ n then (c1, c, n + 1 - st.2.2.1, d) else (c1, b, st.2.2)) start
  (r.1, r.2.2.1)

/-- The value of a polynomial whose coefficients stand lowest first. -/
def gfEvalLow (p : List Nat) (x : Nat) : Nat := gfEval p.reverse x

/-- A word of 544 symbols decoded: the codeword and how many symbols were corrected; none where more than 15 are in error
and no codeword is within 15 symbols. -/
def rsDecode (w : List Nat) : Option (List Nat × Nat) :=
  let syn := (alphas 30).map (gfEval w)
  if syn.all (· == 0) then some (w, 0)
  else
    let x := rsLocator syn
    let om := (upto 30).map fun i => ((upto (i + 1)).map fun j => gfMul (x.1.getD j 0) (syn.getD (i - j) 0)).foldl (· ^^^ ·) 0
    let dl := (upto 16).map fun i => if i % 2 = 0 then x.1.getD (i + 1) 0 else 0
    let fixed := (w.zip (alphas 544).reverse).map fun (e : Nat × Nat) =>
      let y := gfInv e.2
      if gfEvalLow x.1 y = 0 then (e.1 ^^^ gfMul e.2 (gfMul (gfEvalLow om y) (gfInv (gfEvalLow dl y))), 1) else (e.1, 0)
    let v := fixed.map (·.1)
    let n := (fixed.map (·.2)).foldl (· + ·) 0
    if x.2 ≤ 15 && n == x.2 && ((alphas 30).map (gfEval v)).all (· == 0) then some (v, n) else none

/-! ### Symbols, bits and levels -/

/-- A number cut into `n` pieces of `k` bits, lowest first. -/
def cutBits (k : Nat) : Nat → Nat → List Nat
  | 0, _ => []
  | n + 1, w => w % 2 ^ k :: cutBits k n (w / 2 ^ k)

/-- Pieces of `k` bits joined, the first lowest. -/
def joinBits (k : Nat) (l : List Nat) : Nat := l.foldr (fun x acc => x + acc * 2 ^ k) 0

/-- The PAM4 levels of a symbol, Gray coded: bits 00, 01, 11, 10, the first sent on the left, are levels 0, 1, 2, 3. -/
def grayOf (sym : Nat) : List Nat := (cutBits 2 5 sym).map fun p => 2 * (p % 2) + (p % 2 + p / 2) % 2

/-- The symbol of five levels. -/
def symOf (levels : List Nat) : Nat := joinBits 2 (levels.map fun v => v / 2 % 2 + 2 * ((v / 2 + v) % 2))

/-- The 2,720 levels of the codeword of ten quarters of 514 bits. -/
def codewordOf (quarters : List Nat) : List Nat := (rsEncode (cutBits 10 514 (joinBits 514 quarters))).flatMap grayOf

/-- What 2,720 levels decode to: ten quarters, and the symbols corrected. -/
def quartersOf (levels : List Nat) : Option (List Nat × Nat) :=
  (rsDecode ((chunks 5 544 levels).map symOf)).map fun r => (cutBits 514 10 (joinBits 10 (r.1.take 514)), r.2)

/-! ### A lane -/

/-- A quarter's 514 bits: its 2-bit header, and its data. -/
def quarterBits (hdr data : Nat) : Nat := hdr % 4 + 4 * data

/-- A lane takes a quarter to send; the tenth completes a codeword (R204). -/
def LaneCode.push (c : LaneCode) (hdr : Nat) (bytes : List Byte) : LaneCode × Option (List Nat) :=
  let x := scramble false 512 c.scr (leNat bytes)
  let q := c.q ++ [some (quarterBits hdr x.2)]
  if q.length < 10 then ({ c with scr := x.1, q := q }, none)
  else ({ c with scr := x.1, q := [] }, some (codewordOf (q.filterMap id)))

/-- A lane takes the ten quarters of a codeword in, descrambled. -/
def LaneCode.pull (c : LaneCode) (qs : List Nat) : LaneCode :=
  qs.foldl (fun d w =>
    let x := scramble true 512 d.scr (w / 4)
    { d with scr := x.1, q := d.q ++ [some (quarterBits w x.2)] }) c

/-- A codeword that cannot be decoded loses ten quarters. -/
def LaneCode.lose (c : LaneCode) : LaneCode := { c with q := c.q ++ List.replicate 10 none }

/-- A quarter as its header and its 64 bytes. -/
def quarterOf (w : Nat) : Nat × List Byte := (w % 4, leBytes 64 (w / 4))

/-- Could four quarters, some of them lost, be of a flit's frame. -/
def looksFlit (q : List (Option Nat)) : Bool :=
  (upto 4).all fun i =>
    match q.getD i none with
    | some w => w % 4 == tagFlit / 4 ^ i % 4
    | none => true

end Sys2Proof.Machine
end

