-- ==== Sys2Proof/Machine/Link.lean ====
section
/-! DEFINITION. Sys2Proof/Machine/Link.lean: a port's link (R203 to R232): its states, frames out and in, numbering and
retry, credits, slot units and taps as flits arrive, and re-fetch. -/

namespace Sys2Proof.Machine

/-! ### Responses and the routing of side flits (R219, R234, R235) -/

def subDie (sub : Nat) : Option Nat := if sub < 16 then some sub else none

/-- A response to a request of the unit's own: a CORRUPT write is sent again, at most three times (R243); every other
one completes its request and frees its tag (R244, R245). -/
def State.rspIn (s : State) (tag st : Nat) (data : List Byte) (link : List FlitLink := []) : State :=
  match s.fab.side.find? fun r => r.tag == tag with
  | none => s
  | some r =>
    let s1 := s.setFab fun f => { f with side := f.side.filter fun x => x.tag != tag }
    if st = 7 && r.op = 1 && r.tries < 3 then s1.sideSend { r with tries := r.tries + 1 }
    else (s1.sideComplete r st data link).sideRelease

/-- Sends a response back to the source of a request, or takes it where the source is this unit. -/
def State.reply (s : State) (dno sub tag status : Nat) (data : List Byte) : State :=
  if dno = s.srcDno && sub = s.srcSub then s.rspIn tag status data
  else
    match s.wayOut dno (subDie sub) with
    | .port p => s.queueFlits p none (sideFlits (.sideRsp status tag dno sub) (s.levelTo dno) data)
    | _ => s

/-- Answers a request that cannot be routed, once, on its last flit (R235); other side flits are dropped. -/
def State.answer (s : State) (f : Flit) (status : Nat) : State :=
  match f.body with
  | .sideReq _ tag _ _ sub dno => if f.last then s.reply dno sub tag status [] else s
  | _ => s

/-- The source unit, the destination unit and the die of this unit that a side flit names. A response and a SIG_ACK name
no source: the forwarding unit's own DNO takes its place (log entry 56). -/
def State.flitDst (s : State) (f : Flit) : Option (Nat × Nat × Option Nat) :=
  match f.body with
  | .sideReq op _ addr _ _ dno => some (dno, hallUnit addr, spkDie op addr)
  | .sideRsp _ _ dno sub => some (s.srcDno, dno, subDie sub)
  | .signal dd ds _ sd _ => some (sd, dd, subDie ds)
  | .sigAck dd ds _ _ => some (s.srcDno, dd, subDie ds)
  | _ => none

/-- Credits that a port owes its peer (R231). -/
def State.giveCredit (s : State) (p lvl n : Nat) : State :=
  let x := s.port p
  s.setPort p { x with owedCr := setAt x.owedCr lvl (x.owedCr.getD lvl 0 + n) }

/-- A flit leaves the level buffer of the port that it came from. -/
def State.freeBuf (s : State) (src : Option Nat) (lvl : Nat) : State :=
  match src with
  | some p => s.giveCredit p lvl 1
  | none => s

/-- Is a port a die port of a DOME. -/
def State.diePortOf (s : State) (p : Nat) : Bool := s.isDome && decide (p < 32)

/-- Is a request that a unit passes on, or sends, refused before it is routed (`State.addrBad`). -/
def State.reqBad (s : State) (f : Flit) : Bool :=
  match f.body with
  | .sideReq op _ addr _ _ _ => s.addrBad op addr
  | _ => false

/-- The die, the destination and the TAG of a request that a die sends through its DOME; a SIGNAL has no TAG. -/
def State.dieReq (s : State) (src : Option Nat) (f : Flit) : Option (Nat × Nat × Option Nat) :=
  match src, f.body with
  | some p, .sideReq _ tag addr _ _ _ => if s.diePortOf p then some (p / 2, hallUnit addr, some tag) else none
  | some p, .signal dd _ _ _ _ => if s.diePortOf p then some (p / 2, dd, none) else none
  | _, _ => none

/-- Is a request that has passed through this unit still under way, not answered: it has not timed out. -/
def State.transitLive (s : State) (x : Transit) : Bool :=
  decide (s.time.now - x.at_ < s.fld Fld.MEM_CTRL_TIMEOUT_US * usX)

/-- Is a request of a pair of die and destination under way. -/
def State.pairBusy (s : State) (e : Nat × Nat) : Bool :=
  s.fab.transit.any fun x => x.sub == e.1 && x.dst == e.2 && s.transitLive x

/-- Does a flit from a die belong to a new request that its DOME holds, because a route commit has moved its pair, or because
an earlier one of its pair is held (R249). -/
def State.dieHeld (s : State) (src : Option Nat) (f : Flit) : Bool :=
  match s.dieReq src f with
  | some (k, d, tag) =>
    !(tag.any fun n => s.fab.transit.any fun x => x.sub == k && x.dst == d && x.tag == n && s.transitLive x) &&
    ((s.fab.holdDie.contains (k, d) && s.pairBusy (k, d)) ||
      s.fab.dieWait.any fun w => (s.dieReq w.1 w.2).any fun e => e.1 == k && e.2.1 == d)
  | none => false

/-- A request of a die passes through this unit; one that has timed out is forgotten. -/
def State.noteTransit (s : State) (src : Option Nat) (f : Flit) : State :=
  match s.dieReq src f with
  | some (k, d, some n) =>
    let live := s.fab.transit.filter s.transitLive
    if live.any fun x => x.sub == k && x.dst == d && x.tag == n then s
    else s.setFab fun b => { b with transit := live ++ [{ sub := k, dst := d, tag := n, at_ := s.time.now }] }
  | _ => s

/-- A response to a die of this unit ends its request. -/
def State.endTransit (s : State) (f : Flit) : State :=
  match f.body with
  | .sideRsp _ tag dno sub =>
    if s.isDome && dno == s.ident.dno && decide (sub < 16) && f.last then
      s.setFab fun b => { b with transit := b.transit.filter fun x => !(x.sub == s.physOf sub && x.tag == tag) }
    else s
  | _ => s

/-- Routes a side flit that lies in the level buffer of port `src`, or is the unit's own. A flit for this unit itself
leaves its buffer at once: its content reaches the unit as a command (log entry 52). -/
def State.routeOut (s : State) (src : Option Nat) (f : Flit) : State :=
  let done := s.freeBuf src f.level
  match s.flitDst f with
  | none => done
  | some (sd, d, die) =>
    if !s.isVd && src.isSome then done
    else if s.reqBad f then done.answer f 1
    else
      match s.exit (s.route sd d die) with
      | .port q => ((s.noteTransit src f).queueFlit q src f).endTransit f
      | .noRoute => done.answer f 3
      | .unreach => done.answer f 4
      | _ => done

/-- The requests of dies that are held go on, pair by pair, once nothing of their pair is under way (R249). -/
def State.dieRelease (s : State) : State :=
  if s.fab.dieWait.isEmpty then s
  else
    let held := s.fab.holdDie.filter s.pairBusy
    let stays (w : Option Nat × Flit) : Bool := (s.dieReq w.1 w.2).any fun e => held.contains (e.1, e.2.1)
    (s.fab.dieWait.filter fun w => !stays w).foldl (fun t w => t.routeOut w.1 w.2)
      (s.setFab fun b => { b with holdDie := held, dieWait := b.dieWait.filter stays })

/-- A side flit on its way; one of a die's new requests may be held first (R249). -/
def State.routeFlit (s : State) (src : Option Nat) (f : Flit) : State :=
  if s.dieHeld src f then s.setFab fun b => { b with dieWait := b.dieWait ++ [(src, f)] }
  else (s.routeOut src f).dieRelease

/-- The source and the destination of a side flit. -/
def flitPair (f : Flit) : Option (Nat × Nat × Nat) :=
  match f.body with
  | .sideReq _ _ addr _ sub dno => some (dno, sub, hallUnit addr)
  | .signal dd _ _ sd ss => some (sd, ss, dd)
  | .sideRsp _ _ dno sub => some (4096, sub, dno)
  | .sigAck dd ds _ _ => some (4097, ds, dd)
  | _ => none

/-- Joins re-routed flits to a queue: each goes ahead of later flits of its source and destination (R219). -/
def mergeAhead : List (Option Nat × Flit) → List (Option Nat × Flit) → List (Option Nat × Flit)
  | [], moved => moved
  | e :: r, moved =>
    let n := moved.length - (moved.reverse.takeWhile fun m => flitPair m.2 != flitPair e.2).length
    moved.take n ++ e :: mergeAhead r (moved.drop n)

/-- The queues of a port with the flits that have been appended to them since `before` brought forward. -/
def PortSt.ahead (x before : PortSt) : PortSt :=
  { x with q := (upto 4).map fun l =>
      let n := (before.q.getD l []).length
      mergeAhead ((x.q.getD l []).take n) ((x.q.getD l []).drop n) }

/-- Takes every side flit of a port that has not left it, the ones due first, and handles each again: routed anew where the
port is DOWN, answered UNREACHABLE where it is isolated (R219, R220). Scheduled flits that are due are dropped. -/
def State.emptyQueues (s : State) (p : Nat) (isolated : Bool) : State :=
  let s0 := s.dropDue p
  let x := s0.port p
  let fs := (x.txq.map fun f => (none, f)) ++ x.q.flatten
  let s1 := s0.setPort p { x with q := [[], [], [], []], txq := [] }
  let s2 := fs.foldl (fun t (e : Option Nat × Flit) =>
    if isolated then (t.freeBuf e.1 e.2.level).answer e.2 4 else t.routeFlit e.1 e.2) s1
  if isolated then s2
  else s2.setFab fun b => { b with ports := b.ports.map fun (e : Nat × PortSt) => (e.1, e.2.ahead (s1.port e.1)) }

/-! ### Link states (R218 to R220) -/

/-- What a port holds of a link that has ended. -/
def PortSt.cutLink (x : PortSt) : PortSt :=
  { x with replay := [], rxMiss := [], resendSide := [], resendSched := [], refetch := [], osq := [], sideHold := [],
           locked := 0, rate := 0, lane0Swap := false, retrainLanes := [], fails := 0 }

/-- A link has ended: what it has measured of its path is gone, and its flits that have not left are handled again. -/
def State.endLink (s : State) (p : Nat) (st : PState) : State :=
  (({ s with tdc := { s.tdc with firstRt := s.tdc.firstRt.del p } }.setPort p
    { (s.port p).cutLink with st := st, sinceAt := s.time.now }).emptyQueues p (st == PState.isolated)).reclass

/-- A port goes DOWN. -/
def State.portDown (s : State) (p : Nat) : State :=
  let x := s.port p
  let s1 := s.endLink p .down
  if x.st == .up || x.st == .retrain then s1.raise Fld.XF_STATUS_LINK_DOWN else s1

/-- ISOLATED (R220): the replay buffer is discarded and waiting side flits are answered UNREACHABLE. -/
def State.isolate (s : State) (p : Nat) : State :=
  let x := s.port p
  let a := Reg.XF_PORT_CFG + 8 * p
  let s1 := s.setReg a (s.reg a ||| 1)
  if x.st == .isolated then s1 else s1.endLink p .isolated

/-- Is a port kept isolated: a die port of a DOME whose DNO is 1,024 or more, or of a die whose part code is not listed
(R4, R8). -/
def State.mustIsolate (s : State) (p : Nat) : Bool :=
  s.diePortOf p &&
  (decide (s.ident.dno ≥ 1024) || ((s.die (p / 2)).idPart.isSome && s.dieLevel (p / 2) == 0))

/-- Isolates every die port of a DOME whose DNO is 1,024 or more, with the event ID_DNO_RANGE (R8). -/
def State.dnoRange (s : State) : State :=
  if s.isDome && decide (s.ident.dno ≥ 1024) then
    ((upto 32).foldl (fun t p => t.isolate p) s).record 0x0081 (BitVec.ofNat 64 s.ident.dno) 0
  else s

/-- The identity of a die has been read: one whose part code is not listed gets both its ports isolated, with the event
ID_UNSUPPORTED (R4). -/
def State.judgeDie (s : State) (d : Nat) (v : W) : State :=
  let s1 := s.setDie d { s.die d with idPart := some v }
  if s1.dieLevel d = 0 && (s.die d).idPart != some v then
    ((s1.isolate (2 * d)).isolate (2 * d + 1)).record 0x0080
      (mkw [(0, d), (16, (v.toNat >>> 16) % 65536), (32, (v.toNat >>> 32) % 256)]) 0
  else s1

/-- Clearing ISOLATE takes the port to DOWN; a port that is kept isolated stays as it is. -/
def State.unisolate (s : State) (p : Nat) : State :=
  let x := s.port p
  let a := Reg.XF_PORT_CFG + 8 * p
  let s1 := s.setReg a (s.reg a &&& ~~~1)
  if s.mustIsolate p then s
  else if x.st == .isolated then s1.setPort p { x with st := .down, sinceAt := s.time.now } else s1

/-- TRAIN as this unit sends it on a port: its identity, and to a die its HDN (R218). -/
def State.trainOf (s : State) (p : Nat) (run : Option RunInfo) : TrainInfo :=
  { senderKind := s.senderKind, sender := s.sender, role := if s.isDome then 1 else if s.isSpire then 2 else 3,
    level := s.level, part := ((viewId s 0).toNat >>> 16) % 65536, rev := ((viewId s 0).toNat >>> 32) % 256,
    grade := s.ident.idGrade, hdn := if s.diePortOf p then some (s.ident.dno * 16 + s.logPort p / 2) else none, run := run }

/-- A die takes the HDN, and a staged spare the run's EPOCH and ARM_NO, that its DOME sends; a staged spare takes
the cadence state HELD until its swap point (R218, R357; log entry 80). -/
def State.takeTrain (s : State) (t : TrainInfo) : State :=
  let s1 : State := match t.hdn with
    | some h => if s.isVd then s else { s with ident := { s.ident with hdn := h % 16384 } }
    | none => s
  match t.run with
  | some r =>
    if s.isVd then s1
    else
      { s1 with cad := { s1.cad with
          epoch := r.epoch, armNo := r.armNo, spare := some (r.running, r.phase),
          st := if s1.cad.st == .idle then .held else s1.cad.st } }
  | none => s1

/-- The level that a port's peer has: of a die, what its identity register says (R3); of a VD port, that of a VSU. -/
def State.peerLevel (s : State) (p : Nat) : Nat :=
  if s.diePortOf p then s.dieLevel (p / 2)
  else if s.isVd then 3
  else s.level

/-- Enters TRAINING with a peer that answers TRAIN. -/
def State.trainPort (s : State) (p : Nat) (peer : TrainInfo) : State :=
  let x := s.port p
  let lvl := s.peerLevel p
  let s1 := (upto 4).foldl (fun t i => t.dropEntry (laneOf p i)) s
  (s1.setPort p { x with
    st := .training, sinceAt := s.time.now, level := lvl, rate := if lvl = 3 then 2 else 1, locked := 0, fails := 0,
    peerId := peer.sender, peerKind := peer.senderKind, peerRole := peer.role, peerPart := peer.part,
    peerRev := peer.rev, peerGrade := peer.grade, osq := [.train (s.trainOf p none)] }).takeTrain peer

/-- PORT_TRAIN_START. A die port whose die's identity register has not been read waits for it (R218), and one that is kept
isolated is not DOWN (R4, R8). A VSU's lanes
stay DOWN until its microcode runs (R453); TRAIN on a port of its that is UP carries a new HDN or run (R357). -/
def State.doPortTrainStart (s : State) (port : Nat) (peer : TrainInfo) : State :=
  let x := s.port port
  if !s.awake || decide (port ≥ s.nPorts) || (s.isVsu && !s.sb.ucRun) then s
  else if x.st == .up && !s.isVd then s.takeTrain peer
  else if x.st != .down || (s.reg (Reg.XF_PORT_CFG + 8 * port)).getLsbD 1 == false then s
  else if s.peerLevel port = 0 then s
  else s.trainPort port peer

/-- The buffers of the levels, and so the credits that a fresh link holds (R229). -/
def bufOf (lvl : Nat) : Nat := if lvl = 0 then 32 else if lvl = 1 then 64 else if lvl = 2 then 128 else 256

/-- A port's lanes are all locked: their counts of uncorrectable codewords begin again. -/
def PortSt.fresh (x : PortSt) (now : Nat) : PortSt :=
  { x with st := .up, upAt := now, locked := 15, fails := 0, unRun := [0, 0, 0, 0], unAt := [[], [], [], []] }

/-- LINK_UP: from TRAINING to UP, with fresh numbering and credits; its heartbeats go with the periods that begin from now on
(R211). -/
def State.doLinkUp (s : State) (port : Nat) : State :=
  let x := s.port port
  if x.st == .training then
    (s.setPort port { x.fresh s.time.now with
      lseqTx := 0, rxNext := 0, ackTx := 4095, rxMiss := [], replay := [], credits := (upto 4).map bufOf,
      owedCr := [0, 0, 0, 0], zeroAt := [none, none, none, none], sat := 0, lastLvl := 1,
      hbTick := some s.beatNo }).reclass
  else s

/-- TRAIN_TIMEOUT: 5 ms in TRAINING. -/
def State.doTrainTimeout (s : State) (port : Nat) : State :=
  let x := s.port port
  if x.st == .training && decide (s.time.now - x.sinceAt ≥ 5 * msX) then s.portDown port else s

/-- Has a lane lost lock, after 8 uncorrectable codewords in succession (R204), or passed UNCORR_LIMIT within 1 ms
(R218). -/
def State.laneFailed (s : State) (port lane : Nat) : Bool :=
  let x := s.port port
  decide (x.unRun.getD lane 0 ≥ 8) ||
    decide (((x.unAt.getD lane []).filter fun t => decide (s.time.now - t < msX)).length >
      s.fld (Fld.at Fld.XF_PORT_CFG_UNCORR_LIMIT port))

/-- PORT_RETRAIN: a lane of a port that is UP, or in RETRAIN for other lanes, has lost lock or passed its limit. -/
def State.doPortRetrain (s : State) (port lane : Nat) : State :=
  let x := s.port port
  if s.carriesOs port && decide (lane < 4) && !x.retrainLanes.contains lane && s.laneFailed port lane then
    s.laneLost port lane
  else s

/-- RETRAIN_DONE: the lanes are locked again; lane 0 goes on retraining where a lane swap is at that step (R57). -/
def State.doRetrainDone (s : State) (port : Nat) : State :=
  let x := s.port port
  if x.st == .retrain then
    let own := s.tdc.swap.port == port && (s.tdc.swap.step == 3 || s.tdc.swap.step == 5)
    let peer := s.tdc.peerSwap.get port 0
    let stay := (own || peer == 3 || peer == 5) && x.retrainLanes.contains 0
    let y := x.fresh s.time.now
    (s.setPort port (if stay then { y with retrainLanes := [0], locked := 14 } else { y with retrainLanes := [] })).reclass
  else s

/-- RETRAIN_TIMEOUT: an attempt has taken 2 ms; the third in succession takes the port DOWN. -/
def State.doRetrainTimeout (s : State) (port : Nat) : State :=
  let x := s.port port
  if x.st == .retrain && decide (s.time.now - x.sinceAt ≥ 2 * msX) then
    (if x.fails + 1 ≥ 3 then s.portDown port
     else s.setPort port { x with fails := x.fails + 1, sinceAt := s.time.now })
  else s

/-- PORT_UNISOLATE: a clear of ISOLATE. -/
def State.doPortUnisolate (s : State) (port : Nat) : State := if port < s.nPorts then s.unisolate port else s

/-! ### Frames out (R206, R209, R221, R231) -/

/-- The ACK of a port: the highest LSEQ up to which every flit has been accepted (R221). -/
def PortSt.ackOf (x : PortSt) : Nat := (x.rxMiss.headD x.rxNext + 4095) % 4096

/-- The lowest level for which credits are owed. -/
def PortSt.crdLevel (x : PortSt) : Option Nat := (upto 4).find? fun l => x.owedCr.getD l 0 != 0

/-- A flit with the fields that its sending fills in: the credits returned, ACK, and FCRC. -/
def PortSt.fillFlit (x : PortSt) (f : Flit) : PortSt × Flit :=
  let l := x.crdLevel.getD 0
  let n := min 63 (x.owedCr.getD l 0)
  let g : Flit := { f with crdLevel := l, crdCount := n, ack := x.ackOf }
  ({ x with owedCr := setAt x.owedCr l (x.owedCr.getD l 0 - n), ackTx := x.ackOf }, { g with fcrc := flitCrc g })

/-- A lane's coding as it goes on: what is in hand is gone where the lanes have trained since, or the port has come to run on
its four lanes together or has ceased to (R204, R205). -/
def State.laneCode (s : State) (t : Tab LaneCode) (p i : Nat) : LaneCode :=
  let c := t.get (laneOf p i) {}
  if c.wide == s.flitsOn p && c.upAt == (s.port p).upAt then c
  else { scr := c.scr, wide := s.flitsOn p, upAt := (s.port p).upAt }

/-- A lane sends a quarter; with the tenth a codeword leaves (R204). -/
def State.sendQuarter (s : State) (p i : Nat) (q : Nat × List Byte) : State :=
  let x := (s.laneCode s.fab.laneTx p i).push q.1 q.2
  let s1 := s.setFab fun f => { f with laneTx := f.laneTx.set (laneOf p i) x.1 }
  match x.2 with
  | some w => s1.emit (.codeword (laneOf p i) w)
  | none => s1

/-- The lane that carries the next whole frame of a port that runs on single lanes: the one with the fewest quarters in hand
(R205; log entry 198). -/
def State.soloLane (s : State) (p : Nat) : Option Nat :=
  let n (i : Nat) := (s.laneCode s.fab.laneTx p i).q.length
  (upto 4).foldl (fun (b : Option Nat) i =>
    if !s.laneOs p i then b
    else
      match b with
      | some j => if n i < n j then some i else b
      | none => some i) none

/-- The frame that a port offers goes onto its lanes: a quarter on each, or all four one after another on one lane where the
port does not run on its four lanes together (R205). -/
def State.sendFrame (s : State) (p : Nat) (e : Emit) : State :=
  match frameOf e with
  | none => s.emit e
  | some f =>
    if s.flitsOn p then (upto 4).foldl (fun t i => t.sendQuarter p i (quarter f.1 f.2 i)) (s.emit e)
    else
      match s.soloLane p with
      | some l => (upto 4).foldl (fun t i => t.sendQuarter p l (quarter f.1 f.2 i)) (s.emit e)
      | none => s.emit e

/-- FRAME_TX: the oldest flit due, else the oldest ordered set, else a CREDIT where one is owed, else IDLE. A port in RETRAIN
or in a lane swap sends ordered sets and IDLE only, and returns its credits so (R205, R231). -/
def State.doFrameTx (s : State) (port : Nat) : State :=
  let x := s.port port
  if !s.awake || decide (port ≥ s.nPorts) || x.st == .down || x.st == .isolated then s
  else
    match s.flitsOn port, x.txq, x.osq with
    | true, f :: r, _ =>
      let y := PortSt.fillFlit { x with txq := r } f
      (s.setPort port y.1).sendFrame port (.flit port y.2)
    | _, _, o :: r => (s.setPort port { x with osq := r }).sendFrame port (.oset port o)
    | _, _, [] =>
      if s.carriesOs port && (x.crdLevel.isSome || x.ackOf != x.ackTx) then
        (s.setPort port { x with owedCr := [0, 0, 0, 0], ackTx := x.ackOf }).sendFrame port (.oset port (.credit x.owedCr x.ackOf))
      else s.sendFrame port (.idle port)

/-! ### Credits and acknowledgements in (R221, R231, R232) -/

/-- Credits come back to the sender; a level with credits again is not saturated. -/
def PortSt.addCredit (x : PortSt) (l n : Nat) : PortSt :=
  if n = 0 then x
  else { x with credits := setAt x.credits l (min (bufOf l) (x.credits.getD l 0 + n)), zeroAt := setAt x.zeroAt l none,
                sat := x.sat &&& (15 - 2 ^ l) }

/-- Is an LSEQ at or before another one. -/
def lseqLe (a b : Nat) : Bool := decide ((b + 4096 - a % 4096) % 4096 < 2048)

/-- An ACK frees the replay buffer up to the LSEQ that it names. -/
def PortSt.takeAck (x : PortSt) (ack : Nat) : PortSt :=
  { x with replay := x.replay.filter fun r => !lseqLe r.lseq ack,
           resendSide := x.resendSide.filter fun f => !lseqLe f.lseq ack,
           resendSched := x.resendSched.filter fun f => !lseqLe f.lseq ack }

/-- CREDIT_RX. -/
def State.doCreditRx (s : State) (port : Nat) (credits : List Nat) (ack : Nat) : State :=
  let x := s.port port
  if s.awake && s.carriesOs port then
    s.setPort port (((upto 4).foldl (fun y l => y.addCredit l (credits.getD l 0)) x).takeAck ack)
  else s

/-- CREDIT_SATURATION: a level's credits have stayed at 0 for SAT_US. -/
def State.doCreditSaturation (s : State) (port level : Nat) : State :=
  let x := s.port port
  if level < 4 && !Nat.testBit x.sat level && (x.st == .up || x.st == .retrain) then
    match x.zeroAt.getD level none with
    | some t =>
      if s.time.now - t ≥ s.fld Fld.XF_CTRL_SAT_US * usX then
        (s.setPort port { x with sat := x.sat ||| 2 ^ level }).raise Fld.XF_STATUS_SATURATED
      else s
    | none => s
  else s

/-! ### Slot units and taps (R223, R225, R227, R259) -/

/-- The slot of the pass that is in progress, if a pass runs. -/
def State.passSlot (s : State) : Option Nat :=
  match s.fab.passAt, s.img.live with
  | some _, some ps => if s.fab.slot = 0 then none else some ((s.fab.slot - 1) % max 1 ps.desc.tableSlots)
  | _, _ => none

/-- Does an instruction name a port as a tap operand, by the port's number in the image (log entry 59): answers the bit
of TAP_MASK. -/
def CmbInstr.tapBit (c : CmbInstr) (lp : Nat) : Option Nat :=
  let j := lp - 4 * c.cell0
  if (c.famR || c.famM) && decide (4 * c.cell0 ≤ lp) && decide (j < 32) && Nat.testBit c.opnd.toNat j then some j
  else none

/-- The instructions whose taps take a flit that a port receives now, with the bit of each. -/
def State.tapsAt (s : State) (p : Nat) : List (Nat × Nat) :=
  match s.passSlot, s.img.live with
  | some t, some ps =>
    let lp := s.logPort p
    (upto ps.cmbs.length).filterMap fun i =>
      match ps.cmbs[i]? with
      | some c => if decide (c.start ≤ t) && decide (t ≤ c.stop) then (c.tapBit lp).map fun j => (i, j) else none
      | none => none
  | _, _ => []

/-- A new place in an input stream of an instruction. -/
def State.addPlace (s : State) (i con ord : Nat) : State :=
  { s with cmb := { s.cmb with runs := s.cmb.runs.map fun r =>
      if r.instr == i then { r with places := r.places ++ [{ con := con, ord := ord }] } else r } }

/-- Has a combiner cell taken four flits in this slot, from its taps and its crossbar output together (R227). -/
def State.cellFull (s : State) (cell : Nat) : Bool := decide (s.fab.cellTook.get cell 0 ≥ 4)

/-- A cell takes a flit. -/
def State.cellTake (s : State) (cell : Nat) : State :=
  s.setFab fun f => { f with cellTook := f.cellTook.set cell (f.cellTook.get cell 0 + 1) }

/-- The consumers of a port's slot unit: a VSU's host die, or the taps that take it, within the limit of their cell: a fifth
flit of a slot is not taken (log entry 155). -/
def State.unitTaps (s0 : State) (p : Nat) : State × List (Nat × Nat) :=
  let l := s0.tapsAt p
  let cell := s0.logPort p / 4
  if !s0.isVd then (s0, [(consHost, 0)])
  else if l.isEmpty || s0.cellFull cell then (s0, [])
  else
    let s := s0.cellTake cell
    l.foldl (fun (x : State × List (Nat × Nat)) (e : Nat × Nat) =>
      let o := 2 * x.1.fab.placeNo
      (((x.1.setFab fun f => { f with placeNo := f.placeNo + 1 }).addPlace e.1 e.2 o), x.2 ++ [(256 + 2 * e.1, o)])) (s, [])

/-- Gives a flit of a slot unit to its taps. -/
def State.feedTaps (s : State) (p idx : Nat) (taps : List (Nat × Nat)) (f : Flit) : State :=
  taps.foldl (fun t (e : Nat × Nat) =>
    t.asmPut e.1 p { fidx := f.fidx, flit := some f, arg := 0, ord := e.2, pos := 0, acc := false, out := 0,
                     unit := some (p, idx) }) s

/-- A port receives the next slot unit: a flit, or a hole that waits for its LSEQ; the outputs that owe it wait for it
too. -/
def State.addUnit (s : State) (p lseq : Nat) (f : Option Flit) : State :=
  let r := s.unitTaps p
  let x := r.1.port p
  let idx := x.rx.length
  let late := (s.fab.owed.filter fun o => o.src == s.logPort p && o.idx == idx).length
  let s1 := r.1.setPort p { x with rx := x.rx ++ [{ lseq := lseq, flit := f, taps := r.2, pend := r.2.length + late }] }
  match f with
  | some g => s1.feedTaps p idx r.2 g
  | none => s1

/-- The first hole of a port with an LSEQ. -/
def State.holeAt (s : State) (p lseq : Nat) : Option Nat :=
  (s.port p).rx.findIdx? fun u => u.lseq == lseq && u.flit.isNone

/-- The places that a slot unit opened at its taps are gone. -/
def State.dropPlaces (s : State) (taps : List (Nat × Nat)) : State :=
  let gone (r : CellRun) (p : CmbPlace) : Bool := taps.any fun e => e.1 == 256 + 2 * r.instr && e.2 == p.ord
  { s with cmb := { s.cmb with runs := s.cmb.runs.map fun r => { r with places := r.places.filter fun p => !gone r p } } }

/-- Takes slot unit `i` of a port out: the units after it move up by one. -/
def State.dropUnit (s : State) (p i : Nat) : State :=
  let x := s.port p
  let up (u : Option (Nat × Nat)) : Option (Nat × Nat) := u.map fun e => if e.1 == p && decide (i < e.2) then (p, e.2 - 1) else e
  let moved (a : TileAsm) : TileAsm := { a with flits := a.flits.map fun f => { f with unit := up f.unit } }
  (s.setPort p { x with
    rx := x.rx.eraseIdx i,
    sigWait := x.sigWait.map fun e => if i < e.1 then (e.1 - 1, e.2) else e }).setFab fun f => { f with asm := f.asm.map moved }

/-- Whole short tiles of some consumers are checked again. -/
def State.recheckAll (s : State) (cons : List Nat) : State := cons.eraseDups.foldl (fun t c => t.recheckTiles c) s

/-- A hole turns out to stand for no scheduled flit: it is taken out with its places; one that a slot has named already counts
on, as a unit that never comes (log entry 57). -/
def State.noUnit (s : State) (p i : Nat) (u : RxUnit) : State :=
  let x := s.port p
  let s1 := s.dropPlaces u.taps
  if x.unitIdx ≤ i then (s1.dropUnit p i).recheckAll (u.taps.map (·.1))
  else
    let mine (o : Owed) : Bool := s.isVd && o.src == s.logPort p && o.idx == i
    ((s1.setPort p { x with rx := x.rx.set i { u with gone := true, pend := 0 } }).setFab fun f => { f with
      owed := f.owed.filter fun o => !mine o }).recheckAll (u.taps.map (·.1) ++ (s.fab.owed.filter mine).map (·.cons))

/-- A copy fills its hole. -/
def State.fillHole (s : State) (p lseq : Nat) (f : Flit) : State :=
  match s.holeAt p lseq with
  | some i =>
    let x := s.port p
    match x.rx[i]? with
    | some u =>
      if isSched f then
        ((s.setPort p { x with rx := x.rx.set i { u with flit := some f } }).feedTaps p i u.taps f).recheckAll (u.taps.map (·.1))
      else s.noUnit p i u
    | none => s
  | none => s

/-- A re-fetched flit goes to the consumers that hold its tile with that flit discarded (R238; log entry 54). -/
def State.refetched (s : State) (p : Nat) (f : Flit) : State :=
  let k := flitKey f
  (s.fab.asm.filter fun a => a.key == k).foldl (fun t a =>
    (a.flits.filter fun x => x.fidx == f.fidx && x.flit.isNone).foldl (fun u x =>
      u.asmPut a.cons p { x with flit := some f }) t) s

/-- The SIGNAL records of a flit's payload (R250). -/
def sigRecAt (l : List Byte) (i : Nat) : SigRec :=
  { phys := fieldAt l (16 * i) 2, inc := fieldAt l (16 * i + 4) 4, seq := fieldAt l (16 * i + 8) 4,
    sentUs := fieldAt l (16 * i + 12) 4 }

/-- Is a flit a scheduled SIGNAL of R253 (SEQ 0). -/
def schedSignal (f : Flit) : Bool :=
  match f.body with
  | .signal _ _ c _ _ => c == 1 && (sigRecAt f.payload 0).seq == 0
  | _ => false

/-- Is a destination of a SIGNAL this unit. -/
def State.forMe (s : State) (dno sub : Nat) : Bool := dno == s.srcDno && sub == s.srcSub

/-- A scheduled SIGNAL for this unit: one from a die is counted as it arrives (R349), and it waits for the flits before it on
its port (R253). -/
def State.sigArrive (s : State) (p : Nat) (f : Flit) : State :=
  match f.body with
  | .signal dd ds _ _ _ =>
    if s.forMe dd ds then
      let r := sigRecAt f.payload 0
      let c := if s.diePortOf p then s.dieSignal (p / 2) r.phys else (s, true)
      let x := c.1.port p
      if c.2 then c.1.setPort p { x with sigWait := x.sigWait ++ [(x.rx.length, r.phys, r.inc)] } else c.1
    else s.routeFlit none f
  | _ => s

/-- A DOME writes the logical position of a die port into the SRC_SUB of every flit that the die sends (R362; log entry 60). -/
def State.nameSource (s : State) (p : Nat) (f : Flit) : Flit :=
  if s.diePortOf p then
    let l := s.logicalOf (p / 2)
    match f.body with
    | .sched w t d _ sl ph => if d = s.ident.dno then { f with body := .sched w t d l sl ph } else f
    | .sideReq op tag a n _ d => if d = s.ident.dno then { f with body := .sideReq op tag a n l d } else f
    | .signal dd ds n d _ => if d = s.ident.dno then { f with body := .signal dd ds n d l } else f
    | _ => f
  else f

/-- A side flit that has come in its order: a scheduled SIGNAL, or one to be routed. -/
def State.sideIn (s : State) (p : Nat) (f : Flit) : State := if schedSignal f then s.sigArrive p f else s.routeFlit (some p) f

/-- Places a flit in a list by LSEQ, oldest first. -/
def insertLseq (f : Flit) (l : List Flit) : List Flit :=
  l.filter (fun g => lseqLe g.lseq f.lseq) ++ f :: l.filter fun g => !lseqLe g.lseq f.lseq

/-- Side flits of a port that waited for an earlier LSEQ go on, in their order (R248). -/
def State.heldGo (s : State) (p : Nat) : State :=
  let x := s.port p
  let free (f : Flit) : Bool :=
    match x.rxMiss.head? with
    | some m => lseqLe f.lseq m
    | none => true
  (x.sideHold.filter free).foldl (fun t f => t.sideIn p f)
    (s.setPort p { x with sideHold := x.sideHold.filter fun f => !free f })

/-- At a working boundary the holes are gone, and with them what the side flits waited for (R223; log entry 153). -/
def State.heldAll (s : State) : State :=
  (upto s.nPorts).foldl (fun t p =>
    let x := t.port p
    x.sideHold.foldl (fun u f => u.sideIn p f) (if x.sideHold.isEmpty then t else t.setPort p { x with sideHold := [] })) s

/-- A flit that has been accepted by its LSEQ; `hole` says that it fills one. A side flit waits while an earlier LSEQ is
missing, so that requests of a pair stay in order (R248). -/
def State.acceptFlit (s : State) (p : Nat) (f0 : Flit) (hole : Bool) : State :=
  let f := s.nameSource p f0
  if isSched f then
    (if hole then s.fillHole p f.lseq f
     else if f.resent then s.refetched p f
     else s.addUnit p f.lseq (some f))
  else
    let s1 := if hole then s.fillHole p f.lseq f else s
    if schedSignal f then s1.sideIn p f
    else s1.setPort p { s1.port p with sideHold := insertLseq f (s1.port p).sideHold }

/-! ### Frames in (R205, R221 to R223) -/

/-- Joins LSEQs into ranges, at most `fuel` of them. -/
def lseqRanges : Nat → List Nat → List (Nat × Nat)
  | 0, _ => []
  | _, [] => []
  | n + 1, a :: r =>
    match lseqRanges n r with
    | (b, c) :: t => if b = (a + 1) % 4096 then (a, c) :: t else (a, a) :: (b, c) :: t
    | [] => [(a, a)]

/-- Cuts a list into pieces of eight, at most `fuel` of them. -/
def eights : Nat → List (Nat × Nat) → List (List (Nat × Nat))
  | 0, _ => []
  | n + 1, l => if l.isEmpty then [] else l.take 8 :: eights n (l.drop 8)

/-- Asks for LSEQs that are missing (R222): at most 8 ranges in one RETRY_REQ, and as many of them as it takes. -/
def State.askRetry (s : State) (p : Nat) (ms : List Nat) : State :=
  (eights ms.length (lseqRanges ms.length ms)).foldl (fun t l => t.queueOs p (.retryReq l)) s

/-- An LSEQ that the sender's replay buffer has passed is missing no longer: nothing can bring it (R221). -/
def PortSt.trimMiss (x : PortSt) : PortSt :=
  { x with rxMiss := x.rxMiss.filter fun m => decide ((x.rxNext + 4096 - m) % 4096 ≤ 1024) }

/-- The next `n` LSEQs are missing: a hole for each. -/
def State.missNext (s : State) (p : Nat) : Nat → State
  | 0 => s
  | n + 1 =>
    let x := s.port p
    let l := x.rxNext
    State.missNext ((s.setPort p ({ x with rxNext := (l + 1) % 4096, rxMiss := x.rxMiss ++ [l] } : PortSt).trimMiss).addUnit
      p l none) p n

/-- An uncorrectable codeword on a lane: counted for the port, and for the lane in succession and by its time. -/
def State.countUncorr (s : State) (p lane : Nat) : State :=
  let x := s.port p
  (s.setPort p { x with
    unRun := setAt x.unRun lane (min 8 (x.unRun.getD lane 0 + 1)),
    unAt := setAt x.unAt lane ((s.time.now :: x.unAt.getD lane []).take 16) }).addCount ((Fld.XF_PORT_ERR_UNCORR).at p) 1

/-- A codeword on a lane that decodes ends the lane's run of uncorrectable ones. -/
def State.goodWord (s : State) (p lane : Nat) : State :=
  let x := s.port p
  s.setPort p { x with unRun := setAt x.unRun lane 0 }

/-- A frame came on every lane. -/
def State.goodWords (s : State) (p : Nat) : State := s.setPort p { s.port p with unRun := [0, 0, 0, 0] }

/-- A frame that cannot be taken stands for the LSEQ that comes next (log entry 55); it may have been a copy, so that all that
is missing is asked for again (R254). -/
def State.damaged (s : State) (p : Nat) : State :=
  let s1 := s.missNext p 1
  s1.askRetry p (s1.port p).rxMiss

/-- A good flit: its credits and ACK, then its place by LSEQ. A copy of a flit that has been accepted is dropped. -/
def State.goodFlit (s : State) (p : Nat) (f : Flit) : State :=
  let x := ((s.port p).addCredit (f.crdLevel % 4) f.crdCount).takeAck f.ack
  let s1 := s.setPort p x
  let l := f.lseq % 4096
  let ahead := (l + 4096 - x.rxNext) % 4096
  if ahead = 0 then
    ((s1.setPort p ({ x with rxNext := (l + 1) % 4096 } : PortSt).trimMiss).acceptFlit p f false).heldGo p
  else if x.rxMiss.contains l then
    ((s1.setPort p { x with rxMiss := x.rxMiss.filter (· != l) }).acceptFlit p f true).heldGo p
  else if ahead < 2048 then
    let s2 := (s1.missNext p ahead).askRetry p ((upto ahead).map fun i => (x.rxNext + i) % 4096)
    ((s2.setPort p ({ s2.port p with rxNext := (l + 1) % 4096 } : PortSt).trimMiss).acceptFlit p f false).heldGo p
  else s1

/-- A flit at a port that is UP. -/
def State.rxFlit (s : State) (p : Nat) (g : Flit) : State :=
  if !s.portUp p then s else if g.fcrc = flitCrc g then s.goodFlit p g else s.damaged p

/-! ### Retry at the sender (R222, R226) -/

/-- The LSEQs of a range. -/
def lseqSpan (r : Nat × Nat) : List Nat := (upto ((r.2 + 4096 - r.1 % 4096) % 4096 + 1)).map fun i => (r.1 + i) % 4096

/-- One missing flit: it waits to be resent; a scheduled flit whose third resend has failed is dropped; of an owed one
nothing is sent. -/
def State.retryOne (s : State) (p l : Nat) : State :=
  let x := s.port p
  match x.replay.find? fun r => r.lseq == l with
  | some r =>
    match r.flit with
    | none => s
    | some f =>
      let waiting := (x.resendSched ++ x.resendSide).any fun g => g.lseq == l
      if waiting then s
      else if r.sched && r.resends ≥ 3 then
        (s.setPort p { x with replay := x.replay.filter fun e => e.lseq != l }).addCount
          ((Fld.XF_PORT_ERR_HOLES).at p) 1
      else
        let g : Flit := { f with resent := true }
        let rep := x.replay.map fun e => if e.lseq == l then { e with resends := e.resends + 1 } else e
        (s.setPort p (if r.sched then { x with replay := rep, resendSched := insertLseq g x.resendSched }
          else { x with replay := rep, resendSide := x.resendSide ++ [g] })).addCount ((Fld.XF_PORT_ERR_RETRY).at p) 1
  | none => s

/-- RETRY_REQ_RX. -/
def State.doRetryReqRx (s : State) (port : Nat) (ranges : List (Nat × Nat)) : State :=
  if s.awake && s.carriesOs port then
    ((ranges.take 8).flatMap lseqSpan).foldl (fun t l => t.retryOne port l) s
  else s

/-! ### Re-fetch (R238) -/

/-- The RETRY slots that the step still has on an output, after those that already have something to carry. -/
def State.retryLeft (s : State) (p : Nat) : Nat :=
  match s.fab.passAt, s.img.live with
  | some _, some ps =>
    let n := slotsIn ps.desc.stepNs
    let ts := max 1 ps.desc.tableSlots
    let runs := ps.outs.getD (s.logPort p) []
    let free := ((upto (n - s.fab.slot)).filter fun i =>
      match runAt runs ((s.fab.slot + i) % ts) with
      | some r => r.1.action == 2
      | none => false).length
    let x := s.port p
    (if s.halfRate (s.logPort p) then free / 2 else free) -
      (x.resendSched.length + x.refetch.length + (s.fab.owed.filter fun o => o.out == s.logPort p).length)
  | _, _ => 0

/-- The payload of one flit of a tile of memory or staging read again, none where a row no longer carries the stamp that
its read expects. -/
def State.rereadFlit (s : State) (src arg : Nat) : Option (List Byte) :=
  if src < 104 then some (((s.memFlit arg).drop 16).take 224)
  else
    let m := s.rowMeta (arg % 2 ^ 20)
    if m.side || (m.valid && m.stamp == (s.wsc16 + 65536 - (arg >>> 20) % 4) % 65536) then some (s.rowPayload (arg % 2 ^ 20))
    else none

/-- Answers REFETCH_FAIL. -/
def State.refetchNo (s : State) (port wsc slot mask tile reason : Nat) : State :=
  (s.queueOs port (.refetchFail wsc slot mask tile reason)).raise Fld.XF_STATUS_REFETCH_FAIL

/-- The flits of a tile read again: those that the mask names, with the tile's header and CRC. -/
def State.refetchFlits (s : State) (tile mask : Nat) (parts : List (Nat × Nat × List Byte)) : List Flit :=
  let crc := crc64 (parts.flatMap fun (e : Nat × Nat × List Byte) => e.2.2)
  (parts.filter fun (e : Nat × Nat × List Byte) => Nat.testBit mask e.1).map fun (e : Nat × Nat × List Byte) =>
    { mkFlit (.sched s.wsc16 tile s.srcDno s.srcSub e.2.1 s.cad.phase) 0 e.1 false e.2.2 (if e.1 = 15 then crc else 0)
      with resent := true }

/-- REFETCH_RX: reads the tile again from memory or staging, or answers why not: 1 its source cannot be read again, 2 a
row no longer carries its stamp, 3 the RETRY slots are spent. -/
def State.doRefetchRx (s : State) (port wsc slot mask tile : Nat) : State :=
  let x := s.port port
  if s.awake && s.carriesOs port then
    match s.isVd && s.cad.st == .running && wsc == s.wsc16, s.fab.origin.find? fun e => e.1 == tile with
    | true, some (_, src, parts) =>
      let got := parts.map fun (e : Nat × Nat × Nat) => (s.rereadFlit src e.2.1).map fun d => (e.1, e.2.2, d)
      if got.any (·.isNone) then s.refetchNo port wsc slot mask tile 2
      else
        let fs := s.refetchFlits tile mask (got.filterMap id)
        if s.retryLeft port < fs.length then s.refetchNo port wsc slot mask tile 3
        else s.setPort port { x with refetch := x.refetch ++ fs }
    | _, _ => s.refetchNo port wsc slot mask tile 1
  else s

/-- REFETCH_FAIL_RX: the tile stays rejected; its source is the link peer. -/
def State.doRefetchFailRx (s : State) (port wsc _slot _mask tile _reason : Nat) : State :=
  let x := s.port port
  if s.awake && s.carriesOs port then
    let k : TileKey := if x.peerKind = 0 then ⟨x.peerId, 16, wsc, tile⟩ else ⟨x.peerId / 16, x.peerId % 16, wsc, tile⟩
    (s.rejectOutcome k 2).raise Fld.XF_STATUS_REFETCH_FAIL
  else s

/-! ### FLIT_RX -/

/-- An ordered set by its bytes. The stamped ones, DECISION and TRAIN reach the unit as commands of their own, which carry what
is not in the bytes (log entry 154). -/
def State.rxOset (s : State) (p : Nat) (o : OSet) : State :=
  match o with
  | .credit levels ack => s.doCreditRx p levels ack
  | .retryReq ranges => s.doRetryReqRx p ranges
  | .refetch wsc slot mask tile => s.doRefetchRx p wsc slot mask tile
  | .refetchFail wsc slot mask tile reason => s.doRefetchFailRx p wsc slot mask tile reason
  | _ => s

/-- Does FCRC match the bytes of a flit as received, reserved bits included (R209, R222). -/
def fcrcOk (content : List Byte) : Bool :=
  fieldAt content 240 4 == crc32c (content.take 240 ++ (content.drop 244).take 12)

/-- A frame by its tag (R205): one with another tag is discarded and counted as uncorrectable; an ordered set whose CRC fails
or whose type is not listed is discarded (R210). A flit whose TYPE is invalid cannot be taken (log entry 154). -/
def State.rxFrame (s : State) (p tag : Nat) (content : List Byte) : State :=
  if tag = tagIdle then s
  else if tag = tagOset then
    match osOf content with
    | some o => s.rxOset p o
    | none => s
  else if tag = tagFlit then
    match flitOf content, fcrcOk content with
    | some g, true => if s.portUp p then s.goodFlit p g else s
    | _, _ => if s.portUp p then s.damaged p else s
  else s.addCount ((Fld.XF_PORT_ERR_UNCORR).at p) 1

/-- Four quarters of a frame have come: a lost one makes the frame lost, and a flit among them is asked for (R222). -/
def State.rxQuarters (s : State) (p : Nat) (q : List (Option Nat)) : State :=
  if q.all (·.isSome) then
    let f := frameOfQuarters ((q.filterMap id).map quarterOf)
    s.rxFrame p f.1 f.2
  else if s.portUp p && looksFlit q then s.damaged p
  else s

/-- The next four quarters of a frame, if they are there, and the lanes that they came on. -/
def State.nextQuarters (s : State) (p : Nat) : Option (List (Option Nat) × State) :=
  let c (i : Nat) := s.laneCode s.fab.laneRx p i
  let keep (i n : Nat) (t : State) : State := t.setFab fun f =>
    { f with laneRx := f.laneRx.set (laneOf p i) { c i with q := (c i).q.drop n } }
  if s.flitsOn p then
    if (upto 4).all fun i => !(c i).q.isEmpty then
      some ((upto 4).map fun i => (c i).q.headD none, (upto 4).foldl (fun t i => keep i 1 t) s)
    else none
  else
    ((upto 4).find? fun i => decide (4 ≤ (c i).q.length)).map fun i => ((c i).q.take 4, keep i 4 s)

/-- The frames that have come whole, in their order. -/
def State.rxFrames (s : State) (p : Nat) : Nat → State
  | 0 => s
  | n + 1 =>
    match s.nextQuarters p with
    | some x => State.rxFrames (x.2.rxQuarters p x.1) p n
    | none => s

/-- A codeword on a lane that carries frames: corrected symbols are counted, and ten quarters join those of the lane (R204,
R205); one that cannot be decoded is counted, and loses ten. -/
def State.rxCodeword (s : State) (p lane : Nat) (levels : List Nat) : State :=
  let l := laneOf p lane
  let put (t : State) (c : LaneCode) : State := t.setFab fun f => { f with laneRx := f.laneRx.set l c }
  let c := s.laneCode s.fab.laneRx p lane
  match quartersOf levels with
  | some (qs, n) =>
    ((put (s.goodWord p lane) (c.pull qs)).addCount (Fld.at Fld.XF_LANE_STATUS_CORRECTED l) n).rxFrames p 64
  | none => (put (s.countUncorr p lane) c.lose).rxFrames p 64

/-- FLIT_RX: what comes in at a port (R204, R205, R222). -/
def State.doFlitRx (s : State) (port : Nat) (f : RxFrame) : State :=
  if s.awake && s.carriesOs port then
    match f with
    | .uncorrectable lane =>
      if lane < 4 then
        let s1 := s.countUncorr port lane
        if s1.portUp port then (s1.damaged port).landWrites else s1
      else s
    | .corrected lane syms =>
      if lane < 4 then (s.goodWord port lane).addCount (Fld.at Fld.XF_LANE_STATUS_CORRECTED (laneOf port lane)) syms else s
    | .codeword lane levels =>
      if s.laneOs port lane then (s.rxCodeword port lane levels).landWrites else s
    | .flit g => ((s.goodWords port).rxFlit port g).landWrites
    | .frame tag content => ((s.goodWords port).rxFrame port tag content).landWrites
  else s

/-- PORT_TRAIN_START (R218). A DOWN port with TRAIN_EN set whose peer answers TRAIN enters TRAINING. -/
def execPortTrainStart (port : Nat) (peer : TrainInfo) (s : State) : Host.Outcome State Fault Refusal :=
  .next (s.doPortTrainStart port peer)

/-- LINK_UP (R218). All lanes lock and deskew and identities are exchanged, so the port enters UP. -/
def execLinkUp (port : Nat) (s : State) : Host.Outcome State Fault Refusal :=
  .next (s.doLinkUp port)

/-- TRAIN_TIMEOUT (R218). A port has not reached UP 5 ms after entering TRAINING and returns to DOWN. -/
def execTrainTimeout (port : Nat) (s : State) : Host.Outcome State Fault Refusal :=
  .next (s.doTrainTimeout port)

/-- PORT_RETRAIN (R218). A lane loses lock or exceeds UNCORR_LIMIT and the port enters RETRAIN. -/
def execPortRetrain (port : Nat) (lane : Nat) (s : State) : Host.Outcome State Fault Refusal :=
  .next (s.doPortRetrain port lane)

/-- RETRAIN_DONE (R218). The lane locks again and the port returns to UP. -/
def execRetrainDone (port : Nat) (s : State) : Host.Outcome State Fault Refusal :=
  .next (s.doRetrainDone port)

/-- RETRAIN_TIMEOUT (R218). A retrain attempt fails within 2 ms, and the third failure takes the port DOWN. -/
def execRetrainTimeout (port : Nat) (s : State) : Host.Outcome State Fault Refusal :=
  .next (s.doRetrainTimeout port)

/-- PORT_UNISOLATE (R218). Clearing ISOLATE takes the port from ISOLATED to DOWN. -/
def execPortUnisolate (port : Nat) (s : State) : Host.Outcome State Fault Refusal :=
  .next (s.doPortUnisolate port)

/-- FRAME_TX (R206). At each frame start a port sends the oldest due flit, else an ordered set, else IDLE. -/
def execFrameTx (port : Nat) (s : State) : Host.Outcome State Fault Refusal :=
  .next (s.doFrameTx port)

/-- FLIT_RX (R205). A port receives a FLIT frame, checks it and takes it into retry, slot units, tile assembly or side
buffers. -/
def execFlitRx (port : Nat) (f : RxFrame) (s : State) : Host.Outcome State Fault Refusal :=
  .next (s.doFlitRx port f)

/-- RETRY_REQ_RX (R222). A sender receives RETRY_REQ and resends the named flits in retry or side slots. -/
def execRetryReqRx (port : Nat) (ranges : List (Nat × Nat)) (s : State) : Host.Outcome State Fault Refusal :=
  .next (s.doRetryReqRx port ranges)

/-- REFETCH_RX (R238). A producer receives REFETCH and reads the tile again, or answers REFETCH_FAIL. -/
def execRefetchRx (port : Nat) (wsc : Nat) (slot : Nat) (mask : Nat) (tile : Nat) (s : State) : Host.Outcome State Fault Refusal :=
  .next (s.doRefetchRx port wsc slot mask tile)

/-- REFETCH_FAIL_RX (R238). A consumer receives REFETCH_FAIL and the tile stays rejected. -/
def execRefetchFailRx (port : Nat) (wsc : Nat) (slot : Nat) (mask : Nat) (tile : Nat) (reason : Nat) (s : State) : Host.Outcome State Fault Refusal :=
  .next (s.doRefetchFailRx port wsc slot mask tile reason)

/-- CREDIT_RX (R231). A CREDIT ordered set returns credits per level to the sender. -/
def execCreditRx (port : Nat) (credits : List Nat) (ack : Nat) (s : State) : Host.Outcome State Fault Refusal :=
  .next (s.doCreditRx port credits ack)

/-- CREDIT_SATURATION (R232). A level's credits stay at 0 for SAT_US µs, setting SAT and raising XF_SATURATED. -/
def execCreditSaturation (port : Nat) (level : Nat) (s : State) : Host.Outcome State Fault Refusal :=
  .next (s.doCreditSaturation port level)


end Sys2Proof.Machine
end

