-- ==== Sys2Proof/Machine/Slots.lean ====
section
/-! DEFINITION. Sys2Proof/Machine/Slots.lean: the scheduled crossbar (R172 to R180, R224 to R226, R253, R500): what each
output does in a slot, what each source gives up, late delivery, side slots, and the tables of routes. -/

namespace Sys2Proof.Machine

/-! ### The table entries of a slot -/

/-- The entry of an output at a slot of the pass, with the slot's offset in its run. -/
def entryAt (ps : PhaseSet) (o t : Nat) : Option (Run × Nat) := runAt (ps.outs.getD o []) t

/-- FORWARD and ACC_WRITE carry a flit. -/
def carries (r : Run) : Bool := r.action == 1 || r.action == 3

/-- Does an output name a source at a slot of the pass. -/
def names (ps : PhaseSet) (o t src : Nat) : Bool :=
  match entryAt ps o t with
  | some (r, _) => carries r && r.source == src
  | none => false

/-- Does an output that names a source take its flit in this slot: on a port or from a port at 112 Gb/s, in the second
slot of a pair where both name it (R179, R225; log entry 53). -/
def State.takesNow (s : State) (ps : PhaseSet) (o t src : Nat) : Bool :=
  let half := s.halfRate o || (s.isVd && decide (src < 64) && s.halfRate src)
  names ps o t src && (!half || t % 2 == 1 || !(decide (t + 1 < ps.desc.tableSlots) && names ps o (t + 1) src))

/-- An output that takes a flit: its number, whether it accumulates, the argument of its action advanced by the flits that
its run has carried, their number, and the number of the run. -/
structure Taker where
  out : Nat
  acc : Bool
  arg : Nat
  pos : Nat
  run : Nat
  deriving DecidableEq, Repr

/-- The outputs that take a source's flit in slot `g` of the step, slot `t` of the pass (R175, R224). -/
def State.takers (s : State) (ps : PhaseSet) (g t src : Nat) : List Taker :=
  (upto s.nOuts).filterMap fun o =>
    match entryAt ps o t with
    | some (r, off) =>
      if s.takesNow ps o t src then
        let half := s.halfRate o || (s.isVd && decide (src < 64) && s.halfRate src)
        let pos := if half then t / 2 - (t - off) / 2 else off
        some { out := o, acc := r.action == 3, arg := r.arg + pos, pos := pos, run := (g - off) * 128 + o }
      else none
    | none => none

/-- Does any output name a source at a slot of the pass. -/
def State.named (s : State) (ps : PhaseSet) (t src : Nat) : Bool := (upto s.nOuts).any fun o => names ps o t src

/-- The sources that a live set names, ascending. -/
def sourcesOf (ps : PhaseSet) : List Nat :=
  (upto 127).filter fun src => ps.outs.any fun l => l.any fun r => carries r && r.source == src

/-- Is a slot the last of its pair on a port at 112 Gb/s. -/
def pairEnd (ps : PhaseSet) (t : Nat) : Bool := t % 2 == 1 || t + 1 == ps.desc.tableSlots

/-- How many flits or slot units the step takes from a source (R225, R262). -/
def State.takeTotal (s : State) (ps : PhaseSet) (src : Nat) : Nat :=
  let ts := max 1 ps.desc.tableSlots
  ((upto (slotsIn ps.desc.stepNs)).filter fun g =>
    let t := g % ts
    if s.isVd && decide (src < 64) then
      (if s.halfRate src then pairEnd ps t && (s.named ps t src || (t % 2 == 1 && s.named ps (t - 1) src))
       else s.named ps t src)
    else (upto s.nOuts).any fun o => s.takesNow ps o t src).length

/-! ### What takes a flit inside the unit -/

/-- The place of an internal output's flit of this slot: places follow the slots, and in a slot the outputs (R259, R329);
the places of taps are even. -/
def State.slotOrd (s : State) (out : Nat) : Nat := 2 * ((s.fab.slot - 1) * 128 + out) + 1

/-- The consumer of an internal output: for a combiner cell's ingress the instruction whose window this is, with a new
place, if the cell has taken fewer than four flits in this slot (R227); for an accumulation a new entry in the order of the
slots. Consumer 0 takes nothing. -/
def State.openSink (s : State) (t : Nat) (k : Taker) : State × Nat × Nat :=
  let o := s.slotOrd k.out
  if k.out < 80 then
    match s.ingressInstr k.out t with
    | some i =>
      if s.cellFull (k.out - 64) then (s, 0, 0) else ((s.cellTake (k.out - 64)).addPlace i 99 o, 257 + 2 * i, o)
    | none => (s, 0, 0)
  else if k.out < 104 then (s, consMem, 0)
  else if k.acc then
    let e : AccEnt := { out := k.out, row := k.arg % 2 ^ 20, ord := o, pos := k.pos, run := k.run,
                        fmt := (k.arg >>> 20) % 16, op := (k.arg >>> 24) % 4 }
    let l := s.stg.acc.filter (fun x => decide (x.ord < o)) ++ e :: s.stg.acc.filter (fun x => decide (o < x.ord))
    ({ s with stg := { s.stg with acc := l } }, consStg, o)
  else (s, consStg, 0)

/-- Is an output one of the unit's ports. -/
def State.isPortOut (s : State) (o : Nat) : Bool := decide (o < s.nPorts)

/-- A flit leaves on a port in its slot; on a port that carries no flits it is dropped and counted, and its slot unit `u` is
not consumed (R205, R219, R253). -/
def State.sendSched (s : State) (o : Nat) (f : Flit) (u : Option (Nat × Nat)) : State :=
  let p := s.physPort o
  if s.flitsOn p then s.pushTx p true { f with level := 0, resent := false, crdLevel := 0, crdCount := 0 }
  else
    (match u with
     | some x => s.pendUnit x (· + 1)
     | none => s).addCount ((Fld.XF_PORT_ERR_HOLES).at p) 1

/-- Gives a flit to an output that takes it; `u` is the slot unit that it came from. -/
def State.deliverTo (s : State) (t : Nat) (k : Taker) (f : Flit) (u : Option (Nat × Nat)) : State :=
  if s.isPortOut k.out then s.sendSched k.out f u
  else
    let r := s.openSink t k
    if r.2.1 = 0 then r.1
    else
      let s1 := match u with
        | some x => r.1.pendUnit x (· + 1)
        | none => r.1
      s1.asmPut r.2.1 ((u.map (·.1)).getD 0)
        { fidx := f.fidx, flit := some f, arg := k.arg, ord := r.2.2, pos := k.pos, acc := k.acc, out := k.out, unit := u }

/-- An output that takes a flit which is not there owes it: a port reserves its LSEQ, an internal output its place
(R226). -/
def State.oweTo (s : State) (t src idx tile : Nat) (u : Option (Nat × Nat)) (k : Taker) : State :=
  let s0 := match u with
    | some x => s.pendUnit x (· + 1)
    | none => s
  let w (lseq cons ord : Nat) : Owed :=
    { out := k.out, src := src, idx := idx, lseq := lseq, cons := cons, arg := k.arg, acc := k.acc, ord := ord,
      pos := k.pos, slot := t, tile := tile }
  if s.isPortOut k.out then
    let p := s.physPort k.out
    let x := s0.port p
    if s0.flitsOn p then
      let rep := x.replay ++ [{ lseq := x.lseqTx, sched := true, resends := 0, flit := none }]
      (s0.setPort p { x with lseqTx := (x.lseqTx + 1) % 4096, replay := rep.drop (rep.length - s.replayMax) }).setFab
        fun f => { f with owed := f.owed ++ [w x.lseqTx 0 0] }
    else s0.addCount ((Fld.XF_PORT_ERR_HOLES).at p) 1
  else
    let r := s0.openSink t k
    if r.2.1 = 0 then r.1.unpend u
    else r.1.setFab fun f => { f with owed := f.owed ++ [w 0 r.2.1 r.2.2] }

/-! ### What a source gives up -/

/-- The FIDX of flit `c` of a stream of `total` flits: the last group short (R262). -/
def streamFidx (c total : Nat) : Nat := 16 - min 16 (total - c / 16 * 16) + c % 16

/-- A SCHED flit that the unit originates (R208, R500). -/
def State.ownFlit (s : State) (tile t fidx : Nat) (d : List Byte) (tcrc : Nat) : Flit :=
  mkFlit (.sched s.wsc16 tile s.srcDno s.srcSub t s.cad.phase) 0 fidx false d (if fidx = 15 then tcrc else 0)

def State.stream (s : State) (src : Nat) : SrcStream := s.fab.streams.get src {}
def State.setStream (s : State) (src : Nat) (x : SrcStream) : State :=
  s.setFab fun f => { f with streams := f.streams.set src x }

/-- The tile that flit `c` of a numbered stream belongs to: a new number at its first flit (R500). -/
def State.tileFor (s : State) (first : Bool) (old : Nat) : State × Nat :=
  if first then (s.setFab fun f => { f with tileNo := (f.tileNo + 1) % 2 ^ 20 }, s.fab.tileNo) else (s, old)

/-- A receive port in a slot: the slot unit that is named, and the next one after it (R225). -/
def State.feedPort (s : State) (ps : PhaseSet) (t src : Nat) (tk : List Taker) : State :=
  let p := s.physPort src
  let x := s.port p
  let i := x.unitIdx
  let s1 := match (x.rx[i]?).bind (·.flit) with
    | some f => tk.foldl (fun u k => u.deliverTo t k f (some (p, i))) s
    | none => tk.foldl (fun u k => u.oweTo t src i 0 (some (p, i)) k) s
  let y := s1.port p
  let here := s.named ps t src
  if s.halfRate src then
    (if pairEnd ps t then
      s1.setPort p { y with unitIdx := if here || y.unitHalf then i + 1 else i, unitHalf := false }
     else s1.setPort p { y with unitHalf := here })
  else if here then s1.setPort p { y with unitIdx := i + 1 }
  else s1

/-- The flits that the slot table of a live set brings to the cells of an instruction (R258, R259). -/
def State.ingressTotal (s : State) (ps : PhaseSet) (c : CmbInstr) : Nat :=
  let ts := max 1 ps.desc.tableSlots
  ((upto (slotsIn ps.desc.stepNs)).map fun g =>
    let t := g % ts
    if c.start ≤ t && t ≤ c.stop then
      ((upto c.ncell).filter fun k =>
        match entryAt ps (64 + c.cell0 + k) t with
        | some (r, _) => s.takesNow ps (64 + c.cell0 + k) t r.source
        | none => false).length
    else 0).sum

/-- The elements of a stream of `n` flits, and the flits of a stream of `n` elements; `x` is the extension reserve. -/
def elemsOf (code x n : Nat) : Nat :=
  if code = 14 then 32 * xsCount x (224 * n) else if isMx code then perTile code * (n / 16) else 1792 * n / fmtWidth code
def flitsOf (code x n : Nat) : Nat :=
  if code = 14 then (258 * ((n + 31) / 32) + 1024 * x + 223) / 224
  else if isMx code then 16 * ((n + perTile code - 1) / perTile code)
  else (n * fmtWidth code + 1791) / 1792

/-- The length of an instruction's result, in flits, where the live set alone decides it: without the streams of taps, which
other units send, and without the record of a dispatch. -/
def State.resultLen (s : State) (ps : PhaseSet) (c : CmbInstr) : Option Nat :=
  let xin := Nat.testBit c.opnd.toNat 33
  if c.famE || c.famO || (c.famR && xin) then
    some (flitsOf c.fmtR c.xsExt (elemsOf c.fmtA c.xsExt (s.ingressTotal ps c)))
  else if c.opcode = 0x33 then some (16 * c.bits 0 20)
  else if c.opcode = 0x30 then some 16
  else if c.famS then some 1
  else none

/-- The place of flit `i` of a source in the result of its instruction, whether or not the flit is there: none where an
earlier result's length is not known from the live set. -/
def resultPos (i : Nat) : List (Option Nat) → Option Nat
  | [] => none
  | [_] => some i
  | some n :: r => if i < n then some i else resultPos (i - n) r
  | none :: _ => none

/-- The results that leave through a source, by their lengths. -/
def State.resultLens (s : State) (ps : PhaseSet) (src : Nat) : List (Option Nat) :=
  (ps.cmbs.filter fun c => c.opcode != 0 && c.cell0 + 64 == src).map fun c => s.resultLen ps c

/-- A combiner result in a slot (R261, R500): the next result flit in order, or one that is owed. Tiles are numbered by the
live set; where it does not give a result's length and the flit is late, its tile is taken to go on to sixteen flits (log
entry 156). -/
def State.feedResult (s : State) (ps : PhaseSet) (t src : Nat) (tk : List Taker) : State :=
  let i := s.cmb.taken.get src 0
  let st := s.stream src
  let r := (s.cmb.results.get src [])[i]?
  let first := match resultPos i (s.resultLens ps src), r with
    | some k, _ => k % 16 == 0
    | none, some x => x.first
    | none, none => st.pos == 0
  let q := s.tileFor first st.tile
  let pos := match r with
    | some x => (x.fidx + 1) % 16
    | none => (st.pos + 1) % 16
  let s1 := (q.1.setStream src { st with count := i + 1, tile := q.2, pos := pos })
  let s2 : State := { s1 with cmb := { s1.cmb with taken := s1.cmb.taken.set src (i + 1) } }
  match r with
  | some x =>
    let f := s.ownFlit q.2 t x.fidx x.data x.tcrc
    tk.foldl (fun u k => u.deliverTo t k f none) s2
  | none => (tk.foldl (fun u k => u.oweTo t src i q.2 none k) s2).raise Fld.CMB_STATUS_RESULT_LATE

/-- A memory or staging read in a slot: a flit with the unit's own header and a fresh CRC over its tile (R236, R500); the
tile's source and addresses are kept for REFETCH. -/
def State.feedMemory (s : State) (t src : Nat) (tk : List Taker) : State :=
  match tk with
  | [] => s
  | k0 :: _ =>
    let st := s.stream src
    let fidx := streamFidx st.count (s.fab.totals.get src 0)
    let first := st.count % 16 == 0
    let q := s.tileFor first st.tile
    let rd : State × List Byte :=
      if src < 104 then (q.1, s.memFlit k0.arg)
      else (q.1.bankAsk (k0.arg % 2 ^ 20) 1).schedRead (k0.arg % 2 ^ 20) ((k0.arg >>> 20) % 4) (src - 104)
    let pay := (rd.2.drop 16).take 224
    let data := (if first then [] else st.data) ++ pay
    let f := s.ownFlit q.2 t fidx pay (crc64 data)
    let s1 := (rd.1.setStream src { st with count := st.count + 1, tile := q.2, data := data }).setFab fun b =>
      { b with origin := b.origin.set q.2 (src, (b.origin.get q.2 (src, [])).2 ++ [(fidx, k0.arg, t)]) }
    tk.foldl (fun u k => u.deliverTo t k f none) s1

/-! ### Host queues of a VSU (R445, R446) -/

/-- The indices of a queue's stream that are owed, oldest first. -/
def State.owedIdx (s : State) (src : Nat) : List Nat :=
  ((s.fab.owed.filter fun o => o.src == src).map (·.idx)).eraseDups

/-- The payload of a queue's stream at index `c`: one that has left, or one that still waits in its queue for a RETRY slot. -/
def State.partAt (s : State) (src c : Nat) : List Byte :=
  let fidx := streamFidx c (s.fab.totals.get src 0)
  match s.fab.stParts.find? fun e => e.1 == src && e.2.1 == 65536 * src + c / 16 && e.2.2.1 == fidx with
  | some e => e.2.2.2
  | none => padTo 224 ((s.fab.stq.get src []).getD ((s.owedIdx src).findIdx (· == c)) [])

/-- The flit of a queue at index `c` of its stream, from the `j`-th payload of its queue, if the payload is there; the last of
a tile carries the CRC-64 of them all, which came before it. -/
def State.queueFlitAt (s : State) (src c t j : Nat) : Option Flit :=
  let fidx := streamFidx c (s.fab.totals.get src 0)
  let tile := 65536 * src + c / 16
  (s.fab.stq.get src [])[j]?.map fun d =>
    let parts := (upto (c % 16)).flatMap fun k => s.partAt src (c / 16 * 16 + k)
    s.ownFlit tile t fidx d (if fidx < 15 then 0 else crc64 (parts ++ padTo 224 d))

/-- Takes the `j`-th payload out of a queue. -/
def State.dropPayload (s : State) (src c j : Nat) : State :=
  let q := s.fab.stq.get src []
  s.setFab fun f => { f with
    stq := f.stq.set src (q.eraseIdx j),
    stParts := f.stParts ++ [(src, 65536 * src + c / 16, streamFidx c (s.fab.totals.get src 0), padTo 224 (q.getD j []))] }

/-- A host queue in a slot. -/
def State.feedQueue (s : State) (t src : Nat) (tk : List Taker) : State :=
  if tk.isEmpty then s
  else
    let st := s.stream src
    let c := st.count
    let s1 := s.setStream src { st with count := c + 1 }
    let j := (s.owedIdx src).length
    match s.queueFlitAt src c t j with
    | some f => tk.foldl (fun u k => u.deliverTo t k f none) (s1.dropPayload src c j)
    | none => tk.foldl (fun u k => u.oweTo t src c (65536 * src + c / 16) none k) s1

/-- A source in a slot. -/
def State.feedSource (s : State) (ps : PhaseSet) (g t src : Nat) : State :=
  let tk := s.takers ps g t src
  if !s.isVd then s.feedQueue t src tk
  else if src < 64 then s.feedPort ps t src tk
  else if tk.isEmpty then s
  else if src < 80 then s.feedResult ps t src tk
  else s.feedMemory t src tk

/-! ### Late delivery (R226, R261, R446) -/

/-- The flit that an output owes, once it is there. -/
def State.owedFlit (s : State) (o : Owed) : Option Flit :=
  if !s.isVd then s.queueFlitAt o.src o.idx o.slot ((s.owedIdx o.src).findIdx (· == o.idx))
  else if o.src < 64 then ((s.port (s.physPort o.src)).rx[o.idx]?).bind (·.flit)
  else (s.cmb.results.get o.src [])[o.idx]?.map fun x => s.ownFlit o.tile o.slot x.fidx x.data x.tcrc

/-- The slot unit of an owed flit. -/
def State.owedUnit (s : State) (o : Owed) : Option (Nat × Nat) :=
  if s.isVd && decide (o.src < 64) then some (s.physPort o.src, o.idx) else none

/-- An owed flit is owed no longer; a payload that no other output owes leaves its queue. -/
def State.settle (s : State) (o : Owed) : State :=
  let s1 := s.setFab fun f => { f with owed := f.owed.erase o }
  let s2 := if !s.isVd && !(s1.fab.owed.any fun x => x.src == o.src && x.idx == o.idx) then
      s1.dropPayload o.src o.idx ((s.owedIdx o.src).findIdx (· == o.idx))
    else s1
  s2.raise Fld.XF_STATUS_LATE

/-- Sends an owed flit on a port, with the LSEQ that it was assigned. -/
def State.sendOwed (s : State) (p : Nat) (o : Owed) (f : Flit) : State :=
  let x := s.port p
  let g : Flit := { f with level := 0, resent := true, crdLevel := 0, crdCount := 0, lseq := o.lseq }
  ((s.setPort p { x with
    txq := x.txq ++ [g],
    replay := x.replay.map fun r => if r.lseq == o.lseq then { r with flit := some g } else r }).unpend
      (s.owedUnit o)).settle o

/-- The first flit that an output owes and that is there now. -/
def State.owedReady (s : State) (out : Nat) : Option (Owed × Flit) :=
  (s.fab.owed.filter fun o => o.out == out).findSome? fun o => (s.owedFlit o).map fun f => (o, f)

/-- A RETRY slot of a port (R177, R222, R226, R238; log entry 66): a link resend, else an owed flit, else a re-fetched
one. -/
def State.retrySlot (s : State) (o : Nat) : State :=
  let p := s.physPort o
  let x := s.port p
  if !s.flitsOn p then s
  else
    match x.resendSched, s.owedReady o, x.refetch with
    | f :: r, _, _ => s.setPort p { x with resendSched := r, txq := x.txq ++ [f] }
    | [], some (w, f), _ => s.sendOwed p w f
    | [], none, f :: r => (s.setPort p { x with refetch := r }).pushTx p true f
    | [], none, [] => s

/-- An internal output without a scheduled write delivers a flit that it owes. -/
def State.lateSlot (s : State) (o : Nat) : State :=
  match s.owedReady o with
  | some (w, f) =>
    ((s.settle w).asmPut w.cons (((s.owedUnit w).map (·.1)).getD 0)
      { fidx := f.fidx, flit := some f, arg := w.arg, ord := w.ord, pos := w.pos, acc := w.acc, out := w.out,
        unit := s.owedUnit w }).recheckTiles w.cons
  | none => s

/-! ### Side slots (R230) -/

/-- The levels in the order of their service after one of them. -/
def afterLevel (l : Nat) : List Nat :=
  if l = 0 then [3, 2, 1, 0] else if l = 3 then [2, 1, 0, 3] else if l = 2 then [1, 0, 3, 2] else [0, 3, 2, 1]

/-- A side slot of a port: a pending side resend, else one flit of the next level that has one and a credit for it. -/
def State.sideSlot (s : State) (p : Nat) : State :=
  let x := s.port p
  if !s.flitsOn p then s
  else
    match x.resendSide with
    | f :: r => s.setPort p { x with resendSide := r, txq := x.txq ++ [f] }
    | [] =>
      match (afterLevel x.lastLvl).find? fun l => !(x.q.getD l []).isEmpty && decide (0 < x.credits.getD l 0) with
      | none => s
      | some l =>
        match x.q.getD l [] with
        | [] => s
        | (src, f) :: r =>
          let c := x.credits.getD l 0 - 1
          ((s.setPort p { x with
            q := setAt x.q l r, credits := setAt x.credits l c, lastLvl := l,
            zeroAt := if c = 0 then setAt x.zeroAt l (some s.time.now) else x.zeroAt }).pushTx p false f).freeBuf src l

/-! ### Signals of the slot table (R180, R253) -/

/-- A SIGNAL entry in its slot. -/
def State.tableSignal (s : State) (o : Nat) (e : SigEnt) : State :=
  if e.kind = 1 then
    (if (s.spkStatusOf e.phys).1 = 0 then s.signalIn e.phys e.inc none e.gated none else s)
  else
    let d := if e.kind = 2 then (e.target % 4096, 16) else (e.target % 2 ^ 14 / 16, e.target % 16)
    let out := if s.isPortOut o then s.physPort o else 64
    if e.gated && s.holdsRejected then
      s.setFab fun f => { f with defer := f.defer ++
        [{ phys := e.phys, inc := BitVec.ofNat 64 e.inc, ack := none, gated := true, remote := some (d.1, d.2, out) }] }
    else s.remoteSignal out d.1 d.2 e.phys e.inc

/-! ### A slot -/

/-- An internal output with no flit to take in this slot delivers one that it owes. -/
def State.lateOut (s : State) (ps : PhaseSet) (t o : Nat) : State :=
  match entryAt ps o t with
  | none => s
  | some (r, _) => if carries r && s.takesNow ps o t r.source then s else s.lateSlot o

/-- What an output does in a slot beside taking flits; the staging outputs have delivered theirs before the slot's reads. On a port at 112 Gb/s a RETRY or side flit takes a pair of slots,
and goes in the first (R223; log entry 64). -/
def State.slotAction (s : State) (ps : PhaseSet) (t o : Nat) : State :=
  let pair (a : Nat) : Bool := !s.halfRate o || (t % 2 == 0 &&
    match entryAt ps o (t + 1) with
    | some (r, _) => r.action == a
    | none => false)
  match entryAt ps o t with
  | none => s
  | some (r, _) =>
    let s1 := if s.isPortOut o then
        (if r.action = 2 && pair 2 then s.retrySlot o
         else if r.action = 0 && pair 0 then s.sideSlot (s.physPort o) else s)
      else if o < 104 then s.lateOut ps t o else s
    if r.action = 4 then
      match ps.sigs[r.arg % 4096]? with
      | some e => s1.tableSignal o e
      | none => s1
    else s1

/-- The combiner instructions that start at this slot take up their work (R258, R290); HT and the ledger are sampled, and a
SIDE_LOAD sends its read (R289). -/
def State.startRuns (s : State) (ps : PhaseSet) (t : Nat) : State :=
  (upto ps.cmbs.length).foldl (fun u i =>
    match ps.cmbs[i]? with
    | none => u
    | some c =>
      if c.opcode = 0 || c.start != t then u
      else
        let stamp := if c.opcode = 0x31 then leBytes 8 s.htNs.toNat ++ leBytes 2 s.htFrac.toNat
          else if c.opcode = 0x32 then leBytes 8 (s.nrg.sumNj / 1000) ++ leBytes 8 s.htNs.toNat
          else []
        let u1 : State := { u with cmb := { u.cmb with runs := u.cmb.runs ++ [{ instr := i, stamp := stamp }] } }
        if c.opcode = 0x30 then u1.sideStart 0 (c.opnd.toNat % 2 ^ 52) 447 [] (.cmb i s.wsc16) else u1) s

/-- The staging rows that the instructions which start in a slot read: their records, and an optimizer's norm. -/
def State.recordRows (s : State) (ps : PhaseSet) (t : Nat) : List Nat :=
  (ps.cmbs.filter fun c => c.opcode != 0 && c.start == t && (c.famE || c.famO || c.famM)).flatMap fun c =>
    c.paramRow :: (if c.famO && c.opnd.getLsbD 0 then [fieldAt (s.rowPayload c.paramRow) 0x20 4 % 2 ^ 20] else [])

/-- After the slot's writes, they read their records (R290, R293, R297, R322). -/
def State.readRecords (s0 : State) (ps : PhaseSet) (t : Nat) : State :=
  let s := (s0.recordRows ps t).foldl (fun u r => u.bankAsk r 1) s0
  { s with cmb := { s.cmb with runs := s.cmb.runs.map fun r =>
      match ps.cmbs[r.instr]? with
      | some c =>
        if c.start = t && (c.famE || c.famO || c.famM) then
          let d := s.rowPayload c.paramRow
          { r with param := d, gsq := if c.famO && c.opnd.getLsbD 0 then s.rowPayload (fieldAt d 0x20 4 % 2 ^ 20) else [] }
        else r
      | none => r } }

/-- Slot `fab.slot` of the step, for every output of the unit: staging is written before it is read (R322). -/
def State.runSlot (s : State) (ps : PhaseSet) : State :=
  let g := s.fab.slot
  let ts := max 1 ps.desc.tableSlots
  let t := g % ts
  let srcs := sourcesOf ps
  let s0 := s.setFab fun f => { f with
    slot := g + 1, cellTook := [], totals := if g = 0 then srcs.map fun x => (x, s.takeTotal ps x) else f.totals }
  let s1 := if g < ts then s0.startRuns ps t else s0
  let reads (x : Nat) : Bool := s.isVd && decide (104 ≤ x)
  let s2 := (srcs.filter fun x => !reads x).foldl (fun u x => u.feedSource ps g t x) s1.bankSlot
  let s3 := (if s.isVd then (upto 4).foldl (fun u k => u.lateOut ps t (104 + k)) s2 else s2).landWrites
  let s4 := (srcs.filter reads).foldl (fun u x => u.feedSource ps g t x) s3
  let s5 := if g < ts then s4.readRecords ps t else s4
  ((upto s.nOuts).foldl (fun u o => u.slotAction ps t o) s5).recheckShort.landWrites

/-- SLOT_START: the next slot of the step, if its start has come and it ends by the next boundary (R176). While no pass
runs, every slot of a port is a side slot (R191). -/
def State.doSlotStart (s0 : State) : State :=
  if !s0.awake then s0
  else
    let s := s0.dieRelease
    match s.fab.passAt, s.img.live with
    | some b, some ps =>
      if decide (s.fab.slot < slotsIn ps.desc.stepNs) && s.slotDue b s.fab.slot then s.runSlot ps else s
    | _, _ => (upto s.nPorts).foldl (fun u p => u.sideSlot p) s

/-! ### SCHED_SIGNAL_APPLY (R253) -/

/-- Is slot unit `i` of a port consumed. -/
def State.unitConsumed (s : State) (p i : Nat) : Bool :=
  let x := s.port p
  match x.rx[i]? with
  | some u => (u.flit.isSome || u.gone) && u.pend == 0 &&
      (!s.isVd || decide (i < x.unitIdx) || decide (s.fab.totals.get (s.logPort p) 0 ≤ i))
  | none => true

/-- The first scheduled SIGNAL that waits on a port is applied once every slot unit before it has been consumed. -/
def State.doSchedSignalApply (s : State) (port : Nat) : State :=
  let x := s.port port
  match x.sigWait with
  | (n, phys, inc) :: r =>
    if (upto n).all fun i => s.unitConsumed port i then
      let s1 := s.setPort port { x with sigWait := r }
      if (s.spkStatusOf phys).1 = 0 then
        s1.signalIn phys inc none false none
      else s1
    else s
  | [] => s

/-! ### ROUTE_COMMIT (R233, R249) -/

/-- The entries of a register array that are not zero, by index. -/
def State.tableOf (s : State) (base n : Nat) : Tab W :=
  (s.regs.filter fun e => decide (base ≤ e.1) && decide (e.1 < base + 8 * n)).map fun (e : Nat × W) => ((e.1 - base) / 8, e.2)

/-- Commits the DNO table and the pod routes. The destinations of requests under way whose route changes are held, for this
unit's own and for each die's (R249). -/
def State.commitRoutes (s : State) : State :=
  let s1 := s.setFab fun f => { f with
    dnoAct := s.tableOf Reg.XF_DNO 4096, podAct := s.tableOf Reg.XF_POD_ROUTE 32, routeP := false }
  let other (d : Nat) : Bool := s.route s.srcDno d none != s1.route s1.srcDno d none
  let mine := ((s.fab.side.map fun r => hallUnit r.addr) ++ s.fab.sigOut.map (·.dst)).eraseDups.filter other
  let dies := (s.fab.transit.map fun x => (x.sub, x.dst)).eraseDups.filter fun e => other e.2
  (s1.setFab fun f => { f with
    holdDst := (f.holdDst ++ mine).eraseDups, holdDie := (f.holdDie ++ dies).eraseDups }).raise Fld.XF_STATUS_ROUTE_COMMIT

/-- ROUTE_COMMIT: at once while IDLE or HELD, else at the next boundary. -/
def State.doRouteCommit (s : State) : State :=
  if !s.isVd || !s.awake then s
  else if s.notRunning then s.commitRoutes
  else s.setFab fun f => { f with routeP := true }

/-! ### Working boundaries (R176, R223, R226, R239, R253) -/

/-- What a step leaves unfinished is dropped: deferred SIGNALs, rejected tiles, waiting signals, owed flits, a VSU's with
their payloads (R446; log entry 194), tiles under assembly and accumulations that wait; a side record is answered
NAK_ABANDONED. -/
def State.dropStep (s : State) : State :=
  let waits := s.fab.ports.any fun e => !e.2.sigWait.isEmpty
  let bad := !s.fab.rejected.isEmpty || !s.fab.defer.isEmpty || waits
  let s1 := s.fab.rejected.foldl (fun t r => t.rejectOutcome r.key 3) s
  let s2 := s.fab.defer.foldl (fun t (d : DefSig) => match d.ack with
    | some a => t.sendAck a.1 a.2.1 a.2.2 (if d.nak = 0 then 6 else d.nak)
    | none => t) s1
  let late := !s.isVd && !s.fab.owed.isEmpty
  let keep (e : Nat × List (List Byte)) : Nat × List (List Byte) := (e.1, e.2.drop (s.owedIdx e.1).length)
  let s3 : State := { s2 with
    fab := { s2.fab with
      rejected := [], defer := [], owed := [], asm := [], done := [], cellTook := [], stParts := [],
      stq := if late then s2.fab.stq.map keep else s2.fab.stq,
      ports := s2.fab.ports.map fun (e : Nat × PortSt) => (e.1, { e.2 with sigWait := [], refetch := [] }) },
    stg := { s2.stg with acc := [], xsPrev := [], writes := [], accs := [], load := [], faultStep := false },
    til := { s2.til with faultStep := false, started := [], vecBad := [] },
    cmb := { s2.cmb with faultStep := false } }
  let acked := (pairsOf s.fab.defer).foldl (fun t e => t.ackPair e.1 e.2) s3
  let s4 := if bad then acked.raise Fld.XF_STATUS_TILE_ABANDONED else acked
  if late then s4.raise Fld.XF_STATUS_LATE else s4

/-- The slot units that a new step keeps: the flits of its own WSC. -/
def PortSt.newStep (x : PortSt) (wsc : Nat) : PortSt :=
  { x with
    rx := (x.rx.filter fun u => match u.flit with
      | some f => (flitKey f).wsc == wsc
      | none => false).map fun u => { u with taps := [], pend := 0 },
    unitIdx := 0, unitHalf := false }

/-- What the ports have received belongs to a try that has ended: a START or a RESUME begins with nothing of it (R223, R337). -/
def State.dropReceived (s : State) : State :=
  s.setFab fun f => { f with ports := f.ports.map fun (e : Nat × PortSt) => (e.1, { e.2 with rx := [], sideHold := e.2.sideHold }) }

/-- A working boundary at `b`: the counts of the step begin again, a pass starts if `pass` (R176, R500), and
the array is empty (R309). -/
def State.newStep (s : State) (b : W) (pass : Bool) : State :=
  let s1 := s.heldAll.dropStep
  { s1 with
    fab := { s1.fab with
      passAt := if pass then some b else none, slot := 0, streams := [], totals := [], origin := [], tileNo := 0,
      placeNo := 0,
      ports := s1.fab.ports.map fun (e : Nat × PortSt) => (e.1, e.2.newStep s1.wsc16) },
    cmb := { s1.cmb with runs := [], results := [], taken := [] },
    til := { s1.til with run := none },
    stg := { s1.stg with info := s1.stg.info.map fun (e : Nat × RowMeta) => (e.1, { e.2 with cur := false }) } }

/-- SLOT_START (R176). At each slot the unit runs the slot-table action of every output: forward, side, retry,
accumulate or signal. -/
def execSlotStart (s : State) : Host.Outcome State Fault Refusal :=
  .next (s.doSlotStart)

/-- SCHED_SIGNAL_APPLY (R253). A scheduled remote SIGNAL is applied once every earlier SCHED flit of its port has been
consumed. -/
def execSchedSignalApply (port : Nat) (s : State) : Host.Outcome State Fault Refusal :=
  .next (s.doSchedSignalApply port)

/-- ROUTE_COMMIT (R233). XF_CMD.ROUTE_COMMIT commits the DNO table and pod routes at the next boundary or at once. -/
def execRouteCommit (s : State) : Host.Outcome State Fault Refusal :=
  .next (s.doRouteCommit)


end Sys2Proof.Machine
end

