-- ==== Sys2Proof/Machine/Side.lean ====
section
/-! DEFINITION. Sys2Proof/Machine/Side.lean: side requests at their destination and at their source, BAR2 (R240 to R249,
R502), remote SIGNALs (R250 to R252), the stream and memory ports of a VSU (R436, R439, R445 to R448), and the log
registers of the fabric. -/

namespace Sys2Proof.Machine

/-! ### Requests at their destination (R242 to R244, R502) -/

/-- Does a unit take side requests on a port. -/
def State.takesSide (s : State) (port : Nat) : Bool := s.awake && s.portUp port

/-- Is a request for this unit: a VD's own DNO, and no die; a VSU's DOME sends it only its own. -/
def State.mine (s : State) (r : SideReq) : Bool :=
  !s.isVd || (hallUnit r.addr == s.ident.dno && (spkDie r.op r.addr).isNone)

/-- Answers a request. -/
def State.respond (s : State) (r : SideReq) (status : Nat) (data : List Byte) : State :=
  s.reply r.dno r.sub r.tag status data

/-- A VSU passes a request for its host die on, as SRX_KIND 1, and waits for the die's response (R448). -/
def State.toHost (s : State) (r : SideReq) (data : List Byte) : State :=
  let fs := asReceived (sideFlits (.sideReq r.op r.tag r.addr r.len8 r.sub r.dno) 0 data) r.link
  (s.setFab fun f => { f with serving := f.serving ++ [⟨r.dno, r.sub, r.tag, r.op, r.len8⟩] }).emits
    (fs.map fun f => .srx 1 f)

/-- A request that the unit takes: refused with DENIED while MEM_CTRL.SIDE_EN is 0; at a VSU it goes to the host die. -/
def State.serve (s : State) (port : Nat) (r : SideReq) (data : List Byte) (f : State → State) : State :=
  if !s.takesSide port || !s.mine r then s
  else if !s.flag Fld.MEM_CTRL_SIDE_EN then s.respond r 2 []
  else if s.isVd then f s
  else s.toHost r data

/-- SIDE_READ. -/
def State.doSideRead (s : State) (port : Nat) (r : SideReq) : State :=
  s.serve port { r with op := 0 } [] fun t =>
    let x := t.memAccess false (r.addr % 2 ^ 40) (8 * (r.len8 + 1)) []
    x.1.respond r x.2.1 x.2.2

/-- SIDE_WRITE: CORRUPT, and nothing written, where TCRC does not match (R243). -/
def State.doSideWrite (s : State) (port : Nat) (r : SideReq) (data : List Byte) (tcrc : Nat) : State :=
  if s.takesSide port && s.mine { r with op := 1 } && s.flag Fld.MEM_CTRL_SIDE_EN && crc64 data != tcrc then s.respond r 7 []
  else
    s.serve port { r with op := 1 } data fun t =>
      let n := 8 * (r.len8 + 1)
      let x := t.memAccess true (r.addr % 2 ^ 40) n (padTo n data)
      x.1.respond r x.2.1 []

/-- SIDE_FENCE: waits for the earlier requests of its pair. -/
def State.doSideFence (s : State) (port : Nat) (r : SideReq) : State :=
  s.serve port { r with op := 2 } [] fun t =>
    t.setFab fun f => { f with fences := f.fences ++ [⟨r.dno, r.sub, r.tag, 2, 0⟩] }

/-- FENCE_COMPLETE: every request of this model's VD completes as it is taken, so the oldest FENCE is answered. -/
def State.doFenceComplete (s : State) : State :=
  match s.fab.fences with
  | x :: r => (s.setFab fun f => { f with fences := r }).reply x.dno x.sub x.tag 0 []
  | [] => s

/-- READ_SPK at the unit that holds the sprocket; a die window is refused (R502). -/
def State.doReadSpk (s : State) (port : Nat) (r : SideReq) : State :=
  if !s.takesSide port then s
  else if s.isVd && entKind (s.dnoEnt (hallUnit r.addr)) == 3 then s.respond r 1 []
  else if !s.mine { r with op := 3 } then s
  else if !s.flag Fld.MEM_CTRL_SIDE_EN then s.respond r 2 []
  else
    let x := s.readSpkAt r.addr
    s.respond r x.1 x.2

/-- SIDE_BAD_OP. -/
def State.doSideBadOp (s : State) (port : Nat) (r : SideReq) : State :=
  if s.takesSide port && s.mine r && decide (4 ≤ r.op) then
    s.respond r (if s.flag Fld.MEM_CTRL_SIDE_EN then 5 else 2) []
  else s

/-! ### Requests at their source (R244, R245) -/

def State.doSideRspRx (s : State) (tag : RspTag) (status : Nat) (data : List Byte) : State :=
  if s.awake then s.rspIn tag.tag status data tag.link else s

/-- SIDE_REQ_TIMEOUT: no response within MEM_CTRL.TIMEOUT_US. -/
def State.doSideReqTimeout (s : State) (tag : Nat) : State :=
  match s.fab.side.find? fun r => r.tag == tag with
  | some r =>
    if s.time.now - r.sentAt ≥ s.fld Fld.MEM_CTRL_TIMEOUT_US * usX then s.rspIn tag 6 [] else s
  | none => s

/-! ### BAR2 (R246, R247) -/

/-- The pieces of an access: offset in it, offset in BAR2 and length, none across 4 KiB or longer than 3,584 bytes. -/
def bar2Pieces : Nat → Nat → Nat → Nat → List (Nat × Nat × Nat)
  | 0, _, _, _ => []
  | n + 1, at0, off, len =>
    if len = 0 then []
    else
      let k := min len (min 3584 (4096 - off % 4096))
      (at0, off, k) :: bar2Pieces n (at0 + k) (off + k) (len - k)

/-- The aperture of a BAR2 offset, and the hall address behind it, if it is enabled. -/
def State.aperture (s : State) (off : Nat) : Option Nat :=
  let v := s.reg (Reg.MEM_APERTURE + 8 * (off / 2 ^ 32 % 16))
  if v.getLsbD 0 then some (Fld.MEM_APERTURE_BASE.of v * 2 ^ 32 + off % 2 ^ 32) else none

/-- One piece of a read or write: a side request, or DENIED at a disabled aperture or for a misaligned access. -/
def State.bar2Req (s : State) (op : Nat) (aligned : Bool) (off len : Nat) (data : List Byte) (use : SideUse) : State :=
  match s.aperture off, aligned with
  | some a, true => s.sideStart op a (len / 8 - 1) data use
  | a, _ =>
    s.sideComplete { tag := 0, op := op, addr := a.getD 0, len8 := 0, data := [], sentAt := 0, tries := 0, use := use } 2 []

/-- Is an access 8-byte aligned and a multiple of 8 bytes long. -/
def bar2Aligned (off len : Nat) : Bool := off % 8 == 0 && len % 8 == 0

/-- Does the unit have BAR2: a VD whose PCIe endpoint is out of reset. -/
def State.hasBar2 (s : State) : Bool := s.isVd && s.awake && s.pwr.perstN

/-- The pieces of an access; a misaligned one is refused whole. -/
def piecesOf (off len : Nat) : List (Nat × Nat × Nat) :=
  if bar2Aligned off len then bar2Pieces (len / 8 + 1) 0 off len else [(0, off, len)]

def State.doBar2Read (s : State) (off len : Nat) : State :=
  if !s.hasBar2 || decide (off + len > 2 ^ 36) then s
  else
    let n := s.fab.bar2No
    let ps := piecesOf off len
    if ps.isEmpty then s.emit (.bar2Done 0 [])
    else
      ps.foldl (fun t (e : Nat × Nat × Nat) =>
        t.bar2Req 0 (bar2Aligned off len) e.2.1 e.2.2 [] (.bar2Read n e.1))
        (s.setFab fun f => { f with bar2No := n + 1, bar2 := f.bar2 ++ [(n, ps.length, [])] })

def State.doBar2Write (s : State) (off : Nat) (data : List Byte) : State :=
  if !s.hasBar2 || decide (off + data.length > 2 ^ 36) then s
  else
    (piecesOf off data.length).foldl (fun t (e : Nat × Nat × Nat) =>
      t.bar2Req 1 (bar2Aligned off data.length) e.2.1 e.2.2 ((data.drop e.1).take e.2.2) .bar2Write) s

/-! ### Remote SIGNALs at their destination (R250, R252) -/

/-- Is a record more than 2 ms old; one from a source whose clock is ahead is not (log entry 72). -/
def State.staleSig (s : State) (sentUs : Nat) : Bool :=
  let d := (s.htNs.toNat / 1000 + 2 ^ 32 - sentUs % 2 ^ 32) % 2 ^ 32
  decide (2000 < d) && decide (d < 2 ^ 31)

/-- A record of a pair is refused: at once, or in its turn where an earlier one of the pair is deferred (R252). -/
def State.refuseRec (s : State) (dno sub : Nat) (r : SigRec) (nak : Nat) : State :=
  if s.fab.defer.any fun d => d.ofPair dno sub then
    s.setFab fun f => { f with defer := f.defer ++
      [{ phys := r.phys, inc := BitVec.ofNat 64 r.inc, ack := some (dno, sub, r.seq), gated := false, nak := nak }] }
  else s.sendAck dno sub r.seq nak

/-- One record: judged if its SEQ is higher than the last one judged, else dropped; SEQ 0 is applied once, unjudged. -/
def State.judgeRec (s : State) (die : Option Nat) (dno sub : Nat) (r : SigRec) : State :=
  let nak := s.nakOf r.phys
  if r.seq = 0 then (if nak = 0 then s.signalIn r.phys r.inc die false none else s)
  else
    let j := s.judged dno sub
    if !serialHigher 32 r.seq j.last then s
    else
      let s1 := s.setJudged dno sub { j with last := r.seq }
      if s.staleSig r.sentUs then s1.refuseRec dno sub r 1
      else if nak ≠ 0 then s1.refuseRec dno sub r nak
      else
        let s2 := s1.signalIn r.phys r.inc die false (some (dno, sub, r.seq))
        if s2.fab.defer.length > s1.fab.defer.length then s2 else s2.noteApplied dno sub r.seq

/-- SIGNAL_FLIT_RX: judges the records in order, and acknowledges the highest one applied. -/
def State.doSignalFlitRx (s : State) (port dno sub dstSub : Nat) (recs : List SigRec) : State :=
  if s.takesSide port && dstSub == s.srcSub then
    let die := if s.diePortOf port then some (port / 2) else none
    ((recs.take 14).foldl (fun t r => t.judgeRec die dno sub r) s).ackPair dno sub
  else s

/-! ### Remote SIGNALs at their source (R251, R252) -/

/-- Is a record the pair's, towards a destination. -/
def SigOut.isTo (o : SigOut) (dno sub : Nat) : Bool := o.dst == dno && o.sub == sub

/-- Notes that the source has acted on an ACK_SEQ of a destination, as long as an earlier record waits that a second one could
retire (R250). -/
def State.noteActed (s : State) (dno sub ackSeq : Nat) : State :=
  let waits (e : Nat × Nat × Nat) : Bool := s.fab.sigOut.any fun o => o.isTo e.1 e.2.1 && !serialHigher 32 o.record.seq e.2.2
  s.setFab fun f => { f with sigActed := (f.sigActed ++ [(dno, sub, ackSeq)]).filter waits }

/-- SIG_ACK_RX: `dno` and `sub` name the destination that answers (log entry 67). Status 0 retires every record up to
ACK_SEQ; a NAK gives its record up; a second one for the same ACK_SEQ is ignored. -/
def State.doSigAckRx (s : State) (dno sub ackSeq status : Nat) : State :=
  if !s.awake || s.fab.sigActed.contains (dno, sub, ackSeq) then s
  else if status = 0 then
    ((s.setFab fun f => { f with sigOut := f.sigOut.filter fun o =>
      !(o.isTo dno sub && !serialHigher 32 o.record.seq ackSeq) }).noteActed dno sub ackSeq).sideRelease
  else
    match s.fab.sigOut.find? fun o => o.isTo dno sub && o.record.seq == ackSeq with
    | some o =>
      (((s.setFab fun f => { f with sigOut := f.sigOut.erase o }).noteActed dno sub ackSeq).signalLost o.dst o.sub
        o.ctx).sideRelease
    | none => s

/-- SIGNAL_RESEND: every record whose last sending is 100 µs past goes again. -/
def State.doSignalResend (s : State) : State :=
  if !s.awake then s
  else
    let due (o : SigOut) : Bool := decide (s.time.now - o.lastAt ≥ 100 * usX)
    let again (o : SigOut) : SigOut := if due o then { o with lastAt := s.time.now } else o
    let s1 := s.setFab fun f => { f with sigOut := f.sigOut.map again }
    (s.fab.sigOut.filter due).foldl (fun t o => t.sendSignal o.dst o.sub o.record) s1

/-- SIGNAL_GIVE_UP: records without an ACK for 4 ms. -/
def State.doSignalGiveUp (s : State) : State :=
  let due (o : SigOut) : Bool := decide (s.time.now - o.firstAt ≥ 4 * msX)
  let s1 := s.setFab fun f => { f with sigOut := f.sigOut.filter fun o => !due o }
  ((s.fab.sigOut.filter due).foldl (fun t o => t.signalLost o.dst o.sub o.ctx) s1).sideRelease

/-! ### The stream port of a VSU (R436, R445, R446, R448) -/

/-- The scheduled queues of a block (R445, R456). -/
def State.hostQueues (s : State) : Nat :=
  match s.ident.kind with
  | .vd => 0
  | _ => s.nQueues

/-- A payload for a scheduled queue, which holds 32. -/
def State.streamPayload (s : State) (q : Nat) (payload : List Byte) : State :=
  let l := s.fab.stq.get q []
  if q < s.hostQueues && l.length < 32 then s.setFab fun f => { f with stq := f.stq.set q (l ++ [padTo 224 payload]) }
  else s

/-- The data of a message whose length is `n` bytes. -/
def msgData (ps : List (List Byte)) (n : Nat) : List Byte := (ps.flatMap (padTo 224)).take n

/-- The level at which a host die's side message goes: LEVEL 0 at LOCAL (R448), and a U1's own at LOCAL too (R456). -/
def State.hostLevel (s : State) (l : Nat) : Nat := if l % 4 = 0 || s.ident.kind == .u1 then 1 else l % 4

/-- A whole side message of the host die's: the VSU writes the source fields itself, and sends LEVEL 0 at LOCAL. -/
def State.streamMsg (s : State) (hdr : FlitBody) (lvl0 : Nat) (ps : List (List Byte)) : State :=
  let lvl := s.hostLevel lvl0
  match hdr with
  | .sideReq op tag addr len8 _ _ =>
    s.streamStart { tag := tag, op := op, addr := addr, len8 := len8, sentAt := s.time.now, tries := 0,
                    data := if op = 1 then msgData ps (8 * (len8 + 1)) else [], use := .stream, lvl := lvl }
  | .sideRsp st tag dno sub =>
    let same (x : SideIn) : Bool := x.dno == dno && x.sub == sub && x.tag == tag
    match s.fab.serving.find? same with
    | some x =>
      let d := if st = 0 && x.op = 0 then msgData ps (8 * (x.len8 + 1)) else []
      (s.setFab fun f => { f with serving := f.serving.erase x }).streamSend hdr lvl d
    | none => s
  | .signal dd ds c _ _ => s.hostSignal dd ds c lvl (msgData ps (16 * c))
  | .sigAck .. => s.streamSend hdr lvl []
  | _ => s

/-- The flits in the side buffer of R445: of a message that is not whole, of those that wait at their source, and of those that
have not left a port. -/
def State.sideBuf (s : State) : Nat :=
  s.fab.stMsg.length + (s.fab.sideWait.map fun w => max 1 ((w.data.length + 223) / 224)).sum +
  (s.fab.ports.map fun e => e.2.q.flatten.length).sum

/-- STREAM_TX_BEAT: a beat is a scheduled payload or one flit of a side message, which is sent when its last flit is there;
the side buffer holds 32 flits. -/
def State.doStreamTxBeat (s : State) (side : Bool) (q : Nat) (hdr : FlitBody) (lvl : Nat) (last : Bool)
    (payload : List Byte) : State :=
  if s.isVd || !s.awake then s
  else if !side then s.streamPayload q payload
  else if s.sideBuf ≥ 32 then s
  else
    let ps := s.fab.stMsg ++ [payload]
    if last then (s.setFab fun f => { f with stMsg := [] }).streamMsg hdr lvl ps
    else s.setFab fun f => { f with stMsg := ps }

/-! ### The memory port of a VSU (R439, R459) -/

/-- MEM_RERR on an image-window access: the shadow goes to FAILED with check code 9 (R459). -/
def State.windowFails (s : State) : State := ({ s with img := { s.img with shState := .failed } }).checkFails { code := 9 }

/-- What a response means to the part of the unit that asked. -/
def State.memAnswer (s : State) (u : MemUse) (data : List Byte) (err : Bool) : State :=
  match u with
  | .xlat o => s.xlatFill o (BitVec.ofNat 64 (fieldAt data (s.xlatAddr o.ctx o.id % 32) 8)) err
  | .job off => s.jobBeat off data err
  | .imageWrite =>
    if err then s.windowFails else s
  | .imageRead => if err then s.windowFails else s
  | .imageCopy a =>
    if err then s.windowFails else s.memReq { use := .imageWrite, write := true, addr := a, bytes := data }
  | .evtWrite => if err then s.dropRec (.host 0) else s

/-- MEM_PORT_RESPONSE. -/
def State.doMemPortResponse (s : State) (tag : Nat) (data : List Byte) (err : Bool) : State :=
  match s.fab.mem.find? fun e => e.1 == tag with
  | some (_, u) => (s.memFree tag).memAnswer u (padTo 32 data) err
  | none => s

/-! ### Log registers (R255, R256) -/

def State.doXfRejectLogRead (s : State) (via : ReadVia) : State := s.readClear via Reg.XF_REJECT_LOG
def State.doXfPortErrRead (s : State) (port : Nat) (via : ReadVia) : State := s.readClear via (Reg.XF_PORT_ERR + 8 * port)
def State.doXfLaneStatusRead (s : State) (lane : Nat) (via : ReadVia) : State :=
  s.readClear via (Reg.XF_LANE_STATUS + 8 * lane)
def State.doMemErrLogRead (s : State) (via : ReadVia) : State := s.readClear via Reg.MEM_ERR_LOG

/-- SIDE_READ (R242). A side READ request reads up to 3,584 bytes and answers with data. -/
def execSideRead (port : Nat) (r : SideReq) (s : State) : Host.Outcome State Fault Refusal :=
  .next (s.doSideRead port r)

/-- SIDE_WRITE (R243). A side WRITE request checks its TCRC and writes its data, or answers CORRUPT. -/
def execSideWrite (port : Nat) (r : SideReq) (data : List Byte) (tcrc : Nat) (s : State) : Host.Outcome State Fault Refusal :=
  .next (s.doSideWrite port r data tcrc)

/-- SIDE_FENCE (R242). A side FENCE request is accepted and waits for earlier requests from its source. -/
def execSideFence (port : Nat) (r : SideReq) (s : State) : Host.Outcome State Fault Refusal :=
  .next (s.doSideFence port r)

/-- FENCE_COMPLETE (R242). Every earlier request of the pair has completed and the FENCE is answered. -/
def execFenceComplete (s : State) : Host.Outcome State Fault Refusal :=
  .next (s.doFenceComplete)

/-- READ_SPK (R502). A side READ_SPK request returns a sprocket's value and status. -/
def execReadSpk (port : Nat) (r : SideReq) (s : State) : Host.Outcome State Fault Refusal :=
  .next (s.doReadSpk port r)

/-- SIDE_BAD_OP (R242). A side request with an unused OP is answered BAD_OP. -/
def execSideBadOp (port : Nat) (r : SideReq) (s : State) : Host.Outcome State Fault Refusal :=
  .next (s.doSideBadOp port r)

/-- SIDE_RSP_RX (R244). A source receives a side response and completes its request. -/
def execSideRspRx (tag : RspTag) (status : Nat) (data : List Byte) (s : State) : Host.Outcome State Fault Refusal :=
  .next (s.doSideRspRx tag status data)

/-- SIDE_REQ_TIMEOUT (R244). A side request has no response within MEM_CTRL.TIMEOUT_US and completes with TIMEOUT. -/
def execSideReqTimeout (tag : Nat) (s : State) : Host.Outcome State Fault Refusal :=
  .next (s.doSideReqTimeout tag)

/-- BAR2_READ (R247). A host read through BAR2 is split into side reads and completed, or completed with Completer
Abort. -/
def execBar2Read (off : Nat) (len : Nat) (s : State) : Host.Outcome State Fault Refusal :=
  .next (s.doBar2Read off len)

/-- BAR2_WRITE (R247). A posted host write through BAR2 is split into side writes and its status logged. -/
def execBar2Write (off : Nat) (data : List Byte) (s : State) : Host.Outcome State Fault Refusal :=
  .next (s.doBar2Write off data)

/-- SIGNAL_FLIT_RX (R250). A destination judges the records of a side SIGNAL flit, applies or refuses them and returns
SIG_ACK. -/
def execSignalFlitRx (port : Nat) (dno : Nat) (sub : Nat) (dstSub : Nat) (recs : List SigRec) (s : State) : Host.Outcome State Fault Refusal :=
  .next (s.doSignalFlitRx port dno sub dstSub recs)

/-- SIG_ACK_RX (R252). A source receives SIG_ACK and retires the acknowledged or refused records. -/
def execSigAckRx (dno : Nat) (sub : Nat) (ackSeq : Nat) (status : Nat) (s : State) : Host.Outcome State Fault Refusal :=
  .next (s.doSigAckRx dno sub ackSeq status)

/-- SIGNAL_RESEND (R251). Every 100 µs a source resends each unacknowledged SIGNAL record. -/
def execSignalResend (s : State) : Host.Outcome State Fault Refusal :=
  .next (s.doSignalResend)

/-- SIGNAL_GIVE_UP (R251). After 4 ms without an ACK a source gives the record up and writes SPK_UNREACHABLE. -/
def execSignalGiveUp (s : State) : Host.Outcome State Fault Refusal :=
  .next (s.doSignalGiveUp)

/-- XF_REJECT_LOG_READ (R255). A read of XF_REJECT_LOG returns and clears the last rejection. -/
def execXfRejectLogRead (via : ReadVia) (s : State) : Host.Outcome State Fault Refusal :=
  .next (s.doXfRejectLogRead via)

/-- XF_PORT_ERR_READ (R255). A read of XF_PORT_ERR returns and clears a port's error counts. -/
def execXfPortErrRead (port : Nat) (via : ReadVia) (s : State) : Host.Outcome State Fault Refusal :=
  .next (s.doXfPortErrRead port via)

/-- XF_LANE_STATUS_READ (R255). A read of XF_LANE_STATUS returns and clears the corrected-symbol count. -/
def execXfLaneStatusRead (lane : Nat) (via : ReadVia) (s : State) : Host.Outcome State Fault Refusal :=
  .next (s.doXfLaneStatusRead lane via)

/-- MEM_ERR_LOG_READ (R256). A read of MEM_ERR_LOG returns and clears the last failed request. -/
def execMemErrLogRead (via : ReadVia) (s : State) : Host.Outcome State Fault Refusal :=
  .next (s.doMemErrLogRead via)

/-- STREAM_TX_BEAT (R445). The host die passes a scheduled payload or side flit on STX into the VSU's queues. -/
def execStreamTxBeat (side : Bool) (q : Nat) (hdr : FlitBody) (lvl : Nat) (last : Bool) (payload : List Byte) (s : State) : Host.Outcome State Fault Refusal :=
  .next (s.doStreamTxBeat side q hdr lvl last payload)

/-- MEM_PORT_RESPONSE (R439). A memory-port response arrives with its tag and completes its request. -/
def execMemPortResponse (tag : Nat) (data : List Byte) (err : Bool) (s : State) : Host.Outcome State Fault Refusal :=
  .next (s.doMemPortResponse tag data err)


end Sys2Proof.Machine
end

