-- ==== Sys2Proof/Machine/Messages.lean ====
section
/-! DEFINITION. Sys2Proof/Machine/Messages.lean: notices and messages of the lantern (R416, R417): single BCAST flits at
level MGMT. -/

namespace Sys2Proof.Machine

/-- The flit of a notice (BKIND 2) or of a message (BKIND 3). -/
def mgmtFlit (id bkind : Nat) (payload : List Byte) : Flit :=
  mkFlit (.bcast id 0 bkind) 0 15 false (padTo 224 payload) (crc64 (padTo 224 payload))

/-! ### Notices -/

/-- The payload of a VERDICT notice. -/
def verdictPayload (v : Verdict) : List Byte :=
  leBytes 4 0 ++ leBytes 2 1 ++ leBytes 2 v.dno ++ leBytes 8 v.state ++ leBytes 8 v.ns.toNat ++ leBytes 8 v.epoch

/-- The payload of FW_GO (kind 2) and FW_ABORT (kind 3). -/
def fwPayload (kind : Nat) (act : W) : List Byte := leBytes 4 0 ++ leBytes 4 kind ++ leBytes 8 act.toNat

/-- The ports on which a unit forwards a notice, as R192 decides for the common part of an image; `src` none at the root
that sends it. -/
def State.noticePorts (s : State) (src : Option Nat) : List Nat :=
  if s.isSpire then
    (if s.isRoot || entPos (s.dnoEnt s.ident.dno) % 16 = 0 then
      (s.treePorts src).filter fun p => !s.isRoot || s.portFixed p
     else [])
  else if s.isDome then
    ((upto 64).filter fun p => decide (32 ≤ p) && s.portUp p && (p - 32) % 16 != 0 && src != some p) ++
    ((upto 16).map s.diePort).filter s.portUp
  else []

/-- Sends a notice on. -/
def State.sendNotice (s : State) (src : Option Nat) (id : Nat) (payload : List Byte) : State :=
  (s.noticePorts src).foldl (fun t p => t.queueFlit p none (mgmtFlit id 2 payload)) s

/-! ### Messages -/

def idWord (kind id : Nat) : Nat := id % 2 ^ 14 + kind % 4 * 2 ^ 14

/-- The body of a message from byte 4 on. -/
def msgBodyBytes : MsgBody → List Byte
  | .join target anchor wsc base phase ratio epoch lastSeq hdn =>
    leBytes 4 1 ++ leBytes 8 target.toNat ++ leBytes 8 anchor.toNat ++ leBytes 8 wsc.toNat ++ leBytes 8 base.toNat ++
    leBytes 1 phase ++ leBytes 1 ratio ++ leBytes 1 epoch ++ leBytes 1 0 ++ leBytes 2 lastSeq ++ leBytes 2 hdn
  | .ledger period prop => leBytes 4 2 ++ leBytes 8 period ++ leBytes 8 prop
  | .fwReady manifest ready fail => leBytes 4 3 ++ leBytes 4 manifest ++ leBytes 4 (bit ready + 2 * bit fail)
  | .other kind => leBytes 4 kind

def msgPayload (m : Message) : List Byte :=
  leBytes 2 (idWord m.dstKind m.dst) ++ leBytes 2 (idWord m.srcKind m.src) ++ msgBodyBytes m.body

/-- A message of this unit's. -/
def State.ownMsg (s : State) (dstKind dst : Nat) (b : MsgBody) : Message :=
  { dstKind := dstKind, dst := dst, srcKind := s.senderKind, src := s.sender, body := b }

/-- Sends a message on a port. -/
def State.msgOut (s : State) (p : Nat) (m : Message) : State := s.queueFlit p none (mgmtFlit 0 3 (msgPayload m))

/-- Routes a message by R234; one that cannot be routed is dropped and counted. -/
def State.routeMsg (s : State) (m : Message) : State :=
  let dno := if m.dstKind = 1 then m.dst / 16 else m.dst
  let die := if m.dstKind = 1 then some (m.dst % 16) else none
  let src := if m.srcKind = 1 then m.src / 16 else m.src
  if 1 < m.dstKind then s.msgDropped
  else
    match s.exit (s.route src dno die) with
    | .port p => if s.portUp p then s.msgOut p m else s.msgDropped
    | _ => s.msgDropped

/-- Is a message addressed to this unit, or to its link peer. -/
def State.msgForMe (s : State) (m : Message) : Bool :=
  m.dstKind == 3 || (m.dstKind == s.senderKind && m.dst == s.sender)

end Sys2Proof.Machine
end

