-- ==== Sys2Proof/Machine/Faults.lean ====
section
/-! DEFINITION. Sys2Proof/Machine/Faults.lean: the detector and the verdict states, spares, joins and swaps, fences and
verdict broadcasts, and the guaranteed operations of the belfry (R354 to R374). -/

namespace Sys2Proof.Machine

/-! ### Verdict states (R354 to R356) -/

/-- A judged peer after a round's verdict; runs are of adjacent rounds. -/
def Judge.after (j : Judge) (v : Nat) (adjacent mark : Bool) : Judge :=
  let neg := if v = 0 then 0 else min 2 ((if adjacent then j.negRun else 0) + 1)
  let pos := if v = 0 then min 2 ((if adjacent then j.posRun else 0) + 1) else 0
  let st := match j.st with
    | .alive => if v = 0 then .alive else .suspect
    | .suspect => if v = 0 then .alive else .doubted
    | .doubted => if pos = 2 && !mark then .alive else .doubted
    | x => x
  { st := st, negRun := neg, posRun := pos, lastV := v }

def State.setPeerJ (s : State) (n : Nat) (j : Judge) : State :=
  { s with flt := { s.flt with peers := s.flt.peers.set n j } }

/-- Is a port one to a VD peer. -/
def State.vdPeerPort (s : State) (p : Nat) : Bool :=
  !s.diePortOf p && ((s.port p).peerRole == 1 || (s.port p).peerRole == 2)

def State.portIsolated (s : State) (p : Nat) : Bool := (s.port p).st == .isolated
def State.dieIsolated (s : State) (d : Nat) : Bool := s.portIsolated (2 * d) || s.portIsolated (2 * d + 1)

/-- A spare that stood, or was to stand, for a position goes back to ROLE spare. -/
def DieSt.unstage (d : DieSt) : DieSt := { d with staged := false, staging := false, stageFor := none }

def State.unstageFor (s : State) (l : Nat) : State :=
  { s with flt := { s.flt with
      dies := s.flt.dies.map fun (e : Nat × DieSt) => (e.1, if e.2.stageFor == some l then e.2.unstage else e.2) } }

/-! ### Staging (R357) -/

/-- The die port that is staged, or being staged, for a position. -/
def State.stagingFor (s : State) (l : Nat) : Option Nat := (upto 16).find? fun d => (s.die d).stageFor == some l

/-- May a die port be staged for a doubted one: a spare that is ALIVE, of the same part code, revision and grade. -/
def State.eligible (s : State) (d doubted : Nat) : Bool :=
  let x := s.die d
  s.dieRole d == 2 && x.judge.st == .alive && x.stageFor.isNone && !x.aside &&
  x.idPart.isSome && x.idPart == (s.die doubted).idPart

/-- Is the next swap point of a run the end of its phase: the steps to the end are no more than those to a checkpoint (R185). -/
def PhaseDesc.endFirst (d : PhaseDesc) (done : Nat) : Bool :=
  d.endSwap && d.nSteps != 0 && decide (d.successor < 32) &&
  (d.ckptEvery == 0 ||
    decide (d.nSteps - 1 - done ≤ (d.ckptOffset + d.ckptEvery - done % d.ckptEvery) % d.ckptEvery))

/-- The phase that will be in force at the next swap point, as far as the DOME knows it: at a phase end the successor. -/
def State.swapPhase (s : State) : Nat :=
  match s.cad.decs.find? fun d => d.kind == .phase with
  | some d => d.phase
  | none =>
    if s.cad.st == .held then s.fld Fld.IMG_CTRL_RESUME_PHASE
    else
      match s.desc with
      | some d => if d.endFirst (s.cad.wsc - s.cad.baseWsc).toNat then d.successor % 16 else s.cad.phase
      | none => s.cad.phase

/-- TRAIN to the die on port `d`, with the HDN of a position and the run as it stands (R357). -/
def State.tellSpare (s : State) (d l : Nat) : State :=
  let p := s.diePort d
  let t := s.trainOf p (some ⟨s.cad.epoch, s.cad.armNo, s.cad.st == .running, s.swapPhase⟩)
  s.queueOs p (.train { t with hdn := some (s.ident.dno * 16 + l) })

/-- A DOME whose run goes on or is held says so to the spares that it stages, which take its cadence state (R357; log
entry 190). -/
def State.tellSpares (s : State) : State :=
  if s.isDome then
    (upto 16).foldl (fun t d =>
      match (t.die d).stageFor with
      | some l => t.tellSpare d l
      | none => t) s
  else s

/-- Begins to stage die port `d` for position `l`: TRAIN with the logical HDN and the run, then the committed image's common
part and the position's section. -/
def State.stageAt (s : State) (d l : Nat) : State :=
  let p := s.diePort d
  let s1 := s.setDie d { s.die d with staging := true, stageFor := some l }
  let s2 := s1.tellSpare d l
  match s.img.committed with
  | none => s2
  | some img =>
    match img.dieEnt (s.ident.dno * 16 + l) with
    | none => s2
    | some e =>
      if s.portUp p then
        s2.sendTiles p img.id 0 (((tilesOf (0, img.dirEnd) ++ tilesOf (e.secOff, e.secLen)).eraseDups).map fun i =>
          (i, img.tiles.get i []))
      else s2

/-- The doubted job die ports that have no spare yet, in the order in which they became DOUBTED. -/
def State.unserved (s : State) : List Nat :=
  ((upto 16).filter fun d => s.dieRole d == 1 && (s.die d).judge.st == .doubted &&
    (s.stagingFor (s.logicalOf d)).isNone).mergeSort fun a b => (s.die a).doubtNo ≤ (s.die b).doubtNo

/-- Stages what can be staged, while FLT_CFG.AUTO_STAGE is 1. -/
def State.stageAll (s : State) : State :=
  if s.flag Fld.FLT_CFG_AUTO_STAGE then
    s.unserved.foldl (fun t d =>
      match (upto 16).find? fun c => t.eligible c d with
      | some c => t.stageAt c (t.logicalOf d)
      | none => t) s
  else s

/-- A die port's new verdict state, with what entering and leaving DOUBTED does. -/
def State.moveDie (s : State) (d : Nat) (j : Judge) : State :=
  let x := s.die d
  if x.judge.st = j.st then s.setDie d { x with judge := j }
  else
    let n := s.flt.doubts + 1
    let s1 := s.setDie d { x with judge := j, doubtNo := if j.st == .doubted then n else x.doubtNo }
    let s2 : State := if j.st == .doubted then { s1 with flt := { s1.flt with doubts := n } } else s1
    let s3 := s2.raise Fld.FLT_STATUS_VERDICT
    if j.st == .doubted then s3.stageAll
    else if x.judge.st == .doubted && j.st == .alive then s3.unstageFor (s.logicalOf d)
    else s3

def State.movePeer (s : State) (n : Nat) (j : Judge) : State :=
  let s1 := s.setPeerJ n j
  if (s.peerJ n).st = j.st then s1 else s1.raise Fld.FLT_STATUS_VERDICT

/-! ### The detector (R354, R355) -/

/-- Did a port enter UP before a round of 65,536 ns that ends now. -/
def State.upRound (s : State) (p : Nat) : Bool :=
  let x := s.port p
  x.upAt != 0 && decide (x.upAt + 65536 * nsX ≤ s.time.now)

/-- The verdict of a round over some ports and, for a die, its sideband. -/
def State.verdictOf (s : State) (ps : List Nat) (side : Nat) (fixed mark : Bool) : Nat :=
  let n := (ps.map fun p => (s.port p).hbCount).sum
  let v := (ps.map fun p => (s.port p).hbTimed).sum
  if !(ps.any s.upRound) then 0
  else if n = 0 && side = 0 then 1
  else if n != 0 && v = 0 && fixed && s.time.servo == .locked then 3
  else if mark then 2
  else 0

/-- Is a die port judged: it holds a position or is a spare, and its ports are not isolated. -/
def State.judgedDie (s : State) (d : Nat) : Bool :=
  s.dieRole d != 0 && !(s.portIsolated (2 * d) && s.portIsolated (2 * d + 1))

def State.roundDie (s : State) (adjacent : Bool) (d : Nat) : State :=
  let x := s.die d
  if s.judgedDie d then
    s.moveDie d (x.judge.after (s.verdictOf [2 * d, 2 * d + 1] x.sbHbs true x.mark) adjacent x.mark)
  else s

def State.roundPeer (s : State) (adjacent : Bool) (p : Nat) : State :=
  if s.vdPeerPort p then
    s.movePeer p ((s.peerJ p).after (s.verdictOf [p] 0 (s.portFixed p) false) adjacent false)
  else s

/-- DETECTOR_ROUND_END: at each multiple of 65,536 ns of HT, once; verdict states rest while core 3 is held in reset (R402).
-/
def State.doDetectorRoundEnd (s : State) : State :=
  let r := s.htNs.toNat / 65536
  if s.isVd && s.awake && !s.coreHeld 3 && s.flt.round != r then
    let adj := r == s.flt.round + 1
    let s1 := if s.isDome then (upto 16).foldl (fun t d => t.roundDie adj d) s else s
    let s2 := (upto 64).foldl (fun t p => t.roundPeer adj p) s1
    { s2 with
      flt := { s2.flt with
        round := r, dies := s2.flt.dies.map fun (e : Nat × DieSt) => (e.1, { e.2 with sbHbs := 0 }) },
      fab := { s2.fab with
        ports := s2.fab.ports.map fun (e : Nat × PortSt) => (e.1, { e.2 with hbCount := 0, hbTimed := 0 }) } }
  else s

/-! ### Fences (R356, R364) -/

/-- The reports of some ports leave the aggregates (R119, R356). -/
def State.dropReports (s : State) (ps : List Nat) : State :=
  let keep (t : Tab Report) : Tab Report := t.filter fun e => !ps.contains e.1
  { s with cad := { s.cad with reps := ⟨keep s.cad.reps.a, keep s.cad.reps.b⟩ } }

/-- A port of a peer has been isolated: the peer is FENCED. -/
def State.fencePeer (s : State) (p : Nat) : State :=
  if !s.isVd then s
  else if s.diePortOf p then
    let d := p / 2
    let x := s.die d
    if x.judge.st == .swapped || x.judge.st == .fenced then s
    else ((s.dropReports [2 * d, 2 * d + 1]).moveDie d { x.judge with st := .fenced }).raise Fld.FLT_STATUS_FENCED
  else if s.vdPeerPort p then
    let ps := (upto 64).filter fun n => s.vdPeerPort n && (s.port n).peerId == (s.port p).peerId
    ps.foldl (fun t n =>
      if (t.peerJ n).st == .fenced then t
      else ((t.dropReports [n]).movePeer n { t.peerJ n with st := .fenced }).raise Fld.FLT_STATUS_FENCED) s
  else s

/-- Isolation by software: PORT_ISOLATE, BEL_ISOLATE, XF_PORT_CFG.ISOLATE, or a verdict. -/
def State.isolatePort (s : State) (p : Nat) : State :=
  if s.portIsolated p then s else (s.isolate p).fencePeer p

/-! ### FLT_CMD (R356, R361) -/

/-- CLEAR of R356. -/
def State.clearDie (s : State) (d : Nat) : State :=
  let x := s.die d
  let ok := (x.judge.st == .fenced || x.judge.st == .swapped) && !s.dieIsolated d
  let y : DieSt := { x with aside := false, grace := if ok && x.judge.st == .fenced then 1024 else x.grace }
  let s1 := s.setDie d y
  if ok then (s1.moveDie d { y.judge with st := .alive }).stageAll else s1.stageAll

def State.clearPeer (s : State) (p : Nat) : State :=
  if (s.peerJ p).st == .fenced && !((upto 64).any fun n => s.vdPeerPort n &&
      (s.port n).peerId == (s.port p).peerId && s.portIsolated n) then
    s.movePeer p { s.peerJ p with st := .alive }
  else s

/-- DOUBT: from ALIVE or SUSPECT to DOUBTED; positive verdicts count from here on. -/
def State.doubtDie (s : State) (d : Nat) : State :=
  let j := (s.die d).judge
  if j.st == .alive || j.st == .suspect then s.moveDie d { j with st := .doubted, posRun := 0 } else s

def State.doubtPeer (s : State) (p : Nat) : State :=
  let j := s.peerJ p
  if j.st == .alive || j.st == .suspect then s.movePeer p { j with st := .doubted, posRun := 0 } else s

/-- Takes FLT_REMAP into force. -/
def State.takeRemap (s : State) : State :=
  { s with flt := { s.flt with remap := s.reg Reg.FLT_REMAP, remapP := false } }

def State.remapCmd (s : State) : State :=
  if s.notRunning then s.takeRemap else { s with flt := { s.flt with remapP := true } }

/-- A write of FLT_CMD: PORT and PEER, then the command bits in ascending order. -/
def State.writeFltCmd (s : State) (v : W) : State :=
  if !s.present Reg.FLT_CMD then s
  else
    let s0 := s.putMasked Reg.FLT_CMD 0x7F v
    let n := v.toNat % 64
    let peer := v.getLsbD 6
    let die := !peer && s.isDome && decide (n < 16)
    let s1 := if v.getLsbD 8 then (if peer then s0.clearPeer n else if die then s0.clearDie n else s0) else s0
    let s2 := if v.getLsbD 9 then (if peer then s1.doubtPeer n else if die then s1.doubtDie n else s1) else s1
    let s3 := if v.getLsbD 10 && die then s2.setDie n { s2.die n with approved := true } else s2
    if v.getLsbD 11 && s.isDome then s3.remapCmd else s3

def State.doFltClear (s : State) (v : W) : State := s.writeFltCmd (v ||| 0x100)
def State.doFltDoubt (s : State) (v : W) : State := s.writeFltCmd (v ||| 0x200)
def State.doFltApprove (s : State) (v : W) : State := s.writeFltCmd (v ||| 0x400)
def State.doCommitRemap (s : State) (v : W) : State := s.writeFltCmd (v ||| 0x800)

/-! ### Staged, join and swap (R357, R359 to R363) -/

/-- Is the VSU of a die port LOCKED in class H, by the heartbeat byte of its sideband (R361, R451). -/
def State.spareLocked (s : State) (c : Nat) : Bool :=
  let hb := (s.sb.links.get c {}).hb
  s.dieLevel c != 3 || (hb % 8 == Servo.code .locked && hb / 8 % 4 == 2)

/-- SPARE_STAGED: the spare has passed its checks and loaded its next set; it must be LOCKED in class H. Staging rests while core 3
is held in reset (R402). -/
def State.doSpareStaged (s : State) (d : Nat) : State :=
  let x := s.die d
  if s.isDome && s.awake && !s.coreHeld 3 && d < 16 && x.staging && s.portUp (s.diePort d) && s.spareLocked d then
    (s.setDie d { x with staging := false, staged := true }).raise Fld.FLT_STATUS_STAGED
  else s

/-- Is the boundary after SC a swap point of R185. -/
def State.workSwapPoint (s : State) : Bool :=
  match s.desc with
  | some d =>
    s.cad.st == .running &&
    ((!s.cad.freewheel && d.ckptEvery != 0 && (s.cad.wsc - s.cad.baseWsc).toNat % d.ckptEvery == d.ckptOffset) ||
     (d.endSwap && ((!s.cad.freewheel && d.nSteps != 0 && s.cad.wsc == s.cad.baseWsc + BitVec.ofNat 64 d.nSteps - 1) ||
       (s.held .phase (s.cad.sc + 1)).isSome)))
  | none => false

/-- Is the boundary `m` a swap point (R185, R359). -/
def State.swapPoint (s : State) (m : W) : Bool :=
  s.workSwapPoint || (s.cad.st == .held && (s.resumeFor m).isSome)

/-- The swaps that AUTO_SWAP or APPROVE admits: doubted die ports in the order in which they became DOUBTED, and at a RESUME
a fenced one whose spare is staged (R376). -/
def State.swapWanted (s : State) : List Nat :=
  ((upto 16).filter fun d => s.dieRole d == 1 &&
    ((s.die d).judge.st == .doubted ||
      ((s.die d).judge.st == .fenced && s.cad.st == .held && (s.stagedFor (s.logicalOf d)).isSome)) &&
    (s.flag Fld.FLT_CFG_AUTO_SWAP || (s.die d).approved)).mergeSort
    fun a b => (s.die a).doubtNo ≤ (s.die b).doubtNo

/-- Does a die differ from the REV or GRADE that a logical position's directory entry asks for (R168, R201). -/
def State.entryDiffers (s : State) (l c : Nat) : Bool :=
  let v := ((s.die c).idPart.getD 0).toNat
  match s.img.committed.bind fun img => img.dieEnt (s.ident.dno * 16 + l) with
  | some e => (e.rev != 255 && e.rev != (v >>> 32) % 256) || (e.grade != 255 && e.grade != (v >>> 40) % 256)
  | none => false

/-- Does the last report of a die port show DISARM. -/
def State.dieDisarm (s : State) (c : Nat) : Bool :=
  [s.cad.reps.a, s.cad.reps.b].any fun t => t.any fun e => e.1 / 2 == c && e.2.disarm

/-- The result code of R361 for a doubted die port: 1 admits. A staged spare whose next set or shadow fails a check is ready no
more and reports DISARM; whether a spare that is not staged has failed one is a free value (log entry 158). -/
def State.swapResult (s : State) (d : Nat) : Nat :=
  match s.stagingFor (s.logicalOf d) with
  | none => 2
  | some c =>
    if !(s.portUp (2 * c) && s.portUp (2 * c + 1) && s.spareLocked c) then 3
    else if (s.die c).idPart != (s.die d).idPart || s.entryDiffers (s.logicalOf d) c then 4
    else if !(s.die c).staged then (if Config.spareFailed s.free then 5 else 6)
    else if s.dieDisarm c then 5
    else 1

/-- FLT_SWAP_LOG. -/
def State.swapLog (s : State) (l src dst result : Nat) (wsc : W) : State :=
  s.setReg Reg.FLT_SWAP_LOG (mkw [(0, l), (4, src), (8, dst), (12, result), (16, wsc.toNat % 65536)])

/-- Examines one doubted die port at the cutoff. What comes of it waits for the boundary: one that is held after all makes no
swap and records no refusal (R363). -/
def State.examine (s : State) (d : Nat) : State :=
  let c := (s.stagingFor (s.logicalOf d)).getD d
  { s with free := s.free + 1, flt := { s.flt with swapP := s.flt.swapP ++ [(d, c, s.swapResult d)] } }

/-- A refusal is logged; a spare that failed is set aside. -/
def State.refuseSwap (s : State) (wsc : W) (d c r : Nat) : State :=
  let s1 := (s.swapLog (s.logicalOf d) d (if r = 2 then 0 else c) r wsc).raise Fld.FLT_STATUS_SWAP_REFUSED
  if r = 3 || r = 5 || r = 6 then (s1.setDie c { (s1.die c).unstage with aside := true }).stageAll else s1

/-- The cutoff of a swap point that is not held (R361, R363). While LIVE_SWAP is 0 only a RESUME's swap point swaps. -/
def State.admitSwaps (s : State) (m : W) : State :=
  if s.isDome && s.swapPoint m && (s.flag Fld.FLT_CFG_LIVE_SWAP || s.cad.st == .held) then
    s.swapWanted.foldl (fun t d => t.examine d) s
  else s

/-- One swap takes effect (R362): the doubted die port is isolated and SWAPPED, and the two positions exchange their die
ports. -/
def State.swapOne (s : State) (wsc : W) (d c : Nat) : State :=
  let l := s.logicalOf d
  let lc := s.logicalOf c
  let m0 := (upto 16).map fun i => if i = l then c else if i = lc then d else s.physOf i
  let map := mkw ((upto 16).map fun i => (4 * i, m0.getD i 0))
  let s1 := ((s.isolate (2 * d)).isolate (2 * d + 1)).fencePeer (2 * d)
  let s2 := s1.setDie c { (s1.die c).unstage with grace := 1024, sigCount := 0, sigW0 := some wsc }
  let s3 := s2.moveDie d { (s2.die d).judge with st := .swapped }
  let s4 : State := { s3 with flt := { s3.flt with
      remap := map, remapP := false, sigs := s3.flt.sigs.filter fun g => g.die != c } }
  (s4.swapLog l d c 1 wsc).raise Fld.FLT_STATUS_SWAP_DONE

/-- What the cutoff found, in the cycle in which the boundary fires: the swaps admitted take place, and refusals are recorded. Each
takes up the APPROVE for its port. -/
def State.doSwaps (s : State) (wsc : W) : State :=
  s.flt.swapP.foldl (fun t (e : Nat × Nat × Nat) =>
    let t1 := t.setDie e.1 { t.die e.1 with approved := false }
    if e.2.2 = 1 then t1.swapOne wsc e.1 e.2.1 else t1.refuseSwap wsc e.1 e.2.1 e.2.2)
    { s with flt := { s.flt with swapP := [] } }

/-- JOIN_RECORD_SEND: for a working swap point, at least 20 µs before it, to each staged spare whose swap is admitted. -/
def State.doJoinRecordSend (s : State) : State :=
  let m := s.cad.sc + 1
  let b := s.boundaryNs m
  if s.isDome && s.awake && s.workSwapPoint && s.flag Fld.FLT_CFG_LIVE_SWAP && decide (s.htNs.toNat + 20000 ≤ b.toNat) then
    s.swapWanted.foldl (fun t d =>
      let l := t.logicalOf d
      match t.stagedFor l with
      | some c =>
        t.msgOut (t.diePort c) (t.ownMsg 3 0 (.join m b (t.cad.wsc + 1) t.cad.baseWsc t.cad.phase t.cad.k t.cad.epoch
          t.cad.lastSeqRx (t.ident.dno * 16 + l)))
      | none => t) s
  else s

/-- JOIN_RX: a staged spare holds the record as a provisional RESUME for its boundary. -/
def State.doJoinRx (s : State) (m : Message) : State :=
  match m.body with
  | .join target anchor wsc base phase ratio epoch lastSeq hdn =>
    if !s.isVd && s.awake && s.cad.st == .held && s.cad.spare.isSome then
      { s with
        ident := { s.ident with hdn := hdn % 2 ^ 14 },
        cad := { s.cad with
          epoch := epoch,
          prov := some { seq := lastSeq, epoch := epoch, kind := .resume, target := target, phase := phase, anchor := anchor,
                         wsc := wsc, base := base, ratio := ratio } } }
    else s
  | _ => s

/-! ### Verdict broadcasts (R365, R366) -/

/-- Sets or clears FENCED in both copies of an entry of the DNO table. -/
def State.fenceEntry (s : State) (d : Nat) (on : Bool) : State :=
  let b : W := 0x10000000
  let f (w : W) : W := if on then w ||| b else w &&& ~~~ b
  let s1 := s.setReg (Reg.XF_DNO + 8 * d) (f (s.reg (Reg.XF_DNO + 8 * d)))
  { s1 with fab := { s1.fab with dnoAct := s1.fab.dnoAct.set d (f (s1.fab.dnoAct.get d 0)) } }

/-- The fences that wait take effect: at the next boundary, or at once while IDLE or HELD. -/
def State.applyFences (s : State) : State :=
  s.flt.fenceP.foldl (fun t (e : Nat × Bool) => t.fenceEntry e.1 e.2) { s with flt := { s.flt with fenceP := [] } }

/-- Is a DNO FENCED in the table as it is written. -/
def State.entryFenced (s : State) (d : Nat) : Bool := (s.reg (Reg.XF_DNO + 8 * d)).getLsbD 28

/-- Accepts a verdict. -/
def State.takeVerdict (s : State) (v : Verdict) : State :=
  let ps := if v.state = 3 then
      (upto 64).filter fun p => (s.port p).peerId == v.dno && (s.port p).peerKind == 0 && (s.port p).peerRole != 0 &&
        !s.portIsolated p
    else []
  let e : VerdictRec := { v, ports := ps, was := s.entryFenced (v.dno % 4096), prev := s.flt.vRx }
  let s1 : State := { s with flt := { s.flt with
      vRx := some v, vSeen := e :: s.flt.vSeen, fenceP := s.flt.fenceP ++ [(v.dno % 4096, v.state == 3)] } }
  let s2 := ps.foldl (fun t p => t.isolatePort p) s1
  if s2.notRunning then s2.applyFences else s2

/-- VERDICT_SEND: a write of FLT_VERDICT_TX with GO at the issuer's root. -/
def State.doVerdictSend (s : State) (v : W) : State :=
  if s.isRoot && s.present Reg.FLT_VERDICT_TX && s.cad.root.issuer then
    let s0 := s.putMasked Reg.FLT_VERDICT_TX 0x7FFF v
    let st := (v.toNat >>> 12) % 8
    if st = 0 || st = 3 then
      let q := (s.flt.vTx + 1) % 65536
      let n : Verdict := ⟨q, v.toNat % 4096, st, s.htNs, s.cad.root.epoch⟩
      (({ s0 with flt := { s0.flt with vTx := q } } : State).sendNotice none q (verdictPayload n)).takeVerdict n
    else s0
  else s

/-- Discards a verdict that a copy contradicts, with what it did: its fence, waiting or in the table, the ports that it isolated,
and its place in FLT_VERDICT_RX (R366; log entry 164). -/
def State.dropVerdict (s : State) (x : VerdictRec) : State :=
  let d := x.v.dno % 4096
  let waits := s.flt.fenceP.contains (d, x.v.state == 3)
  let s1 : State := { s with flt := { s.flt with
    fenceP := s.flt.fenceP.filter fun e => e != (d, x.v.state == 3),
    vRx := if s.flt.vRx = some x.v then x.prev else s.flt.vRx,
    vSeen := s.flt.vSeen.map fun y => if y = x then { y with void := true } else y } }
  let s2 := if waits then s1 else s1.fenceEntry d x.was
  x.ports.foldl (fun t p => t.unisolate p) s2

/-- A verdict notice that the lantern takes: the first valid copy of each VSEQ is accepted and forwarded; a copy that differs
raises VERDICT_CONFLICT, and both are discarded. -/
def State.verdictIn (s : State) (port : Nat) (n : Verdict) : State :=
  match s.flt.vSeen.find? fun x => x.v.vseq == n.vseq && x.v.epoch == n.epoch with
  | some x =>
    if x.v = n then s
    else (if x.void then s else s.dropVerdict x).raise Fld.FLT_STATUS_VERDICT_CONFLICT
  | none => (s.sendNotice (some port) n.vseq (verdictPayload n)).takeVerdict n

/-- What reaches the lantern on a port that is UP is taken, or waits in its level buffer while core 3 is held in reset (R402). -/
def State.toLantern (s : State) (port : Nat) (w : MgmtWait) (take : State → State) : State :=
  if s.awake && s.portUp port then
    (if s.coreHeld 3 then { s with evq := { s.evq with wait3 := s.evq.wait3 ++ [w] } } else take s)
  else s

/-- VERDICT_RX. -/
def State.doVerdictRx (s : State) (port : Nat) (n : Verdict) : State :=
  if s.isVd then s.toLantern port (.verdict port n) fun t => t.verdictIn port n else s

def State.doFltSwapLogRead (s : State) (via : ReadVia) : State := s.readClear via Reg.FLT_SWAP_LOG

/-! ### Guaranteed operations (R371 to R374) -/

/-- READ_HT: BEL_HT_NS, which latches for the reading path, then BEL_HT_FRAC (R10, R11). -/
def State.doReadHt (s : State) (via : ReadVia) : State :=
  s.readVia via fun t =>
    let p := via.path
    let t1 := if t.reach p Reg.BEL_HT_NS then { t with time := { t.time with latch := t.time.latch.set p t.htFrac } } else t
    (t1.readPlain p Reg.BEL_HT_NS).readPlain p Reg.BEL_HT_FRAC

def State.doReadSc (s : State) (via : ReadVia) : State :=
  s.readVia via fun t => (t.readPlain via.path Reg.BEL_SC).readPlain via.path Reg.BEL_WSC

def State.doReadSummary (s : State) (via : ReadVia) : State :=
  s.readVia via fun t => t.readPlain via.path Reg.BEL_SUMMARY

/-- HOLD_AT: CAD_HOLD_AT latched; a boundary that is not later than SC has no effect (R373). -/
def State.latchHoldAt (s : State) (v : W) : State :=
  if v.getLsbD 63 && decide (v.toNat % 2 ^ 63 ≤ s.cad.sc.toNat) then
    (s.setReg Reg.CAD_HOLD_AT (v &&& 0x7FFFFFFFFFFFFFFF)).setBit Fld.BEL_SUMMARY_HOLD_AT_LATE
  else s.setReg Reg.CAD_HOLD_AT v

def State.doHoldAt (s : State) (v : W) : State := if s.belfryOn then s.latchHoldAt v else s
def State.doQuiesce (s : State) : State := if s.belfryOn then s.latchQuiesce else s

/-- PORT_ISOLATE: the ports of the mask. -/
def State.doPortIsolate (s : State) (mask : W) : State :=
  if s.belfryOn then ((upto s.nPorts).filter fun p => mask.getLsbD p).foldl (fun t p => t.isolatePort p) s else s

/-- EVT_TAIL: selects a record of the belfry's tail and reads its four words. -/
def State.doEvtTail (s : State) (age : Nat) (via : ReadVia) : State :=
  s.readVia via fun t =>
    let p := via.path
    let t1 := if t.reach p Reg.BEL_EVT_SEL then t.setFld Fld.BEL_EVT_SEL_AGE (age % 64) else t
    (upto 4).foldl (fun u k => u.readPlain p (Reg.BEL_EVT_REC + 8 * k)) t1

/-- READ_NVS: selects a persistent word and reads it and its wear count. -/
def State.doReadNvs (s : State) (word : Nat) (via : ReadVia) : State :=
  s.readVia via fun t =>
    let p := via.path
    let t1 := if t.reach p Reg.BEL_NVS_ADDR then t.setFld Fld.BEL_NVS_ADDR_WORD (word % 4096) else t
    (t1.readPlain p Reg.BEL_NVS_DATA).readPlain p Reg.BEL_NVS_WEAR

/-- DETECTOR_ROUND_END (R354). At each multiple of 65,536 ns the VD judges each die port and peer port and moves its
verdict state. -/
def execDetectorRoundEnd (s : State) : Host.Outcome State Fault Refusal :=
  .next (s.doDetectorRoundEnd)

/-- SPARE_STAGED (R357). The spare has checked its section, loaded its next set and is LOCKED in class H, so it
becomes ROLE staged. -/
def execSpareStaged (d : Nat) (s : State) : Host.Outcome State Fault Refusal :=
  .next (s.doSpareStaged d)

/-- JOIN_RECORD_SEND (R362). At least 20 µs before a working swap point the DOME sends the staged spare a join record.
-/
def execJoinRecordSend (s : State) : Host.Outcome State Fault Refusal :=
  .next (s.doJoinRecordSend)

/-- JOIN_RX (R362). A staged spare receives a JOIN message and holds it as a provisional RESUME. -/
def execJoinRx (m : Message) (s : State) : Host.Outcome State Fault Refusal :=
  .next (s.doJoinRx m)

/-- FLT_CLEAR (R356). FLT_CMD.CLEAR returns a FENCED or SWAPPED port to ALIVE. -/
def execFltClear (v : W) (s : State) : Host.Outcome State Fault Refusal :=
  .next (s.doFltClear v)

/-- FLT_DOUBT (R356). FLT_CMD.DOUBT moves the selected port to DOUBTED. -/
def execFltDoubt (v : W) (s : State) : Host.Outcome State Fault Refusal :=
  .next (s.doFltDoubt v)

/-- FLT_APPROVE (R361). FLT_CMD.APPROVE admits a swap of the die port at the next swap point. -/
def execFltApprove (v : W) (s : State) : Host.Outcome State Fault Refusal :=
  .next (s.doFltApprove v)

/-- COMMIT_REMAP (R377). FLT_CMD.COMMIT_REMAP commits FLT_REMAP at the next boundary or at once. -/
def execCommitRemap (v : W) (s : State) : Host.Outcome State Fault Refusal :=
  .next (s.doCommitRemap v)

/-- FLT_SWAP_LOG_READ (R377). A read of FLT_SWAP_LOG returns and clears the last swap or refusal. -/
def execFltSwapLogRead (via : ReadVia) (s : State) : Host.Outcome State Fault Refusal :=
  .next (s.doFltSwapLogRead via)

/-- VERDICT_SEND (R365). FLT_VERDICT_TX.GO on the issuer sends a verdict notice down both planes. -/
def execVerdictSend (v : W) (s : State) : Host.Outcome State Fault Refusal :=
  .next (s.doVerdictSend v)

/-- VERDICT_RX (R366). A VD accepts a verdict notice and fences or clears the named DNO. -/
def execVerdictRx (port : Nat) (n : Verdict) (s : State) : Host.Outcome State Fault Refusal :=
  .next (s.doVerdictRx port n)

/-- READ_HT (R371). The guaranteed operation READ_HT returns HT through the belfry. -/
def execReadHt (via : ReadVia) (s : State) : Host.Outcome State Fault Refusal :=
  .next (s.doReadHt via)

/-- READ_SC (R371). The guaranteed operation READ_SC returns SC and WSC through the belfry. -/
def execReadSc (via : ReadVia) (s : State) : Host.Outcome State Fault Refusal :=
  .next (s.doReadSc via)

/-- READ_SUMMARY (R371). The guaranteed operation READ_SUMMARY returns the status summary. -/
def execReadSummary (via : ReadVia) (s : State) : Host.Outcome State Fault Refusal :=
  .next (s.doReadSummary via)

/-- HOLD_AT (R373). The guaranteed operation HOLD_AT latches a local hold of a boundary, or sets HOLD_AT_LATE. -/
def execHoldAt (v : W) (s : State) : Host.Outcome State Fault Refusal :=
  .next (s.doHoldAt v)

/-- QUIESCE (R371). The guaranteed operation QUIESCE latches a local hold of the next boundary. -/
def execQuiesce (s : State) : Host.Outcome State Fault Refusal :=
  .next (s.doQuiesce)

/-- PORT_ISOLATE (R220). The guaranteed operation PORT_ISOLATE isolates ports, discarding replay and answering their
side flits UNREACHABLE. -/
def execPortIsolate (mask : W) (s : State) : Host.Outcome State Fault Refusal :=
  .next (s.doPortIsolate mask)

/-- EVT_TAIL (R374). The guaranteed operation EVT_TAIL returns one of the last 64 event records. -/
def execEvtTail (age : Nat) (via : ReadVia) (s : State) : Host.Outcome State Fault Refusal :=
  .next (s.doEvtTail age via)

/-- READ_NVS (R371). The guaranteed operation READ_NVS returns a persistent word and its wear count. -/
def execReadNvs (word : Nat) (via : ReadVia) (s : State) : Host.Outcome State Fault Refusal :=
  .next (s.doReadNvs word via)


end Sys2Proof.Machine
end

