-- ==== Sys2Proof/Machine/Clock.lean ====
section
/-! DEFINITION. Sys2Proof/Machine/Clock.lean: host crossings, region stops, comparators, standby, and the energy ledger
(R379 to R401). -/

namespace Sys2Proof.Machine

/-! ### The host clock of a VSU (R383, R442) -/

/-- HOST_CLOCK_LOSS: the host clock has been absent for 64 time-clock cycles, or the filtered HOST_PLL_LOCK has fallen (log
entry 188). -/
def State.doHostClockLoss (s : State) : State := if s.isVsu then { s with clk := { s.clk with hostOk := false } } else s

/-- HOST_REALIGN: `offset` is the phase of the host edges against the time clock that the VSU measures, in 2^-48 ns. -/
def State.doHostRealign (s : State) (offset : Int) : State :=
  if s.isVsu && s.awake && !s.clk.hostOk then
    ({ s with clk := { s.clk with hostOk := true, hostOff := offset } }).setBit Fld.CLK_STATUS_HOST_REALIGN
  else s

/-! ### Region stops (R384 to R386) -/

def codeValid (c : Nat) : Bool := decide (c ≤ 3) || c == 7

/-- A pending change of a region after a write of its target; a code that is in use makes no change (log entry 90). -/
def pendAfter (cur target : Nat) (old : Option Nat) : Option Nat :=
  if codeValid target then (if target = cur then none else some target) else old

/-- Begins the stop of the regions with a pending change. -/
def State.regionStop (s : State) : State :=
  if (s.clk.pendCmb.isSome || s.clk.pendTil.isSome) && !s.clk.stopping then
    { s with clk := { s.clk with
        cmbCur := s.clk.pendCmb.getD s.clk.cmbCur, tilCur := s.clk.pendTil.getD s.clk.tilCur,
        pendCmb := none, pendTil := none, stopping := true } }
  else s

/-- The stop that a fired boundary begins: at a freewheel boundary whose step lasts 2,500 ns or more. -/
def State.boundaryStop (s : State) : State :=
  if s.cad.freewheel && decide (s.stepNs ≥ 2500) then s.regionStop else s

/-- CLK_REGION_WRITE. -/
def State.doClkRegionWrite (s : State) (v : W) : State :=
  if s.present Reg.CLK_REGION then
    let c := v.toNat % 8
    let t := (v.toNat >>> 4) % 8
    let m := (if codeValid c then 7 else 0) ||| (if codeValid t then 0x70 else 0)
    let s1 := s.putMasked Reg.CLK_REGION (BitVec.ofNat 64 m) v
    let s2 : State := { s1 with clk := { s1.clk with
      pendCmb := pendAfter s1.clk.cmbCur c s1.clk.pendCmb, pendTil := pendAfter s1.clk.tilCur t s1.clk.pendTil } }
    if s2.notRunning then s2.regionStop else s2
  else s

/-- REGION_STOP_DONE: a change that became pending meanwhile starts at once while no boundary fires. -/
def State.doRegionStopDone (s : State) : State :=
  if s.clk.stopping then
    let s1 := ({ s with clk := { s.clk with stopping := false } }).raise Fld.CLK_STATUS_REGION_DONE
    if s1.notRunning then s1.regionStop else s1
  else s

/-! ### Standby (R390) -/

/-- No time reaches the unit any more: its selected inputs are lost, and the servo passes through BRIDGE (R22). -/
def State.loseInput (s : State) (d : Dom) : State := if s.isRoot && d == s.ownDom then s else s.setInput d none 0
def State.loseTime (s : State) : State :=
  let s1 := { s with ref := { s.ref with pt := ⟨[], []⟩ } }
  (((s1.loseInput .A).loseInput .B).settleActive 0).settleRoot

/-- Every port that is not isolated goes DOWN. -/
def State.portsDown (s : State) : State :=
  ((upto s.nPorts).filter fun p => (s.port p).st != .isolated && (s.port p).st != .down).foldl (fun t p => t.portDown p) s

def State.sleepCores (s : State) (on : Bool) : State :=
  { s with evq := { s.evq with
      cores := ([1, 2, 3] : List Nat).foldl (fun (t : Tab CoreSt) c => t.set c { t.get c {} with asleep := on }) s.evq.cores } }

/-- A write of CLK_POWER.STANDBY. -/
def State.standby (s : State) (on : Bool) : State :=
  if !s.belfryOn || s.pwr.power != .on || s.clk.standby == on then s
  else if on then
    (if s.cad.st == .idle then
      let s1 := ((s.portsDown.loseTime).setReg Reg.CLK_POWER 1)
      let s2 : State := { s1 with clk := { s1.clk with standby := true } }
      if s2.isVd then s2.sleepCores true else s2
     else s.setBit Fld.CLK_STATUS_STANDBY_REFUSED)
  else
    let s1 := s.setReg Reg.CLK_POWER 0
    let s2 : State := { s1 with clk := { s1.clk with standby := false } }
    if s2.isVd then s2.sleepCores false else s2

def State.doStandbyEnter (s : State) (v : W) : State := s.standby ((v ||| 1).getLsbD 0)
def State.doStandbyExit (s : State) (v : W) : State := s.standby ((v &&& ~~~1).getLsbD 0)

/-! ### Comparators (R388, R389) -/

/-- What a firing tells of the outside: the reading of the sensor of comparator 4 or 5, or activity on the sideband. -/
def State.cmpSense (s : State) (f : CmpFire) : State :=
  if f.n = 4 then { s with pwr := { s.pwr with vin := (f.reading.map Int.toNat).getD s.pwr.vin } }
  else if f.n = 5 then { s with pwr := { s.pwr with tj := f.reading.getD s.pwr.tj } }
  else if f.n = 7 then { s with clk := { s.clk with sbAt := some s.time.now } }
  else s

/-- May a comparator fire: its EN bit is 1, and its filtered level is 1; for what is measured outside the block the command
comes after the filter (log entry 91). -/
def State.cmpFires (s : State) (n : Nat) : Bool :=
  decide (n < 8) && (s.reg Reg.CLK_CMP_CFG).getLsbD n && (if n = 4 || n = 5 || n = 7 then s.cmpRaw n else s.cmpLevel n)

/-- An HT wake is one-shot: firing clears its EN. -/
def State.cmpDisarm (s : State) (n : Nat) : State :=
  if n < 4 then s.setReg (Reg.CLK_WAKE_HT + 8 * n) (s.reg (Reg.CLK_WAKE_HT + 8 * n) &&& 0x7FFFFFFFFFFFFFFF) else s

/-- The filter of a comparator that fires has passed its level. -/
def State.cmpPassed (s : State) (n : Nat) : State :=
  { s with clk := { s.clk with cmpFilt := s.clk.cmpFilt.set n { level := true } } }

/-- What the belfry does when a comparator fires (R389). -/
def State.cmpFired (s : State) (n : Nat) : State :=
    let cfg := s.reg Reg.CLK_CMP_CFG
    let s1 := (s.cmpDisarm n).setReg Reg.CLK_CMP_STATUS (s.reg Reg.CLK_CMP_STATUS ||| BitVec.ofNat 64 (2 ^ n))
    let s2 := s1.record 0x0E80 (s1.readReg .lantern Reg.CLK_CMP_STATUS) 0
    let s3 := if cfg.getLsbD (8 + n) then s2.standby false else s2
    if (n = 4 && cfg.getLsbD 16) || (n = 5 && cfg.getLsbD 17) then s3.latchQuiesce else s3

/-- COMPARATOR_FIRE. -/
def State.doComparatorFire (s : State) (f : CmpFire) : State :=
  let t := s.cmpSense f
  if s.belfryOn && t.cmpFires f.n then (t.cmpPassed f.n).cmpFired f.n else s

/-! ### The energy ledger: measurement and plan (R391 to R396) -/

/-- A ledger period in ns. -/
def periodNs : Nat := 1024000

/-- The kind of step that contains an HT: neither for a unit that is not awake. -/
def State.kindAt (s : State) (ns : Nat) : StepKind :=
  if s.awake then (((s.nrg.kinds.filter fun e => e.1 ≤ ns).getLast?).map (·.2)).getD .neither else .neither

/-- POWER_SAMPLE: one sample in mW, with what the other sensors read then (log entry 189), for the 1 µs that ends now, of the
kind of step at its midpoint (R391, R392). -/
def State.doPowerSample (s : State) (x : PowerSample) : State :=
  if s.isVd && s.belfryOn then
    let k := s.kindAt (s.htNs.toNat - 500)
    let n := s.nrg
    let mw := x.mw
    let p := match x.sensors with
      | some y => { s.pwr with vin := y.vin, iin := y.iin, tc := y.tc, tj := y.tj }
      | none => s.pwr
    { s with
      pwr := { p with pin := mw },
      nrg := { n with
        sumNj := (n.sumNj + mw) % 2 ^ 64,
        accEw := if k = .work then n.accEw + mw else n.accEw, accTw := if k = .work then n.accTw + 1000 else n.accTw,
        accEf := if k = .freewheel then n.accEf + mw else n.accEf, accTf := if k = .freewheel then n.accTf + 1000 else n.accTf } }
  else s

/-- A measured cost after a period (R392): at least 100 samples; the difference divided by 8 goes towards zero. -/
def costAfter (valid : Bool) (m accE accT step : Nat) : Nat × Bool :=
  if accT < 100000 then (m, valid)
  else
    let p := accE * step / accT / 1000
    if valid then ((((m : Int) + ((p : Int) - (m : Int)).tdiv 8).toNat) % 2 ^ 32, true) else (p % 2 ^ 32, true)

/-- Updates the measured costs of the phase in force, and clears the period's sums. -/
def State.closeCosts (s : State) : State :=
  let n := s.nrg
  let c := s.costNow
  let w := costAfter c.vWork c.mWork n.accEw n.accTw s.stepNs
  let f := costAfter c.vFw c.mFw n.accEf n.accTf s.stepNs
  let c1 : CostSt := { mWork := w.1, vWork := w.2, mFw := f.1, vFw := f.2, nMeas := c.nMeas + n.bounds.get s.cad.phase 0 }
  { s with nrg := { n with
      costs := if s.img.live.isSome then n.costs.set s.cad.phase c1 else n.costs,
      accEw := 0, accTw := 0, accEf := 0, accTf := 0, bounds := [] } }

/-- The costs that the plan uses (R393): of a working and of a freewheel step, in µJ. -/
def State.planCosts (s : State) : Nat × Nat :=
  match s.img.live with
  | none => (0, 0)
  | some l =>
    let c := s.costNow
    if c.nMeas ≥ 4096 then (c.mWork, if c.vFw then c.mFw else l.eFw * 5 / 4) else (l.eWork * 5 / 4, l.eFw * 5 / 4)

/-- The first ratio that fits the budget (R394). -/
def fitRatio (ew ef step room : Nat) : Option Nat :=
  (upto 64).find? fun k => decide (1024000 * (ew * (64 - k) + ef * k) ≤ 64 * step * room)

/-- k_t after a plan (R395); temperatures in tenths of a degree. -/
def State.thermalK (s : State) : Nat :=
  let tj : Int := s.fld Fld.NRG_THERM_TJ_SOFT * 10
  let tc : Int := s.fld Fld.NRG_THERM_TC_SOFT * 10
  let h : Int := s.fld Fld.NRG_THERM_HYST * 10
  if s.pwr.tj > tj || s.pwr.tc > tc then min 63 (s.nrg.kT + 4)
  else if s.pwr.tj ≤ tj - h && s.pwr.tc ≤ tc - h then s.nrg.kT - 1
  else s.nrg.kT

/-- The plan of the next period (R394 to R396). -/
def State.plan (s : State) : State :=
  let b := s.fld Fld.NRG_CTRL_BUDGET_W * 1024
  let c := min (s.nrg.lastUj - b) (b / 8)
  let w := s.planCosts
  let fit := if s.notRunning then some 0 else fitRatio w.1 w.2 s.stepNs (b - c)
  let kt := s.thermalK
  let ke := fit.getD 63
  let own := max (max (s.fld Fld.NRG_CTRL_K_MIN) (max ke kt)) (s.nrg.kOwn - 2)
  let s1 : State := { s with nrg := { s.nrg with kE := ke, kT := kt, kOwn := own, ew := w.1, ef := w.2 } }
  let s2 := if fit.isNone then s1.raise Fld.NRG_STATUS_OVER else s1
  if kt > s.nrg.kT then s2.raise Fld.NRG_STATUS_THERMAL else s2

/-- LEDGER_PERIOD_END, once in each period: the energy of the period that has ended, its costs, and the plan, which core 2
makes (R402). -/
def State.doLedgerPeriodEnd (s : State) : State :=
  let j := s.htNs.toNat / periodNs
  if s.isVd && s.belfryOn && j != s.nrg.period then
    let s1 : State := { s with nrg := { s.nrg with period := j, lastUj := s.nrg.sumNj / 1000, sumNj := 0 } }
    let s2 := s1.closeCosts
    if s2.awake && !s2.coreHeld 2 then s2.plan else s2
  else s

/-! ### Towards the hall ratio (R397, R398) -/

/-- A unit's own proposal: in a VSU, its host die's. -/
def State.ownK (s : State) : Nat := if s.isVd then s.nrg.kOwn else s.fld Fld.NRG_DIE_K_DIE_K

/-- The unit's own hop count for its active domain (R66). -/
def State.ownHop (s : State) : Nat :=
  if s.isRoot then 0
  else
    match s.ref.sel.get s.activeDom with
    | some p => (s.portTime s.activeDom p).hop + 1
    | none => 8

/-- Is the peer of a port fenced. -/
def State.portFenced (s : State) (p : Nat) : Bool :=
  if s.diePortOf p then (s.die (p / 2)).judge.st == .fenced || (s.die (p / 2)).judge.st == .swapped
  else (s.peerJ p).st == .fenced

/-- The ports below: those that are not the unit's own inputs. -/
def State.portsBelow (s : State) : List Nat :=
  (upto s.nPorts).filter fun p => s.ref.sel.a != some p && s.ref.sel.b != some p && !s.portFenced p

/-- The largest of the own proposal and those from below. -/
def State.aggK (s : State) : Nat := s.portsBelow.foldl (fun m p => max m (s.port p).prop) s.ownK

/-- The selected input ports, each once. -/
def State.inputPorts (s : State) : List Nat := (s.ref.sel.a.toList ++ s.ref.sel.b.toList).eraseDups

/-- The instant in a period at which a unit sends upwards, in ns (R397). -/
def State.sendOffset (s : State) : Nat := (8 - s.ownHop) * 16000

/-- LEDGER_SEND, once in each period; the relay sends to the issuer by DNO. -/
def State.doLedgerSend (s : State) : State :=
  let j := s.htNs.toNat / periodNs
  if s.awake && !s.cad.root.issuer && decide (s.htNs.toNat % periodNs ≥ s.sendOffset) && s.nrg.sentPer != some j then
    let k := s.aggK
    let s1 : State := { s with nrg := { s.nrg with sentPer := some j, kSent := k } }
    if s1.isRoot then s1.routeMsg (s1.ownMsg 0 s1.cad.root.otherDno (.ledger (j + 1) k))
    else s1.inputPorts.foldl (fun t p => t.msgOut p (t.ownMsg 3 0 (.ledger (j + 1) k))) s1
  else s

/-- The proposal of a port's peer. -/
def State.ledgerIn (s : State) (port prop : Nat) : State := s.setPort port { s.port port with prop := prop % 64 }

/-- LEDGER_RX. -/
def State.doLedgerRx (s : State) (port _period prop : Nat) : State :=
  s.toLantern port (.ledger port prop) fun t => t.ledgerIn port prop

/-- The relay's value, as its message brings it to the issuer. -/
def State.takeRelay (s : State) (prop : Nat) : State := { s with nrg := { s.nrg with relayK := prop % 64 } }

/-- The ratio that will be in force when the next period begins, as far as it is decided: a RATIO that is due, else the K of a
START or RESUME that the agent has commanded, else that of the last decision held, else the one in force (log entry 197). -/
def State.ratioAhead (s : State) : Nat :=
  match s.cad.root.ratioDue with
  | some e => e.1
  | none =>
    match s.cad.root.cmd with
    | some c => c.k
    | none =>
      match (s.cad.decs.filter fun d => d.kind == .ratio || d.kind == .start || d.kind == .resume).getLast? with
      | some d => d.ratio
      | none => s.cad.k

/-- HALL_RATIO_DECIDE, once in each period, 256 µs into it. -/
def State.doHallRatioDecide (s : State) : State :=
  let j := s.htNs.toNat / periodNs
  if s.isRoot && s.awake && s.cad.root.issuer && decide (s.htNs.toNat % periodNs ≥ 256000) &&
      s.nrg.hallDone != some j then
    let k := max s.aggK s.nrg.relayK
    { s with
      nrg := { s.nrg with hallDone := some j, hallK := k, hallPer := j + 1 },
      cad := { s.cad with root := { s.cad.root with
        ratioDue := if k = s.ratioAhead then s.cad.root.ratioDue else some (k, (j + 1) * periodNs) } } }
  else s

/-- HOST_CLOCK_LOSS (R383). The VSU's host clock is absent for 64 time-clock cycles or HOST_PLL_LOCK falls, so
boundaries hold. -/
def execHostClockLoss (s : State) : Host.Outcome State Fault Refusal :=
  .next (s.doHostClockLoss)

/-- HOST_REALIGN (R383). After 4,096 stable host cycles the VSU realigns its host crossings. -/
def execHostRealign (offset : Int) (s : State) : Host.Outcome State Fault Refusal :=
  .next (s.doHostRealign offset)

/-- CLK_REGION_WRITE (R384). A write of CLK_REGION makes a region frequency code pending, applied at once while IDLE
or HELD. -/
def execClkRegionWrite (v : W) (s : State) : Host.Outcome State Fault Refusal :=
  .next (s.doClkRegionWrite v)

/-- REGION_STOP_DONE (R386). The region synthesiser settles, crossings realign and REGION_DONE is set. -/
def execRegionStopDone (s : State) : Host.Outcome State Fault Refusal :=
  .next (s.doRegionStopDone)

/-- COMPARATOR_FIRE (R389). An enabled belfry comparator fires, sets its status, may end standby and may latch
QUIESCE. -/
def execComparatorFire (f : CmpFire) (s : State) : Host.Outcome State Fault Refusal :=
  .next (s.doComparatorFire f)

/-- STANDBY_ENTER (R390). A write of CLK_POWER.STANDBY = 1 while IDLE puts the VD into standby, or is refused. -/
def execStandbyEnter (v : W) (s : State) : Host.Outcome State Fault Refusal :=
  .next (s.doStandbyEnter v)

/-- STANDBY_EXIT (R390). A write of STANDBY = 0 ends standby. -/
def execStandbyExit (v : W) (s : State) : Host.Outcome State Fault Refusal :=
  .next (s.doStandbyExit v)

/-- POWER_SAMPLE (R391). At each whole microsecond the VD samples input power into the period sum. -/
def execPowerSample (x : PowerSample) (s : State) : Host.Outcome State Fault Refusal :=
  .next (s.doPowerSample x)

/-- LEDGER_PERIOD_END (R392). At the end of a ledger period the VD stores the energy, updates measured costs and plans
the next period. -/
def execLedgerPeriodEnd (s : State) : Host.Outcome State Fault Refusal :=
  .next (s.doLedgerPeriodEnd)

/-- LEDGER_SEND (R397). At its offset in the period a unit sends its aggregated proposal upwards in a LEDGER message.
-/
def execLedgerSend (s : State) : Host.Outcome State Fault Refusal :=
  .next (s.doLedgerSend)

/-- LEDGER_RX (R397). A unit receives a LEDGER message and keeps the proposal of that port. -/
def execLedgerRx (port : Nat) (period : Nat) (prop : Nat) (s : State) : Host.Outcome State Fault Refusal :=
  .next (s.doLedgerRx port period prop)

/-- HALL_RATIO_DECIDE (R398). At 256 µs into the period the issuer takes the hall ratio and makes a RATIO due if it
changes. -/
def execHallRatioDecide (s : State) : Host.Outcome State Fault Refusal :=
  .next (s.doHallRatioDecide)


end Sys2Proof.Machine
end

