-- ==== Sys2Proof/Machine/Combiner.lean ====
section
/-! DEFINITION. Sys2Proof/Machine/Combiner.lean: the combiner (R257 to R305, R499): the input streams of an instruction,
its result elements, the result tiles, the random source, and mixture-of-experts dispatch and combine. -/

namespace Sys2Proof.Machine

/-! ### Input streams (R258 to R262, R271, R275) -/

/-- An input stream as far as it is verified: its format, its bytes, the number of the verification of each of its flits,
whether it has ended, and the extension reserve of an XS stream. -/
structure Stm where
  code  : Nat
  bytes : List Byte
  vers  : List Nat
  whole : Bool
  x     : Nat
  deriving DecidableEq, Repr

/-- The leading blocks of an XS stream that can be read: a block slot is known to be one before the stream has ended if
enough bytes follow it; an extended block needs the whole stream (R271). -/
def xsReady (x : Nat) (l : List Byte) (whole : Bool) : Nat :=
  let n := xsCount x l.length
  if whole then n else ((upto n).takeWhile fun b => !(xsHead x (fieldAt l (258 * b) 2)).2.1).length

/-- The elements of a stream that can be read. -/
def Stm.count (t : Stm) : Nat :=
  if t.code = 14 then 32 * xsReady t.x t.bytes t.whole
  else if isMx t.code then perTile t.code * (t.bytes.length / 3584)
  else 8 * t.bytes.length / fmtWidth t.code

/-- The exact values of a stream's elements, other than XS. -/
def Stm.vals (t : Stm) : List Val := (streamVals t.code t.bytes).take t.count

/-- The elements of a stream as frames (R276). -/
def Stm.frames (t : Stm) : List Frame :=
  if t.code = 14 then
    (upto (xsReady t.x t.bytes t.whole)).flatMap fun b => xsFrames t.x (xsCount t.x t.bytes.length) t.bytes b
  else t.vals.map Frame.of

/-- When element `i` was verified: the latest of its flits, or of its MX tile. -/
def Stm.ver (t : Stm) (i : Nat) : Nat :=
  let w := fmtWidth t.code
  let span := if isMx t.code then (16 * (i / perTile t.code), 16) else (w * i / 1792, (w * i + w - 1) / 1792 - w * i / 1792 + 1)
  ((t.vers.drop span.1).take span.2).foldl max 0

/-- The verified flits at the front of a list of places. -/
def placesHere : List CmbPlace → List (List Byte × Nat)
  | [] => []
  | p :: r =>
    match p.data with
    | some d => (d, p.ver) :: placesHere r
    | none => []

/-- The input streams of an instruction in contributor order. -/
def State.streams (s : State) (ps : PhaseSet) (c : CmbInstr) (r : CellRun) : List Stm :=
  let closed := s.windowClosed ps c
  (r.contribs c).map fun l =>
    let h := placesHere l
    { code := c.fmtA, bytes := h.flatMap (·.1), vers := h.map (·.2), whole := closed && h.length == l.length,
      x := c.xsExt }

/-- How many result elements can be formed, and whether they are all (R260): an input that has ended contributes no
further element. -/
def readyCount (ts : List Stm) : Nat × Bool :=
  let going := ts.filter fun t => !t.whole
  match going with
  | [] => ((ts.map Stm.count).foldl max 0, true)
  | g :: gs => ((gs.map Stm.count).foldl min g.count, false)

/-! ### The random source (R294) -/

/-- A 128-bit block of the random source for a counter block. -/
def State.randBlock (s : State) (ctr : Nat) : List Byte :=
  let key := (leBytes 8 (s.reg Reg.CMB_SEED0).toNat ++ leBytes 8 (s.reg Reg.CMB_SEED1).toNat).map BitVec.toNat
  (aes128 key ((leBytes 16 ctr).map BitVec.toNat)).map (BitVec.ofNat 8)

/-- The counter block of a step's random word. -/
def State.counter (s : State) (purpose instr tile group : Nat) : Nat :=
  s.cad.wsc.toNat + s.cad.phase % 16 * 2 ^ 64 + purpose % 16 * 2 ^ 68 + instr % 2 ^ 16 * 2 ^ 72 +
  tile % 2 ^ 20 * 2 ^ 88 + group % 1024 * 2 ^ 108

/-- The random word of a lane of a result tile. -/
def State.randWord (s : State) (purpose instr tile lane : Nat) : Nat :=
  fieldAt (s.randBlock (s.counter purpose instr tile (lane / 8))) (2 * (lane % 8)) 2

/-- The tile and the lane of result element `i` of a format. -/
def laneOfElem (code i : Nat) : Nat × Nat :=
  if isMx code then (i / perTile code, i % perTile code)
  else
    let w := fmtWidth code
    let t := w * i / 28672
    (t, i - (28672 * t + w - 1) / w)

/-- The rounding of result element `i` (R296). -/
def State.rndOf (s : State) (c : CmbInstr) (instr i : Nat) : Rnd :=
  if c.sr && (isFloat c.fmtR || isMx c.fmtR) then
    let e := laneOfElem c.fmtR i
    .word (s.randWord 0 instr e.1 e.2)
  else .even

/-! ### Result elements of the families -/

/-- What a cell has of its result: the stream's bytes, how many of them are ready while it is not whole, what its
conversions count, the first XS block that could not be encoded, and whether a lane has left its 96-bit window. -/
structure Formed where
  bytes : List Byte
  ready : Nat
  whole : Bool
  cnt   : Cnt := {}
  full  : Option Nat := none
  spill : Bool := false
  deriving DecidableEq, Repr

/-- The contributions of element `i` in contributor order, with the number of their verification. -/
def contribsAt (ts : List (Stm × List Val)) (i : Nat) : List (Nat × Val) :=
  ts.filterMap fun (e : Stm × List Val) => e.2[i]?.map fun v => (e.1.ver i, v)

/-- FREE (R275): in the order of verification, in FP32 from the first contribution on; integers exactly. -/
def freeSum (exact : Bool) (l : List (Nat × Val)) : Val :=
  if exact then (l.map (·.2)).foldl Val.addExact .zero
  else
    match (l.mergeSort fun a b => a.1 ≤ b.1).map (·.2) with
    | [] => .zero
    | v :: r => r.foldl (fun a b => add32 a (to32 b)) (to32 v)

/-- FIXED (R279): the tree over contributions in order; `n` bounds the depth. -/
def fixedSum : Nat → List Val → Val
  | 0, _ => .zero
  | _, [] => .zero
  | _, [v] => v
  | n + 1, l =>
    let h := 2 ^ (Nat.log2 (l.length - 1))
    add32 (fixedSum n (l.take h)) (fixedSum n (l.drop h))

/-- NORM2's square of a contribution (R281). -/
def sq32 (v : Val) : Val := mul32 (to32 v) (to32 v)

/-- A lane's 96-bit window after some contributions: the lowest and the highest bit that they reach, and whether one has
fallen outside it (R276; log entry 77). -/
structure Lane where
  lo    : Nat := 312
  hi    : Nat := 0
  spill : Bool := false
  deriving DecidableEq, Repr

/-- A lane meets a contribution: the window moves with it as far as it holds all that it has met. -/
def Lane.meet (l : Lane) (f : Frame) : Lane :=
  if f.v = 0 then l
  else
    let lo := min l.lo (lowZeros 312 f.v.natAbs)
    let hi := max l.hi (Fl.bits f.v.natAbs)
    { lo := lo, hi := hi, spill := l.spill || decide (hi > lo + 96) }

/-- Packs result values in FMT_R, XS included. -/
def State.packVals (s : State) (c : CmbInstr) (instr : Nat) (satf : Bool) (n : Nat) (whole : Bool) (vs : List Val) : Formed :=
  let r := streamBytes c.fmtR satf (s.rndOf c instr) vs
  { bytes := r.1, whole := whole, cnt := r.2,
    ready := if isMx c.fmtR then 3584 * (n / perTile c.fmtR) else n * fmtWidth c.fmtR / 8 }

/-- Packs frames as an XS stream. A NaN result counts; `sat` counts the finite overflows that an operation gave before (R282;
log entry 192). -/
def packFrames (x n sat : Nat) (whole : Bool) (fs : List Frame) : Formed :=
  let r := xsBytes x fs
  { bytes := r.1, ready := 258 * (n / 32), whole := whole, full := r.2,
    cnt := { nan := (fs.filter fun f => f.val.isNan).length, sat := sat } }

/-- An infinity that a finite overflow has given. -/
def Val.overflowed : Val → Bool
  | .inf _ o => o
  | _ => false

/-- An infinite value that stands for a finite overflow counts as one. -/
def Val.markOvf (o : Bool) : Val → Val
  | .inf n p => .inf n (o || p)
  | v => v

/-- Family R (R275 to R281). -/
def State.formR (s : State) (c : CmbInstr) (instr : Nat) (ts : List Stm) : Formed :=
  let n := readyCount ts
  let satf := c.opnd.getLsbD 44
  if c.mode = 1 && (c.opcode == 1 || c.opcode == 4) then
    let sqs := ts.map fun t => if c.opcode = 4 then t.vals.map sq32 else []
    let cols := if c.opcode = 4 then sqs.map fun l => l.map Frame.of else ts.map Stm.frames
    let at_ (i : Nat) : List Frame := cols.filterMap fun (l : List Frame) => l[i]?
    let fs := (upto n.1).map fun i => (at_ i).foldl Frame.add {}
    let ovf (i : Nat) : Bool := sqs.any fun (l : List Val) => (l.getD i .zero).overflowed
    let o := if c.fmtR = 14 then packFrames c.xsExt n.1 ((upto n.1).filter ovf).length n.2 fs
      else s.packVals c instr satf n.1 n.2 ((upto n.1).map fun i => Val.markOvf (ovf i) (fs.getD i {}).val)
    { o with spill := (upto n.1).any fun i => ((at_ i).foldl Lane.meet {}).spill }
  else
    let cols := ts.map fun t => (t, if c.opcode = 4 then t.vals.map sq32 else t.vals)
    let one (i : Nat) : Val :=
      let l := contribsAt cols i
      if c.opcode = 2 || c.opcode = 3 then
        (match l.map (·.2) with
         | [] => .zero
         | v :: r => r.foldl (if c.opcode = 2 then maxV else minV) v)
      else if c.mode = 2 then
        fixedSum cols.length (cols.map fun (e : Stm × List Val) => to32 (e.2.getD i .zero))
      else freeSum (isInt c.fmtA && c.opcode == 1) l
    let vs := (upto n.1).map one
    if c.fmtR = 14 then packFrames c.xsExt n.1 (vs.filter Val.overflowed).length n.2 (vs.map Frame.of)
    else s.packVals c instr satf n.1 n.2 vs

/-- Payload bytes of `n` memory flits from an index on (R241, R259). -/
def State.memStream (s : State) (idx n : Nat) : List Byte :=
  (upto n).flatMap fun k => ((s.memFlit (idx + k)).drop 16).take 224

/-- Flits that hold `n` elements of a format. -/
def flitsFor (code n : Nat) : Nat :=
  if isMx code then 16 * ((n + perTile code - 1) / perTile code) else (n * fmtWidth code + 1791) / 1792

/-- An FP32 field of a parameter record. -/
def par32 (r : CellRun) (off : Nat) : Val := of32 (fieldAt r.param off 4)

/-- The effect of a family E operation in FP32 (R284, R499). -/
def elemOp (op : Nat) (r : CellRun) (rnd : Nat) (a b : Val) : Val :=
  match op with
  | 0x10 => a
  | 0x11 => add32 a b
  | 0x12 => sub32 a b
  | 0x13 => mul32 a b
  | 0x14 => fma32 (par32 r 0x24) a (mul32 (par32 r 0x28) b)
  | 0x15 => maxV a b
  | 0x16 => minV a b
  | 0x17 => minV (maxV a (par32 r 0x2C)) (par32 r 0x30)
  | _ => if rnd < fieldAt r.param 0x34 2 then mul32 a (par32 r 0x38) else .zero

/-- Family E. Without B, AXPBY takes it as 0; another operation that names B takes a free value (log entry 48). -/
def State.formE (s : State) (c : CmbInstr) (r : CellRun) (ts : List Stm) : Formed :=
  match ts with
  | [a] =>
    let n := a.count
    let buse := c.opnd.getLsbD 56
    let bs := if buse then
        streamVals (c.bits 52 4) (s.memStream (c.bits 0 5 * portFlits + c.bits 5 27) (flitsFor (c.bits 52 4) n))
      else []
    let b (i : Nat) : Val :=
      if buse then to32 (bs.getD i .zero)
      else if c.opcode = 0x14 then .zero
      else of32 (Config.absentB r.instr i)
    let rw (i : Nat) : Nat :=
      if c.opcode = 0x18 then
        let e := laneOfElem c.fmtR i
        s.randWord 1 r.instr e.1 e.2
      else 0
    let av := a.vals
    let vs := (upto n).map fun i => elemOp c.opcode r (rw i) (to32 (av.getD i .zero)) (b i)
    s.packVals c r.instr (c.opnd.getLsbD 57) n a.whole vs
  | _ => { bytes := [], ready := 0, whole := true }

/-! ### Optimizer operations (R291 to R293) -/

def one32 : Val := of32 0x3F800000

/-- pow_rn of R292. -/
def powRn (b : Val) (t : Nat) : Val :=
  (upto 64).foldl (fun p k =>
    let q := mul32 p p
    if Nat.testBit t (63 - k) then mul32 q b else q) one32

/-- What an update yields: w1, m1 and v1. -/
structure Upd where
  w : Val
  m : Val
  v : Val
  deriving DecidableEq, Repr

def sgdm (r : CellRun) (f gsum w m : Val) : Upd :=
  let g := mul32 gsum f
  let m1 := fma32 (par32 r 4) m g
  ⟨sub32 w (mul32 (par32 r 0) (fma32 (par32 r 0x10) w m1)), m1, .zero⟩

def adamw (r : CellRun) (t : Nat) (f gsum w m v : Val) : Upd :=
  let b1 := par32 r 4
  let b2 := par32 r 8
  let g := mul32 gsum f
  let m1 := fma32 b1 m (mul32 (sub32 one32 b1) g)
  let v1 := fma32 b2 v (mul32 (sub32 one32 b2) (mul32 g g))
  let mh := div32 m1 (sub32 one32 (powRn b1 t))
  let vh := div32 v1 (sub32 one32 (powRn b2 t))
  let u := div32 mh (add32 (sqrt32 vh) (par32 r 0xC))
  ⟨sub32 w (mul32 (par32 r 0) (fma32 (par32 r 0x10) w u)), m1, v1⟩

/-- The clip factor of R293. -/
def clipFactor (c : CmbInstr) (r : CellRun) : Val :=
  if c.opnd.getLsbD 0 then
    let nrm := sqrt32 (of32 (fieldAt r.gsq 0 4))
    let cc := par32 r 0x14
    if !nrm.isNan && !cc.isNan && cc.below nrm then div32 cc nrm else one32
  else one32

/-- The byte address of element `i` of state array `k` (0 w, 1 m, 2 v). -/
def stateAddr (c : CmbInstr) (k i : Nat) : Nat :=
  let per := if c.opcode = 0x21 then 48 else 32
  256 * (c.bits 1 5 * portFlits + c.bits 6 27 + per * (i / 896) + 16 * k + i % 896 / 56) + 16 + 4 * (i % 56)

/-- Updates element `i` of the optimizer state in place; the FP32 bytes of its new weight. -/
def State.updElem (s : State) (c : CmbInstr) (r : CellRun) (f gsum : Val) (i : Nat) : State × List Byte :=
  let rd (k : Nat) : Val := of32 (leNat (Memory.readBytes s.fab.ram (stateAddr c k i) 4))
  let u := if c.opcode = 0x21 then
      adamw r ((s.cad.wsc.toNat + 2 ^ 64 - fieldAt r.param 0x18 8) % 2 ^ 64) f gsum (rd 0) (rd 1) (rd 2)
    else sgdm r f gsum (rd 0) (rd 1)
  let put (m : List Host.Cell) (k : Nat) (v : Val) : List Host.Cell := Memory.writeBytes m (stateAddr c k i) (leBytes 4 (bits32 v))
  let m2 := put (put s.fab.ram 0 u.w) 1 u.m
  ({ s with fab := { s.fab with ram := if c.opcode = 0x21 then put m2 2 u.v else m2 } }, leBytes 4 (bits32 u.w))

/-- Family O: each element is updated once, when it is ready. -/
def State.formO (s : State) (c : CmbInstr) (r : CellRun) (ts : List Stm) : State × CellRun × Formed :=
  match ts with
  | [a] =>
    let n := a.count
    let g := if a.code = 14 then a.frames.map fun f => to32 f.val else a.vals.map to32
    let f := clipFactor c r
    let x := (upto (n - r.elems)).foldl (fun (x : State × List Byte) k =>
      let y := x.1.updElem c r f (g.getD (r.elems + k) .zero) (r.elems + k)
      (y.1, x.2 ++ y.2)) (s, r.old)
    let r1 : CellRun := { r with old := x.2, elems := max n r.elems }
    (x.1, r1, x.1.packVals c r.instr (c.opnd.getLsbD 53) n a.whole ((streamVals 0 x.2).take n))
  | _ => (s, r, { bytes := [], ready := 0, whole := true })

/-! ### Family S (R289, R294) -/

/-- A tile of RAND: its blocks of the random source one after another. -/
def State.randTile (s : State) (instr tile : Nat) : List Byte :=
  (upto 224).flatMap fun g => s.randBlock (s.counter 2 instr tile g)

def State.formS (s : State) (c : CmbInstr) (r : CellRun) : Formed :=
  if c.opcode = 0x33 then
    { bytes := (upto (c.bits 0 20)).flatMap fun t => s.randTile r.instr t, ready := 0, whole := true }
  else if c.opcode = 0x30 then
    match r.side with
    | some (some d) => { bytes := padTo 3584 d, ready := 0, whole := true }
    | _ => { bytes := [], ready := 0, whole := false }
  else { bytes := r.stamp, ready := 0, whole := true }

/-! ### Mixture of experts (R297 to R303) -/

/-- A dispatch record (R297). -/
structure Disp where
  experts : Nat
  topk    : Nat
  defer   : Bool
  cap     : Nat
  dcap    : Nat
  tokens  : Nat
  row     : Nat
  area    : Nat
  deriving DecidableEq, Repr

def dispOf (l : List Byte) : Disp :=
  { experts := fieldAt l 0 2, topk := fieldAt l 2 1, defer := (l.getD 3 0).getLsbD 0, cap := fieldAt l 4 2,
    dcap := fieldAt l 6 2, tokens := fieldAt l 8 4, row := fieldAt l 0xC 4, area := fieldAt l 0x10 4 % 2 ^ 20 }

/-- A slot (R299). -/
structure Slt where
  token  : Nat
  source : Nat
  valid  : Bool
  late   : Bool
  origin : Nat
  gate   : Nat
  row    : List Byte
  deriving DecidableEq, Repr

def sltOf (l : List Byte) : Slt :=
  { token := fieldAt l 0 2, source := fieldAt l 2 1, valid := (l.getD 3 0).getLsbD 0, late := (l.getD 3 0).getLsbD 1,
    origin := fieldAt l 4 2, gate := fieldAt l 8 4, row := l.drop 16 }

def Slt.head (x : Slt) : List Byte :=
  leBytes 2 x.token ++ leBytes 1 x.source ++ leBytes 1 (bit x.valid + 2 * bit x.late) ++ leBytes 2 x.origin ++
  leBytes 2 0 ++ leBytes 4 x.gate ++ leBytes 4 0

def Slt.bytes (n : Nat) (x : Slt) : List Byte := x.head ++ padTo n x.row

/-- `n` slots, the rest empty. -/
def slotBytes (n rowB : Nat) (l : List Slt) : List Byte :=
  (l.take n).flatMap (Slt.bytes rowB) ++ List.replicate ((16 + rowB) * (n - l.length)) 0

/-- `n` bytes of a run of staging rows' payloads, from a byte on. -/
def State.areaBytes (s : State) (row off n : Nat) : List Byte :=
  (((upto ((off % 224 + n + 223) / 224)).flatMap fun k => s.rowPayload ((row + off / 224 + k) % 2 ^ 20)).drop (off % 224)).take n

/-- Writes a deferral area as scheduled writes do (R322, R324); a fault there names the result write as its requester (log
entry 159). -/
def State.putArea (s : State) (row : Nat) (l : List Byte) : State :=
  let ps := chunks 224 l.length l
  ((upto ps.length).foldl (fun t k =>
    t.schedWrite (row + k) 7 (overlay (t.rowBytes (row + k)) 16 (ps.getD k []))) s)

/-- The deferral area of a dispatch record. -/
def Disp.areaOf (d : Disp) (nsrc held : Nat) : MoeArea :=
  { experts := d.experts, nsrc := nsrc, dcap := if d.defer then d.dcap else 0, row := d.row, area := d.area, held := held }

/-- The area that holds what an instruction deferred in the previous working step (R300, R301): the one that it wrote, or,
where a RESUME has found it in staging, that of its record. -/
def State.heldArea (s : State) (i : Nat) (d : Disp) (nsrc : Nat) : Option MoeArea :=
  match s.cmb.areas.find? fun e => e.1 == i with
  | some e => some e.2
  | none => if s.cmb.restored then some (d.areaOf nsrc 0) else none

/-- The deferred entries of pair (s, e) in an area, in order of TOKEN. -/
def State.heldSlots (s : State) (a : Option MoeArea) (src e : Nat) : List Slt :=
  match a with
  | none => []
  | some m =>
    let sz := 16 + m.row
    if src < m.nsrc && e < m.experts then
      let all := (upto m.dcap).map fun k => sltOf (s.areaBytes m.area (sz * ((e * m.nsrc + src) * m.dcap + k)) sz)
      (all.filter (·.valid)).mergeSort fun x y => x.token ≤ y.token
    else []

/-- How many entries an area holds. -/
def State.heldCount (s : State) (a : Option MoeArea) : Nat :=
  match a with
  | none => 0
  | some m => ((upto m.experts).map fun e => ((upto m.nsrc).map fun k => (s.heldSlots a k e).length).sum).sum

/-- This step's candidates of source `src` for expert `e`, in order of token index. -/
def routed (d : Disp) (wsc src e : Nat) (l : List Byte) : List Slt :=
  let base := (8 * d.tokens * d.topk + 15) / 16 * 16
  let recs := (upto (d.tokens * d.topk)).filterMap fun k =>
    let w := fieldAt l (8 * k) 8
    if (w >>> 16) % 4096 = e then
      some { token := w % 65536, source := src, valid := true, late := false, origin := wsc, gate := w >>> 32,
             row := (l.drop (base + d.row * (w % 65536))).take d.row : Slt }
    else none
  recs.mergeSort fun a b => a.token ≤ b.token

/-- What a pair places, defers and drops (R300). -/
def placePair (d : Disp) (l : List Slt) : List Slt × List Slt × Nat :=
  let rest := l.drop d.cap
  let late := if d.defer then ((rest.filter fun x => !x.late).take d.dcap).map fun x => { x with late := true } else []
  (l.take d.cap, late, rest.length - late.length)

/-- SCATTER: its result stream, the new deferral area, and the tokens deferred and dropped. An entry whose pair is none any
more is dropped. -/
def State.scatter (s : State) (i : Nat) (d : Disp) (ts : List Stm) : List Byte × List Byte × Nat × Nat :=
  let n := ts.length
  let a := s.heldArea i d n
  let all := (upto d.experts).flatMap fun e => (upto n).map fun k => (k, e)
  let pairs := all.map fun p =>
    placePair d (s.heldSlots a p.1 p.2 ++ routed d s.wsc16 p.1 p.2 ((ts.map Stm.bytes).getD p.1 []))
  let lost := s.heldCount a - (all.map fun p => (s.heldSlots a p.1 p.2).length).sum
  (pairs.flatMap fun p => slotBytes d.cap d.row p.1,
   pairs.flatMap fun p => slotBytes d.dcap d.row p.2.1,
   (pairs.map fun p => p.2.1.length).sum, (pairs.map fun p => p.2.2).sum + lost)

/-- The slots of COMBINE's input (R302). -/
def inputSlots (d : Disp) (l : List Byte) : List Slt :=
  let sz := 16 + d.row
  (upto (l.length / sz)).map fun k => sltOf ((l.drop (sz * k)).take sz)

/-- The elements of a row in FMT_A, as FP32. -/
def rowVals (code : Nat) (x : Slt) : List Val := (streamVals code x.row).map to32

/-- A row of COMBINE: the fused chain over the token's slots in ascending input position (R303, R320). -/
def chain (n : Nat) (l : List (Nat × List Val)) : List Val :=
  l.foldl (fun acc (e : Nat × List Val) =>
    (upto n).map fun i => fma32 (of32 e.1) (e.2.getD i .zero) (acc.getD i .zero)) (List.replicate n .zero)

/-- COMBINE's result stream as far as it is laid out: its bytes, what its conversions count, and the rows in it, each by its
first byte and its elements. -/
structure RowsOut where
  bytes : List Byte := []
  cnt   : Cnt := {}
  rows  : List (Nat × Nat) := []
  deriving DecidableEq, Repr

/-- The elements of width `w` of some rows whose first bit lies from bit `a` to before bit `b`. -/
def elemsIn (w a b : Nat) (rows : List (Nat × Nat)) : Nat :=
  (rows.map fun e => min e.2 ((b - 8 * e.1 + w - 1) / w) - min e.2 ((a - 8 * e.1 + w - 1) / w)).sum

/-- The tile and the lane of the element of width `w` whose first bit is bit `p` (R294): headers are no elements. -/
def laneAt (w p : Nat) (rows : List (Nat × Nat)) : Nat × Nat := (p / 28672, elemsIn w (p / 28672 * 28672) p rows)

/-- Appends a header and a row in FMT_R. -/
def State.outRow (s : State) (c : CmbInstr) (instr : Nat) (x : RowsOut) (head : List Byte) (vs : List Val) : RowsOut :=
  let w := fmtWidth c.fmtR
  let off := x.bytes.length + head.length
  let rows := x.rows ++ [(off, vs.length)]
  let rnd (i : Nat) : Rnd :=
    if c.sr then
      let e := laneAt w (8 * off + w * i) rows
      .word (s.randWord 0 instr e.1 e.2)
    else .even
  let y := streamBytes c.fmtR (c.opnd.getLsbD 54) rnd vs
  { bytes := x.bytes ++ head ++ y.1, cnt := x.cnt.add y.2, rows := rows }

/-- Appends entries that are not used: zero bytes, whose rows are elements all the same (log entry 193). -/
def RowsOut.unused (x : RowsOut) (entry n k : Nat) : RowsOut :=
  { x with bytes := x.bytes ++ List.replicate (entry * k) 0,
           rows := x.rows ++ (upto k).map fun j => (x.bytes.length + entry * j + 16, n) }

/-- COMBINE (R303): for each source its T rows and its late section. -/
def State.combine (s : State) (c : CmbInstr) (instr : Nat) (d : Disp) (l : List Byte) : RowsOut :=
  let ins := inputSlots d l
  let n := 8 * d.row / fmtWidth c.fmtA
  let nsrc := ins.length / max 1 (d.experts * d.cap)
  (upto nsrc).foldl (fun (x : RowsOut) src =>
    let mine := ins.filter fun y => y.valid && y.source == src
    let rows := (upto d.tokens).map fun t =>
      chain n ((mine.filter fun y => !y.late && y.token == t).map fun y => (y.gate, rowVals c.fmtA y))
    let late := (mine.filter (·.late)).take (d.experts * d.dcap)
    let a := rows.foldl (fun x vs => s.outRow c instr x [] vs) x
    let b := late.foldl (fun x y => s.outRow c instr x y.head ((rowVals c.fmtA y).map fun v => mul32 (of32 y.gate) v)) a
    b.unused (16 + (n * fmtWidth c.fmtR + 7) / 8) n (d.experts * d.dcap - late.length)) {}

/-- Counts dropped and deferred tokens (R300). -/
def State.countMoe (s : State) (deferred dropped : Nat) : State :=
  let s1 := (s.addCount Fld.CMB_MOE_COUNT_DEFERRED deferred).addCount Fld.CMB_MOE_COUNT_DROPPED dropped
  if dropped = 0 then s1 else s1.raise Fld.CMB_STATUS_MOE_DROP

/-- Family M, once its inputs have ended. After a residue mismatch in its rounds COMBINE's result is a free value (R318). -/
def State.formM (s : State) (c : CmbInstr) (r : CellRun) (ts : List Stm) : State × Formed :=
  if !(readyCount ts).2 then (s, { bytes := [], ready := 0, whole := false })
  else
    let d := dispOf r.param
    if c.opcode = 0x28 then
      let x := s.scatter r.instr d ts
      let s0 := if d.defer then s.putArea d.area x.2.1 else s
      let s1 : State := { s0 with cmb := { s0.cmb with
        areas := s0.cmb.areas.set r.instr (d.areaOf ts.length x.2.2.1) } }
      (s1.countMoe x.2.2.1 x.2.2.2, { bytes := x.1, ready := 0, whole := true })
    else
      let x := s.combine c r.instr d (ts.flatMap Stm.bytes)
      if s.til.vecBad.contains r.instr then
        ({ s with free := s.free + 1 },
          { bytes := (upto x.bytes.length).map fun k => Config.residueByte s.free k, ready := 0, whole := true, cnt := x.cnt })
      else (s, { bytes := x.bytes, ready := 0, whole := true, cnt := x.cnt })

/-- The deferred entries that SCATTERs hold when the phase changes or the job stops: dropped and counted (R301). -/
def State.dropDeferred (s : State) : State :=
  let n := (s.cmb.areas.map fun e => e.2.held).sum
  let s1 : State := { s with cmb := { s.cmb with areas := [], restored := false } }
  if n = 0 then s1 else s1.countMoe 0 n

/-- A RESUME within a phase: the areas lie in staging as they were saved or left (R342, R344). -/
def State.restoreDeferred (s : State) : State := { s with cmb := { s.cmb with areas := [], restored := true } }

/-! ### XS inputs that a consumer refuses (R273) -/

/-- Rejects the tile that holds a refused header as R237 does: its flits leave their places, and it is logged, counted and
re-fetched. -/
def State.rejectXs (s : State) (i : Nat) (l : List CmbPlace) (b : Nat) : State :=
  match l[258 * b / 224]? with
  | none => s
  | some p =>
    match p.key with
    | none => s
    | some k =>
      let cons := if p.con = 99 then 257 + 2 * i else 256 + 2 * i
      let out (q : CmbPlace) : CmbPlace := if q.key == some k && (q.con == 99) == (p.con == 99) then { q with data := none } else q
      let s1 : State := { s with
        cmb := { s.cmb with runs := s.cmb.runs.map fun r =>
          if r.instr == i then { r with places := r.places.map out } else r },
        fab := { s.fab with done := s.fab.done.filter fun a => !sameTile k cons a } }
      let a := (s.fab.done.find? (sameTile k cons)).getD { key := k, cons := cons, flits := [], port := 0 }
      (s1.rejectTile a).raise Fld.CMB_STATUS_XS_REJECT

/-! ### Result tiles (R260 to R262) -/

/-- The result flits `a` .. `b - 1` of a stream of `n` flits, of its payload. -/
def resFlits (a b n : Nat) (l : List Byte) : List ResFlit :=
  (upto (b - a)).map fun k =>
    let c := a + k
    let t0 := c / 16 * 16
    let fidx := streamFidx c n
    { fidx := fidx, first := c % 16 == 0, data := (l.drop (224 * c)).take 224,
      tcrc := if fidx = 15 then crc64 ((l.drop (224 * t0)).take (224 * (c - t0 + 1))) else 0 }

/-- Sends on the tiles of a result that are formed now, and records what its conversions counted and could not encode. -/
def State.sendResult (s : State) (c : CmbInstr) (r : CellRun) (o : Formed) : State :=
  let l := toFlits o.bytes
  let n := l.length / 224
  let upTo := if o.whole then n else min o.ready o.bytes.length / 3584 * 16
  let fs := resFlits r.formed upTo (if o.whole then n else 16 * (n / 16 + 1)) l
  let src := 64 + c.cell0
  let r1 : CellRun := { r with
    formed := max upTo r.formed, done := o.whole, spill := o.spill && !o.whole,
    nan := max o.cnt.nan r.nan, sat := max o.cnt.sat r.sat,
    flushed := max o.cnt.flush r.flushed, full := r.full || o.full.isSome }
  let s1 : State := { s with
    cmb := { s.cmb with
      runs := s.cmb.runs.map (fun x => if x.instr == r.instr then r1 else x),
      results := s.cmb.results.set src (s.cmb.results.get src [] ++ fs) } }
  let s2 := (s1.addCount Fld.CMB_SPECIAL_NAN (r1.nan - r.nan)).addCount Fld.CMB_SPECIAL_SAT (r1.sat - r.sat)
  let s3 := if r.flushed < o.cnt.flush then s2.raise Fld.CMB_STATUS_NAN_FLUSH else s2
  match o.full with
  | some b =>
    if r.full then s3
    else (s3.setReg Reg.CMB_XS_LOG
        (mkw [(0, r.instr % 65536), (16, s.cad.phase % 16), (32, min b 65535), (48, s.wsc16)])).raise
        Fld.CMB_STATUS_XS_FULL
  | none => s3

/-- Must an instruction wait for one before it in the same cell: its result stands before it (R261). -/
def State.waitsFor (s : State) (ps : PhaseSet) (i : Nat) (c : CmbInstr) : Bool :=
  let single := decide (slotsIn ps.desc.stepNs ≤ ps.desc.tableSlots)
  s.cmb.runs.any fun r =>
    decide (r.instr < i) && !r.done &&
    (match ps.cmbs[r.instr]? with
     | some x => x.cell0 == c.cell0
     | none => false) &&
    (single || r.places.any fun p => p.data.isNone)

/-- Forms what an instruction's verified inputs allow. -/
def State.formRun (s : State) (ps : PhaseSet) (c : CmbInstr) (r : CellRun) : State :=
  let ts := s.streams ps c r
  if c.famR then s.sendResult c r (s.formR c r.instr ts)
  else if c.famE then s.sendResult c r (s.formE c r ts)
  else if c.famO then
    let x := s.formO c r ts
    x.1.sendResult c x.2.1 x.2.2
  else if c.famM then
    let x := s.formM c r ts
    x.1.sendResult c r x.2
  else s.sendResult c r (s.formS c r)

/-- The first block of a contributor that R273 refuses, among those that can be read. -/
def badBlock (x : Nat) (closed : Bool) (l : List CmbPlace) : Option Nat :=
  ((upto l.length).zip l).findSome? fun (e : Nat × CmbPlace) =>
    e.2.data.bind fun d => if xsFlit x l.length e.1 closed d == some true then some ((224 * e.1 + 257) / 258) else none

/-- The first contributor of a run with a refused block. -/
def State.badInput (s : State) (ps : PhaseSet) (c : CmbInstr) (r : CellRun) : Option (List CmbPlace × Nat) :=
  if c.fmtA = 14 then
    (r.contribs c).findSome? fun l => (badBlock c.xsExt (s.windowClosed ps c) l).map fun b => (l, b)
  else none

/-- The rejections of an instruction's inputs that R273 kept open end once no block of them can be refused any more. -/
def State.settleXs (s : State) (i : Nat) : State :=
  (s.fab.done.filter fun a => (a.cons - 256) / 2 == i && decide (256 ≤ a.cons)).foldl (fun t a => t.endReject a) s

/-- CMB_RESULT_READY: what the verified inputs of an instruction allow is formed; a tile of an XS input with a refused
header is rejected first. Nothing happens for an instruction that does not run. -/
def State.doCmbResultReady (s : State) (instr : Nat) : State :=
  match s.img.live with
  | none => s
  | some ps =>
    match ps.cmbs[instr]?, s.cmb.runs.find? fun r => r.instr == instr && !r.done with
    | some c, some r =>
      if !s.awake || s.clk.cmbCur == 7 then s
      else
        match s.badInput ps c r with
        | some (l, b) => s.rejectXs instr l b
        | none =>
          let s1 := if s.windowClosed ps c then s.settleXs instr else s
          if s1.waitsFor ps instr c then s1 else s1.formRun ps c r
    | _, _ => s

/-! ### Seeds and the random register (R295, R305) -/

def State.doCmbSeedWrite (s : State) (hi : Bool) (v : W) : State :=
  if s.isFore then s
  else if s.notRunning then s.setReg (if hi then Reg.CMB_SEED1 else Reg.CMB_SEED0) v
  else s.setBit Fld.CMB_STATUS_SEED_REFUSED

/-- A write to CMB_RAND_CTR1 starts one encryption, of the counter as it then stands; a PURPOSE other than 15 gives zeros. -/
def State.doCmbRandStart (s : State) (v : W) : State :=
  if s.isFore then s
  else
    let s1 := s.setReg Reg.CMB_RAND_CTR1 v
    let ctr := (s.reg Reg.CMB_RAND_CTR0).toNat + v.toNat * 2 ^ 64
    let o := if v.toNat / 16 % 16 = 15 then leNat (s.randBlock ctr) else 0
    { s1 with cmb := { s1.cmb with randReady := false, randNext := some (BitVec.ofNat 128 o) } }

/-- The encryption ends. -/
def State.doCmbRandDone (s : State) : State :=
  match s.cmb.randNext with
  | some o => { s with cmb := { s.cmb with randReady := true, randNext := none, randOut := o } }
  | none => s

/-! ### Register reads -/

def State.doCmbXsLogRead (s : State) (via : ReadVia) : State := s.readClear via Reg.CMB_XS_LOG
def State.doCmbMoeCountRead (s : State) (via : ReadVia) : State := s.readClear via Reg.CMB_MOE_COUNT
def State.doCmbSpecialRead (s : State) (via : ReadVia) : State := s.readClear via Reg.CMB_SPECIAL

/-- CMB_RESULT_READY (R261). A combiner result tile is formed after its input tiles are verified, and owed flits are
released. -/
def execCmbResultReady (instr : Nat) (s : State) : Host.Outcome State Fault Refusal :=
  .next (s.doCmbResultReady instr)

/-- CMB_SEED_WRITE (R295). A write to CMB_SEED0 or CMB_SEED1 is accepted while IDLE or HELD, and refused otherwise. -/
def execCmbSeedWrite (hi : Bool) (v : W) (s : State) : Host.Outcome State Fault Refusal :=
  .next (s.doCmbSeedWrite hi v)

/-- CMB_RAND_START (R305). A write to CMB_RAND_CTR1 starts one AES-128 encryption and clears RAND_READY. -/
def execCmbRandStart (v : W) (s : State) : Host.Outcome State Fault Refusal :=
  .next (s.doCmbRandStart v)

/-- CMB_RAND_DONE (R305). The encryption completes and RAND_READY is set. -/
def execCmbRandDone (s : State) : Host.Outcome State Fault Refusal :=
  .next (s.doCmbRandDone)

/-- CMB_XS_LOG_READ (R305). A read of CMB_XS_LOG returns and clears the last XS overflow. -/
def execCmbXsLogRead (via : ReadVia) (s : State) : Host.Outcome State Fault Refusal :=
  .next (s.doCmbXsLogRead via)

/-- CMB_MOE_COUNT_READ (R305). A read of CMB_MOE_COUNT returns and clears the dropped and deferred counts. -/
def execCmbMoeCountRead (via : ReadVia) (s : State) : Host.Outcome State Fault Refusal :=
  .next (s.doCmbMoeCountRead via)

/-- CMB_SPECIAL_READ (R305). A read of CMB_SPECIAL returns and clears the NaN and saturation counts. -/
def execCmbSpecialRead (via : ReadVia) (s : State) : Host.Outcome State Fault Refusal :=
  .next (s.doCmbSpecialRead via)


end Sys2Proof.Machine
end

