-- ==== Sys2Proof/Machine/Heartbeat.lean ====
section
/-! DEFINITION. Sys2Proof/Machine/Heartbeat.lean: heartbeats as they leave and as they arrive (R64 to R66, R211 to R217),
with the time, the reports, the grants, the residences and the rotating records that they carry (R15, R22, R52, R85,
R108 to R113, R118 to R120). -/

namespace Sys2Proof.Machine

/-! ### What a heartbeat says (R64 to R66, R109, R110, R118, R213) -/

/-- Is a domain the unit's own: a root's domain. -/
def State.ownsDom (s : State) (d : Dom) : Bool := s.isRoot && d == s.ownDom

/-- The GRANT_SC, LAST_SEQ and EPOCH that the unit sends for a domain: the issuer's own in its domain; the relay's, those
of the issuer's domain; otherwise those that it forwards. -/
def State.fwdOf (s : State) (d : Dom) : Fwd :=
  if s.ownsDom d then
    if s.cad.root.issuer then ⟨s.cad.grant, s.cad.root.seq, s.cad.root.epoch⟩
    else if s.cad.root.relay then s.cad.fwd.get s.otherDom
    else {}
  else s.cad.fwd.get d

/-- May the unit's time be used: it is not of class U (log entry 104). -/
def State.timeGood (s : State) : Bool := s.time.cls != 0

/-- The QL that a unit advertises for a domain (R66). -/
def State.sentQl (s : State) (d : Dom) : Nat :=
  let on := s.time.servo == .locked || s.time.servo == .bridge
  if s.ownsDom d then (if on || s.time.servo == .holdover then s.rootQl else 15)
  else if on then s.domQl d
  else 15

/-- The domain record that a port sends. The report stands in every record, and its mark on the selected input. A root,
which has no selected input for its own domain, names itself as that domain's upstream (log entry 142). -/
def State.sentDom (s : State) (p : Nat) (d : Dom) : DomRec :=
  let own := s.ownsDom d
  let sel := s.ref.sel.get d
  let t : PortTime := match sel with
    | some q => s.portTime d q
    | none => {}
  let r := s.aggregate d
  let f := s.fwdOf d
  { offset := signedOf 32 (satBits 32 (- s.domErr d)),
    ql := s.sentQl d,
    sbql := if own then s.standbyQl else t.sbql,
    hop := if own then 0 else min 255 (t.hop + 1),
    upDno := if own then s.ident.dno else match sel with
      | some q => (s.port q).peerId
      | none => 0,
    valid := s.portFixed p && s.timeGood && (own || sel.isSome),
    leader := if own then s.ref.leader else t.leader,
    mark := s.portFixed p && sel == some p,
    disarm := r.disarm, epoch := f.epoch, lastSeq := f.lastSeq, arm := r.arm, grant := f.grant, complete := r.complete }

/-- The root's UTC offset is what its lantern writes (R93); another unit's is the last one it received (R15). -/
def State.utcSent (s : State) : Option (W × BitVec 16) :=
  if s.isRoot then some (s.reg Reg.REF_UTC_OFFSET_NS, (s.reg Reg.REF_UTC_OFFSET_FRAC).setWidth 16) else s.time.utcLast

def noRot : RotRec := ⟨0, 0, 0, 0⟩

/-- The negated trim of a die port, and whether it has never been written (R55, R215). -/
def State.trimRot (s : State) (p : Nat) : RotRec :=
  let w := s.preg (Reg.TDC_PORT_TRIM + 8 * p)
  if w.getLsbD 32 then ⟨2, 0, BitVec.ofInt 64 (- signedOf 32 (w.toNat % 2 ^ 32)), 0⟩ else ⟨2, 1, 0, 0⟩

/-- The lane trims of a port as four i16 values (R215). -/
def State.lanesRot (s : State) (p : Nat) : RotRec :=
  ⟨4, 0, mkw ((upto 4).map fun i => (16 * i, satBits 16 (s.laneTrim (laneOf p i)))), 0⟩

/-- The rotating record (R215, R217). -/
def State.sentRot (s : State) (p seq : Nat) : RotRec :=
  if !s.portFixed p then noRot
  else if s.tdc.swap.step != 0 && s.tdc.swap.port == p then ⟨3, s.tdc.swap.step, 0, 0⟩
  else if seq % 1024 = 0 then
    match s.utcSent with
    | some (ns, f) => ⟨1, 0, ns, f.setWidth 64⟩
    | none => noRot
  else if seq % 1024 = 512 && s.diePortOf p then s.trimRot p
  else if seq % 1024 = 256 then s.lanesRot p
  else noRot

/-- The decisions that the unit repeats on a port: the last two whose boundaries have not passed, other than those that came
from it (R112, R216). -/
def State.repeated (s : State) (p : Nat) : Option Decision × Option Decision :=
  if s.portFixed p && s.relays then
    match (s.cad.decRep.filter fun e => e.2 != some p).reverse with
    | [] => (none, none)
    | [a] => (some a.1, none)
    | b :: a :: _ => (some a.1, some b.1)
  else (none, none)

/-- An invalid residence record. -/
def noRes : ResRec := ⟨0, 0, 0, false, 0, 0, 0⟩

/-- The heartbeat that a port sends now (R212). -/
def State.heartbeatOf (s : State) (p : Nat) : Heartbeat :=
  let x := s.port p
  let d := s.repeated p
  { timeValid := s.portFixed p,
    root := s.isRoot, issuer := s.isRoot && s.cad.root.issuer, relay := s.isRoot && s.cad.root.relay,
    issueInit := s.isRoot && (s.preg Reg.CAD_ROOT_CFG).getLsbD 0,
    seq := x.hbSeq % 65536, senderKind := s.senderKind, sender := s.sender, level := s.level,
    prevNs := x.hbPrev.1, prevFrac := x.hbPrev.2.toNat,
    doms := ⟨s.sentDom p .A, s.sentDom p .B⟩,
    res := (s.tdc.resQ.get p []).headD noRes,
    rot := s.sentRot p (x.hbSeq % 65536), d0 := d.1, d1 := d.2 }

/-! ### UTC (R15) -/

/-- Takes an offset that has come: at once while IDLE or HELD, at the next boundary otherwise. -/
def State.copyUtc (s : State) : State :=
  match s.time.utcRx with
  | some (ns, f) => { s with time := { s.time with utcNs := ns, utcFrac := f, utcRx := none } }
  | none => s

def State.takeUtc (s : State) (u : W × BitVec 16) : State :=
  let s1 : State := { s with time := { s.time with utcRx := some u, utcLast := some u } }
  if s1.notRunning then s1.copyUtc else s1

/-- HEARTBEAT_SEND: at an instant of R211 the heartbeat leaves; its departure is stamped (R45), and it is what the next one
states. A root that sends its UTC offset takes it up as well. -/
def State.doHeartbeatSend (s : State) (port : Nat) : State :=
  if s.awake && s.carriesOs port && s.hbDue port then
    let h := s.heartbeatOf port
    let s0 := s.tdcTake (txChannel port) 0 s.edgeStamp
    let x := s0.port port
    let s1 := s0.setPort port { x with
      hbSeq := x.hbSeq + 1, hbPrev := (s.htNs, s.htFrac), lastOs := some s.time.now, hbTick := some s.beatNo }
    let s2 : State := { s1 with
      tdc := { s1.tdc with resQ := s1.tdc.resQ.set port ((s1.tdc.resQ.get port []).drop 1) },
      out := s1.out ++ [.oset port (.heartbeat h)] }
    let s3 := if s2.isRoot && h.rot.kind == 1 then s2.takeUtc (h.rot.v0, h.rot.v1.setWidth 16) else s2
    if s3.notRunning then s3.copyUtc else s3
  else s

/-! ### Arrival: time (R21, R22, R26, R65 to R67) -/

/-- The delay of a lane for a set that arrived at `h`: the new one after the boundary that committed it, the one before it
otherwise (R26). -/
def State.delayAt (s : State) (l : Nat) (h : Int) : Int :=
  if h > s.tdc.commitHt then (s.delayEnt l).delay else s.tdc.prevDelay.get l (s.delayEnt l).delay

/-- The arrivals of a heartbeat on the lanes of a port that stamp it, with the lane's delay where it is eligible. -/
def State.arrivals (s : State) (p : Nat) (stamps : List (BitVec 48)) : List Arrival :=
  ((upto 4).zip stamps).filterMap fun e =>
    if s.laneOs p e.1 && s.stamps (laneOf p e.1) then
      (s.stampHt e.2).map fun h =>
        { lane := e.1, ht := h,
          delay := if s.laneEligible (laneOf p e.1) then some (s.delayAt (laneOf p e.1) h) else none }
    else none

/-- The events of a heartbeat's markers on the lanes of a port (R42, R45). -/
def State.takeMarkers (s : State) (p : Nat) (stamps : List (BitVec 48)) : State :=
  ((upto 4).zip stamps).foldl (fun t e =>
    if s.laneOs p e.1 then t.tdcTake (laneOf p e.1) 0 e.2.toNat else t) s

/-- The hall time of the departure that a heartbeat states, of the heartbeat before it (R212). -/
def prevHt (hb : Heartbeat) : Int := (hb.prevNs.toNat * 65536 + hb.prevFrac % 65536 : Nat)

def setPT (s : State) (d : Dom) (p : Nat) (t : PortTime) : State :=
  { s with ref := { s.ref with pt := s.ref.pt.set d ((s.ref.pt.get d).set p t) } }

/-- Does the servo follow a source in this state. -/
def Servo.tracks : Servo → Bool
  | .acquire | .locked | .bridge | .holdover => true
  | _ => false

/-- The mean error of a heartbeat with hall time `sent` for a domain on a port, over the lanes that were eligible; errors
beyond 2 ns are discarded in LOCKED (R21), but not by a split root, which steers by them (R86). An input that was lost
counts again after 64 errors. -/
def State.phaseErrs (s : State) (d : Dom) (p : Nat) (sent : Int) (arr : List Arrival) : State :=
  let t := s.portTime d p
  let errs := arr.filterMap fun a => a.delay.map fun dl => a.ht - (sent + dl)
  let kept := if s.time.servo == .locked && !(s.isRoot && s.ref.split) then errs.filter fun e => decide (e.natAbs ≤ ns2) else errs
  if errs.isEmpty then setPT s d p t.clear
  else if kept.isEmpty then setPT s d p { t with fresh := some none }
  else
    let e := meanOf kept
    let l := (e :: t.errs).take 64
    setPT s d p { t with errs := l, fresh := some (some e), lost := t.lost && decide (l.length < 64) }

/-- What lane 0 of a port in a lane swap adds to e_n or e_s: its error with the uncorrected delay rt00 / 2 (R57). -/
def State.swapErr (s : State) (p : Nat) (sent : Int) (arr : List Arrival) : State :=
  let w := s.tdc.swap
  match arr.find? fun a => a.lane == 0 with
  | some a =>
    let e := a.ht - (sent + w.rt00.tdiv 2)
    if w.port = p && w.step = 2 && w.cntN < swapBeats then
      { s with tdc := { s.tdc with swap := { w with sumN := w.sumN + e, cntN := w.cntN + 1 } } }
    else if w.port = p && w.step = 4 && w.cntS < swapBeats then
      { s with tdc := { s.tdc with swap := { w with sumS := w.sumS + e, cntS := w.cntS + 1 } } }
    else s
  | none => s

/-- COARSE: a unit in FREERUN loads HT once, from sent_ht plus half the first round trip at the arrival (R22; log entry
105), and sets COARSE_SEEN (R35). Errors computed before the load are of no use after it. -/
def State.coarseLoad (s : State) (d : Dom) (p : Nat) (sent : Int) (arr : List Arrival) : State :=
  match arr with
  | a :: _ =>
    if s.time.servo == .freerun && !s.isRoot && s.tdc.firstRt.has p then
      let s1 := s.moveHt ((sent + (s.tdc.firstRt.get p 0).tdiv 2 - a.ht) * 2 ^ 32)
      let clean (t : Tab PortTime) : Tab PortTime :=
        t.map fun (e : Nat × PortTime) => (e.1, { e.2 with errs := [], mean := 0, fresh := none, lost := false })
      (({ s1 with
        time := { s1.time with servo := .coarse },
        ref := { s1.ref with pt := ⟨clean s1.ref.pt.a, clean s1.ref.pt.b⟩, active := d } } : State).raise Fld.HT_STATUS_COARSE_SEEN).reclass
    else s
  | [] => s

/-- The heartbeat before, judged by the time that this one states of it, for one domain. -/
def State.judgeDom (s : State) (d : Dom) (p : Nat) (h hb : Heartbeat) (arr : List Arrival) : State :=
  let r := h.doms.get d
  if r.valid then
    let sent := prevHt hb + r.offset
    let s1 := if s.time.servo.tracks then s.phaseErrs d p sent arr else s
    let s2 := if d == s.driveDom then s1.swapErr p sent arr else s1
    s2.coarseLoad d p sent arr
  else setPT s d p (s.portTime d p).clear

/-- What a heartbeat says of a domain (R64). -/
def State.noteDom (s : State) (d : Dom) (p : Nat) (hb : Heartbeat) : State :=
  let r := hb.doms.get d
  setPT s d p { s.portTime d p with
    valid := r.valid, ql := r.ql, sbql := r.sbql, hop := r.hop, upDno := r.upDno, leader := r.leader,
    heard := true }

/-- A gap in HB_SEQ, or a heartbeat without time: no error is computed for the one before. -/
def State.noErrors (s : State) (d : Dom) (p : Nat) : State :=
  if (s.ref.pt.get d).has p then setPT s d p (s.portTime d p).clear else s

/-- The time fields of a heartbeat. -/
def State.takeTime (s : State) (p : Nat) (hb : Heartbeat) (arr : List Arrival) : State :=
  let s1 :=
    match (s.port p).rxHb with
    | some (h, a) =>
      if hb.seq = (h.seq + 1) % 65536 then (s.judgeDom .A p h hb a).judgeDom .B p h hb a
      else (s.noErrors .A p).noErrors .B p
    | none => (s.noErrors .A p).noErrors .B p
  let s2 := (s1.noteDom .A p hb).noteDom .B p hb
  (s2.setPort p { s2.port p with rxHb := some (hb, arr) }).bridgeReturn

/-! ### Arrival: residence and rotating records (R52, R214, R215) -/

/-- A residence record: the round trip it belongs to, and the peer's mean for the pairing; round trips that still wait for
theirs count the heartbeat. -/
def State.takeRes (s : State) (p : Nat) (r : ResRec) : State :=
  let hit (x : Trip) : Bool := r.valid && x.port == p && x.reqLane == r.reqLane && x.seq == r.seq && x.resid.isNone
  let trips := s.tdc.trips.map fun x =>
    if hit x then { x with resid := some r.residence }
    else if x.port == p && x.waitFrom.isNone && x.resid.isNone then { x with hbs := x.hbs + 1 }
    else x
  let s1 : State := { s with tdc := { s.tdc with
    trips := trips,
    peerMean := if r.valid then s.tdc.peerMean.set (laneOf p (r.rspLane % 4)) r.rtMean else s.tdc.peerMean } }
  s1.closeTrips

/-- Is a port an input from which what comes down the time streams is taken: the selected input of a domain, or any fixed
port while the domain has none, that does not report to this unit (log entry 106). -/
def State.downFrom (s : State) (d : Dom) (p : Nat) (hb : Heartbeat) : Bool :=
  match s.ref.sel.get d with
  | some q => q == p
  | none => !(hb.doms.get d).mark && !s.diePortOf p

/-- This end's part in a lane swap that the peer runs, by the step that its heartbeats name: lane 0 retrains in steps 3 and
5, and is locked in step 4 and after step 5; a swap that ends from step 3 or 4 has failed (R57, R60). -/
def State.peerSwapStep (s : State) (p n : Nat) : State :=
  let was := s.tdc.peerSwap.get p 0
  if was = n then s
  else
    let s1 : State := { s with tdc := { s.tdc with
      peerSwap := if n = 0 then s.tdc.peerSwap.del p else s.tdc.peerSwap.set p n } }
    let s2 :=
      if n = 3 then s1.swapRetrain p true
      else if n = 4 then (if was = 3 then s1 else s1.swapRetrain p true).swapTrained p
      else if n = 5 then s1.swapRetrain p false
      else if was = 5 then s1.swapTrained p
      else s1.swapUndo p was
    s2.reclass

/-- A rotating record. -/
def State.takeRot (s : State) (p : Nat) (hb : Heartbeat) : State :=
  let r := hb.rot
  let s1 := s.peerSwapStep p (if r.kind = 3 then r.arg else 0)
  if r.kind = 1 then
    if !s1.isRoot && s1.downFrom s1.activeDom p hb then s1.takeUtc (r.v0, r.v1.setWidth 16) else s1
  else if r.kind = 2 then
    if s1.isVd then s1
    else
      ({ s1 with tdc := { s1.tdc with
        peerTrim := s1.tdc.peerTrim.set p r.v0.toInt,
        dieTrimMiss := s1.tdc.dieTrimMiss.set p (r.arg % 2 == 1) } }).reclass
  else if r.kind = 4 then
    { s1 with tdc := { s1.tdc with
      dieTrim := (upto 4).foldl (fun (t : Tab Int) (i : Nat) =>
        t.set (laneOf p i) (signedOf 16 ((r.v0.toNat >>> (16 * i)) % 65536))) s1.tdc.dieTrim } }
  else s1

/-! ### Arrival: reports, grants and the other root (R108 to R114, R118 to R120) -/

/-- The report of a domain's record: kept while it is marked, and dropped by a record without the mark (R119). -/
def State.takeReport (s : State) (d : Dom) (p : Nat) (r : DomRec) : State :=
  let t := s.cad.reps.get d
  { s with cad := { s.cad with
    reps := s.cad.reps.set d (if r.mark then t.set p ⟨r.complete, r.arm, r.disarm⟩ else t.del p) } }

/-- The grant of a domain's record: forwarded when it comes down the domain's stream, and taken by epoch (R110, R113). -/
def State.takeFwd (s : State) (d : Dom) (p : Nat) (hb : Heartbeat) : State :=
  let r := hb.doms.get d
  let s1 : State :=
    if s.downFrom d p hb then
      { s with cad := { s.cad with fwd := s.cad.fwd.set d ⟨r.grant, r.lastSeq, r.epoch⟩ } }
    else s
  s1.takeGrant r.epoch r.grant r.lastSeq

/-- A heartbeat of the other root: its ISSUE_INIT and DNO, and a relay's aggregate over its own domain (R108, R120). -/
def State.takeRoot (s : State) (hb : Heartbeat) : State :=
  if s.isRoot && hb.root && hb.senderKind == 0 && hb.sender != s.ident.dno then
    let r := hb.doms.get s.otherDom
    { s with cad := { s.cad with root := { s.cad.root with
        otherInit := some hb.issueInit, otherDno := hb.sender,
        otherRep := if hb.relay then some ⟨r.complete, r.arm, r.disarm⟩ else s.cad.root.otherRep } } }
  else s

/-- The LEADER flag of the other root, where it arrives on the selected input of its domain (R85). -/
def State.seeLeader (s : State) (p : Nat) (hb : Heartbeat) : State :=
  let r := hb.doms.get s.otherDom
  if s.isRoot && r.valid && s.ref.sel.get s.otherDom == some p then s.leaderTake r.leader else s

/-- The domain and rotating fields of a heartbeat whose time fields are valid. -/
def State.takeDomains (s : State) (p : Nat) (hb : Heartbeat) : State :=
  let s1 := (s.takeReport .A p hb.doms.a).takeReport .B p hb.doms.b
  let s2 := (s1.takeFwd .A p hb).takeFwd .B p hb
  ((s2.takeRoot hb).seeLeader p hb).takeRot p hb

/-- The decisions that a heartbeat repeats; what is new is forwarded at once (R112). -/
def State.takeRepeat (s : State) (p : Nat) (hb : Heartbeat) : State :=
  match hb.d0 with
  | some a => s.rxDecisions p a hb.d1
  | none =>
    match hb.d1 with
    | some b => s.rxDecisions p b none
    | none => s

/-- Counts a heartbeat for the detector and the age of the last one (R354, R378). -/
def State.countHb (s : State) (p : Nat) (hb : Heartbeat) : State :=
  let x := s.port p
  s.setPort p { x with
    hbCount := x.hbCount + 1, hbAt := some s.time.now,
    hbTimed := x.hbTimed + bit (hb.timeValid && (hb.doms.a.valid || hb.doms.b.valid)) }

/-- HEARTBEAT_RX: at a port that is not fixed, or with TIME_VALID clear, the time, domain and rotating fields are ignored
(R32, R217). The cutoff of a boundary whose instant has come is taken first. -/
def State.doHeartbeatRx (s : State) (port : Nat) (hb : Heartbeat) (stamps : List (BitVec 48)) : State :=
  if s.awake && s.carriesOs port then
    let s0 := s.ensureCut.countHb port hb
    let arr := s0.arrivals port stamps
    let s1 := (s0.takeMarkers port stamps).takeRes port hb.res
    let s2 :=
      if s1.portFixed port && hb.timeValid then
        (s1.takeTime port hb arr).takeDomains port hb
      else
        let t := (s1.noErrors .A port).noErrors .B port
        t.setPort port { t.port port with rxHb := none }
    let s3 := s2.takeRepeat port hb
    if s3.notRunning then s3.copyUtc else s3
  else s

/-- HEARTBEAT_SEND (R211). At each multiple of 1,024 ns a port sends a heartbeat with domain records, report,
residence and rotating records. -/
def execHeartbeatSend (port : Nat) (s : State) : Host.Outcome State Fault Refusal :=
  .next (s.doHeartbeatSend port)

/-- HEARTBEAT_RX (R212). A unit receives a heartbeat, takes its time, grant, report and rotating fields, and updates
its aggregates. -/
def execHeartbeatRx (port : Nat) (hb : Heartbeat) (stamps : List (BitVec 48)) (s : State) : Host.Outcome State Fault Refusal :=
  .next (s.doHeartbeatRx port hb stamps)


end Sys2Proof.Machine
end

