-- ==== Sys2Proof/Machine/Tile.lean ====
section
/-! DEFINITION. Sys2Proof/Machine/Tile.lean: the tile array (R306 to R320): products over staging rows, vector rounds, the
fold map and its spares. -/

namespace Sys2Proof.Machine

/-! ### Operands and results in staging (R312) -/

/-- Reads `n` consecutive rows as a feeder does, each with its stamp check, and joins their payloads. -/
def State.readMatrix (s : State) (row n age req : Nat) : State × List Byte :=
  (upto n).foldl (fun (x : State × List Byte) k =>
    let y := x.1.schedRead (row + k) age req
    (y.1, x.2 ++ (y.2.drop 16).take 224)) (s, [])

/-- Writes consecutive rows' payloads as the result write does. -/
def State.writeMatrix (s : State) (row : Nat) (l : List Byte) : State :=
  let ps := chunks 224 l.length l
  (upto ps.length).foldl (fun t k =>
    t.schedWrite (row + k) 7 (overlay (t.rowBytes (row + k)) 16 (padTo 224 (ps.getD k [])))) s

/-- Element (i, j) of a stored matrix of `rows` × `cols`, or of its transpose. -/
def matElem (l : List Val) (rows cols : Nat) (transposed : Bool) (i j : Nat) : Val :=
  if transposed then l.getD (j * rows + i) .zero else l.getD (i * cols + j) .zero

/-- An element of the result: one chain of fused multiply-adds in ascending k (R306, R308). -/
def dot (a b : Nat → Val) (k : Nat) (c0 : Val) : Val := (upto k).foldl (fun acc j => fma32 (a j) (b j) acc) c0

/-- C of a product from the elements of A and B and the present value of C. -/
def TilInstr.product (t : TilInstr) (a b c : List Val) : List Val :=
  (upto (t.m * t.n)).map fun e =>
    let i := e / t.n
    let j := e % t.n
    dot (fun k => matElem a t.m t.k (t.opcode == 2 || t.opcode == 4) i k)
      (fun k => matElem b t.k t.n (t.opcode == 3 || t.opcode == 4) k j) t.k
      (if t.acc then c.getD e .zero else .zero)

/-- The product of a tile instruction: A and B are read with their stamp checks, C with ACC as it stands; the bytes of C. In
the column of a residue mismatch C is a free value. -/
def State.tilProduct (s : State) (t : TilInstr) (badCol : Option Nat) : State × List Byte :=
  let ra := s.readMatrix (16 * t.aTile) (matRows t.fmt (t.m * t.k)) t.ageA 4
  let rb := ra.1.readMatrix (16 * t.bTile) (matRows t.fmt (t.k * t.n)) t.ageB 5
  let nc := matRows 0 (t.m * t.n)
  let c := if t.acc then streamVals 0 ((upto nc).flatMap fun k => rb.1.rowPayload (16 * t.cTile + k)) else []
  let p := t.product (streamVals t.fmt ra.2) (streamVals t.fmt rb.2) c
  let out := (upto p.length).map fun e =>
    match badCol with
    | some col => if e % t.n % 128 = col then Config.residueElem s.free e % 2 ^ 32 else bits32 (p.getD e .zero)
    | none => bits32 (p.getD e .zero)
  (if badCol.isSome then { rb.1 with free := rb.1.free + 1 } else rb.1, packBytes 32 out)

/-- What the array has finished by now is written to staging (R315; log entry 159). -/
def State.tilLand (s : State) : State :=
  match s.til.run with
  | some r =>
    if r.startAt + r.span ≤ s.time.now && !r.out.isEmpty then
      ({ s with til := { s.til with run := some { r with out := [] } } } : State).writeMatrix r.row r.out
    else s
  | none => s

/-! ### The fold map (R317, R319) -/

/-- Refuses a third retirement. -/
def State.noSpareLeft (s : State) : State :=
  if s.til.noSpare then s
  else ({ s with til := { s.til with noSpare := true } } : State).raise Fld.TIL_STATUS_SPARES_OUT

/-- Commits TIL_FOLD; refused where it would retire a third row. -/
def State.commitFold (s : State) : State :=
  let l := foldOf (s.preg Reg.TIL_FOLD)
  let s1 : State := { s with til := { s.til with foldP := false } }
  if 2 < (s.til.retired ++ l.filter fun r => !s.til.retired.contains r).length then s1.noSpareLeft
  else ({ s1 with til := { s1.til with retired := l } } : State).raise Fld.TIL_STATUS_FOLD_COMMIT

/-- FOLD_COMMIT: at once while IDLE or HELD, else at the next working boundary. -/
def State.foldCmd (s : State) : State :=
  if s.notRunning then s.commitFold else { s with til := { s.til with foldP := true } }

def State.doFoldCommit (s : State) : State := if s.isVd && s.awake then s.foldCmd else s

/-- The faulting row joins TIL_FOLD at once, and the map is committed (R319). -/
def State.autoRetire (s : State) (row : Nat) : State :=
  let l := foldOf (s.preg Reg.TIL_FOLD)
  if l.contains row then s.foldCmd
  else if 2 ≤ l.length then s.noSpareLeft
  else (s.pput Reg.TIL_FOLD 0x1FF01FF (foldWord ((row :: l).mergeSort fun a b => a ≤ b))).foldCmd

/-! ### TIL_INSTR_START (R313, R318) -/

/-- The start of slot `g` of the step by the model's count of elapsed time. -/
def State.slotNow (s : State) (b : W) (g : Nat) : Nat :=
  let late := s.ht - (b.toNat * 100 + 256 * g) * 65536 / 100
  s.time.now - late * 2 ^ 32

/-- The first pass, of those whose START_SLOT has come, in which an item has not started yet. -/
def State.tilPass (s : State) (ts key start : Nat) : Option Nat :=
  (upto ((s.fab.slot + ts - 1) / ts)).find? fun p =>
    decide (p * ts + start < s.fab.slot) && !s.til.started.contains (key, p)

/-- The array takes up its next work; it is late where its last work ended after START_SLOT began. -/
def State.tilTake (s : State) (b : W) (ts key start pass : Nat) (r : TilRun) : State :=
  let at0 := s.slotNow b (pass * ts + start)
  let late := match s.til.run with
    | some q => decide (at0 < q.startAt + q.span)
    | none => false
  let s1 : State := { s with til := { s.til with run := some r, started := (key, pass) :: s.til.started } }
  if late then s1.raise Fld.TIL_STATUS_LATE else s1

/-- A residue mismatch (R318). -/
def State.rowFault (s : State) (row col instr : Nat) (vector : Bool) : State :=
  let s1 := s.setReg Reg.TIL_FAULT_LOG
    (mkw [(0, row % 256), (8, col % 128), (15, bit vector), (16, s.wsc16), (32, instr % 65536)])
  let s2 := ({ s1 with til := { s1.til with
      faultStep := true, vecBad := if vector then instr :: s1.til.vecBad else s1.til.vecBad } } : State).raise
      Fld.TIL_STATUS_ROW_FAULT
  if s2.flag Fld.TIL_CTRL_AUTO_RETIRE then s2.autoRetire row else s2

def State.doTilInstrStart (s : State) (t : TilStart) (residueAt : Option (Nat × Nat)) : State :=
  match s.fab.passAt, s.img.live with
  | some b, some ps =>
    let ts := max 1 ps.desc.tableSlots
    if !s.isVd || !s.awake || s.tilBusy.isSome || s.clk.tilCur == 7 then s
    else
      match t with
      | .instr i =>
        (match ps.tils[i]? with
         | some c =>
           if c.opcode = 0 then s
           else
             match s.tilPass ts i c.start with
             | some p =>
               let cyc := regionCycle s.clk.tilCur
               let x := s.tilProduct c (residueAt.map (·.2))
               let s1 := x.1.tilTake b ts i c.start p
                 { instr := i, vector := false, startAt := s.time.now, span := (c.nominal + s.til.retired.length) * cyc,
                   passes := c.passes, lead := (144 + c.turn) * cyc, every := max c.m 130 * cyc,
                   row := 16 * c.cTile, out := x.2 }
               (match residueAt with
                | some rc => s1.rowFault rc.1 rc.2 i false
                | none => s1)
             | none => s
         | none => s)
      | .combine i =>
        (match ps.cmbs[i]? with
         | some c =>
           if c.opcode != 0x29 then s
           else
             let r : TilRun := { instr := i, vector := true, startAt := s.time.now, span := (48 + s.til.retired.length) * regionCycle s.clk.tilCur,
                                 passes := 1 }
             let s1 := match s.tilPass ts (65536 + i) c.start with
               | some p => s.tilTake b ts (65536 + i) c.start p r
               | none => { s with til := { s.til with run := some r } }
             if s.fab.slot ≤ c.start then s
             else
               match residueAt with
               | some rc => s1.rowFault rc.1 rc.2 i true
               | none => s1
         | none => s)
  | _, _ => s

def State.doTilFaultLogRead (s : State) (via : ReadVia) : State := s.readClear via Reg.TIL_FAULT_LOG

/-- TIL_INSTR_START (R313). A tile instruction or COMBINE round starts at its START_SLOT, or after the previous one
finishes. -/
def execTilInstrStart (t : TilStart) (residueAt : Option (Nat × Nat)) (s : State) : Host.Outcome State Fault Refusal :=
  .next (s.doTilInstrStart t residueAt)

/-- FOLD_COMMIT (R319). TIL_CMD.FOLD_COMMIT commits the fold map at the next working boundary or at once, or refuses a
third retirement. -/
def execFoldCommit (s : State) : Host.Outcome State Fault Refusal :=
  .next (s.doFoldCommit)

/-- TIL_FAULT_LOG_READ (R333). A read of TIL_FAULT_LOG returns and clears the last row fault. -/
def execTilFaultLogRead (via : ReadVia) (s : State) : Host.Outcome State Fault Refusal :=
  .next (s.doTilFaultLogRead via)


end Sys2Proof.Machine
end

