-- ==== Sys2Proof/Machine/Boundary.lean ====
section
/-! DEFINITION. Sys2Proof/Machine/Boundary.lean: what a boundary and its cutoff do to the whole unit (R98 to R106, R115,
R122, R128, R129, R184, R198, R359 to R363): what fires, what is held, what commits, and what the host die sees. -/

namespace Sys2Proof.Machine

/-! ### The model of the host clock (R129) -/

/-- One DISC_CLK_OUT cycle, 20 time-clock cycles of R18: the depth in use and the HT of its end, in 2^-48 ns; a profile start
takes up depth `dn`. -/
def discStep (dn : Nat) : Nat → Nat × Nat → Nat × Nat
  | 0, x => x
  | n + 1, (d, h) =>
    let h' := h + period d (h / 2 ^ 48)
    discStep dn n (if h' / (32000 * 2 ^ 48) = h / (32000 * 2 ^ 48) then d else dn, h')

def discNext (dn : Nat) (x : Nat × Nat) : Nat × Nat :=
  if x.1 = 0 && dn = 0 then (0, x.2 + 20 * 2 ^ 47) else discStep dn 20 x

/-- The model edges before HT `x`, from a DISC_CLK_OUT edge on: each cycle holds MUL edges in equal parts, `off` after its
own edge. -/
def edgesBefore (mul : Nat) (off x : Int) (dn : Nat) : Nat → Nat × Nat → Nat
  | 0, _ => 0
  | n + 1, q =>
    let r := discNext dn q
    let lo : Int := q.2 + off
    if lo ≥ x then 0
    else
      min mul ((((x - lo) * mul + (r.2 - q.2 : Nat) - 1) / (r.2 - q.2 : Nat)).toNat) + edgesBefore mul off x dn n r

/-- The first model edge at or after HT `x`, from a DISC_CLK_OUT edge on, and the one that follows it. -/
def edgeAfter (mul : Nat) (off x : Int) (dn : Nat) : Nat → Nat × Nat → Int × Int
  | 0, _ => (x, x)
  | n + 1, q =>
    let r := discNext dn q
    let lo : Int := q.2 + off
    let len : Int := (r.2 - q.2 : Nat)
    let i := max 0 (((x - lo) * mul + len - 1) / len)
    let at_ (j : Int) : Int := lo + (j * len + mul - 1) / mul
    if i < mul then (at_ i, at_ (i + 1)) else edgeAfter mul off x dn n r

/-- The DISC_CLK_OUT edge from which the count starts, two cycles back: from the newest anchor before it, or, before the first
profile start, at 500 ps a cycle. -/
def State.discBase (s : State) : Nat × Nat :=
  let c0 := s.tdc.coarse / 20 * 20 - 40
  match s.tdc.anchors.find? fun a => decide (a.cnt ≤ c0) with
  | some a => (a.depth, ((edgesFrom a.depth (c0 - a.cnt) (a.ns.toNat * 2 ^ 48 + a.frac.toNat * 2 ^ 32) : Nat) + a.adj).toNat)
  | none => (s.time.depthUse, s.time.htx.toNat - (s.tdc.coarse - c0) * 2 ^ 47)

/-- The depth that the next profile start takes up. -/
def State.nextDepth (s : State) : Nat := if s.time.servo.spreads then s.time.depthComm else 0

/-- How many DISC_CLK_OUT cycles suffice to reach HT `x` ns. -/
def State.discCycles (s : State) (x : W) : Nat := (x.toNat * 2 ^ 48 - s.discBase.2) / (20 * 2 ^ 47) + 2

/-- The host cycles from the launch edge of the boundary at `b` to that of the next one at `b'`. -/
def State.hostCycles (s : State) (b b' : W) : Nat :=
  let count (x : W) : Nat :=
    edgesBefore (s.fld Fld.CAD_HOST_CFG_MUL) s.clk.hostOff (x.toNat * 2 ^ 48 : Nat) s.nextDepth (s.discCycles x) s.discBase
  count b' - count b

/-- The launch cycle of the boundary at `b` (R128): the HT of its edge and of the next one, in 2^-48 ns. -/
def State.launchCycle (s : State) (b : W) : Int × Int :=
  edgeAfter (s.fld Fld.CAD_HOST_CFG_MUL) s.clk.hostOff (b.toNat * 2 ^ 48 : Nat) s.nextDepth (s.discCycles b) s.discBase

/-! ### The sequencer port (R128, R437; a U2 and a U1 have fewer signals) -/

/-- A launch cycle's row after the cycle: LAUNCH and FREEWHEEL are high for that cycle only. -/
def SeqPort.after (p : SeqPort) : SeqPort := { p with launch := false, freewheel := false }

/-- What the sequencer port shows now: until the launch cycle what it showed before, from it on its row, with LAUNCH and
FREEWHEEL for the one cycle. -/
def State.seqPins (s : State) : SeqPort :=
  if (s.time.htx.toNat : Int) < s.cad.seqAt then s.cad.seqWas
  else if (s.time.htx.toNat : Int) < s.cad.seqNext then s.cad.seqp
  else s.cad.seqp.after

/-- Drives the sequencer port of a die's block in the launch cycle of the boundary at `b`. -/
def State.setSeq (s : State) (p : SeqPort) (b : W) : State :=
  let q : SeqPort :=
    match s.ident.kind with
    | .vd => {}
    | .vsu => p
    | .u2 => { p with sc := p.sc &&& 0xFFFFFFFF, cycMin := p.cycMin % 2 ^ 24 }
    | .u1 => { launch := p.launch, hold := p.hold, sc := p.sc &&& 0xFFFFFFFF }
  let e := s.launchCycle b
  { s with cad := { s.cad with seqp := q, seqWas := s.cad.seqp.after, seqAt := e.1, seqNext := e.2 } }

/-- The row of a boundary fired at `b`. -/
def State.seqFired (s : State) (b : W) : State :=
  s.setSeq {
    launch := !s.cad.freewheel, freewheel := s.cad.freewheel, sc := s.cad.wsc, phase := s.cad.phase,
    cycMin := (s.hostCycles b (s.boundaryNs (s.cad.sc + 1)) - s.fld Fld.CAD_HOST_CFG_MARGIN) % 2 ^ 32 } b

/-- The row of a boundary held at `b`. -/
def State.seqHeld (s : State) (b : W) : State := s.setSeq { s.cad.seqp.after with hold := true, cycMin := 0 } b

/-! ### What commits at a boundary, or once no boundary fires -/

def when (b : Bool) (f : State → State) (s : State) : State := if b then f s else s

/-- The contexts whose translation table waits to commit (R151). -/
def State.commitXlats (s : State) : State :=
  ((s.spk.ctxs.filter fun e => e.2.xlatPend).map (·.1)).foldl (fun t c => t.xlatCommit c) s

/-- Fences, routes, translations, owner losses, delay entries, the spread depth and the UTC offset (R15, R19, R26, R151,
R156, R233, R365); `h` is the instant in 2^-16 ns of HT. -/
def State.commitAll (s : State) (h : Int) : State :=
  let s1 := when s.fab.routeP State.commitRoutes s.applyFences
  ((s1.commitXlats.flushLost.commitDelays h).commitDepth).copyUtc

/-- What a unit that fires no boundary any more need not wait for (R19, R317, R357, R384). -/
def State.commitIdle (s : State) : State :=
  let s1 := when s.til.foldP State.commitFold (s.commitAll s.ht)
  (when s1.flt.remapP State.takeRemap s1).regionStop

/-! ### The image at an arming boundary (R198, R324, R343) -/

/-- The next set becomes live; a set from the shadow makes the shadow the committed image. -/
def State.commitSet (s : State) : State :=
  match s.img.next with
  | some n =>
    let i := s.img
    let com := if i.nxSrc then i.shadow else i.committed
    let s1 : State := { s with
      img := { i with
        committed := com, live := some n, next := none, nxState := .none, nxSrc := false, lock := false,
        shadow := if i.nxSrc then none else i.shadow, shState := if i.nxSrc then .empty else i.shState,
        changes := if i.nxSrc then i.changes + 1 else i.changes },
      nrg := { s.nrg with
        costs := if i.nxSrc && (com.map (·.id)) != (i.committed.map (·.id)) then [] else s.nrg.costs },
      stg := { s.stg with keeps := n.keeps } }
    (match i.nxSrc, com with
     | true, some c => s1.copyWindow false (s.heldLen c)
     | _, _ => s1).raise Fld.IMG_STATUS_COMMIT
  | none => s

/-- DRAIN ends on every row outside the KEEP ranges at a RESUME (R343). -/
def State.clearDrain (s : State) : State :=
  let inKeep (r : Nat) : Bool := s.stg.keeps.any fun k => decide (k.row ≤ r) && decide (r < k.row + k.count)
  { s with stg := { s.stg with
      info := s.stg.info.map fun (e : Nat × RowMeta) => (e.1, if inKeep e.1 then e.2 else { e.2 with drain := false }) } }

/-- What an arming decision does to the entries that SCATTERs have deferred: they go with the phase, unless a RESUME takes up
a step within it (R301, R344; log entry 191). -/
def State.armAreas (s : State) (d : Decision) : State :=
  if d.kind == .resume && d.wsc != d.base then s.restoreDeferred else s.dropDeferred

/-- What an arming decision does at its boundary beside the cadence: the set, the energy history, the DRAIN marks and the
straggler's counts. `w0` is the WSC that it launches first. -/
def State.armUnit (s : State) (d : Decision) : State :=
  let w0 := if d.kind == .phase then s.cad.baseWsc else d.wsc
  let s1 := s.commitSet
  let s2 : State := if d.kind == .start then { s1 with nrg := { s1.nrg with costs := [] } } else s1
  (when (d.kind == .resume) State.clearDrain s2).recordArm w0 (d.kind == .start)

/-! ### Firing (R98 to R103, R176, R356, R362, R384) -/

/-- A working boundary: a new pass, the fold map, and a DOME's record of the launch. -/
def State.launchWork (s : State) (b : W) : State :=
  ((when s.til.foldP State.commitFold s).newStep b true).recordLaunch s.cad.wsc b

/-- No pass runs from a boundary on that launches no work, and the array is empty (R309). -/
def State.endPass (s : State) : State :=
  { s with fab := { s.fab with passAt := none }, til := { s.til with run := none } }

/-- A freewheel boundary: no pass runs, and a region change may begin its stop. -/
def State.launchIdle (s : State) : State := s.endPass.boundaryStop

/-- Counts the boundary for the energy history (R392). -/
def State.countBound (s : State) : State :=
  { s with nrg := { s.nrg with bounds := s.nrg.bounds.set s.cad.phase (s.nrg.bounds.get s.cad.phase 0 + 1) } }

/-- Notes the kind of step that a boundary at `b` has begun; older ones matter to no further power sample (R392). -/
def State.noteKind (s : State) (b : Nat) : State :=
  let k : StepKind := if s.cad.st != .running then .neither else if s.cad.freewheel then .freewheel else .work
  let old := (s.nrg.kinds.filter fun e => e.1 + 1000 ≤ b).getLast?.toList
  { s with nrg := { s.nrg with kinds := old ++ (s.nrg.kinds.filter fun e => !(e.1 + 1000 ≤ b)) ++ [(b, k)] } }

/-- Fires boundary `m` at `b`. -/
def State.fireBoundary (s : State) (m b : W) : State :=
  let arm := s.armingAt m
  let s0 := s.refreshComplete
  let s1 := match arm with
    | some d => s0.armAreas d
    | none => s0
  let s2 := s1.fireCad m b arm (if arm.isSome then s1.img.next else none)
  let s3 := match arm with
    | some d => s2.armUnit d
    | none => s2
  let s4 := s3.doSwaps s3.cad.wsc
  let s5 := ((when s4.flt.remapP State.takeRemap s4).commitAll (b.toNat * 2 ^ 16 : Nat)).countBound
  let s5' := when (arm.any fun d => d.kind != .phase) State.dropReceived s5
  let s6 := if s5.cad.freewheel then s5'.launchIdle else s5'.launchWork b
  let s6' := when (arm.any fun d => d.kind != .phase) State.tellSpares s6
  let s7 := if arm.isSome then s6'.raise Fld.CAD_STATUS_PHASE_CHANGE else s6'
  ((s7.dropPast m).refreshComplete).seqFired b

/-! ### Holding and stopping (R105, R106, R352, R361) -/

/-- CAD_HOLD_AT.EN is cleared when its boundary is held. -/
def State.clearHoldAt (s : State) (m : W) : State :=
  let v := s.reg Reg.CAD_HOLD_AT
  if v.getLsbD 63 && (v &&& 0x7FFFFFFFFFFFFFFF) == m then s.setReg Reg.CAD_HOLD_AT (v &&& 0x7FFFFFFFFFFFFFFF) else s

/-- Boundary `m` at `b` is held: a unit that was RUNNING enters HELD; swaps that were admitted for it do not take place. -/
def State.holdBoundary (s : State) (m b : W) (reason : Nat) : State :=
  let s1 := ((s.clearHoldAt m).refreshComplete).holdCad m reason
  let s2 := when (s.cad.st == .running) State.recordHeld s1
  let s3 : State := { (when (s.cad.st == .running) State.tellSpares s2).endPass with
    flt := { s2.flt with swapP := [], examined := none } }
  (when (s3.cad.st == .held) (fun t => t.seqHeld b) s3).commitIdle

/-- Boundary `m` at `b` is that of a STOP: IDLE. -/
def State.stopBoundary (s : State) (m b : W) : State :=
  let s1 := (s.refreshComplete.dropDeferred).stopCad m
  let s2 : State := { s1.endPass with flt := { s1.flt with swapP := [], examined := none } }
  (s2.setSeq {} b).commitIdle

/-- Has the unit left LOCKED since its cutoff of boundary `m` (R131; log entry 147). -/
def State.leftLocked (s : State) (m : W) : Bool := (s.cutRec m).any (·.locked) && s.time.servo != .locked

/-- The reason for which a unit holds boundary `m` of its own accord when it falls due (R106, R131, R383). -/
def State.localHold (s : State) (m : W) : Option Nat :=
  let v := s.reg Reg.CAD_HOLD_AT
  if v.getLsbD 63 && (v &&& 0x7FFFFFFFFFFFFFFF) == m then some 4
  else if s.cad.quiesce then some 5
  else if s.classNow = 0 || s.leftLocked m || (s.isVsu && !s.clk.hostOk) then some 6
  else none

/-! ### The two commands -/

/-- The cutoff of boundary `m`: the outcome from what the unit holds, and at a swap point that is not held the swaps (R115,
R361), once. -/
def State.cutoffAt (s : State) (m : W) : State :=
  let s1 := if s.cutTaken m then s else s.takeCut m
  match s1.cutFor m with
  | some .fire =>
    if s1.flt.examined = some m then s1
    else
      let s2 := s1.admitSwaps m
      { s2 with flt := { s2.flt with examined := some m } }
  | _ => s1

/-- CUTOFF: 256 ns before the next boundary, and before the one after it in steps shorter than that. -/
def State.doCutoff (s : State) : State :=
  if s.awake then
    match s.nextBoundary with
    | some (m, b) => if decide (b.toNat ≤ s.htNs.toNat + 256) then (s.cutoffAt m).ensureCut else s
    | none => s
  else s

/-- The next boundary, whose HT has been reached: fired, held or the unit's last (R102, R105, R106). -/
def State.atBoundary (s : State) (m b : W) : State :=
  let s1 := s.cutoffAt m
  match s1.cutFor m, s1.localHold m with
  | some .stop, _ => s1.stopBoundary m b
  | some (.hold r), _ => s1.holdBoundary m b r
  | _, some r => s1.holdBoundary m b r
  | _, none => s1.fireBoundary m b

/-- BOUNDARY_DUE. -/
def State.doBoundaryDue (s : State) : State :=
  if s.awake then
    match s.nextBoundary with
    | some (m, b) => if decide (b.toNat ≤ s.htNs.toNat) then (s.atBoundary m b).noteKind b.toNat else s
    | none => s
  else s

/-- BOUNDARY_DUE (R102). HT reaches boundary_ns(n) and the unit fires the boundary, or holds it under R106. -/
def execBoundaryDue (s : State) : Host.Outcome State Fault Refusal :=
  .next (s.doBoundaryDue)

/-- CUTOFF (R115). At boundary minus 256 ns a unit stops accepting decisions for the boundary and decides it from what
it holds. -/
def execCutoff (s : State) : Host.Outcome State Fault Refusal :=
  .next (s.doCutoff)


end Sys2Proof.Machine
end

