-- ==== Sys2Proof/Machine/Sideband.lean ====
section
/-! DEFINITION. Sys2Proof/Machine/Sideband.lean: the sideband between a DOME and its dies: cells, identity reads, relayed
guaranteed operations, and the delivery of microcode (R371, R378, R451 to R453). -/

namespace Sys2Proof.Machine

/-! ### Links and cells (R451) -/

def State.sbLink (s : State) (d : Nat) : SbLink := s.sb.links.get d {}
def State.setLink (s : State) (d : Nat) (l : SbLink) : State := { s with sb := { s.sb with links := s.sb.links.set d l } }

/-- Has the unit a sideband of this number: a DOME has one for each die port, a die its own. A SPIRE has none (R467). -/
def State.hasSb (s : State) (d : Nat) : Bool :=
  s.belfryOn && (if s.isVd then s.isDome && decide (d < 16) else d == 0)

/-- HB of a cell; a DOME sends zero. -/
def State.sbHb (s : State) : Nat :=
  if s.isVd then 0
  else s.time.servo.code + 8 * s.time.cls + 32 * s.cad.st.code + 128 * bit s.armed + 256 * bit s.sb.ucRun

def State.queueCell (s : State) (d kind payload : Nat) : State :=
  let l := s.sbLink d
  s.setLink d { l with out := l.out ++ [{ kind := kind, seq := 0, hb := 0, payload := payload }] }

/-- The microcode that a DOME delivers: the VSU_UCODE section of its active slot. -/
def State.ucode (s : State) : List Byte := (if s.bootActive = 0 then s.fwu.slotA else s.fwu.slotB).ucodeBytes

/-- Its length in segments of eight bytes. -/
def State.ucodeLen8 (s : State) : Nat := (s.ucode.length + 7) / 8

/-- Kind and payload of the next cell of a microcode delivery: START, the segments, END (R452, R453). -/
def State.ucodeCell (s : State) (k : Nat) : Nat × Nat :=
  let n := s.ucodeLen8
  if k = 0 then (7, 1 + n * 2 ^ 8)
  else if k ≤ n then (6, (k - 1) % 65536 + fieldAt s.ucode (8 * (k - 1)) 8 * 2 ^ 16)
  else (7, 2 + n * 2 ^ 8 + crc32c (padTo (8 * n) s.ucode) * 2 ^ 32)

/-- The next cell on a link: a cell that waits goes before microcode (R459); with neither, NONE. -/
def State.nextCell (s : State) (l : SbLink) : Nat × Nat × SbLink :=
  match l.out with
  | c :: rest => (c.kind, c.payload, { l with out := rest })
  | [] =>
    match l.ucSeg with
    | some k =>
      let c := s.ucodeCell k
      (c.1, c.2, { l with ucSeg := if k ≤ s.ucodeLen8 then some (k + 1) else none,
                          ucWait := if k ≤ s.ucodeLen8 then none else some 0 })
    | none => (0, 0, l)

/-- A cell begins at a multiple of 1,024 ns of the sender's HT, one cell at a time. -/
def State.cellDue (s : State) (d : Nat) : Bool :=
  s.hasSb d && s.htNs.toNat % 1024 == 0 && (s.sbLink d).txNs != some s.htNs

/-- SB_CELL_TX. -/
def State.doSbCellTx (s : State) (d : Nat) : State :=
  if s.cellDue d then
    let c := s.nextCell (s.sbLink d)
    let q := if c.1 = 0 then (s.sbLink d).seq else ((s.sbLink d).seq + 1) % 16
    (s.setLink d { c.2.2 with seq := q, txNs := some s.htNs }).emit
      (.cell d (cellBits { kind := c.1, seq := q, hb := s.sbHb, payload := c.2.1 }))
  else s

/-! ### What the belfry serves: BEL_ (R378) -/

/-- BEL_ISOLATE: sets or clears every bit as written. -/
def State.writeIsolate (s : State) (v : W) : State :=
  (upto s.nPorts).foldl (fun t p => if v.getLsbD p then t.isolatePort p else t.unisolate p) s

/-- CAD_CMD: QUIESCE, then REARM. -/
def State.writeCadCmd (s : State) (v : W) : State :=
  let s1 := if v.getLsbD Fld.CAD_CMD_QUIESCE.lo then s.latchQuiesce else s
  if v.getLsbD Fld.CAD_CMD_REARM.lo && s1.awake then s1.rearmCad else s1

/-- A write of BEL_SB_CMD: W1C bits, die port and operation, then GO (R371). A GO while BUSY has no effect (log
entry 94). -/
def State.writeSbCmd (s : State) (v : W) : State :=
  let s1 := (s.clearW1c Reg.BEL_SB_CMD 0xC0000 v).putMasked Reg.BEL_SB_CMD 0xF0F v
  let op := (v.toNat >>> 8) % 16
  let d := v.toNat % 16
  if v.getLsbD 16 && s.sb.relayAt.isNone then
    if decide (1 ≤ op) && decide (op ≤ 7) then
      ({ s1 with sb := { s1.sb with relayAt := some s.time.now, relayDie := d } } : State).queueCell d 4
        (op + (s1.reg Reg.BEL_SB_ARG).toNat * 16)
    else s1.setBit Fld.BEL_SB_CMD_FAIL
  else s1

/-- A write of a register of BEL_, at its offset in the block. -/
def State.belWrite (s : State) (o : Nat) (v : W) : State :=
  if o = 0x28 then s.clearW1c Reg.BEL_SUMMARY 0x8000 v
  else if o = 0x30 then s.latchHoldAt v
  else if o = 0x38 then s.writeCadCmd v
  else if o = 0x40 then s.writeIsolate v
  else if o = 0x48 then s.putMasked Reg.BEL_EVT_SEL 0x3F v
  else if o = 0x70 then s.putMasked Reg.BEL_NVS_ADDR 0xFFF v
  else if o = 0x80 then s.writeSbCmd v
  else if o = 0x88 then s.setReg Reg.BEL_SB_ARG v
  else s

/-! ### Requests at a die (R452) -/

/-- The BAR0 address that a cell names: block 0 is ID_, block 1 BEL_; none for another block or a misaligned offset. -/
def cellAddr (payload : Nat) : Option Nat :=
  let b := (payload >>> 12) % 16
  let o := payload % 4096
  if o % 8 != 0 then none
  else if b = 0 then some o
  else if b = 1 then some (0x2400000 + o)
  else none

/-- RD_REQ: RD_RSP with the register's value; a read of BEL_HT_NS latches for the sideband (R10, R11). -/
def State.serveRd (s : State) (c : Cell) : State :=
  match cellAddr c.payload with
  | none => s.queueCell 0 3 (2 ^ 64)
  | some a =>
    let v := if s.reach .sideband a then s.readReg .sideband a else 0
    let s1 : State :=
      if a = Reg.BEL_HT_NS then { s with time := { s.time with latch := s.time.latch.set .sideband s.htFrac } } else s
    s1.queueCell 0 3 v.toNat

/-- WR_REQ. ID_ has no writable register. -/
def State.serveWr (s : State) (c : Cell) : State :=
  match cellAddr c.payload with
  | none => s
  | some a =>
    if s.reach .sideband a && decide (0x2400000 ≤ a) then s.belWrite (a - 0x2400000) (BitVec.ofNat 64 (c.payload >>> 16)) else s

/-- GOP_REQ: a guaranteed operation at a VSU, with its result as in BEL_SB_RESULT. -/
def State.serveGop (s : State) (op : Nat) (arg : W) : State :=
  match op with
  | 1 => ({ s with time := { s.time with latch := s.time.latch.set .sideband s.htFrac } } : State).queueCell 0 5 s.htNs.toNat
  | 2 => s.queueCell 0 5 s.cad.sc.toNat
  | 3 => s.queueCell 0 5 (s.readReg .sideband Reg.BEL_SUMMARY).toNat
  | 4 => (s.latchHoldAt arg).queueCell 0 5 0
  | 5 => s.latchQuiesce.queueCell 0 5 0
  | 6 => (((upto s.nPorts).filter fun p => arg.getLsbD p).foldl (fun t p => t.isolatePort p) s).queueCell 0 5 0
  | 7 =>
    let s1 := s.setFld Fld.BEL_EVT_SEL_AGE (arg.toNat % 64)
    s1.queueCell 0 5 (s1.tailWord (arg.toNat % 64) 0).toNat
  | _ => s.queueCell 0 5 (2 ^ 64)

/-! ### Microcode at a VSU (R453) -/

def State.canUcode (s : State) : Bool := s.isVsu && s.belfryOn && s.pwr.vsuRstN

/-- UCODE_START. Microcode that runs goes on until another delivery has passed its check (log entry 95). -/
def State.doUcodeStart (s : State) (len8 : Nat) : State :=
  if s.canUcode then { s with sb := { s.sb with ucOpen := true, ucLen8 := len8, ucBuf := [] } } else s

/-- UCODE_SEGMENT. -/
def State.doUcodeSegment (s : State) (seg : Nat) (bytes : List Byte) : State :=
  if s.canUcode && s.sb.ucOpen then { s with sb := { s.sb with ucBuf := s.sb.ucBuf.set seg (padTo 8 bytes) } } else s

/-- Is the delivery whole, of at most 512 KiB, and its CRC-32C right. -/
def State.ucodeGood (s : State) (len8 crc : Nat) : Bool :=
  decide (len8 ≤ 65536) && len8 == s.sb.ucLen8 && s.sb.ucBuf.length == len8 &&
  (s.sb.ucBuf.all fun e => decide (e.1 < len8)) &&
  crc32c (s.sb.ucBuf.flatMap fun (e : Nat × List Byte) => e.2) == crc

/-- UCODE_END: the check, UCODE_ACK, and the start of the microcode. The END of a delivery that a reset has cut off fails, so
that the DOME delivers again from START (R459; log entry 196). -/
def State.doUcodeEnd (s : State) (len8 crc : Nat) : State :=
  if s.canUcode && s.sb.ucOpen then
    let s1 : State := { s with sb := { s.sb with ucOpen := false } }
    if s.ucodeGood len8 crc then
      ({ s1 with
        sb := { s1.sb with ucRun := true },
        fwu := { s1.fwu with slotA := { s1.fwu.slotA with version := Config.ucodeVersion s.free } },
        free := s.free + 1 } : State).queueCell 0 8 1
    else s1.queueCell 0 8 2
  else if s.canUcode then s.queueCell 0 8 2
  else s

/-! ### Answers at a DOME -/

/-- Begins a delivery of microcode to a die of protocol level 3 (R424, R453). -/
def State.deliverUcode (s : State) (d : Nat) : State :=
  if s.peerLevel (2 * d) = 3 then s.setLink d { s.sbLink d with ucSeg := some 0, ucWait := none } else s

/-- UCODE_ACK: after a FAIL the delivery starts again. -/
def State.ucodeAcked (s : State) (d : Nat) (ok : Bool) : State :=
  if ok then s.setLink d { s.sbLink d with ucSeg := none, ucWait := none } else s.deliverUcode d

def State.doUcodeAck (s : State) (d : Nat) (ok : Bool) : State :=
  if s.isDome && s.hasSb d then s.ucodeAcked d ok else s

/-- RD_RSP: the die's identity, and its microcode. -/
def State.tookId (s : State) (d payload : Nat) : State :=
  let l := s.sbLink d
  if l.reading then
    let s1 := s.setLink d { l with reading := false }
    if (payload >>> 64) % 16 = 0 then
      (s1.judgeDie d (BitVec.ofNat 64 payload)).deliverUcode d
    else s1
  else s

/-- GOP_RSP: ends the relayed operation of its die port. -/
def State.relayDone (s : State) (d payload : Nat) : State :=
  if s.sb.relayAt.isSome && s.sb.relayDie == d then
    let s1 : State := { s with sb := { s.sb with relayAt := none } }
    if (payload >>> 64) % 16 = 0 then
      ({ s1 with sb := { s1.sb with result := BitVec.ofNat 64 payload } } : State).setBit Fld.BEL_SB_CMD_DONE
    else s1.setBit Fld.BEL_SB_CMD_FAIL
  else s

/-- What a cell's HB and presence do at a DOME: a heartbeat for R354; the first one asks for ID_PART; a fall of UCODE_RUN
starts a delivery again, and so do four cells after END without an answer (log entry 196). -/
def State.heardDie (s : State) (d hb : Nat) : State :=
  let x := s.die d
  let l := s.sbLink d
  let fell := Nat.testBit l.hb 8 && !Nat.testBit hb 8
  let lost := !Nat.testBit hb 8 && l.ucWait.any fun n => decide (4 ≤ n)
  let s1 := (s.setDie d { x with sbHbs := x.sbHbs + 1 }).setLink d { l with hb := hb, ucWait := l.ucWait.map (· + 1) }
  let s2 := if x.idPart.isNone && !l.reading then (s1.setLink d { s1.sbLink d with reading := true }).queueCell d 1 0 else s1
  if fell || lost then s2.deliverUcode d else s2

/-- A cell whose CRC passes, by its kind (R452). -/
def State.takeCell (s : State) (d : Nat) (c : Cell) : State :=
  if !s.hasSb d then s
  else if s.isVd then
    let s1 := s.heardDie d c.hb
    if c.kind = 3 then s1.tookId d c.payload
    else if c.kind = 5 then s1.relayDone d c.payload
    else if c.kind = 8 then s1.ucodeAcked d (Nat.testBit c.payload 0)
    else s1
  else if c.kind = 1 then s.serveRd c
  else if c.kind = 2 then s.serveWr c
  else if !s.isVsu then s
  else if c.kind = 4 then s.serveGop (c.payload % 16) (BitVec.ofNat 64 (c.payload >>> 4))
  else if c.kind = 6 then s.doUcodeSegment (c.payload % 65536) (leBytes 8 (c.payload >>> 16))
  else if c.kind = 7 then
    (if c.payload % 4 = 1 then s.doUcodeStart ((c.payload >>> 8) % 2 ^ 24)
     else if c.payload % 4 = 2 then s.doUcodeEnd ((c.payload >>> 8) % 2 ^ 24) ((c.payload >>> 32) % 2 ^ 32)
     else s)
  else s

/-- SB_CELL_RX: a cell whose SYNC or CRC is wrong is no heartbeat and is not served. -/
def State.doSbCellRx (s : State) (d : Nat) (w : BitVec 128) : State :=
  match cellOf w with
  | some c => s.takeCell d c
  | none => s

def State.doSbRdReq (s : State) (c : Cell) : State := if !s.isVd && s.belfryOn then s.serveRd c else s
def State.doSbWrReq (s : State) (c : Cell) : State := if !s.isVd && s.belfryOn then s.serveWr c else s

/-! ### Relayed operations (R371) -/

/-- A write of BEL_SB_CMD with GO. -/
def State.doSbRelayGo (s : State) (v : W) : State :=
  if s.belfryOn && s.isDome then s.writeSbCmd (v ||| 0x10000) else s

/-- SB_RELAY_TIMEOUT: no answer within 10 µs; a request not yet sent is not sent any more. -/
def State.doSbRelayTimeout (s : State) : State :=
  match s.sb.relayAt with
  | none => s
  | some t =>
    if s.time.now - t ≥ 10 * usX then
      let l := s.sbLink s.sb.relayDie
      let s1 : State := { s with sb := { s.sb with relayAt := none } }
      (s1.setLink s.sb.relayDie { l with out := l.out.filter fun c => c.kind != 4 }).setBit Fld.BEL_SB_CMD_FAIL
    else s

/-- SB_RELAY_TIMEOUT (R371). A relayed operation has no answer within 10 µs and BEL_SB_CMD.FAIL is set. -/
def execSbRelayTimeout (s : State) : Host.Outcome State Fault Refusal :=
  .next (s.doSbRelayTimeout)

/-- SB_CELL_TX (R451). At each multiple of 1,024 ns a side sends a sideband cell. -/
def execSbCellTx (d : Nat) (s : State) : Host.Outcome State Fault Refusal :=
  .next (s.doSbCellTx d)

/-- SB_CELL_RX (R451). A sideband cell is received, counted as a heartbeat and served by its kind. -/
def execSbCellRx (d : Nat) (w : BitVec 128) (s : State) : Host.Outcome State Fault Refusal :=
  .next (s.doSbCellRx d w)

/-- SB_RD_REQ (R452). A VSU receives an RD_REQ cell and answers RD_RSP from ID_ or BEL_. -/
def execSbRdReq (c : Cell) (s : State) : Host.Outcome State Fault Refusal :=
  .next (s.doSbRdReq c)

/-- SB_WR_REQ (R452). A VSU receives a WR_REQ cell and writes ID_ or BEL_. -/
def execSbWrReq (c : Cell) (s : State) : Host.Outcome State Fault Refusal :=
  .next (s.doSbWrReq c)

/-- UCODE_START (R453). A UCODE_CTL START cell begins a microcode delivery. -/
def execUcodeStart (len8 : Nat) (s : State) : Host.Outcome State Fault Refusal :=
  .next (s.doUcodeStart len8)

/-- UCODE_SEGMENT (R452). A UCODE cell carries eight bytes of microcode. -/
def execUcodeSegment (seg : Nat) (bytes : List Byte) (s : State) : Host.Outcome State Fault Refusal :=
  .next (s.doUcodeSegment seg bytes)

/-- UCODE_END (R453). A UCODE_CTL END cell makes the VSU check the CRC-32C, answer UCODE_ACK and start the microcode.
-/
def execUcodeEnd (len8 : Nat) (crc : Nat) (s : State) : Host.Outcome State Fault Refusal :=
  .next (s.doUcodeEnd len8 crc)

/-- UCODE_ACK (R453). The DOME receives UCODE_ACK and delivers again after a FAIL. -/
def execUcodeAck (d : Nat) (ok : Bool) (s : State) : Host.Outcome State Fault Refusal :=
  .next (s.doUcodeAck d ok)

/-- SB_RELAY_GO (R371). A write of BEL_SB_CMD.GO on a DOME sets BUSY, or FAIL for an invalid OP, and sends a GOP_REQ
cell to the addressed VSU. -/
def execSbRelayGo (v : W) (s : State) : Host.Outcome State Fault Refusal :=
  .next (s.doSbRelayGo v)


end Sys2Proof.Machine
end

