-- ==== Sys2Proof/Machine/Lantern.lean ====
section
/-! DEFINITION. Sys2Proof/Machine/Lantern.lean: the cores and their watchdogs, queues, the mailbox and messages (R402 to
R417, R431). -/

namespace Sys2Proof.Machine

/-! ### Watchdogs (R403) -/

def State.setCore (s : State) (c : Nat) (x : CoreSt) : State := { s with evq := { s.evq with cores := s.evq.cores.set c x } }
def State.wdgReg (s : State) (c : Nat) : W := s.reg (Reg.EVQ_WDG + 8 * c)

/-- A core's watchdog counts: the core runs and EN is 1. -/
def State.wdgRuns (s : State) (c : Nat) : Bool :=
  s.isVd && s.belfryOn && decide (c < 4) && !(s.core c).inReset && (s.wdgReg c).getLsbD 8

/-- Has a core's watchdog counted a time, in `now`. -/
def State.wdgPast (s : State) (c : Nat) (t : Nat) : Bool := decide ((s.core c).wdgAt + t ≤ s.time.now)
def State.wdgTimeout (s : State) (c : Nat) : Nat := (s.wdgReg c).toNat % 256 * msX

/-- WDG_HALF. -/
def State.doWdgHalf (s : State) (c : Nat) : State :=
  if s.wdgRuns c && s.wdgPast c (s.wdgTimeout c / 2) then s.setCore c { s.core c with half := true } else s

/-- The boot word, written through the persistent store. -/
def State.setBoot (s : State) (active : Nat) (trial : Bool) (count : Nat) : State :=
  let w := s.rwpWord 17 &&& ~~~0xF
  s.nvsPut 17 (w ||| BitVec.ofNat 64 (active % 2 + 2 * bit trial + 4 * (count % 4))) true

/-- A main-core expiry while TRIAL is 1: one more; the third makes the other slot active again (R424). -/
def State.trialExpiry (s : State) : State :=
  if !s.bootTrial then s
  else if s.bootCount ≥ 2 then
    ((s.setBoot (1 - s.bootActive) false 0).raise Fld.FWU_STATUS_ROLLED_BACK).raise Fld.FWU_STATUS_ACTIVATED
  else s.setBoot s.bootActive true (s.bootCount + 1)

/-- WDG_EXPIRE. -/
def State.doWdgExpire (s : State) (c : Nat) : State :=
  if s.wdgRuns c && s.wdgPast c (s.wdgTimeout c) then
    let x := s.core c
    let s1 := (s.setCore c { x with inReset := true, half := false, expiries := min 65535 (x.expiries + 1) }).raise
      Fld.EVQ_STATUS_WDG_EXPIRED
    let s2 := if (s.wdgReg c).getLsbD 9 then s1.latchQuiesce else s1
    if c = 0 then s2.trialExpiry else s2
  else s

/-- A write of EVQ_WDG[c]: a TIMEOUT_MS of 0 is ignored; KICK restarts the count. -/
def State.writeWdg (s : State) (c : Nat) (v : W) : State :=
  let a := Reg.EVQ_WDG + 8 * c
  let s1 := s.putMasked a (if v.toNat % 256 = 0 then 0x300 else 0x3FF) v
  if v.getLsbD 10 then s1.setCore c { s1.core c with wdgAt := s.time.now, half := false } else s1

def State.doWdgKick (s : State) (c : Nat) (v : W) : State :=
  if c < 4 && s.present (Reg.EVQ_WDG + 8 * c) then s.writeWdg c (v ||| 0x400) else s

/-! ### Messages that the lantern takes (R416) -/

/-- What a message does at its destination. A LEDGER or FW_READY that is addressed by DNO is the relay's, to the issuer
(log entry 92). -/
def State.takeMsg (s : State) (port : Nat) (m : Message) : State :=
  match m.body with
  | .join .. => s.doJoinRx m
  | .ledger _ prop => if m.dstKind = 3 then s.ledgerIn port prop else s.takeRelay prop
  | .fwReady id ready fail =>
    if m.dstKind = 3 then s.setPort port { s.port port with fwReady := some (id, ready, fail) }
    else { s with fwu := { s.fwu with otherFw := some (id, ready, fail) } }
  | .other _ => s

/-- Takes every held message, oldest first. -/
def State.takeHeld (s : State) : State :=
  s.evq.held.foldl (fun t (e : Nat × Message) => t.takeMsg e.1 e.2) { s with evq := { s.evq with held := [] } }

/-- LANTERN_MESSAGE_RX: a message for this unit is held, which raises source 47; any other is routed. A die has no lantern:
its microcode takes the message at once. -/
def State.doLanternMessageRx (s : State) (port : Nat) (m : Message) : State :=
  if s.awake && s.portUp port then
    if s.msgForMe m then
      (if s.isVd then { s with evq := { s.evq with held := s.evq.held ++ [(port, m)] } } else s.takeMsg port m)
    else s.routeMsg m
  else s

/-- CORE_INTERRUPT: a sleeping core wakes on any pending source of its own; a core whose MASK is 0 takes the interrupt, and
takes the held messages if source 47 is its own and pending (log entry 99). -/
def State.doCoreInterrupt (s : State) (c : Nat) : State :=
  if s.isVd && s.belfryOn && s.pwr.power == .on && decide (c < 4) && !(s.core c).inReset && s.corePending c then
    let s1 := s.setCore c { s.core c with asleep := false }
    if !(s.reg (Reg.EVQ_CORE_CTRL + 8 * c)).getLsbD 32 && s.sharedPend 47 && s.sharedTarget 47 == c then s1.takeHeld else s1
  else s

/-! ### Queues (R410, R412) -/

/-- May TAIL take a value: HEAD - TAIL is then neither negative nor larger than the size. -/
def tailOk (q : QSt) (size : Nat) (t : BitVec 32) : Bool := decide ((q.head - t).toNat ≤ size)

/-- A write of a host queue's TAIL, in bits 63 to 32; the vector follows while the queue is not empty. -/
def State.writeHqTail (s : State) (q : Nat) (v : W) : State :=
  let t : BitVec 32 := v.extractLsb' 32 32
  let x := s.hostQ q
  if tailOk x (s.hqSize q) t then
    let s1 : State := { s with evq := { s.evq with hostQ := s.evq.hostQ.set q { x with tail := t } } }
    if s.isVd && x.head != t then s1.emit (.msix q) else s1
  else s

def State.doHqTailWrite (s : State) (q : Nat) (v : W) : State :=
  if s.present (Reg.EVQ_HQ_IDX + 32 * q) then s.writeHqTail q v else s

def State.writeCoreTail (s : State) (c : Nat) (v : W) : State :=
  let t : BitVec 32 := v.extractLsb' 32 32
  let x := s.coreQ c
  if tailOk x coreQSize t then { s with evq := { s.evq with coreQ := s.evq.coreQ.set c { x with tail := t } } } else s

def State.doCoreQTailWrite (s : State) (c : Nat) (v : W) : State :=
  if c < 4 && s.present (Reg.EVQ_CORE_Q + 8 * c) then s.writeCoreTail c v else s

def State.doEvqStatusRead (s : State) (via : ReadVia) : State := s.readClear via Reg.EVQ_STATUS

/-! ### The mailbox (R404, R431) -/

/-- A write of EVQ_MAILBOX: one of the host's raises source 34. -/
def State.writeMailbox (s : State) (host : Bool) (v : W) : State :=
  let s1 := s.setReg Reg.EVQ_MAILBOX v
  if host then { s1 with evq := { s1.evq with mailNew := true } } else s1

/-- MAILBOX_WRITE: the host's write, over BAR0. -/
def State.doMailboxWrite (s : State) (v : W) : State := if s.reach .bar0 Reg.EVQ_MAILBOX then s.writeMailbox true v else s

/-- MAILBOX_READ: the core's read takes the message. -/
def State.doMailboxRead (s : State) (via : ReadVia) : State :=
  s.readVia via fun t =>
    let t1 := t.readPlain via.path Reg.EVQ_MAILBOX
    if via.path == .lantern && t.reach .lantern Reg.EVQ_MAILBOX then { t1 with evq := { t1.evq with mailNew := false } } else t1

/-- WDG_HALF (R403). A core's watchdog passes half its timeout and raises private source 1. -/
def execWdgHalf (c : Nat) (s : State) : Host.Outcome State Fault Refusal :=
  .next (s.doWdgHalf c)

/-- WDG_EXPIRE (R403). A watchdog expires, holds its core in reset, sets WDG_EXPIRED and may latch QUIESCE. -/
def execWdgExpire (c : Nat) (s : State) : Host.Outcome State Fault Refusal :=
  .next (s.doWdgExpire c)

/-- WDG_KICK (R403). A write of EVQ_WDG.KICK restarts the watchdog count. -/
def execWdgKick (c : Nat) (v : W) (s : State) : Host.Outcome State Fault Refusal :=
  .next (s.doWdgKick c v)

/-- CORE_INTERRUPT (R406). A core takes an interrupt, or wakes, on a pending source of its own. -/
def execCoreInterrupt (c : Nat) (s : State) : Host.Outcome State Fault Refusal :=
  .next (s.doCoreInterrupt c)

/-- HQ_TAIL_WRITE (R412). A host write of a host queue's TAIL frees room and may send its MSI-X vector. -/
def execHqTailWrite (q : Nat) (v : W) (s : State) : Host.Outcome State Fault Refusal :=
  .next (s.doHqTailWrite q v)

/-- CORE_Q_TAIL_WRITE (R410). A core write of its queue's TAIL frees room in the queue. -/
def execCoreQTailWrite (c : Nat) (v : W) (s : State) : Host.Outcome State Fault Refusal :=
  .next (s.doCoreQTailWrite c v)

/-- EVQ_STATUS_READ (R431). A read of EVQ_STATUS returns and clears the dropped record and message counts. -/
def execEvqStatusRead (via : ReadVia) (s : State) : Host.Outcome State Fault Refusal :=
  .next (s.doEvqStatusRead via)

/-- MAILBOX_WRITE (R431). A host write of EVQ_MAILBOX raises source 34 until the core reads it. -/
def execMailboxWrite (v : W) (s : State) : Host.Outcome State Fault Refusal :=
  .next (s.doMailboxWrite v)

/-- MAILBOX_READ (R431). The core's read of EVQ_MAILBOX takes the host message and lowers shared source 34. -/
def execMailboxRead (via : ReadVia) (s : State) : Host.Outcome State Fault Refusal :=
  .next (s.doMailboxRead via)

/-- LANTERN_MESSAGE_RX (R416). A unit receives a lantern message, consumes it if addressed to it or routes it. -/
def execLanternMessageRx (port : Nat) (m : Message) (s : State) : Host.Outcome State Fault Refusal :=
  .next (s.doLanternMessageRx port m)


end Sys2Proof.Machine
end

