-- ==== Sys2Proof/Machine/Module.lean ====
section
/-! DEFINITION. Sys2Proof/Machine/Module.lean: supplies, resets and low-speed contacts: the resets of R455, the power states
of the VD module (R470 to R473), and its sensor and test ports (R483 to R487). -/

namespace Sys2Proof.Machine

/-! ### Resets (R455) -/

/-- The stored bits that a reset of everything but the belfry keeps: ID_, HT_, BEL_ and CLK_ without CLK_REGION,
CAD_HOLD_AT, and the ISOLATE bits (log entry 96). -/
def belfryReg (k : UnitKind) (e : Nat × W) : Option (Nat × W) :=
  let b := e.1 / 0x200000
  if b = 0 || b = 1 || b = 18 || (b = 14 && e.1 != Reg.CLK_REGION) || e.1 = Reg.CAD_HOLD_AT then some e
  else if Reg.XF_PORT_CFG ≤ e.1 && e.1 < Reg.XF_PORT_CFG + 512 && e.2.getLsbD 0 then some (e.1, regResetOf k e.1 ||| 1)
  else none

/-- The ports after a reset: an isolated one stays isolated, every other one is DOWN. -/
def State.portsReset (s : State) : Tab PortSt :=
  ((upto s.nPorts).filter fun p => (s.reg (Reg.XF_PORT_CFG + 8 * p)).getLsbD 0).map fun p =>
    (p, { st := .isolated, sinceAt := s.time.now })

/-- The servo and its inputs when the unit's logic outside the belfry is reset: no time reaches it any more. The event
writer is in reset with it (log entry 96). -/
def State.timeReset (s : State) : TimeSt × RefSt :=
  let t := ({ s with ref := { s.ref with refs := [], selRef := none, lostRef := none } } : State).loseTime
  ({ t.time with loadAt := none, utcRx := none, utcLast := none },
   { t.ref with wtr := [], leader := false, worseAt := none, split := false, splitRun := 0, splitDpll := false,
                pulsesOn := false, realign := none, pps := {}, clk10 := {}, mark0 := {}, mark1 := {}, ptp := {} })

/-- The tile array after a reset: the fold map is that of persistent word 20 (R420; log entry 160). -/
def tilReset (n : NvsSt) : TilSt := { retired := foldOf (n.words.get 20 0) }

/-- Resets everything outside the belfry and the sprocket retention array: only an AON reset sets a sprocket's value (R133;
log entry 157). The sequencer port shows the IDLE row of R128. -/
def State.coreReset (s : State) : State :=
  let tr := s.timeReset
  let t : State :=
    { ident := s.ident
      pwr := s.pwr
      regs := s.regs.filterMap (belfryReg s.ident.kind)
      time := tr.1
      tdc := { coarse := s.tdc.coarse, anchors := s.tdc.anchors, anchorLatch := s.tdc.anchorLatch, ringLock := s.tdc.ringLock,
               cdRun := s.tdc.cdRun, cdRuns := s.tdc.cdRuns, hist := s.tdc.hist,
               deadTill := (s.tdc.deadTill.filter fun e => e.1 == 324) }
      ref := tr.2
      cad := { sc := s.cad.sc, wsc := s.cad.wsc, firedAny := s.cad.firedAny, quiesce := s.cad.quiesce }
      spk := { vals := s.spk.vals, info := s.spk.info }
      img := { changes := s.img.changes + 1 }
      fab := { ports := s.portsReset }
      til := tilReset s.nvs
      clk := { cmpFilt := s.clk.cmpFilt, sbAt := s.clk.sbAt, aligned := s.clk.aligned, standby := s.clk.standby, hostOk := s.clk.hostOk, hostOff := s.clk.hostOff }
      evq := { seq := s.evq.seq, tail64 := s.evq.tail64,
               cores := s.evq.cores.map fun (e : Nat × CoreSt) => (e.1, { expiries := e.2.expiries }) }
      nvs := s.nvs
      fwu := { slotA := s.fwu.slotA, slotB := s.fwu.slotB }
      sb := { links := s.sb.links.map fun (e : Nat × SbLink) => (e.1, { e.2 with ucSeg := none })
              relayAt := s.sb.relayAt, relayDie := s.sb.relayDie, result := s.sb.result }
      out := s.out
      free := s.free
      pending := s.pending }
  if tr.1.servo == .bridge && s.time.servo != .bridge then t.raise Fld.HT_STATUS_BRIDGE_SEEN else t

/-- The persistent store when power is lost: the write in progress leaves the old or the new value, the writes that wait are
lost (R418). -/
def State.nvsCut (s : State) : NvsSt × Nat :=
  match s.nvs.queue with
  | [] => (s.nvs, s.free)
  | w :: _ =>
    let took := Config.nvsNew s.free && s.nvsWord w.word != w.val
    ({ s.nvs with
        queue := [],
        words := if took then s.nvs.words.set w.word w.val else s.nvs.words,
        wear := if took then s.nvs.wear.set w.word (s.wear w.word + 1) else s.nvs.wear }, s.free + 1)

/-- The role that persistent word 2 gives at AON reset (R420). -/
def roleOf (w : W) : Role :=
  let r := (w.toNat >>> 12) % 4
  if r = 1 then .dome else if r = 2 then .spire else .none

/-- AON reset: the whole unit. The persistent store and the module's flash keep their contents, and a VD takes its DNO and
role anew from persistent word 2. -/
def State.aonResetNow (s : State) : State :=
  let n := s.nvsCut
  let w := n.1.words.get 2 0
  { ident := if s.isVd then { s.ident with role := roleOf w, dno := w.toNat % 4096 } else { s.ident with hdn := 0 }
    pwr := { s.pwr with aonRstN := false, recovery := false }
    time := { now := s.time.now }
    img := { changes := s.img.changes + 1 }
    til := tilReset n.1
    nvs := n.1
    fwu := if s.isVd then { slotA := s.fwu.slotA, slotB := s.fwu.slotB } else {}
    out := s.out
    free := n.2
    pending := s.pending }

def State.doAonReset (s : State) : State := s.aonResetNow

/-- AON_RST_N rises: the belfry starts in FREERUN; a die drives DISC_CLK_OUT (R31, R454). -/
def State.doAonResetRelease (s : State) : State :=
  if s.pwr.aonRstN || s.pwr.power == .off then s
  else
    let s1 : State := { s with pwr := { s.pwr with aonRstN := true } }
    if s.isVd then s1.dnoRange else s1.emit (.discClk true)

/-- VSU_RST_N low: waits and registrations are dropped with no response. -/
def State.doVsuReset (s : State) : State :=
  if s.isVd || !s.pwr.vsuRstN then s else ({ s with pwr := { s.pwr with vsuRstN := false } } : State).coreReset

def State.doVsuResetRelease (s : State) : State := if s.isVd then s else { s with pwr := { s.pwr with vsuRstN := true } }

/-! ### Supplies of the VD module (R470 to R473, R481, R486) -/

/-- The main sequence starts, with the edge of MOD_EN at `e` or when V + 4 ms comes: it ends 20 ms later (R471, R487). -/
def State.mainStart (s : State) (e : Nat) : State :=
  if s.pwr.power == .aon && s.pwr.modEn && !s.pwr.hwShutdown && s.pwr.mainAt.isNone then
    { s with pwr := { s.pwr with mainAt := some (max s.pwr.enAt e + 20 * msX) } }
  else s

/-- The main sequence has ended: state ON and MOD_PG high, with the cores held in reset until the ROM starts. -/
def State.mainUp (s : State) : State :=
  match s.pwr.mainAt with
  | some t => if t ≤ s.time.now then { s with pwr := { s.pwr with power := .on, modPg := true, mainAt := none } } else s
  | none => s

/-- The main supplies go down: staging and memory contents are lost, and the module is in AON. -/
def State.mainDown (s : State) : State :=
  if s.pwr.power == .on then
    let t := ({ s with clk := { s.clk with standby := false } } : State).setReg Reg.CLK_POWER 0
    ({ t with pwr := { t.pwr with power := .aon, modPg := false, recovery := false } } : State).coreReset
  else s

/-- VIN rises through lockout: the state at V + 2 ms, AON with the belfry running; with MOD_EN high the main sequence starts at
V + 4 ms (log entry 166). -/
def State.doVinUp (s : State) : State :=
  if s.isVd && s.pwr.power == .off then
    (({ s with pwr := { s.pwr with power := .aon, aonRstN := true, modFaultN := true,
                                   enAt := s.time.now + 2 * msX } } : State).dnoRange).mainStart s.time.now
  else s

/-- VIN falls through lockout: every supply is removed, which is an AON reset. -/
def State.doVinDown (s : State) : State :=
  if s.isVd && s.pwr.power != .off then
    let t := s.aonResetNow
    { t with pwr := { t.pwr with power := .off, modPg := false, modFaultN := false, hwShutdown := false, supplyBad := false,
                                 mainAt := none, modEn := s.pwr.modEn != s.pwr.modEnAt.isSome,
                                 perstN := s.pwr.perstN != s.pwr.perstAt.isSome, modEnAt := none, perstAt := none } }
  else s

/-! ### The filters of MOD_EN and PERST_N (R479) -/

/-- The edge that a contact's filter has still to pass when the contact takes a new level: none where the unit has that level
already, so that a pulse shorter than 1 µs is ignored. -/
def contactEdge (now : Nat) (taken new : Bool) (wait : Option Nat) : Option Nat :=
  if taken == new then none else some (wait.getD now)

/-- Has a contact kept its new level for 1 µs since the edge at `e`. -/
def State.held1us (s : State) (e : Nat) : Bool := decide (1000 * nsX ≤ s.time.now - e)

/-- A new level of MOD_EN; in OFF the filter has no supply, and the level stands for VIN_UP. -/
def State.modEnEdge (s : State) (new : Bool) : State :=
  if s.pwr.power == .off then { s with pwr := { s.pwr with modEn := new } }
  else { s with pwr := { s.pwr with modEnAt := contactEdge s.time.now s.pwr.modEn new s.pwr.modEnAt } }

def State.doModEnRise (s : State) : State := if s.isVd then s.modEnEdge true else s

def State.doModEnFall (s : State) : State := if s.isVd then s.modEnEdge false else s

/-- MOD_EN is low: the main supplies go down, or their sequence ends where it is (R472); MOD_FAULT_N is released (R486). -/
def State.modEnLow (s : State) : State :=
  let t := s.mainDown
  { t with pwr := { t.pwr with modEn := false, modPg := false, hwShutdown := false, supplyBad := false,
                               modFaultN := t.pwr.power != .off, mainAt := none } }

/-- The level that MOD_EN has kept for 1 µs is taken: a rise starts the main sequence, whose E is the edge (R471). -/
def State.takeModEn (s : State) : State :=
  match s.pwr.modEnAt with
  | none => s
  | some e =>
    if s.held1us e then
      let t : State := { s with pwr := { s.pwr with modEnAt := none } }
      if t.pwr.modEn then t.modEnLow else ({ t with pwr := { t.pwr with modEn := true } } : State).mainStart e
    else s

/-- THERMAL_SHUTDOWN at 115 °C: in ON, or while the main sequence runs. -/
def State.doThermalShutdown (s : State) : State :=
  if s.isVd && (s.pwr.power == .on || s.pwr.mainAt.isSome) then
    let t := s.mainDown
    { t with pwr := { t.pwr with hwShutdown := true, modFaultN := false, mainAt := none } }
  else s

/-- SUPPLY_FAULT in ON. -/
def State.doSupplyFault (s : State) : State :=
  if s.isVd && s.pwr.power == .on then { s with pwr := { s.pwr with supplyBad := true, modFaultN := false } } else s

/-! ### PERST_N, I²C, test access (R483 to R487) -/

/-- The PCIe endpoint takes a level of PERST_N: low, it is in reset, and the BAR2 accesses that wait for their answers are gone
(R487). -/
def State.perstLevel (s : State) (n : Bool) : State :=
  { s with pwr := { s.pwr with perstN := n }, fab := { s.fab with bar2 := if n then s.fab.bar2 else [] } }

/-- A new level of PERST_N, filtered as MOD_EN (R479). -/
def State.perstEdge (s : State) (new : Bool) : State :=
  if s.pwr.power == .off then s.perstLevel new
  else { s with pwr := { s.pwr with perstAt := contactEdge s.time.now s.pwr.perstN new s.pwr.perstAt } }

def State.doPerstAssert (s : State) : State := if s.isVd then s.perstEdge false else s

def State.doPerstRelease (s : State) : State := if s.isVd then s.perstEdge true else s

/-- The level that PERST_N has kept for 1 µs is taken. -/
def State.takePerst (s : State) : State :=
  match s.pwr.perstAt with
  | none => s
  | some e =>
    if s.held1us e then ({ s with pwr := { s.pwr with perstAt := none } } : State).perstLevel (!s.pwr.perstN) else s

/-- Does lane n run at 224 Gb/s once it may (R57, R204): its port's rate, but half of it for lane 0 of a port whose first lane
is turned. -/
def State.laneFast (s : State) (n : Nat) : Bool :=
  let x := s.port (lanePort n)
  !(x.rate == 1 || (x.lane0Swap && n % 4 == 0))

/-- A new rate of a lane shows on RATE with TXEN low, and TXEN rises an edge later (R435; log entry 171). -/
def State.laneEdge (s : State) : State :=
  if s.isVsu then
    let out := (List.range 8).foldl (fun (o : Tab (Bool × Bool)) n =>
      let x := o.get n (true, false)
      if s.laneFast n != x.1 then o.set n (s.laneFast n, true)
      else if x.2 then o.set n (x.1, false) else o) s.fab.laneOut
    s.setFab fun f => { f with laneOut := out }
  else s

/-- A time-clock edge: HT takes it (R18), the array's results of that instant land, the comparators', the interrupts' and the
contacts' filters see the levels, and the main sequence may end. A unit whose belfry has no power has no time clock. -/
def State.clockEdge (s : State) : State :=
  if s.belfryOn then s.tick.tilLand.cmpEdge.filterEdge.takeModEn.takePerst.mainUp.laneEdge else s

/-- A 16-bit sensor register (R485), in the register's unit. The junction sensor is on the main supply (log entry 97). -/
def State.i2cReg (s : State) (reg : Nat) : Option Nat :=
  if reg = 0x00 then some (s.pwr.vin / 10 % 65536)
  else if reg = 0x02 then some (s.pwr.iin / 10 % 65536)
  else if reg = 0x04 then some (s.pwr.pin / 100 % 65536)
  else if reg = 0x06 then some (satBits 16 s.pwr.tc)
  else if reg = 0x08 then some (if s.pwr.power == .on then satBits 16 s.pwr.tj else 0x8000)
  else if reg = 0x0A then some (bit s.pwr.modPg + s.i2cFaults)
  else none

/-- The module's address on the I²C bus: 0x48 and the straps I2C_ADDR[2:0]. -/
def State.i2cSelf (s : State) : Nat := 0x48 + s.pwr.i2cAddr % 8

/-- I2C_READ, in AON and ON, at the module's own address; a register that R485 does not name returns a free value. -/
def State.doI2cRead (s : State) (r : I2cRead) : State :=
  if s.isVd && s.pwr.power != .off && r.addr == s.i2cSelf then
    match s.i2cReg r.reg with
    | some v => s.emit (.i2c v)
    | none => ({ s with free := s.free + 1 } : State).emit (.i2c (Config.i2cOther s.free))
  else s

/-- The test-access instructions, by the model's own numbers: 0 BYPASS, 1 IDCODE, 2 SAMPLE/PRELOAD, 3 EXTEST, 4 HIGHZ,
5 CLAMP, 6 EXTEST_PULSE, 7 EXTEST_TRAIN; an unknown one is BYPASS (log entry 98). -/
def jtagDone (idle : Bool) (op : Nat) : Nat := if op ≤ 2 then op else if op ≤ 7 && idle then op else 0

/-- IDCODE (R483): version, part, manufacturer and 1. -/
def idcode : Nat := 0x10302A97

/-- What the port captures for an instruction that is carried out: the IDCODE, the 0 of BYPASS; the cells of the boundary
register have no order in the manual, so what they capture is not said (log entry 98). -/
def jtagCapture (op : Nat) : Option Nat := if op = 0 then some 0 else if op = 1 then some idcode else none

/-- The instruction that the port carries out now: the one loaded, or BYPASS in its place (R484). -/
def State.jtagNow (s : State) : Nat := jtagDone (s.cad.st == .idle) s.pwr.jtagOp

/-- JTAG_INSTRUCTION: the instruction is loaded, and carried out as long as R484 lets it. -/
def State.doJtagInstruction (s : State) (op : Nat) : State :=
  if s.isVd && s.pwr.power != .off then
    let x := jtagDone (s.cad.st == .idle) op
    ({ s with pwr := { s.pwr with jtagOp := op } } : State).emit (.jtag x (jtagCapture x))
  else s

/-- SCAN_MODE_CHANGE: only the pin; while AON_RST_N is high the belfry keeps running. -/
def State.doScanModeChange (s : State) (mode : Bool) : State :=
  if s.isVd then s else { s with pwr := { s.pwr with scanMode := mode } }

/-- AON_RESET (R455). AON_RST_N low, or VIN below lockout, resets the whole unit. -/
def execAonReset (s : State) : Host.Outcome State Fault Refusal :=
  .next (s.doAonReset)

/-- VSU_RESET (R455). VSU_RST_N low resets everything outside the belfry and sprocket retention array. -/
def execVsuReset (s : State) : Host.Outcome State Fault Refusal :=
  .next (s.doVsuReset)

/-- VIN_UP (R471). VIN rises through lockout and the module runs its AON power-up sequence. -/
def execVinUp (s : State) : Host.Outcome State Fault Refusal :=
  .next (s.doVinUp)

/-- VIN_DOWN (R472). VIN falls through lockout and every supply is removed. -/
def execVinDown (s : State) : Host.Outcome State Fault Refusal :=
  .next (s.doVinDown)

/-- MOD_EN_RISE (R471). MOD_EN rises and the main supply sequence starts, ending with MOD_PG. -/
def execModEnRise (s : State) : Host.Outcome State Fault Refusal :=
  .next (s.doModEnRise)

/-- MOD_EN_FALL (R472). MOD_EN falls and the main supplies are removed in reverse order. -/
def execModEnFall (s : State) : Host.Outcome State Fault Refusal :=
  .next (s.doModEnFall)

/-- THERMAL_SHUTDOWN (R481). The junction reaches 115 °C and the module removes its main supplies and lowers
MOD_FAULT_N. -/
def execThermalShutdown (s : State) : Host.Outcome State Fault Refusal :=
  .next (s.doThermalShutdown)

/-- PERST_ASSERT (R487). PERST_N asserted resets the PCIe endpoint while cadence, fabric and time continue. -/
def execPerstAssert (s : State) : Host.Outcome State Fault Refusal :=
  .next (s.doPerstAssert)

/-- I2C_READ (R485). An I²C read returns a module sensor register. -/
def execI2cRead (r : I2cRead) (s : State) : Host.Outcome State Fault Refusal :=
  .next (s.doI2cRead r)

/-- JTAG_INSTRUCTION (R484). A test-access instruction is carried out, or replaced by BYPASS unless IDLE. -/
def execJtagInstruction (op : Nat) (s : State) : Host.Outcome State Fault Refusal :=
  .next (s.doJtagInstruction op)

/-- AON_RESET_RELEASE (R454). AON_RST_N rises and the belfry starts its synthesiser, first time-clock edge,
DISC_CLK_OUT and sideband cells in FREERUN. -/
def execAonResetRelease (s : State) : Host.Outcome State Fault Refusal :=
  .next (s.doAonResetRelease)

/-- VSU_RESET_RELEASE (R455). VSU_RST_N rises and the VSU's core domains leave reset, so identity reads, microcode
delivery and link training can proceed. -/
def execVsuResetRelease (s : State) : Host.Outcome State Fault Refusal :=
  .next (s.doVsuResetRelease)

/-- PERST_RELEASE (R471). The host releases PERST_N and the VD's PCIe endpoint trains its link, making BAR accesses
possible again. -/
def execPerstRelease (s : State) : Host.Outcome State Fault Refusal :=
  .next (s.doPerstRelease)

/-- SUPPLY_FAULT (R486). A module supply goes out of regulation in ON, MOD_FAULT_N goes low and I2C status bit 4 and
I2C_ALERT_N are set. -/
def execSupplyFault (s : State) : Host.Outcome State Fault Refusal :=
  .next (s.doSupplyFault)

/-- SCAN_MODE_CHANGE (R459). SCAN_MODE changes on the VSU, and while AON_RST_N is high the belfry chains do not shift
and the belfry keeps running. -/
def execScanModeChange (mode : Bool) (s : State) : Host.Outcome State Fault Refusal :=
  .next (s.doScanModeChange mode)


end Sys2Proof.Machine
end

