-- ==== Sys2Proof/Machine/Update.lean ====
section
/-! DEFINITION. Sys2Proof/Machine/Update.lean: the persistent store, firmware slots, manifests, boot and recovery (R418 to
R433). -/

namespace Sys2Proof.Machine

/-! ### The persistent store (R418, R419) -/

/-- NVS_WRITE. -/
def State.doNvsWrite (s : State) (word : Nat) (v : W) : State :=
  if s.present Reg.NVS_DATA && word < 4096 then s.nvsPut word v false else s

/-- The write in progress is over: the next one begins, or WRITTEN is set. -/
def State.nvsNext (s : State) (rest : List NvsWr) : State :=
  let s1 : State := { s with nvs := { s.nvs with queue := rest, busyAt := s.time.now } }
  if rest.isEmpty then s1.setBit Fld.NVS_STATUS_WRITTEN else s1

/-- NVS_WRITE_DONE: a write of the value that the word holds is not performed; a word that is worn by now refuses it. -/
def State.doNvsWriteDone (s : State) : State :=
  match s.nvs.queue with
  | [] => s
  | w :: rest =>
    if s.nvsWord w.word = w.val then s.nvsNext rest
    else if s.worn w.word then (s.raiseArg Fld.NVS_STATUS_REFUSED (BitVec.ofNat 64 w.word)).nvsNext rest
    else
      ({ s with nvs := { s.nvs with
          words := s.nvs.words.set w.word w.val, wear := s.nvs.wear.set w.word (s.wear w.word + 1) } } : State).nvsNext rest

/-! ### Firmware images and slots (R422 to R425) -/

def State.slot (s : State) (n : Nat) : Slot := if n % 2 = 0 then s.fwu.slotA else s.fwu.slotB
def State.setSlot (s : State) (n : Nat) (x : Slot) : State :=
  if n % 2 = 0 then { s with fwu := { s.fwu with slotA := x } } else { s with fwu := { s.fwu with slotB := x } }
def State.inactive (s : State) : Nat := 1 - s.bootActive

/-- SHA-384 of the accepted firmware key (R422). -/
def State.fwKeyHash (s : State) : List Byte := (upto 6).flatMap fun k => leBytes 8 (s.nvsWord (11 + k)).toNat

/-- Is a signature block good for a message hash under its own key (R187). -/
def selfSigned (blk hash : List Byte) : Bool :=
  fieldAt blk 0 4 == 0x4B565347 &&
  ecdsaOk ((blk.drop 8).take 97) hash (beNat ((blk.drop 0x70).take 48)) (beNat ((blk.drop 0xA0).take 48))

/-- The hash of the key of a signature block. -/
def signerOf (blk : List Byte) : List Byte := sha384 ((blk.drop 8).take 97)

/-- Is a signature block good for a message hash, by the accepted firmware key (R187, R188). -/
def State.fwSigned (s : State) (blk hash : List Byte) : Bool := signerOf blk == s.fwKeyHash && selfSigned blk hash

/-- Offset and length of section `i` of an image: MAIN, SERVICE, VSU_UCODE. -/
def fwSec (b : List Byte) (i : Nat) : Nat × Nat := (fieldAt b (0x20 + 16 * i) 8, fieldAt b (0x28 + 16 * i) 8)
def fwEnd (b : List Byte) : Nat := ((upto 3).map fun i => (fwSec b i).1 + (fwSec b i).2).foldl max 0

/-- The signature block of an image. -/
def fwBlock (b : List Byte) : List Byte := (b.drop (fieldAt b 0x10 8 - 256)).take 256

/-- Is an image sound: its fields, its DIGEST, and its signature by its own key. -/
def fwSound (b : List Byte) : Bool :=
  let n := fieldAt b 0x10 8
  fieldAt b 0 4 == 0x4B564657 && fieldAt b 4 2 == 1 && fieldAt b 8 2 == 0x0302 && fieldAt b 0xA 2 == 0x00A1 &&
  decide (n ≤ 2 ^ 26) && decide (256 ≤ n) && decide (n ≤ b.length) && decide (0x100 ≤ fwEnd b) &&
  decide (fwEnd b ≤ n - 256) &&
  sha384 ((b.drop 0x100).take (fwEnd b - 0x100)) == (b.drop 0x50).take 48 &&
  selfSigned (fwBlock b) (sha384 (b.take 0x100))

/-- The slot that an image makes. -/
def State.slotOf (s : State) (b : List Byte) : Slot :=
  let u := fwSec b 2
  let uc := (b.drop u.1).take u.2
  let ok := fwSound b
  let key := signerOf (fwBlock b)
  { st := if ok && key == s.fwKeyHash then .valid else .failed, version := fieldAt b 0xC 4, digest := (b.drop 0x50).take 48,
    ucode := sha384 uc, ucodeBytes := uc, nvsFormat := fieldAt b 0x18 2, sound := ok, signer := key }

/-- Does the image of a slot verify by the firmware key that is accepted now (R424). -/
def State.verifies (s : State) (x : Slot) : Bool := x.sound && x.signer == s.fwKeyHash

/-- Does the main core take commands of FWU_CMD. -/
def State.mainRuns (s : State) : Bool := s.isVd && s.awake && !(s.core 0).inReset

def State.fwRefuse (s : State) : State := s.setBit Fld.FWU_STATUS_CMD_REFUSED

/-- The source range of FWU_SRC_BASE and FWU_SRC_LEN. -/
def State.fwSrc (s : State) : Nat × Nat := (s.fld Fld.FWU_SRC_BASE_ADDR, s.fld Fld.FWU_SRC_LEN_LEN)

/-- FWU_STAGE: the inactive slot is being written; refused while an activation is READY or holds GO (R430). -/
def State.doFwuStage (s : State) : State :=
  if !s.mainRuns then s
  else if s.fwu.fw == .ready || s.fwu.fw == .go then s.fwRefuse
  else
    let s1 := s.setSlot s.inactive { st := .writing }
    { s1 with fwu := { s1.fwu with staging := some s.fwSrc } }

/-- FWU_STAGE_DONE. -/
def State.doFwuStageDone (s : State) : State :=
  match s.fwu.staging with
  | some r =>
    if s.mainRuns then
      let s1 := s.setSlot s.inactive (s.slotOf (Memory.readBytes s.fab.ram r.1 (min r.2 (2 ^ 26))))
      ({ s1 with fwu := { s1.fwu with staging := none } } : State).raise Fld.FWU_STATUS_STAGED
    else s
  | none => s

/-- Restarts the lantern: its cores are held in reset until the ROM has started the firmware again (ROM_BOOT). -/
def State.restartLantern (s : State) : State :=
  { s with evq := { s.evq with
      cores := (upto 4).foldl (fun (t : Tab CoreSt) c => t.set c { t.get c {} with inReset := true, half := false, asleep := false })
        s.evq.cores } }

/-- The other slot becomes active with TRIAL, and the lantern restarts. -/
def State.swapSlots (s : State) : State :=
  ((s.setBoot s.inactive true 0).raise Fld.FWU_STATUS_ACTIVATED).restartLantern

/-- FWU_ACTIVATE: refused in MODE 1, or if the other slot is not VALID (log entry 100). -/
def State.doFwuActivate (s : State) : State :=
  if !s.mainRuns then s
  else if s.flag Fld.FWU_CFG_MODE || (s.slot s.inactive).st != .valid then s.fwRefuse
  else s.swapSlots

def State.doFwuConfirm (s : State) : State := if s.mainRuns then s.setBoot s.bootActive false s.bootCount else s
def State.doFwuRestart (s : State) : State := if s.isVd && s.awake then s.restartLantern else s

/-! ### Manifests (R426, R427) -/

/-- An entry of a manifest. -/
structure ManEnt where
  kind    : Nat
  unit    : Nat
  digest  : List Byte
  deriving DecidableEq, Repr

def manEnt (b : List Byte) (i : Nat) : ManEnt :=
  let e := (b.drop (128 + 64 * i)).take 64
  { kind := fieldAt e 0 1, unit := fieldAt e 2 2, digest := (e.drop 8).take 48 }

def manCount (b : List Byte) : Nat := fieldAt b 0x18 4
def manEnts (b : List Byte) : List ManEnt := (upto (manCount b)).map (manEnt b)

/-- Are entries sorted by KIND and then UNIT. -/
def manSorted : List ManEnt → Bool
  | a :: b :: r => decide (a.kind * 65536 + a.unit < b.kind * 65536 + b.unit) && manSorted (b :: r)
  | _ => true

def manFormed (b : List Byte) : Bool :=
  fieldAt b 0 4 == 0x4B564D46 && fieldAt b 4 2 == 1 && fieldAt b 8 4 != 0 && decide (1 ≤ manCount b) &&
  decide (manCount b ≤ 18432) && decide (128 + 64 * manCount b + 256 ≤ b.length) && manSorted (manEnts b)

/-- The die ports of a DOME that have a VSU die: those whose identity says so. -/
def State.vsuDies (s : State) : List Nat :=
  if s.isDome then (upto 16).filter fun d => (s.die d).idPart.isSome && s.peerLevel (2 * d) == 3 else []

/-- The entries that the unit needs: its own, and at a DOME those of its VSU dies by physical HDN. -/
def State.manNeeds (s : State) : List (Nat × Nat) :=
  ((if s.isDome then 1 else 2), s.ident.dno) :: s.vsuDies.map fun d => (3, s.ident.dno * 16 + d)

def manFind (es : List ManEnt) (k : Nat × Nat) : Option ManEnt := es.find? fun e => e.kind == k.1 && e.unit == k.2

/-- FAIL_CODE of a manifest; 0 passes. A form that cannot be read comes first, then the codes in their order. -/
def State.manFail (s : State) (b : List Byte) : Nat :=
  let es := manEnts b
  let x := s.slot s.inactive
  if !manFormed b then 6
  else if !s.fwSigned ((b.drop (128 + 64 * manCount b)).take 256) (sha384 (b.take (128 + 64 * manCount b))) then 1
  else if s.manNeeds.any fun k => (manFind es k).isNone then 2
  else if x.st != .valid then 3
  else if s.manNeeds.any fun k => (manFind es k).any fun e => e.digest != (if k.1 = 3 then x.ucode else x.digest) then 4
  else if s.cad.st != .idle then 5
  else 0

/-- FWU_MANIFEST: an activation that holds GO goes on (log entry 100). -/
def State.doFwuManifest (s : State) : State :=
  if !s.mainRuns || s.fwu.fw == .go then s
  else
    let r := s.fwSrc
    let b := Memory.readBytes s.fab.ram r.1 (min r.2 (128 + 64 * 18432 + 256))
    let c := s.manFail b
    { s with fwu := { s.fwu with
        fw := if c = 0 then .ready else .fail, failCode := c, manifest := fieldAt b 8 4,
        actNs := BitVec.ofNat 64 (fieldAt b 0x10 8), goSent := false, sentPer := none } }

/-- The ports below in an activation: those that report (R119), dies apart. -/
def State.fwBelow (s : State) : List Nat :=
  (upto s.nPorts).filter fun p =>
    (s.cad.reps.a.has p || s.cad.reps.b.has p) && !s.diePortOf p && !s.portFenced p && !s.inputPorts.contains p

/-- The aggregate of a unit: READY and FAIL. -/
def State.fwAgg (s : State) : Bool × Bool :=
  let said (p : Nat) : Option (Nat × Bool × Bool) := (s.port p).fwReady.filter fun e => e.1 == s.fwu.manifest
  (s.fwu.fw == .ready && s.fwBelow.all fun p => (said p).any fun e => e.2.1,
   s.fwu.fw == .fail || s.fwBelow.any fun p => (said p).any fun e => e.2.2)

/-- FW_READY_SEND, once in each ledger period of an activation. -/
def State.doFwReadySend (s : State) : State :=
  let j := s.htNs.toNat / periodNs
  if s.isVd && s.awake && s.fwu.manifest != 0 && !s.cad.root.issuer && s.fwu.sentPer != some j &&
      decide (s.htNs.toNat % periodNs ≥ s.sendOffset + 512000) then
    let a := s.fwAgg
    let s1 : State := { s with fwu := { s.fwu with sentPer := some j } }
    let b : MsgBody := .fwReady s.fwu.manifest a.1 a.2
    if s1.isRoot then s1.routeMsg (s1.ownMsg 0 s1.cad.root.otherDno b)
    else s1.inputPorts.foldl (fun t p => t.msgOut p (t.ownMsg 3 0 b)) s1
  else s

/-- FW_READY_RX. -/
def State.fwReadyIn (s : State) (port manifest : Nat) (ready fail : Bool) : State :=
  s.setPort port { s.port port with fwReady := some (manifest, ready, fail) }

def State.doFwReadyRx (s : State) (port manifest : Nat) (ready fail : Bool) : State :=
  if s.isVd then s.toLantern port (.fwReady port manifest ready fail) fun t => t.fwReadyIn port manifest ready fail else s

/-- A unit that holds GO: only a READY one, and not after ABORT. -/
def State.takeGo (s : State) (manifest : Nat) (act : W) : State :=
  if s.fwu.manifest = manifest && s.fwu.fw == .ready && !s.fwu.seen.contains (3, manifest) then
    { s with fwu := { s.fwu with fw := .go, actNs := act } }
  else s

/-- Discards the manifest. -/
def State.dropManifest (s : State) : State :=
  { s with fwu := { s.fwu with fw := .idle, failCode := 0, manifest := 0, actNs := 0, goSent := false, otherFw := none } }

def State.takeAbort (s : State) (manifest : Nat) : State := if s.fwu.manifest = manifest then s.dropManifest else s

/-- The first valid copy of a notice is noted and forwarded (R416). -/
def State.newNotice (s : State) (src : Option Nat) (kind id : Nat) (act : W) : State :=
  ({ s with fwu := { s.fwu with seen := (kind, id) :: s.fwu.seen } } : State).sendNotice src id (fwPayload kind act)

/-- The issuer's GO and ABORT. -/
def State.issueGo (s : State) : State :=
  let id := s.fwu.manifest
  ((({ s with fwu := { s.fwu with goSent := true } } : State).newNotice none 2 id s.fwu.actNs)).takeGo id s.fwu.actNs
def State.issueAbort (s : State) : State := (s.newNotice none 3 s.fwu.manifest s.fwu.actNs).takeAbort s.fwu.manifest

def State.fwIssuer (s : State) : Bool := s.isRoot && s.awake && s.cad.root.issuer && s.fwu.manifest != 0 && !s.fwu.goSent

/-- FW_DECIDE: the own aggregate with the relay's, of the same manifest. -/
def State.doFwDecide (s : State) : State :=
  if s.fwIssuer then
    let a := s.fwAgg
    match s.fwu.otherFw.filter fun e => e.1 == s.fwu.manifest with
    | some o => if a.2 || o.2.2 then s.issueAbort else if a.1 && o.2.1 then s.issueGo else s
    | none => if a.2 then s.issueAbort else s
  else s

/-- FW_DEADLINE: 10 ms before ACT_HT_NS without GO. -/
def State.doFwDeadline (s : State) : State :=
  if s.fwIssuer && decide (s.fwu.actNs.toNat ≤ s.htNs.toNat + 10000000) then s.issueAbort else s

/-- FW_GO as the lantern takes it. -/
def State.fwGoIn (s : State) (port manifest : Nat) (act : W) : State :=
  if s.fwu.seen.contains (2, manifest) then s else (s.newNotice (some port) 2 manifest act).takeGo manifest act

/-- FW_ABORT as the lantern takes it; it is forwarded as it came. -/
def State.fwAbortIn (s : State) (port : Nat) (n : FwNotice) : State :=
  if s.fwu.seen.contains (3, n.manifest) then s else (s.newNotice (some port) 3 n.manifest n.act).takeAbort n.manifest

def State.doFwGoRx (s : State) (port manifest : Nat) (act : W) : State :=
  if s.isVd then s.toLantern port (.fwGo port manifest act) fun t => t.fwGoIn port manifest act else s

def State.doFwAbortRx (s : State) (port : Nat) (n : FwNotice) : State :=
  if s.isVd then s.toLantern port (.fwAbort port n) fun t => t.fwAbortIn port n else s

/-- The lantern takes what has waited for core 3, in its order. -/
def State.takeWait (s : State) (w : MgmtWait) : State :=
  match w with
  | .verdict p n => s.verdictIn p n
  | .ledger p k => s.ledgerIn p k
  | .fwReady p m r f => s.fwReadyIn p m r f
  | .fwGo p m act => s.fwGoIn p m act
  | .fwAbort p n => s.fwAbortIn p n

def State.takeWaits (s : State) : State :=
  s.evq.wait3.foldl State.takeWait { s with evq := { s.evq with wait3 := [] } }

/-- FW_SLOT_SWAP: at ACT_HT_NS, or at once if that is past. -/
def State.doFwSlotSwap (s : State) : State :=
  if s.isVd && s.awake && s.fwu.fw == .go && decide (s.fwu.actNs.toNat ≤ s.htNs.toNat) then s.dropManifest.swapSlots else s

/-! ### Boot and recovery (R421, R424, R429) -/

/-- The shipped values of the words of layout 1 that are not factory (R420). -/
def shippedSettings : List (Nat × W) :=
  [(1, 0), (3, 0xEC0), (4, 1), (18, 0), (19, 0), (21, 0x136), (24, 0), (25, 0), (26, 0), (27, 0), (28, 0), (29, 0),
   (30, 0), (31, 0)]

/-- The firmware's first start with a later layout (R421); the words that a later layout adds are outside layout 1 (log entry
101). -/
def State.migrate (s : State) (fmt : Nat) : State :=
  if (s.nvsWord 0).toNat % 65536 < fmt then
    let s1 := if (s.nvsWord 1).getLsbD 0 then shippedSettings.foldl (fun t (e : Nat × W) => t.nvsPut e.1 e.2 false) s else s
    s1.nvsPut 0 ((s.nvsWord 0 &&& ~~~0xFFFF) ||| BitVec.ofNat 64 (fmt % 65536)) false
  else s

/-- A core starts. -/
def CoreSt.start (x : CoreSt) (now : Nat) : CoreSt := { x with inReset := false, asleep := false, half := false, wdgAt := now }

/-- Starts the firmware: on the cores that are in reset, or, where the main core starts, on every core, since it loads the service
cores anew at every start (R403, R424). The microcode of the dies is delivered, and what waited for core 3 is taken. -/
def State.startCores (s : State) : State :=
  let all := (s.core 0).inReset
  let cs := (upto 4).foldl (fun (t : Tab CoreSt) c =>
    let x := t.get c {}
    if all || x.inReset then t.set c (x.start s.time.now) else t) s.evq.cores
  let s1 : State := { s with pwr := { s.pwr with recovery := false }, evq := { s.evq with cores := cs } }
  (s1.vsuDies.foldl (fun t d => t.deliverUcode d) s1).takeWaits

/-- Does the ROM start a slot: it verifies the image at every start, by the key that is accepted then. -/
def State.slotGood (s : State) (n : Nat) : Bool :=
  ((s.slot n).st == .valid || (s.slot n).st == .failed) && s.verifies (s.slot n)

/-- ROM_BOOT: the active slot, else the other one made active, else recovery. While the main core runs, it loads the service
cores that are in reset again (R403; log entry 99). -/
def State.doRomBoot (s : State) : State :=
  if !s.isVd || s.pwr.power != .on || !s.pwr.aonRstN then s
  else if !(s.core 0).inReset then s.startCores
  else if s.slotGood s.bootActive then (s.migrate (s.slot s.bootActive).nvsFormat).startCores
  else if s.slotGood s.inactive then
    (((s.setBoot s.inactive s.bootTrial s.bootCount).raise Fld.FWU_STATUS_ACTIVATED).migrate (s.slot s.inactive).nvsFormat).startCores
  else { s with pwr := { s.pwr with recovery := true } }

/-- The chunk that FWU_RCV_CTRL names, from the buffer into the image. -/
def State.takeChunk (s : State) : State :=
  let len := min 65536 ((s.fld Fld.FWU_RCV_CTRL_LEN + 1) * 8)
  let off := s.fld Fld.FWU_RCV_CTRL_OFFSET * 8
  { s with fwu := { s.fwu with
      chunks := (upto len).foldl (fun (t : Tab Byte) i => t.set (off + i) (s.fwu.rcvBuf.get i 0)) s.fwu.chunks } }

/-- DONE: slot A gets the image; if it verifies, slot A becomes active without TRIAL and the unit leaves recovery. -/
def State.recoverDone (s : State) : State :=
  let head := (upto 8).map fun i => s.fwu.chunks.get (0x10 + i) 0
  let n := min (leNat head) (2 ^ 26)
  let x := s.slotOf ((upto n).map fun i => s.fwu.chunks.get i 0)
  let s1 := (s.setSlot 0 x).raise Fld.FWU_STATUS_STAGED
  let s2 : State := { s1 with fwu := { s1.fwu with chunks := [], rcvBuf := [] } }
  if s2.verifies x then
    let s3 := ({ s2 with pwr := { s2.pwr with recovery := false } } : State).setBoot 0 false 0
    if s.bootActive = 0 then s3 else s3.raise Fld.FWU_STATUS_ACTIVATED
  else s2

/-- A write of FWU_RCV_CTRL. CHUNK and DONE act in recovery only. -/
def State.writeRcvCtrl (s : State) (v : W) : State :=
  let s1 := s.putMasked Reg.FWU_RCV_CTRL 0x3FFFFFFFFFF v
  let s2 := if v.getLsbD 42 && s.pwr.recovery then s1.takeChunk else s1
  if v.getLsbD 43 && s.pwr.recovery then s2.recoverDone else s2

def State.doRcvChunk (s : State) (v : W) : State :=
  if s.present Reg.FWU_RCV_CTRL then s.writeRcvCtrl (v ||| BitVec.ofNat 64 (2 ^ 42)) else s
def State.doRcvDone (s : State) (v : W) : State :=
  if s.present Reg.FWU_RCV_CTRL then s.writeRcvCtrl (v ||| BitVec.ofNat 64 (2 ^ 43)) else s

/-- FWU_CMD: its bits in ascending order. -/
def State.writeFwuCmd (s : State) (v : W) : State :=
  let s1 := if v.getLsbD 0 then s.doFwuStage else s
  let s2 := if v.getLsbD 1 then s1.doFwuActivate else s1
  let s3 := if v.getLsbD 2 then s2.doFwuConfirm else s2
  let s4 := if v.getLsbD 3 then s3.doFwuManifest else s3
  if v.getLsbD 4 then s4.doFwuRestart else s4

/-- NVS_WRITE (R418). A write of NVS_DATA, or of a persistent field, queues an MRAM write. -/
def execNvsWrite (word : Nat) (v : W) (s : State) : Host.Outcome State Fault Refusal :=
  .next (s.doNvsWrite word v)

/-- NVS_WRITE_DONE (R418). A persistent write completes, or a worn word refuses it with NVS_WORN. -/
def execNvsWriteDone (s : State) : Host.Outcome State Fault Refusal :=
  .next (s.doNvsWriteDone)

/-- FWU_STAGE (R423). FWU_CMD.STAGE makes the main core verify an image and write it into the inactive slot. -/
def execFwuStage (s : State) : Host.Outcome State Fault Refusal :=
  .next (s.doFwuStage)

/-- FWU_STAGE_DONE (R423). The staged slot becomes VALID or FAILED and STAGED is set. -/
def execFwuStageDone (s : State) : Host.Outcome State Fault Refusal :=
  .next (s.doFwuStageDone)

/-- FWU_ACTIVATE (R425). FWU_CMD.ACTIVATE in LOCAL mode makes the other slot active with TRIAL and restarts the
lantern. -/
def execFwuActivate (s : State) : Host.Outcome State Fault Refusal :=
  .next (s.doFwuActivate)

/-- FWU_CONFIRM (R424). FWU_CMD.CONFIRM clears TRIAL. -/
def execFwuConfirm (s : State) : Host.Outcome State Fault Refusal :=
  .next (s.doFwuConfirm)

/-- FWU_MANIFEST (R427). FWU_CMD.MANIFEST verifies a manifest and sets FW_STATE to READY or FAIL. -/
def execFwuManifest (s : State) : Host.Outcome State Fault Refusal :=
  .next (s.doFwuManifest)

/-- FWU_RESTART (R433). FWU_CMD.RESTART restarts the lantern. -/
def execFwuRestart (s : State) : Host.Outcome State Fault Refusal :=
  .next (s.doFwuRestart)

/-- FW_READY_SEND (R427). In each ledger period a unit sends its aggregated FW_READY upwards. -/
def execFwReadySend (s : State) : Host.Outcome State Fault Refusal :=
  .next (s.doFwReadySend)

/-- FW_READY_RX (R427). A unit receives FW_READY from a port below. -/
def execFwReadyRx (port : Nat) (manifest : Nat) (ready : Bool) (fail : Bool) (s : State) : Host.Outcome State Fault Refusal :=
  .next (s.doFwReadyRx port manifest ready fail)

/-- FW_DECIDE (R427). At each period end the issuer sends FW_GO when both aggregates are READY, or FW_ABORT on FAIL.
-/
def execFwDecide (s : State) : Host.Outcome State Fault Refusal :=
  .next (s.doFwDecide)

/-- FW_DEADLINE (R427). ACT_HT_NS minus 10 ms passes without GO and the issuer sends FW_ABORT. -/
def execFwDeadline (s : State) : Host.Outcome State Fault Refusal :=
  .next (s.doFwDeadline)

/-- FW_GO_RX (R427). A unit receives the FW_GO notice and holds it. -/
def execFwGoRx (port : Nat) (manifest : Nat) (act : W) (s : State) : Host.Outcome State Fault Refusal :=
  .next (s.doFwGoRx port manifest act)

/-- FW_ABORT_RX (R427). A unit receives FW_ABORT, discards the manifest and returns to IDLE. -/
def execFwAbortRx (port : Nat) (n : FwNotice) (s : State) : Host.Outcome State Fault Refusal :=
  .next (s.doFwAbortRx port n)

/-- FW_SLOT_SWAP (R427). At ACT_HT_NS a unit holding GO swaps its boot slot with TRIAL and restarts its lantern. -/
def execFwSlotSwap (s : State) : Host.Outcome State Fault Refusal :=
  .next (s.doFwSlotSwap)

/-- ROM_BOOT (R424). At AON reset the ROM verifies the active slot and starts the main firmware, or enters recovery.
-/
def execRomBoot (s : State) : Host.Outcome State Fault Refusal :=
  .next (s.doRomBoot)

/-- RCV_CHUNK (R429). A write of FWU_RCV_CTRL.CHUNK takes one recovery chunk of the image. -/
def execRcvChunk (v : W) (s : State) : Host.Outcome State Fault Refusal :=
  .next (s.doRcvChunk v)

/-- RCV_DONE (R429). A write of FWU_RCV_CTRL.DONE writes the image into slot A, verifies it and restarts. -/
def execRcvDone (v : W) (s : State) : Host.Outcome State Fault Refusal :=
  .next (s.doRcvDone v)


end Sys2Proof.Machine
end

