-- ==== Sys2Proof/Machine/Registers.lean ====
section
/-! DEFINITION. Sys2Proof/Machine/Registers.lean: writes to registers (R489 to R493): where an access lands, what a field takes
(the access codes of "Conventions"), the values that the register tables say are ignored, and the registers whose write
is a command. -/

namespace Sys2Proof.Machine

/-! ### Where an access lands (R489 to R493) -/

/-- The BAR0 address of the register that an access on a path names; none for a hole. The belfry window BAR4 holds BEL_, ID_
and CLK_ in 4 KiB areas (R492); a VSU's window holds blocks of 1 MiB (R493); a sideband address has a block and an offset
(R452). -/
def pathAddr (path : Path) (a : Nat) : Option Nat :=
  match path with
  | .bar0 | .lantern => some a
  | .belfry =>
    if a < 0x1000 then some (0x2400000 + a)
    else if a < 0x2000 then some (a - 0x1000)
    else if a < 0x3000 then some (0x1C00000 + (a - 0x2000))
    else none
  | .port => if a < 0x1300000 then some (a / 0x100000 * 0x200000 + a % 0x100000) else none
  | .sideband => cellAddr a

/-- A host page of a VD's SPK_ block, as context and offset (R159). -/
def hostPage? (a : Nat) : Option (Nat × Nat) :=
  if 0xB00000 ≤ a && a < 0xC00000 then some ((a - 0xB00000) / 0x1000, a % 0x1000) else none

/-- Does a path reach a VD's host pages: BAR0 and the lantern, while all blocks are served (R491). -/
def State.pagesReached (s : State) (path : Path) : Bool :=
  s.isVd && s.belfryOn && s.serves 5 && (path == .lantern || (path == .bar0 && s.endpointUp))

/-! ### Plain registers -/

/-- What the access codes make of a write: W1C bits written 1 are cleared, RW and RWB fields take their value, RWP fields go to
the persistent store. -/
def State.plainWrite (s : State) (a : Nat) (v : W) : State :=
  match regRow? a with
  | some r =>
    let s1 := (s.clearW1c a (BitVec.ofNat 64 r.w1c) v).putMasked a (BitVec.ofNat 64 r.rw) v
    if r.rwp = 0 then s1 else s1.pput a (BitVec.ofNat 64 r.rwp) v
  | none => s

/-- A field of a written word. -/
def Fld.inRange (f : Fld) (v : W) (lo hi : Nat) : Bool := decide (lo ≤ f.of v) && decide (f.of v ≤ hi)

/-- The word to write in place of `v` where a field's value is ignored: the field keeps what it holds. -/
def State.keepFld (s : State) (f : Fld) (ok : Bool) (v : W) : W := if ok then v else f.put v (s.fld f)

/-- A write in which one field takes only values in a range. -/
def State.rangedWrite (s : State) (a : Nat) (f : Fld) (lo hi : Nat) (v : W) : State :=
  s.plainWrite a (s.keepFld f (f.inRange v lo hi) v)

/-! ### Block by block -/

/-- A write of HT_LOAD_CTRL: its W1C and RW bits, and ARM (R12). -/
def State.writeHt (s : State) (a : Nat) (v : W) : State :=
  if a = Reg.HT_CTRL then s.doSpreadDepthWrite v
  else if a = Reg.HT_LOAD_CTRL && v.getLsbD 8 then s.doHtLoadArm v
  else if a = Reg.HT_PORT_FIXED then (if s.isDome then s else s.plainWrite a v)
  else s.plainWrite a v

/-- An external input that is no longer enabled: off, its run forgotten, and no longer selected (R47, R70, R80). -/
def State.refOff (s : State) (n : Nat) : State :=
  let s1 : State := { s with ref := { s.ref with refs := s.ref.refs.del n } }
  if s1.ref.selRef = some n then
    (({ s1 with ref := { s1.ref with selRef := s1.bestRef } } : State).raise Fld.REF_STATUS_SWITCHED).settleRoot.wtrRefresh
  else s1

/-- Takes up what a write made of the inputs' enables: one that is enabled now qualifies from now on (R81). -/
def State.refUsed (s old : State) (n : Nat) : State :=
  if s.refUse n == old.refUse n then s
  else if s.refUse n then { s with ref := { s.ref with refs := s.ref.refs.set n { state := 1, since := (s.ht : Int) } } }
  else s.refOff n

def State.refsUsed (s old : State) : State := (upto 4).foldl (fun t n => t.refUsed old n) s

/-- A write of TDC_REF_CFG[n]: the channel is disarmed for 1 µs (R47); a channel that is newly enabled awaits an edge (R44). -/
def State.writeRefCfg (s : State) (n : Nat) (v : W) : State :=
  let a := Reg.TDC_REF_CFG + 8 * n
  let was := (s.reg a).getLsbD 9
  let s1 := s.rangedWrite a (Fld.TDC_REF_CFG_THRESH.at n) 10 250 v
  let on := v.getLsbD 9
  let s2 : State := { s1 with tdc := { s1.tdc with
    disarmTill := s1.tdc.disarmTill.set (320 + n) (s.time.now + usX),
    waitFrom := if on && !was then s1.tdc.waitFrom.set (320 + n) s.tdc.coarse
      else if on then s1.tdc.waitFrom else s1.tdc.waitFrom.del (320 + n) } }
  s2.refsUsed s

def State.writeTdc (s : State) (a : Nat) (v : W) : State :=
  if a = Reg.TDC_CTRL then s.rangedWrite a Fld.TDC_CTRL_TIMEOUT_EXP 10 24 v
  else if a = Reg.TDC_CAL_CTRL then s.calWrite v (v.getLsbD 0) (v.getLsbD 6)
  else if a = Reg.TDC_SWAP_CTRL then (if v.getLsbD 8 then s.doLaneSwapStart v else s.plainWrite a v)
  else if Reg.TDC_REF_CFG ≤ a && a < Reg.TDC_REF_CFG + 32 then s.writeRefCfg ((a - Reg.TDC_REF_CFG) / 8) v
  else if Reg.TDC_PORT_TRIM ≤ a && a < Reg.TDC_PORT_TRIM + 512 then
    s.pput a 0x1FFFFFFFF ((v &&& 0xFFFFFFFF) ||| 0x100000000)
  else if Reg.TDC_PORT_ASYM ≤ a && a < Reg.TDC_PORT_ASYM + 512 then
    let s1 := s.plainWrite a v
    { s1 with tdc := { s1.tdc with asymSet := s1.tdc.asymSet.set ((a - Reg.TDC_PORT_ASYM) / 8) true } }
  else s.plainWrite a v

def State.writeRef (s : State) (a : Nat) (v : W) : State :=
  if a = Reg.REF_BW then s.rangedWrite a Fld.REF_BW_ROOT_FINAL 0 (if s.isVd then 3 else 0) v
  else if a = Reg.REF_ROOT_CTRL then s.rangedWrite a Fld.REF_ROOT_CTRL_MAX_SLEW 1 100 v
  else if a = Reg.REF_REALIGN then (if v.getLsbD 0 then s.doRealignGo v else s.plainWrite a v)
  else if a = Reg.REF_MARK_CFG || a = Reg.REF_MARK_CFG + 8 then
    let n := (a - Reg.REF_MARK_CFG) / 8
    let dl := Fld.REF_MARK_CFG_DELAY.at n
    let v1 := s.keepFld dl (decide ((signedOf 32 (dl.of v)).natAbs ≤ 100000)) v
    s.rangedWrite a (Fld.REF_MARK_CFG_EVERY_LOG2.at n) 0 20 v1
  else if (Reg.REF_IN_CFG ≤ a && a < Reg.REF_IN_CFG + 32) || a = Reg.REF_ROOT_CFG then (s.plainWrite a v).refsUsed s
  else s.plainWrite a v

def State.writeCad (s : State) (a : Nat) (v : W) : State :=
  if a = Reg.CAD_HOLD_AT then s.latchHoldAt v
  else if a = Reg.CAD_CMD then s.writeCadCmd v
  else if a = Reg.CAD_ROOT_CFG then s.rangedWrite a Fld.CAD_ROOT_CFG_L_VOTE 2 64 v
  else if a = Reg.CAD_ROOT_CMD then s.writeRootCmd v
  else s.plainWrite a v

/-- A NOTIFY target that the unit has (R501). -/
def State.notifyOk (s : State) (kind q : Nat) : Bool :=
  if s.isVd then (kind == 0 && decide (q < 64)) || (kind == 1 && decide (q < 4))
  else (kind == 0 || kind == 2) && q == 0

/-- The bits of a command register in ascending order, each with what it does. -/
def State.cmdBits (s : State) (v : W) (fs : List (State → State)) : State :=
  (fs.zip (upto fs.length)).foldl (fun t (e : (State → State) × Nat) => if v.getLsbD e.2 then e.1 t else t) s

def State.writeSpk (s : State) (a : Nat) (v : W) : State :=
  let c := s.selCtx
  let x := s.ctx c
  let has := decide (c < s.nCtx) && !s.isFore
  if a = Reg.SPK_XLAT_BASE then
    (if has && v.toNat % 32768 == 0 then s.setCtx c { x with xlatShadow := v } else s)
  else if a = Reg.SPK_SAVE_BASE then
    (if has && v.toNat % 131072 == 0 then s.setCtx c { x with saveBase := v } else s)
  else if a = Reg.SPK_CTX_NOTIFY then
    let k := v.toNat % 4
    let q := v.toNat / 256 % 256
    (if has && s.notifyOk k q then s.setCtx c { x with notifyKind := k, notifyQ := q } else s)
  else if a = Reg.SPK_CTX_CMD then
    s.cmdBits v [State.doCommitXlat, State.doCtxSave, State.doCtxRestore, State.doCtxReset, State.doCtxActivate]
  else if a = Reg.SPK_PHYS_CMD then
    s.cmdBits v [State.doPhysAlloc, State.doPhysEvict, State.doPhysAdopt, State.doShareInc, State.doShareDec,
      State.doPhysFree, State.doPhysZero]
  else s.plainWrite a v

/-- A write to a context's host page (R159). -/
def State.writePage (s : State) (c off : Nat) (v : W) : State :=
  let id := v.toNat % 4096
  let tag := v.toNat / 65536 % 65536
  if off = 8 then s.setCtx c { s.ctx c with argValue := v }
  else if off = 0x10 then s.setCtx c { s.ctx c with argDeadl := v }
  else if !s.awake then s
  else if off = 0 then s.spkTake (signalOp { src := .hostPage } c id (BitVec.ofNat 64 (v.toNat / 2 ^ 32)))
  else if off = 0x18 then s.spkTake (s.waitOp .hostPage c id 0 0 tag)
  else if off = 0x20 then
    (if v.getLsbD 32 then s.spkTake (cancelOp .hostPage c id tag) else s.spkTake (s.notifyOp .hostPage c id 0 tag))
  else if off = 0x28 then s.spkTake (readOp .hostPage c id 0)
  else s

def State.writeImg (s : State) (a : Nat) (v : W) : State :=
  if a = Reg.IMG_CMD then
    s.cmdBits v [when s.isVd State.doLoadLocal, when s.isVd State.doBroadcast, State.doDiscard, State.doRecall]
  else if a = Reg.IMG_LOAD_BASE then (if v.toNat % 4096 = 0 then s.plainWrite a v else s)
  else s.plainWrite a v

/-- XF_PORT_CFG[p]: UNCORR_LIMIT and TRAIN_EN, and then ISOLATE, whose setting isolates and whose clearing ends it. -/
def State.writePortCfg (s : State) (p : Nat) (v : W) : State :=
  let a := Reg.XF_PORT_CFG + 8 * p
  let s1 := s.putMasked a (if Fld.inRange (Fld.XF_PORT_CFG_UNCORR_LIMIT.at p) v 1 15 then 0xF2 else 2) v
  if v.getLsbD 0 then s1.isolatePort p else if s1.portIsolated p then s1.unisolate p else s1

def State.writeXf (s : State) (a : Nat) (v : W) : State :=
  if a = Reg.XF_CTRL then s.rangedWrite a Fld.XF_CTRL_SAT_US 1 65535 v
  else if a = Reg.XF_CMD then (if v.getLsbD 0 then s.doRouteCommit else s)
  else if Reg.XF_PORT_CFG ≤ a && a < Reg.XF_PORT_CFG + 512 then s.writePortCfg ((a - Reg.XF_PORT_CFG) / 8) v
  else s.plainWrite a v

def State.writeCmb (s : State) (a : Nat) (v : W) : State :=
  if a = Reg.CMB_SEED0 then s.doCmbSeedWrite false v
  else if a = Reg.CMB_SEED1 then s.doCmbSeedWrite true v
  else if a = Reg.CMB_RAND_CTR1 then s.doCmbRandStart v
  else s.plainWrite a v

/-- Does a TIL_FOLD word name rows that it may: none above 129, and RET_B above RET_A. -/
def foldOk (v : W) : Bool :=
  let a := v.toNat % 256
  let b := v.toNat / 65536 % 256
  let useB := v.getLsbD 8 && v.getLsbD 24
  (!v.getLsbD 8 || decide (a ≤ 129)) && (!useB || (decide (b ≤ 129) && decide (a < b)))

def State.writeTil (s : State) (a : Nat) (v : W) : State :=
  if a = Reg.TIL_CMD then (if v.getLsbD 0 then s.doFoldCommit else s)
  else if a = Reg.TIL_FOLD then (if foldOk v then s.plainWrite a v else s)
  else s.plainWrite a v

/-- Is a word a permutation of the sixteen die ports. -/
def isPerm (v : W) : Bool := (upto 16).all fun d => (upto 16).any fun l => remapAt v l == d

def State.writeFlt (s : State) (a : Nat) (v : W) : State :=
  if a = Reg.FLT_CMD then s.writeFltCmd v
  else if a = Reg.FLT_REMAP then (if isPerm v then s.plainWrite a v else s)
  else if a = Reg.FLT_VERDICT_TX then
    (if s.cad.root.issuer then (if v.getLsbD 16 then s.doVerdictSend v else s.plainWrite a v) else s)
  else s.plainWrite a v

def State.writeNrg (s : State) (a : Nat) (v : W) : State :=
  if a = Reg.NRG_CTRL then s.rangedWrite a Fld.NRG_CTRL_BUDGET_W 0 850 v
  else if a = Reg.NRG_DIE_K && s.isVd then s
  else s.plainWrite a v

def State.writeClk (s : State) (a : Nat) (v : W) : State :=
  if a = Reg.CLK_REGION then s.doClkRegionWrite v
  else if a = Reg.CLK_POWER then s.standby (v.getLsbD 0)
  else if a = Reg.CLK_CMP_CFG then s.rangedWrite a Fld.CLK_CMP_CFG_FILTER 1 255 v
  else if a = Reg.CLK_TEMP_CFG then s.rangedWrite a Fld.CLK_TEMP_CFG_TRIP 60 110 v
  else s.plainWrite a v

/-- A host queue's ring base and write-back address: aligned, and only while the queue is disabled (R412). -/
def State.writeHq (s : State) (a : Nat) (v : W) : State :=
  let q := (a - Reg.EVQ_HQ_BASE) / 32
  let o := (a - Reg.EVQ_HQ_BASE) % 32
  if o = 0 then (if v.toNat % 4096 = 0 && !s.hqEn q then s.plainWrite a v else s)
  else if o = 16 then (if v.toNat % 8 = 0 && !s.hqEn q then s.plainWrite a v else s)
  else if o = 24 then s.writeHqTail q v
  else s.plainWrite a v

def State.writeEvq (s : State) (path : Path) (a : Nat) (v : W) : State :=
  if a = Reg.EVQ_MAILBOX then s.writeMailbox (path != .lantern) v
  else if Reg.EVQ_WDG ≤ a && a < Reg.EVQ_WDG + 32 then s.writeWdg ((a - Reg.EVQ_WDG) / 8) v
  else if Reg.EVQ_CORE_Q ≤ a && a < Reg.EVQ_CORE_Q + 32 then s.writeCoreTail ((a - Reg.EVQ_CORE_Q) / 8) v
  else if Reg.EVQ_SWI ≤ a && a < Reg.EVQ_SWI + 32 then s.plainWrite a (v &&& 0xFFFFFFF8)
  else if Reg.EVQ_SRC_CFG ≤ a && a < Reg.EVQ_ROUTE then s.rangedWrite a ⟨a, 0, 8⟩ 1 255 v
  else if Reg.EVQ_HQ_BASE ≤ a then s.writeHq a v
  else s.plainWrite a v

def State.writeFwu (s : State) (a : Nat) (v : W) : State :=
  if a = Reg.FWU_CMD then s.writeFwuCmd v
  else if a = Reg.FWU_RCV_CTRL then s.writeRcvCtrl v
  else if Reg.FWU_RCV_DATA ≤ a then
    (if s.pwr.recovery then
      let o := a - Reg.FWU_RCV_DATA
      let l := leBytes 8 v.toNat
      { s with fwu := { s.fwu with
        rcvBuf := (upto 8).foldl (fun (t : Tab Byte) i => t.set (o + i) (l.getD i 0)) s.fwu.rcvBuf } }
     else s)
  else s.plainWrite a v

/-- A write of a register that the unit has, by its block (R490). -/
def State.regWrite (s : State) (path : Path) (a : Nat) (v : W) : State :=
  match a / 0x200000 with
  | 1 => s.writeHt a v
  | 2 => s.writeTdc a v
  | 3 => s.writeRef a v
  | 4 => s.writeCad a v
  | 5 => s.writeSpk a v
  | 6 => s.writeImg a v
  | 7 => s.writeXf a v
  | 9 => s.writeCmb a v
  | 10 => s.writeTil a v
  | 12 => s.writeFlt a v
  | 13 => s.writeNrg a v
  | 14 => s.writeClk a v
  | 15 => s.writeEvq path a v
  | 16 => if a = Reg.NVS_DATA then s.nvsPut (s.fld Fld.NVS_ADDR_WORD) v false else s.plainWrite a v
  | 17 => s.writeFwu a v
  | 18 => s.belWrite (a % 0x200000) v
  | 8 => if a = Reg.MEM_CTRL then s.rangedWrite a Fld.MEM_CTRL_TIMEOUT_US 1 65535 v else s.plainWrite a v
  | _ => s.plainWrite a v

/-- REGISTER_WRITE: an aligned 8-byte write of one register that the path reaches; a write of another size or alignment is
dropped, and one to a reserved offset is ignored (R489). -/
def State.doRegisterWrite (s : State) (path : Path) (addr bytes : Nat) (v : W) : State :=
  if bytes = 8 && addr % 8 = 0 then
    match pathAddr path addr with
    | none => s
    | some a =>
      match hostPage? a with
      | some (c, off) => if (path == .bar0 || path == .lantern) && s.pagesReached path then s.writePage c off v else s
      | none => if s.reach path a then s.regWrite path a v else s
  else s

/-- REGISTER_WRITE (R489). A write to any register without a row of its own sets its RW fields or clears its W1C bits.
-/
def execRegisterWrite (path : Path) (addr : Nat) (bytes : Nat) (v : W) (s : State) : Host.Outcome State Fault Refusal :=
  .next (s.doRegisterWrite path addr bytes v)


end Sys2Proof.Machine
end

