-- ==== Sys2Proof/Machine/Dispatch.lean ====
section
/-! DEFINITION. Sys2Proof/Machine/Dispatch.lean: one arm per command of the manual's table. -/

namespace Sys2Proof.Machine

def exec (i : Instr) (s : State) : Host.Outcome State Fault Refusal :=
  match i with
  | .htNsRead via => Sys2Proof.Machine.execHtNsRead via s
  | .htLoadArm v => Sys2Proof.Machine.execHtLoadArm v s
  | .htLoadApply ref => Sys2Proof.Machine.execHtLoadApply ref s
  | .htLoadTimeout => Sys2Proof.Machine.execHtLoadTimeout s
  | .spreadDepthWrite v => Sys2Proof.Machine.execSpreadDepthWrite v s
  | .spreadDepthCommit => Sys2Proof.Machine.execSpreadDepthCommit s
  | .profileStart => Sys2Proof.Machine.execProfileStart s
  | .dpllHeartbeatUpdate d => Sys2Proof.Machine.execDpllHeartbeatUpdate d s
  | .servoLock => Sys2Proof.Machine.execServoLock s
  | .domainInputLost d => Sys2Proof.Machine.execDomainInputLost d s
  | .bridgeTimeout => Sys2Proof.Machine.execBridgeTimeout s
  | .tdcStamp ch kind delta => Sys2Proof.Machine.execTdcStamp ch kind delta s
  | .tdcTimeout ch => Sys2Proof.Machine.execTdcTimeout ch s
  | .tdcLockFell => Sys2Proof.Machine.execTdcLockFell s
  | .tdcFifoRead via => Sys2Proof.Machine.execTdcFifoRead via s
  | .tdcStatusRead via => Sys2Proof.Machine.execTdcStatusRead via s
  | .tdcFifoStatusRead via => Sys2Proof.Machine.execTdcFifoStatusRead via s
  | .tdcAnchorRead k via => Sys2Proof.Machine.execTdcAnchorRead k via s
  | .cdStart v => Sys2Proof.Machine.execCdStart v s
  | .cdDone => Sys2Proof.Machine.execCdDone s
  | .lbStart v => Sys2Proof.Machine.execLbStart v s
  | .lbDone => Sys2Proof.Machine.execLbDone s
  | .delayReqSend port lane t1 => Sys2Proof.Machine.execDelayReqSend port lane t1 s
  | .delayReqRx port lane reqSeq sender t2 => Sys2Proof.Machine.execDelayReqRx port lane reqSeq sender t2 s
  | .delayRespSend port t3 => Sys2Proof.Machine.execDelayRespSend port t3 s
  | .delayRespRx port lane reqSeq t4 => Sys2Proof.Machine.execDelayRespRx port lane reqSeq t4 s
  | .roundTripDrop port lane => Sys2Proof.Machine.execRoundTripDrop port lane s
  | .batchComplete port reqLane rspLane => Sys2Proof.Machine.execBatchComplete port reqLane rspLane s
  | .delayEntryStale lane => Sys2Proof.Machine.execDelayEntryStale lane s
  | .laneSwapStart v => Sys2Proof.Machine.execLaneSwapStart v s
  | .laneSwapStepEnd ok => Sys2Proof.Machine.execLaneSwapStepEnd ok s
  | .laneSwapTimeout => Sys2Proof.Machine.execLaneSwapTimeout s
  | .wtrExpiry sel => Sys2Proof.Machine.execWtrExpiry sel s
  | .dpllNarrow sel => Sys2Proof.Machine.execDpllNarrow sel s
  | .refEdge n stamp => Sys2Proof.Machine.execRefEdge n stamp s
  | .refLoss n => Sys2Proof.Machine.execRefLoss n s
  | .leaderYield => Sys2Proof.Machine.execLeaderYield s
  | .tandemJoin => Sys2Proof.Machine.execTandemJoin s
  | .holdoverQualify => Sys2Proof.Machine.execHoldoverQualify s
  | .ptpMessageRx m => Sys2Proof.Machine.execPtpMessageRx m s
  | .utcOffsetUpdate => Sys2Proof.Machine.execUtcOffsetUpdate s
  | .realignGo v => Sys2Proof.Machine.execRealignGo v s
  | .realignDone => Sys2Proof.Machine.execRealignDone s
  | .ppsPulse => Sys2Proof.Machine.execPpsPulse s
  | .stepMarkPulse n => Sys2Proof.Machine.execStepMarkPulse n s
  | .boundaryDue => Sys2Proof.Machine.execBoundaryDue s
  | .cutoff => Sys2Proof.Machine.execCutoff s
  | .voteInstant => Sys2Proof.Machine.execVoteInstant s
  | .decisionRx port d0 d1 => Sys2Proof.Machine.execDecisionRx port d0 d1 s
  | .issuerInit => Sys2Proof.Machine.execIssuerInit s
  | .rootStart v => Sys2Proof.Machine.execRootStart v s
  | .rootResume v => Sys2Proof.Machine.execRootResume v s
  | .rootHold v => Sys2Proof.Machine.execRootHold v s
  | .rootStop v => Sys2Proof.Machine.execRootStop v s
  | .endPhase v => Sys2Proof.Machine.execEndPhase v s
  | .takeIssue v => Sys2Proof.Machine.execTakeIssue v s
  | .rearm => Sys2Proof.Machine.execRearm s
  | .armingSignal => Sys2Proof.Machine.execArmingSignal s
  | .heartbeatSend port => Sys2Proof.Machine.execHeartbeatSend port s
  | .heartbeatRx port hb stamps => Sys2Proof.Machine.execHeartbeatRx port hb stamps s
  | .spkSignal via ctx id inc => Sys2Proof.Machine.execSpkSignal via ctx id inc s
  | .spkWait src ctx id expected deadline tag => Sys2Proof.Machine.execSpkWait src ctx id expected deadline tag s
  | .spkRead src ctx id tag => Sys2Proof.Machine.execSpkRead src ctx id tag s
  | .spkNotify src ctx id threshold tag => Sys2Proof.Machine.execSpkNotify src ctx id threshold tag s
  | .spkNotifyCancel src ctx id tag => Sys2Proof.Machine.execSpkNotifyCancel src ctx id tag s
  | .spkWaitTimeout ctx id tag => Sys2Proof.Machine.execSpkWaitTimeout ctx id tag s
  | .spkXlatFill memTag entry err => Sys2Proof.Machine.execSpkXlatFill memTag entry err s
  | .ownerLostFlush => Sys2Proof.Machine.execOwnerLostFlush s
  | .commitXlat => Sys2Proof.Machine.execCommitXlat s
  | .ctxSave => Sys2Proof.Machine.execCtxSave s
  | .ctxRestore => Sys2Proof.Machine.execCtxRestore s
  | .ctxReset => Sys2Proof.Machine.execCtxReset s
  | .ctxActivate => Sys2Proof.Machine.execCtxActivate s
  | .physAlloc => Sys2Proof.Machine.execPhysAlloc s
  | .physEvict => Sys2Proof.Machine.execPhysEvict s
  | .physAdopt => Sys2Proof.Machine.execPhysAdopt s
  | .shareInc => Sys2Proof.Machine.execShareInc s
  | .shareDec => Sys2Proof.Machine.execShareDec s
  | .physFree => Sys2Proof.Machine.execPhysFree s
  | .physZero => Sys2Proof.Machine.execPhysZero s
  | .recordPlaceDeferred => Sys2Proof.Machine.execRecordPlaceDeferred s
  | .loadLocal => Sys2Proof.Machine.execLoadLocal s
  | .broadcast => Sys2Proof.Machine.execBroadcast s
  | .discard => Sys2Proof.Machine.execDiscard s
  | .recall => Sys2Proof.Machine.execRecall s
  | .bcastTileRx port id tile bkind bytes tcrc => Sys2Proof.Machine.execBcastTileRx port id tile bkind bytes tcrc s
  | .shadowCheck => Sys2Proof.Machine.execShadowCheck s
  | .nextSetLoad => Sys2Proof.Machine.execNextSetLoad s
  | .nextSetRecheck => Sys2Proof.Machine.execNextSetRecheck s
  | .portTrainStart port peer => Sys2Proof.Machine.execPortTrainStart port peer s
  | .linkUp port => Sys2Proof.Machine.execLinkUp port s
  | .trainTimeout port => Sys2Proof.Machine.execTrainTimeout port s
  | .portRetrain port lane => Sys2Proof.Machine.execPortRetrain port lane s
  | .retrainDone port => Sys2Proof.Machine.execRetrainDone port s
  | .retrainTimeout port => Sys2Proof.Machine.execRetrainTimeout port s
  | .portUnisolate port => Sys2Proof.Machine.execPortUnisolate port s
  | .slotStart => Sys2Proof.Machine.execSlotStart s
  | .frameTx port => Sys2Proof.Machine.execFrameTx port s
  | .flitRx port f => Sys2Proof.Machine.execFlitRx port f s
  | .retryReqRx port ranges => Sys2Proof.Machine.execRetryReqRx port ranges s
  | .refetchRx port wsc slot mask tile => Sys2Proof.Machine.execRefetchRx port wsc slot mask tile s
  | .refetchFailRx port wsc slot mask tile reason => Sys2Proof.Machine.execRefetchFailRx port wsc slot mask tile reason s
  | .creditRx port credits ack => Sys2Proof.Machine.execCreditRx port credits ack s
  | .creditSaturation port level => Sys2Proof.Machine.execCreditSaturation port level s
  | .schedSignalApply port => Sys2Proof.Machine.execSchedSignalApply port s
  | .routeCommit => Sys2Proof.Machine.execRouteCommit s
  | .sideRead port r => Sys2Proof.Machine.execSideRead port r s
  | .sideWrite port r data tcrc => Sys2Proof.Machine.execSideWrite port r data tcrc s
  | .sideFence port r => Sys2Proof.Machine.execSideFence port r s
  | .fenceComplete => Sys2Proof.Machine.execFenceComplete s
  | .readSpk port r => Sys2Proof.Machine.execReadSpk port r s
  | .sideBadOp port r => Sys2Proof.Machine.execSideBadOp port r s
  | .sideRspRx tag status data => Sys2Proof.Machine.execSideRspRx tag status data s
  | .sideReqTimeout tag => Sys2Proof.Machine.execSideReqTimeout tag s
  | .bar2Read off len => Sys2Proof.Machine.execBar2Read off len s
  | .bar2Write off data => Sys2Proof.Machine.execBar2Write off data s
  | .signalFlitRx port dno sub dstSub recs => Sys2Proof.Machine.execSignalFlitRx port dno sub dstSub recs s
  | .sigAckRx dno sub ackSeq status => Sys2Proof.Machine.execSigAckRx dno sub ackSeq status s
  | .signalResend => Sys2Proof.Machine.execSignalResend s
  | .signalGiveUp => Sys2Proof.Machine.execSignalGiveUp s
  | .xfRejectLogRead via => Sys2Proof.Machine.execXfRejectLogRead via s
  | .xfPortErrRead port via => Sys2Proof.Machine.execXfPortErrRead port via s
  | .xfLaneStatusRead lane via => Sys2Proof.Machine.execXfLaneStatusRead lane via s
  | .memErrLogRead via => Sys2Proof.Machine.execMemErrLogRead via s
  | .cmbResultReady instr => Sys2Proof.Machine.execCmbResultReady instr s
  | .cmbSeedWrite hi v => Sys2Proof.Machine.execCmbSeedWrite hi v s
  | .cmbRandStart v => Sys2Proof.Machine.execCmbRandStart v s
  | .cmbRandDone => Sys2Proof.Machine.execCmbRandDone s
  | .cmbXsLogRead via => Sys2Proof.Machine.execCmbXsLogRead via s
  | .cmbMoeCountRead via => Sys2Proof.Machine.execCmbMoeCountRead via s
  | .cmbSpecialRead via => Sys2Proof.Machine.execCmbSpecialRead via s
  | .tilInstrStart t residueAt => Sys2Proof.Machine.execTilInstrStart t residueAt s
  | .foldCommit => Sys2Proof.Machine.execFoldCommit s
  | .tilFaultLogRead via => Sys2Proof.Machine.execTilFaultLogRead via s
  | .stgFaultLogRead via => Sys2Proof.Machine.execStgFaultLogRead via s
  | .stgCountRead via => Sys2Proof.Machine.execStgCountRead via s
  | .detectorRoundEnd => Sys2Proof.Machine.execDetectorRoundEnd s
  | .spareStaged d => Sys2Proof.Machine.execSpareStaged d s
  | .joinRecordSend => Sys2Proof.Machine.execJoinRecordSend s
  | .joinRx m => Sys2Proof.Machine.execJoinRx m s
  | .fltClear v => Sys2Proof.Machine.execFltClear v s
  | .fltDoubt v => Sys2Proof.Machine.execFltDoubt v s
  | .fltApprove v => Sys2Proof.Machine.execFltApprove v s
  | .commitRemap v => Sys2Proof.Machine.execCommitRemap v s
  | .fltSwapLogRead via => Sys2Proof.Machine.execFltSwapLogRead via s
  | .verdictSend v => Sys2Proof.Machine.execVerdictSend v s
  | .verdictRx port n => Sys2Proof.Machine.execVerdictRx port n s
  | .readHt via => Sys2Proof.Machine.execReadHt via s
  | .readSc via => Sys2Proof.Machine.execReadSc via s
  | .readSummary via => Sys2Proof.Machine.execReadSummary via s
  | .holdAt v => Sys2Proof.Machine.execHoldAt v s
  | .quiesce => Sys2Proof.Machine.execQuiesce s
  | .portIsolate mask => Sys2Proof.Machine.execPortIsolate mask s
  | .evtTail age via => Sys2Proof.Machine.execEvtTail age via s
  | .readNvs word via => Sys2Proof.Machine.execReadNvs word via s
  | .sbRelayTimeout => Sys2Proof.Machine.execSbRelayTimeout s
  | .sbCellTx d => Sys2Proof.Machine.execSbCellTx d s
  | .sbCellRx d w => Sys2Proof.Machine.execSbCellRx d w s
  | .sbRdReq c => Sys2Proof.Machine.execSbRdReq c s
  | .sbWrReq c => Sys2Proof.Machine.execSbWrReq c s
  | .ucodeStart len8 => Sys2Proof.Machine.execUcodeStart len8 s
  | .ucodeSegment seg bytes => Sys2Proof.Machine.execUcodeSegment seg bytes s
  | .ucodeEnd len8 crc => Sys2Proof.Machine.execUcodeEnd len8 crc s
  | .ucodeAck d ok => Sys2Proof.Machine.execUcodeAck d ok s
  | .hostClockLoss => Sys2Proof.Machine.execHostClockLoss s
  | .hostRealign offset => Sys2Proof.Machine.execHostRealign offset s
  | .clkRegionWrite v => Sys2Proof.Machine.execClkRegionWrite v s
  | .regionStopDone => Sys2Proof.Machine.execRegionStopDone s
  | .comparatorFire f => Sys2Proof.Machine.execComparatorFire f s
  | .standbyEnter v => Sys2Proof.Machine.execStandbyEnter v s
  | .standbyExit v => Sys2Proof.Machine.execStandbyExit v s
  | .powerSample x => Sys2Proof.Machine.execPowerSample x s
  | .ledgerPeriodEnd => Sys2Proof.Machine.execLedgerPeriodEnd s
  | .ledgerSend => Sys2Proof.Machine.execLedgerSend s
  | .ledgerRx port period prop => Sys2Proof.Machine.execLedgerRx port period prop s
  | .hallRatioDecide => Sys2Proof.Machine.execHallRatioDecide s
  | .wdgHalf c => Sys2Proof.Machine.execWdgHalf c s
  | .wdgExpire c => Sys2Proof.Machine.execWdgExpire c s
  | .wdgKick c v => Sys2Proof.Machine.execWdgKick c v s
  | .coreInterrupt c => Sys2Proof.Machine.execCoreInterrupt c s
  | .hqTailWrite q v => Sys2Proof.Machine.execHqTailWrite q v s
  | .coreQTailWrite c v => Sys2Proof.Machine.execCoreQTailWrite c v s
  | .evqStatusRead via => Sys2Proof.Machine.execEvqStatusRead via s
  | .mailboxWrite v => Sys2Proof.Machine.execMailboxWrite v s
  | .lanternMessageRx port m => Sys2Proof.Machine.execLanternMessageRx port m s
  | .nvsWrite word v => Sys2Proof.Machine.execNvsWrite word v s
  | .nvsWriteDone => Sys2Proof.Machine.execNvsWriteDone s
  | .fwuStage => Sys2Proof.Machine.execFwuStage s
  | .fwuStageDone => Sys2Proof.Machine.execFwuStageDone s
  | .fwuActivate => Sys2Proof.Machine.execFwuActivate s
  | .fwuConfirm => Sys2Proof.Machine.execFwuConfirm s
  | .fwuManifest => Sys2Proof.Machine.execFwuManifest s
  | .fwuRestart => Sys2Proof.Machine.execFwuRestart s
  | .fwReadySend => Sys2Proof.Machine.execFwReadySend s
  | .fwReadyRx port manifest ready fail => Sys2Proof.Machine.execFwReadyRx port manifest ready fail s
  | .fwDecide => Sys2Proof.Machine.execFwDecide s
  | .fwDeadline => Sys2Proof.Machine.execFwDeadline s
  | .fwGoRx port manifest act => Sys2Proof.Machine.execFwGoRx port manifest act s
  | .fwAbortRx port n => Sys2Proof.Machine.execFwAbortRx port n s
  | .fwSlotSwap => Sys2Proof.Machine.execFwSlotSwap s
  | .romBoot => Sys2Proof.Machine.execRomBoot s
  | .rcvChunk v => Sys2Proof.Machine.execRcvChunk v s
  | .rcvDone v => Sys2Proof.Machine.execRcvDone v s
  | .streamTxBeat side q hdr lvl last payload => Sys2Proof.Machine.execStreamTxBeat side q hdr lvl last payload s
  | .memPortResponse tag data err => Sys2Proof.Machine.execMemPortResponse tag data err s
  | .aonReset => Sys2Proof.Machine.execAonReset s
  | .vsuReset => Sys2Proof.Machine.execVsuReset s
  | .vinUp => Sys2Proof.Machine.execVinUp s
  | .vinDown => Sys2Proof.Machine.execVinDown s
  | .modEnRise => Sys2Proof.Machine.execModEnRise s
  | .modEnFall => Sys2Proof.Machine.execModEnFall s
  | .thermalShutdown => Sys2Proof.Machine.execThermalShutdown s
  | .perstAssert => Sys2Proof.Machine.execPerstAssert s
  | .i2cRead r => Sys2Proof.Machine.execI2cRead r s
  | .jtagInstruction op => Sys2Proof.Machine.execJtagInstruction op s
  | .registerWrite path addr bytes v => Sys2Proof.Machine.execRegisterWrite path addr bytes v s
  | .aonResetRelease => Sys2Proof.Machine.execAonResetRelease s
  | .vsuResetRelease => Sys2Proof.Machine.execVsuResetRelease s
  | .perstRelease => Sys2Proof.Machine.execPerstRelease s
  | .ringLockRegain => Sys2Proof.Machine.execRingLockRegain s
  | .mailboxRead via => Sys2Proof.Machine.execMailboxRead via s
  | .sbRelayGo v => Sys2Proof.Machine.execSbRelayGo v s
  | .clk10mEdge => Sys2Proof.Machine.execClk10mEdge s
  | .supplyFault => Sys2Proof.Machine.execSupplyFault s
  | .scanModeChange mode => Sys2Proof.Machine.execScanModeChange mode s

end Sys2Proof.Machine
end

