-- ==== Sys2Proof/Machine/Pins.lean ====
section
/-! DEFINITION. Sys2Proof/Machine/Pins.lean: the output pins that follow the state of the unit and carry nothing of their
own: those of a VSU (R31, R434 to R436, R438) and of the VD module (R485). What a unit sends or pulses stands in
`State.out`, the sequencer port in `CadSt.seqp`, MOD_PG and MOD_FAULT_N in `PwrSt`. -/

namespace Sys2Proof.Machine

/-! ### The VSU's lanes (R435) -/

/-- LNn_RATE: 1 for 224 Gb/s, 0 for 112 Gb/s; it follows the lane's rate while LNn_TXEN is 0 (R57, R204). -/
def State.laneRate (s : State) (n : Nat) : Bool := (s.fab.laneOut.get n (true, false)).1

/-- LNn_TXEN: the transmitter of a lane is on while its port trains or carries frames, but not from before RATE changes until
after it (log entry 171). -/
def State.laneTxEn (s : State) (n : Nat) : Bool :=
  s.awake && ((s.port (lanePort n)).st == .training || s.carriesOs (lanePort n)) && s.laneFast n == s.laneRate n &&
  !(s.fab.laneOut.get n (true, false)).2

/-- LNn_LPBK: near-end loopback during a loopback run on the lane (R50). -/
def State.laneLpbk (s : State) (n : Nat) : Bool := s.tdc.lbLane == some n

/-- LN0_SWAP and LN4_SWAP: lane 0 of a port is turned (R57). -/
def State.laneSwap (s : State) (p : Nat) : Bool := (s.port p).lane0Swap

/-! ### The ports to the host die (R31, R415, R436, R438, R443) -/

/-- DISC_CLK_OUT runs: the belfry runs and HT_CTRL.DISC_OUT_EN is 1. -/
def State.discRuns (s : State) : Bool := s.isVsu && s.belfryOn && s.flag Fld.HT_CTRL_DISC_OUT_EN

/-- EVT_IRQ: host queue 0 is not empty. -/
def State.evtIrq (s : State) : Bool := s.isVsu && decide ((s.hostQ 0).count ≠ 0)

/-- STX_READY[q]: the queue has room. -/
def State.stxReady (s : State) (q : Nat) : Bool :=
  !s.isVd && s.awake && decide (q < s.hostQueues) && decide ((s.fab.stq.get q []).length < 32)

/-- STX_SREADY: the side buffer has room. -/
def State.stxSready (s : State) : Bool := !s.isVd && s.awake && decide (s.sideBuf < 32)

/-- SPKp_REQ_READY: low only while the port's previous request waits for its translation entry. -/
def State.spkReady (s : State) (p : Nat) : Bool := s.awake && s.srcOk (.vsuPort p)

/-! ### The module's contacts (R485) -/

/-- I2C_ALERT_N: low while a status bit [1] to [4] of the sensor registers is 1. -/
def State.i2cAlertN (s : State) : Bool := !s.i2cAlert

end Sys2Proof.Machine
end

