-- ==== Sys2Proof/Safety.lean ====
section
/-! DEFINITION. Sys2Proof/Safety.lean: the terms in which statements are made: what recording events may change, the
frames of the parts of a unit, and the conditions that every step keeps. -/

namespace Sys2Proof.Machine

/-- `t` is `s` but for what recording events of the registers in `rs` changes: those registers and EVQ_STATUS, the queues
and the belfry tail, what the unit has sent, and the requests of a VSU's memory port. -/
def OnlyEvents (rs : List Nat) (s t : State) : Prop :=
  t = { s with
    regs := t.regs, out := t.out,
    evq := { s.evq with
      seq := t.evq.seq, tail64 := t.evq.tail64, coreQ := t.evq.coreQ, ring := t.evq.ring, hostQ := t.evq.hostQ,
      defer := t.evq.defer },
    fab := { s.fab with mem := t.fab.mem, memWr := t.fab.memWr, memQ := t.fab.memQ } } ∧
  ∀ a, a ∉ rs → a ≠ Reg.EVQ_STATUS → t.reg a = s.reg a

/-- `t` is `s` but for registers in `rs`, as they read. -/
def OnlyRegs (rs : List Nat) (s t : State) : Prop :=
  t = { s with regs := t.regs } ∧ ∀ a, a ∉ rs → t.reg a = s.reg a

/-- A read that its path carries and that is an aligned access of 8 bytes, where the path has accesses of other kinds (R487,
R489). -/
def State.Carries (s : State) (v : ReadVia) : Prop := s.pathUp v.path = true ∧ wholeRead v = true

/-- A read command answers Completer Abort to an access that is not an aligned one of 8 bytes, and fails where its path carries
none; it has no effect then (R487, R489). -/
def OtherReadsFail (c : ReadVia → Instr) : Prop :=
  ∀ (s : State) (v : ReadVia),
    (s.pathUp v.path = true → wholeRead v = false → exec (c v) s = .next { s with out := s.out ++ [.abort v.path] }) ∧
    (s.pathUp v.path = false → exec (c v) s = .next { s with out := s.out ++ [.failed v.path] })

/-- An issuer that was in state `s` has sent decisions: they stand behind what waited on each of the ports on which it sends
decisions, and on no other (R112). -/
def SentDecisions (s t : State) (d0 : Decision) (d1 : Option Decision) : Prop :=
  ∀ q, (t.port q).osq = if q ∈ s.decPorts none then (s.port q).osq ++ [.decision d0 d1] else (s.port q).osq

/-- Every byte of main memory of `t` outside `n` bytes from address `a` on reads as in `s`. -/
def MemoryFrame (a n : Nat) (s t : State) : Prop :=
  ∀ x, (x < a ∨ a + n ≤ x) → Memory.read t.fab.ram x = Memory.read s.fab.ram x

/-- The register table in its canonical form: keys strictly rising, and no entry equal to its register's reset value. -/
def regsWf (k : UnitKind) : Tab W → Bool
  | [] => true
  | [(a, v)] => v != regResetOf k a
  | (a, v) :: (b, w) :: r => v != regResetOf k a && decide (a < b) && regsWf k ((b, w) :: r)

/-- The translation entry of a virtual identifier in a VD's memory (R148, R149). -/
def State.entryOf (s : State) (ctx id : Nat) : W :=
  BitVec.ofNat 64 (leNat (Memory.readBytes s.fab.ram (s.xlatAddr ctx id) 8))

/-- A lantern core of a VD may operate: the unit runs, and the context is ACTIVE. -/
def State.CoreActive (s : State) (c ctx : Nat) : Prop :=
  s.isVd = true ∧ s.awake = true ∧ c < 4 ∧ ctx < 256 ∧ (s.ctx ctx).st = .active ∧ s.spk.job = none

/-- An operation of a kind by a lantern core reaches local sprocket `p`: the context's entry names it with the right that the
operation needs, and it is LIVE. -/
def State.LocalOp (s : State) (c ctx id kind p : Nat) : Prop :=
  s.CoreActive c ctx ∧ id < 4096 ∧ xKind (s.entryOf ctx id) = 1 ∧ xRight (s.entryOf ctx id) kind = true ∧
  xPhys (s.entryOf ctx id) = p ∧ (s.meta p).st = .live

/-- The bounds of the manual on what a unit holds: at most 4,096 stamp records (R45), four anchor slots (R41), 64 records
in the belfry tail (R374), and spread depths of 0 to 10 (R19); and no write to staging waits once a command is done, for all of
a slot land in it (R322). -/
def Bounded (s : State) : Prop :=
  s.stg.writes = [] ∧ s.stg.accs = [] ∧
  s.tdc.fifo.length ≤ 4096 ∧ s.tdc.anchors.length ≤ 4 ∧ s.evq.tail64.length ≤ 64 ∧ s.time.depthComm ≤ 10 ∧
  s.time.depthUse ≤ 10 ∧ ∀ d t, s.time.depthPend = some (d, t) → d ≤ 10

end Sys2Proof.Machine
end

