-- ==== Sys2Proof/Certificates/Slice0/Obligations.lean ====
section
/-! DEFINITION. Sys2Proof/Certificates/Slice0/Obligations.lean: the statements about the machine, chapter by chapter of the
manual. A clause "there is t with exec c s = next t and ..." says that the command completes with its own effect, and an
equation t = (s with ...) is its frame: everything that it does not name is unchanged. -/

open Sys2Proof Sys2Proof.Machine

/-! ### The block -/

/-- A step takes the command at the front of the queue and is that command's effect on the unit with the queue's rest. -/
def Obligations.StepRunsFrontCommand : Prop :=
  ∀ (c : Instr) (rest : List Instr) (s : State), s.pending = c :: rest → step s = exec c { s with pending := rest }

/-- No command of the table ends in a fault or a refusal, and none of them touches the commands that wait. -/
def Obligations.EveryCommandCompletesAndKeepsQueue : Prop :=
  ∀ (c : Instr) (s : State), ∃ t, exec c s = .next t ∧ t.pending = s.pending

/-- On an empty queue a unit whose belfry runs takes one time-clock edge (log entry 103): the counter adds the cycle of R18, 500
ps stretched by the depth in use times the height of the profile tick; the frequency word moves towards the one commanded by
at most 175 units of 2^-44 (R30); a COARSE load is complete one edge later (R22). With no result of the tile array, no main
sequence and no edge of MOD_EN or PERST_N under way, nothing but time, the filters of interrupts and comparators and the
rates of a VSU's lanes moves in a unit out of COARSE. A unit whose belfry has no power stays as it is. -/
def Obligations.TimeClockEdgeAddsStretchedCycle : Prop :=
  ∀ s : State, s.pending = [] →
    (s.belfryOn = true → ∃ t, step s = .next t ∧
      t.time.htx = s.time.htx + BitVec.ofNat 112 (2 ^ 47 +
        Fl.rneDiv (2 ^ 47 * s.time.depthUse * triOf (s.htNs.toNat / 32 % 1000)) 1000000) ∧
      (s.pwr.modEnAt = none → t.time.y = max (s.time.y - 175) (min (s.time.y + 175) s.time.yTo)) ∧
      (s.time.servo ≠ .coarse → s.til.run = none → s.pwr.mainAt = none → s.pwr.modEnAt = none → s.pwr.perstAt = none →
        t = { s with
        time := { s.time with htx := t.time.htx, now := t.time.now, synth := t.time.synth, y := t.time.y },
        tdc := { s.tdc with coarse := s.tdc.coarse + 1 }, evq := { s.evq with filt := t.evq.filt },
        clk := { s.clk with cmpFilt := t.clk.cmpFilt }, fab := { s.fab with laneOut := t.fab.laneOut } } ∧
        (s.isVd = true → t.fab.laneOut = s.fab.laneOut)) ∧
      (s.time.servo = .coarse → s.pwr.modEnAt = none → t.time.servo = .acquire ∧ t.time.depthUse = 0)) ∧
    (s.belfryOn = false → step s = .next s)

/-! ### Hall time (R9 to R35) -/

/-- HT_NS_READ returns the whole nanoseconds of HT and latches its fraction for the reading path alone (R10, R11); a path that
does not reach the register returns 0 and latches nothing; a read that is not an aligned 8-byte one is answered with
Completer Abort, and one on a path that carries none fails, both without effect (R487, R489). Loads of HT (R12, R13): a die
has none; ARM at a root spire that has fired no boundary arms the load, and in every other VD that has the register sets
REFUSED; the active edge of the selected input within 2 s of ARM loads HT_LOAD_NS and HT_LOAD_FRAC, sets DONE and takes the
root into ACQUIRE with its loop at 0, or, where the unit has fired a boundary or is a root no more, refuses the load; 2 s
without the edge refuse it. A refused load moves no HT. -/
def Obligations.HallTimeIsReadAndLoaded : Prop :=
  ((∀ (s : State) (v : ReadVia), s.Carries v →
     (s.reach v.path (htNsAddr v.path) = true → ∃ t, exec (.htNsRead v) s = .next t ∧
       t = { s with time := { s.time with latch := t.time.latch }, out := s.out ++ [.readData v.path s.htNs] } ∧
       t.time.latch.get v.path = s.htFrac ∧ ∀ q, q ≠ v.path → t.time.latch.get q = s.time.latch.get q) ∧
     (s.reach v.path (htNsAddr v.path) = false →
       exec (.htNsRead v) s = .next { s with out := s.out ++ [.readData v.path 0] })) ∧
   OtherReadsFail .htNsRead) ∧
  ((∀ (s : State) (v : W), s.isVd = false → exec (.htLoadArm v) s = .next s) ∧
   (∀ (s : State) (v : W), s.isVd = true → s.present Reg.HT_LOAD_CTRL = true → ∃ t, exec (.htLoadArm v) s = .next t ∧
     t = { s with time := { s.time with loadAt := t.time.loadAt }, regs := t.regs } ∧
     (∀ a, a ≠ Reg.HT_LOAD_CTRL → t.reg a = s.reg a) ∧ t.fld Fld.HT_LOAD_CTRL_REF_SEL = v.toNat % 4 ∧
     (s.isRoot = true → s.cad.firedAny = false → t.time.loadAt = some s.time.now) ∧
     (s.isRoot = false ∨ s.cad.firedAny = true → t.time.loadAt = none ∧ t.flag Fld.HT_LOAD_CTRL_REFUSED = true)) ∧
   (∀ (s : State) (ref t0 : Nat), s.time.loadAt = some t0 → ref = s.fld Fld.HT_LOAD_CTRL_REF_SEL →
     s.time.now - t0 < 2000 * msX →
     (s.cad.firedAny = false → s.isRoot = true → ∃ t, exec (.htLoadApply ref) s = .next t ∧
       t.htNs = s.reg Reg.HT_LOAD_NS ∧ t.htFrac = BitVec.ofNat 16 (s.fld Fld.HT_LOAD_FRAC_FRAC) ∧
       t.time.servo = .acquire ∧ t.time.acc = ⟨Fl.zero, Fl.zero⟩ ∧ t.time.depthUse = 0 ∧ t.time.loadAt = none ∧
       t.flag Fld.HT_LOAD_CTRL_DONE = true ∧ t.cad = s.cad ∧ t.spk = s.spk ∧ t.img = s.img ∧ t.fab.ram = s.fab.ram) ∧
     (s.cad.firedAny = true ∨ s.isRoot = false → ∃ t, exec (.htLoadApply ref) s = .next t ∧ t.flag Fld.HT_LOAD_CTRL_REFUSED = true ∧
       OnlyRegs [Reg.HT_LOAD_CTRL] { s with time := { s.time with loadAt := none } } t)) ∧
   (∀ (s : State) (t0 : Nat), s.time.loadAt = some t0 → s.time.now - t0 ≥ 2000 * msX →
     ∃ t, exec .htLoadTimeout s = .next t ∧ OnlyRegs [Reg.HT_LOAD_CTRL] { s with time := { s.time with loadAt := none } } t ∧
     t.flag Fld.HT_LOAD_CTRL_REFUSED = true))

/-- Changes of the spread depth (R19, R20, R41): a written depth of 0 to 10 becomes pending and 11 to 15 are ignored; 64 µs
later a unit that is IDLE or HELD commits it; at a profile start the modulator uses the committed depth in LOCKED, BRIDGE
and HOLDOVER and depth 0 otherwise, and the newest of four anchor slots holds the count and HT of that edge. -/
def Obligations.SpreadDepthChangesAtProfileStart : Prop :=
  (∀ (s : State) (v : W), s.present Reg.HT_CTRL = true → ∃ t, exec (.spreadDepthWrite v) s = .next t ∧
    OnlyRegs [Reg.HT_CTRL] { s with time := t.time, out := t.out } t ∧
    (v.toNat % 16 ≤ 10 → t.fld Fld.HT_CTRL_SPREAD_DEPTH = v.toNat % 16 ∧
      t.time = { s.time with depthPend := some (v.toNat % 16, s.time.now), depthWait := true }) ∧
    (v.toNat % 16 > 10 → t.fld Fld.HT_CTRL_SPREAD_DEPTH = s.fld Fld.HT_CTRL_SPREAD_DEPTH ∧ t.time = s.time) ∧
    (s.isVd = true → t.out = s.out)) ∧
  (∀ (s : State) (d t0 : Nat), s.cad.st ≠ .running → s.time.depthPend = some (d, t0) → s.time.now - t0 ≥ 64 * usX →
    exec .spreadDepthCommit s = .next { s with time := { s.time with depthPend := none, depthComm := d } }) ∧
  (∀ s : State, s.profileDue = true → ∃ t, exec .profileStart s = .next t ∧
    t = { s with
      time := { s.time with depthUse := t.time.depthUse, depthWait := s.time.depthPend.isSome },
      tdc := { s.tdc with anchors := t.tdc.anchors } } ∧
    (s.time.servo = .locked ∨ s.time.servo = .bridge ∨ s.time.servo = .holdover → t.time.depthUse = s.time.depthComm) ∧
    (s.time.servo = .freerun ∨ s.time.servo = .coarse ∨ s.time.servo = .acquire → t.time.depthUse = 0) ∧
    t.tdc.anchors = ({ cnt := s.tdc.coarse, ns := s.htNs, frac := s.htFrac, depth := t.time.depthUse } ::
      s.tdc.anchors).take 4)

/-- The servo's own transitions (R22, R129, R382): 4,096 heartbeats within ±50 ps with calibrated entries take ACQUIRE to
LOCKED; at the first alignment the crossings are aligned and a VSU notes the offset of its host clock, a free value (log
entry 170); 1 ms in BRIDGE ends in FREERUN with depth 0 and no selected input; neither moves HT (R27). The sixteenth
heartbeat of the active domain with only discarded errors (R21): HT_STATUS.DISCARD_RUN is set, the input is lost and its
error history with it; a LOCKED unit other than a root that has no other source enters BRIDGE and keeps HT (R22, R27). -/
def Obligations.ServoLocksBridgesAndLosesInputs : Prop :=
  ((∀ s : State, s.time.servo = .acquire → s.time.run50 ≥ 4096 → s.inputsCalibrated = true →
     s.isRoot = false → ∃ t, exec .servoLock s = .next t ∧ t.time.servo = .locked ∧ t.time.htx = s.time.htx ∧
       t.clk = { s.clk with
         aligned := true,
         hostOff := if s.clk.aligned = false ∧ s.isVsu = true then Config.hostOffset s.free else s.clk.hostOff } ∧
       t.free = s.free + (if s.clk.aligned = false ∧ s.isVsu = true then 1 else 0) ∧
       t.time.cls = (if s.stale || s.trimMissing then 2 else 1) ∧
       OnlyEvents [Reg.HT_STATUS] { s with time := t.time, clk := t.clk, free := t.free } t) ∧
   (∀ s : State, s.time.servo = .bridge → s.time.now - s.time.bridgeAt ≥ msX → ∃ t, exec .bridgeTimeout s = .next t ∧
     t.time.servo = .freerun ∧ t.time.htx = s.time.htx ∧ t.time.cls = 0 ∧ t.time.depthUse = 0 ∧
     t.ref.sel = ⟨none, none⟩ ∧ OnlyEvents [Reg.HT_STATUS] { s with time := t.time, ref := t.ref } t)) ∧
  (∀ (s : State) (p : Nat), s.time.discard.get s.ref.active ≥ 16 → s.ref.sel.get s.ref.active = some p →
     s.isRoot = false → s.time.servo = .locked →
     (∀ q, q ≠ p → s.candidate s.ref.active q = false) → s.ref.sel.get s.ref.active.other = none →
     ∃ t, exec (.domainInputLost s.ref.active) s = .next t ∧ t.time.servo = .bridge ∧ t.time.bridgeAt = s.time.now ∧
       t.flag Fld.HT_STATUS_DISCARD_RUN = true ∧ t.flag Fld.HT_STATUS_BRIDGE_SEEN = true ∧
       t.ref.sel.get s.ref.active = none ∧ (t.portTime s.ref.active p).errs = [] ∧ t.time.htx = s.time.htx ∧
       OnlyEvents [Reg.HT_STATUS, Reg.REF_STATUS] { s with time := t.time, ref := t.ref } t)

/-- A heartbeat of the active domain (R21, R30, R72, R495) at a LOCKED unit other than a root, whose selected input has been
heard, is a candidate, and is not to be changed, with no bandwidth or delay table to change: the loop takes the error less
the bias, updates acc and commands y by the arithmetic of R495 within ±100 ppm, records the error and retires one unit of
the bias; a heartbeat whose errors were all discarded updates nothing of the loop and is counted. -/
def Obligations.DpllHeartbeatDrivesActiveDomain : Prop :=
  ∀ (s : State) (d : Dom) (p : Nat),
    s.awake = true → s.isRoot = false → s.coreHeld 1 = false → s.time.servo = .locked →
    s.ref.active = d → s.ref.sel.get d = some p → (s.portTime d p).heard = true → s.candidate d p = true →
    s.flag Fld.REF_CTRL_FORCE_EN = false →
    s.tdc.shadow = [] → s.fld Fld.REF_BW_FINAL ≤ s.ref.bwCur → min (s.fld Fld.REF_BW_ROOT_FINAL) 3 ≤ s.ref.bwRoot →
    (∀ e, (s.portTime d p).fresh = some (some e) → ∃ t, exec (.dpllHeartbeatUpdate d) s = .next t ∧
      t.time.acc.get d = loopAcc s.ref.bwCur beatT (s.time.acc.get d) (e - s.ref.bias) ∧
      t.time.yTo = max (-1759218604) (min 1759218604 (loopY s.ref.bwCur (t.time.acc.get d) (e - s.ref.bias))) ∧
      t.time.phaseErr = e ∧ t.time.discard.get d = 0 ∧ t.ref.bias = retire s.ref.bias ∧
      t.time.acc.get d.other = s.time.acc.get d.other ∧ t.time.htx = s.time.htx ∧ t.time.servo = .locked ∧
      t = { s with time := t.time, ref := t.ref }) ∧
    ((s.portTime d p).fresh = some none → ∃ t, exec (.dpllHeartbeatUpdate d) s = .next t ∧
      t = { s with
        time := { s.time with discard := s.time.discard.set d (s.time.discard.get d + 1), run50 := 0 }, ref := t.ref } ∧
      t.ref.bias = s.ref.bias ∧ t.ref.bwCur = s.ref.bwCur ∧ t.ref.sel = s.ref.sel)

/-! ### Vernier stamps and link delay (R36 to R63) -/

/-- An event of a kind that its channel takes (R36, R37, R39, R42, R45, R47 to R49): on a channel that the unit has, that is
powered, and that is not a disabled or disarmed reference, its record, the raw stamp with FINE_INVALID while RING_LOCK is 0,
joins TDC_FIFO, or is counted in OVERFLOW when 4,096 are held, and the channel's dead time of 160 ns begins; in dead time
the event is counted in MISSED alone; the crystal channel of a code-density run is binned instead. Any other event leaves
the unit as it was. A channel whose timeout of 2^TIMEOUT_EXP cycles has expired (R44, R52): a reference channel records
TIMEOUT, whose stamp is free (log entry 18), and waits again; a lane on which a DELAY_RESP has not come records TIMEOUT, and
the round trip that awaited it is dropped. The rings (R38, R48): a fall of RING_LOCK raises LOCK_FELL, and the records under
conversion become FINE_INVALID; loops that hold set it again. -/
def Obligations.StampsJoinFifoAndTimeoutsShow : Prop :=
  (∀ (s : State) (ch kind delta : Nat),
     (s.kindOk ch kind = false ∨ s.armedCh ch = false → exec (.tdcStamp ch kind delta) s = .next s) ∧
     (s.kindOk ch kind = true → s.armedCh ch = true →
       (s.time.now < s.tdc.deadTill.get ch 0 → exec (.tdcStamp ch kind delta) s =
         .next (s.addCount Fld.TDC_STATUS_MISSED 1)) ∧
       (s.tdc.deadTill.get ch 0 ≤ s.time.now → (ch ≠ 324 ∨ s.tdc.cdRun = none) →
         ∃ t, exec (.tdcStamp ch kind delta) s = .next t ∧
         t.tdc.deadTill.get ch 0 = s.time.now + 160 * 2 ^ 48 ∧
         (s.tdc.fifo.length < 4096 → t = { s with tdc := t.tdc } ∧ t.tdc.fifo = s.tdc.fifo ++
           [fifoRec ((s.tdc.coarse % 2 ^ 40) * 256 + (256 - max 1 (min 256 ((delta + 255) / 256))) % 256) ch kind
             (if s.tdc.ringLock then 0 else 1)]) ∧
         (s.tdc.fifo.length ≥ 4096 → t.tdc.fifo = s.tdc.fifo ∧ t.fld Fld.TDC_FIFO_STATUS_OVERFLOW =
           min (s.fld Fld.TDC_FIFO_STATUS_OVERFLOW + 1) (2 ^ Fld.TDC_FIFO_STATUS_OVERFLOW.w - 1) ∧
           OnlyRegs [Reg.TDC_FIFO_STATUS] { s with tdc := t.tdc } t)) ∧
       (s.tdc.deadTill.get ch 0 ≤ s.time.now → ch = 324 → ∀ n, s.tdc.cdRun = some (n + 1) →
         ∃ t, exec (.tdcStamp ch kind delta) s = .next t ∧ t = { s with tdc := t.tdc } ∧ t.tdc.cdRun = some n ∧
           t.tdc.fifo = s.tdc.fifo))) ∧
  ((∀ (s : State) (ch : Nat), refChannel ch = true → s.tdc.waitFrom.has ch = true →
     s.tdc.coarse - s.tdc.waitFrom.get ch 0 ≥ 2 ^ s.fld Fld.TDC_CTRL_TIMEOUT_EXP → s.tdc.fifo.length < 4096 →
     exec (.tdcTimeout ch) s = .next { s with
       free := s.free + 1,
       tdc := { s.tdc with
         waitFrom := s.tdc.waitFrom.set ch s.tdc.coarse,
         fifo := s.tdc.fifo ++ [fifoRec (Config.timeoutStamp s.free) ch 3 2] } }) ∧
   (∀ (s : State) (ch : Nat) (x : Trip), refChannel ch = false → s.lostTrip ch = some x → s.tdc.fifo.length < 4096 →
     exec (.tdcTimeout ch) s = .next { s with
       free := s.free + 1,
       tdc := { s.tdc with
         trips := s.tdc.trips.erase x,
         fifo := s.tdc.fifo ++ [fifoRec (Config.timeoutStamp s.free) ch 2 2] } }) ∧
   (∀ s : State, s.tdc.ringLock = true → ∃ t, exec .tdcLockFell s = .next t ∧ t.flag Fld.TDC_STATUS_LOCK_FELL = true ∧
     OnlyEvents [Reg.TDC_STATUS] { s with tdc := { s.tdc with
       ringLock := false, fifo := s.tdc.fifo.map fun r => if s.converting r then fineInvalid r else r } } t) ∧
   (∀ s : State, exec .ringLockRegain s = .next { s with tdc := { s.tdc with ringLock := true } }))

/-- Reads of TDC_FIFO and the anchor slots (R41, R45, R63): the oldest record is popped and 0 is read from an empty FIFO; a read
of an anchor's count latches the same slot's NS and FRAC for the reading path alone; a path that does not reach the register
reads 0; a read of another size or alignment, or on a path that carries none, fails without effect (R487, R489). Calibration
runs (R49, R50): CD_START clears the histogram and starts a run of 2^CD_LOG2 codes, also while one is under way; LB_START
runs LB_LANE in loopback for 4,096 markers on each of its two channels; when a run has its count, CD_DONE or LB_DONE is set,
and a loopback's lane carries time again. -/
def Obligations.FifoPopsAndCalibrationRuns : Prop :=
  (OtherReadsFail .tdcFifoRead ∧ (∀ k, k < 4 → OtherReadsFail (.tdcAnchorRead k)) ∧
   (∀ (s : State) (v : ReadVia) (p : Path), s.Carries v → v.path = p →
     (s.reach p Reg.TDC_FIFO = true → exec (.tdcFifoRead v) s = .next { s with
       tdc := { s.tdc with fifo := s.tdc.fifo.tail }, out := s.out ++ [.readData p (s.tdc.fifo.headD 0)] }) ∧
     (s.reach p Reg.TDC_FIFO = false → exec (.tdcFifoRead v) s = .next { s with out := s.out ++ [.readData p 0] })) ∧
   (∀ (s : State) (k : Nat) (v : ReadVia) (p : Path), k < 4 → s.Carries v → v.path = p →
     (s.reach p (Reg.TDC_ANCHOR_CNT + 8 * k) = true → ∃ t, exec (.tdcAnchorRead k v) s = .next t ∧
       t = { s with tdc := { s.tdc with anchorLatch := t.tdc.anchorLatch },
                    out := s.out ++ [.readData p (BitVec.ofNat 64 ((anchorAt s k).cnt % 2 ^ 40))] } ∧
       anchorSeen t p k = ((anchorAt s k).ns, (anchorAt s k).frac) ∧
       (∀ j, j ≠ k → anchorSeen t p j = anchorSeen s p j) ∧
       ∀ q, q ≠ p → t.tdc.anchorLatch.get q = s.tdc.anchorLatch.get q) ∧
     (s.reach p (Reg.TDC_ANCHOR_CNT + 8 * k) = false →
       exec (.tdcAnchorRead k v) s = .next { s with out := s.out ++ [.readData p 0] }))) ∧
  ((∀ (s : State) (v : W), s.present Reg.TDC_CAL_CTRL = true → v.getLsbD 6 = false →
     ∃ t, exec (.cdStart v) s = .next t ∧
       t.tdc = { s.tdc with cdRun := some (2 ^ (v.toNat / 2 % 32)), hist := [] } ∧
       OnlyRegs [Reg.TDC_CAL_CTRL] { s with tdc := t.tdc } t) ∧
   (∀ s : State, s.tdc.cdRun = some 0 → ∃ t, exec .cdDone s = .next t ∧ t.flag Fld.TDC_CAL_STATUS_CD_DONE = true ∧
     t.tdc.cdRun = none ∧ t.tdc.hist = s.tdc.hist ∧ OnlyRegs [Reg.TDC_CAL_STATUS] { s with tdc := t.tdc } t) ∧
   (∀ (s : State) (v : W), s.present Reg.TDC_CAL_CTRL = true → s.tdc.lbLane = none → v.getLsbD 0 = false →
     v.toNat / 65536 % 256 < s.nLanes → ∃ t, exec (.lbStart v) s = .next t ∧
       t.tdc = { s.tdc with lbLane := some (v.toNat / 65536 % 256), lbLeft := 4096, lbTxLeft := 4096 } ∧
       OnlyEvents [Reg.TDC_CAL_CTRL, Reg.HT_STATUS]
         { s with tdc := t.tdc, time := { s.time with cls := t.time.cls } } t) ∧
   (∀ (s : State) (l : Nat), s.tdc.lbLane = some l → s.tdc.lbLeft = 0 → s.tdc.lbTxLeft = 0 →
     ∃ t, exec .lbDone s = .next t ∧ t.flag Fld.TDC_CAL_STATUS_LB_DONE = true ∧
     OnlyEvents [Reg.TDC_CAL_STATUS, Reg.HT_STATUS]
       { s with tdc := { s.tdc with lbLane := none }, time := { s.time with cls := t.time.cls } } t))

/-- A round trip (R44, R45, R51, R52, R211, R214, R496): when it is due, DELAY_REQ leaves with the port's next number, and its
departure is recorded and kept; its receiver records the arrival and owes an answer on the same lane, or on the lanes in
turn for a lane swap; at least 128 ns later, when a port may send, the answer leaves and is recorded, with its residence
queued for the next heartbeat; the answer's arrival is recorded and closes a trip whose residence is known, and rt = (t4 -
t1) - residence joins the lane's batch; a trip whose residence has not come within 16 heartbeats is dropped. A batch of 256
round trips on one lane (R53, R59, R60, R496): means that differ by more than 16 ps raise RT_MISMATCH and keep the entry;
otherwise, on a port without lane swap, the mean of both gives the delay, which an uncalibrated lane takes at once and a
calibrated one through the shadow table. An entry older than 10,000 ms turns stale (R61). -/
def Obligations.RoundTripsCommitAsBatches : Prop :=
  ((∀ (s : State) (p l : Nat) (t1 : BitVec 48) (t0 : Int), s.reqDue p l = true →
     s.stampHtFine t1 = some t0 → ∃ t, exec (.delayReqSend p l t1) s = .next t ∧
       (∃ u, u = (s.tdcTake (txChannel p) 1 t1.toNat).dlSent p ∧ t = { u with
         tdc := { u.tdc with reqSeq := t.tdc.reqSeq, reqAt := t.tdc.reqAt, trips := t.tdc.trips },
         out := u.out ++ [.oset p (.delayReq l (s.tdc.reqSeq.get p 0) s.senderWord)] }) ∧
       t.tdc.reqSeq.get p 0 = (s.tdc.reqSeq.get p 0 + 1) % 65536 ∧
       ∃ x, t.tdc.trips = s.tdc.trips ++ [x] ∧ x.port = p ∧ x.reqLane = l ∧ x.t1 = t0 ∧
         x.seq = s.tdc.reqSeq.get p 0 ∧ x.t4 = none ∧ x.resid = none ∧ x.waitFrom = some s.tdc.coarse) ∧
   (∀ (s : State) (p l q who : Nat) (t2 : BitVec 48) (t0 : Int), s.rtLane p l = true → s.stamps (laneOf p l) = true →
     s.stampHtFine t2 = some t0 → ∃ t, exec (.delayReqRx p l q who t2) s = .next t ∧
       (∃ u, u = s.tdcTake (laneOf p l) 1 t2.toNat ∧
         t = { u with tdc := { u.tdc with rspTurn := t.tdc.rspTurn, rspDue := t.tdc.rspDue } }) ∧
       ∃ r, t.tdc.rspDue = s.tdc.rspDue ++ [r] ∧ r.port = p ∧ r.reqLane = l ∧ r.seq = q ∧ r.t2 = t0 ∧
         r.since = s.time.now ∧ r.rspLane = (if s.asymSrc p = 2 then s.tdc.rspTurn.get p 0 else l)) ∧
   (∀ (s : State) (p : Nat) (r : RespDue) (rest : List RespDue) (t3 : BitVec 48) (t0 : Int),
     s.tdc.rspDue = r :: rest → r.port = p → s.rtLane p r.rspLane = true → s.dlDue p = true →
     s.stamps (txChannel p) = true → s.time.now - r.since ≥ 128 * nsX → s.stampHtFine t3 = some t0 →
     ∃ t, exec (.delayRespSend p t3) s = .next t ∧
       (∃ u, u = (s.tdcTake (txChannel p) 2 t3.toNat).dlSent p ∧ t = { u with
         tdc := { u.tdc with rspDue := rest, resQ := t.tdc.resQ },
         out := u.out ++ [.oset p (.delayResp r.rspLane r.seq s.senderWord)] }) ∧
       ∃ x, t.tdc.resQ.get p [] = s.tdc.resQ.get p [] ++ [x] ∧ x.valid = true ∧ x.seq = r.seq ∧
         x.reqLane = r.reqLane ∧ x.rspLane = r.rspLane ∧ x.residence = t0 - r.t2) ∧
   (∀ (s : State) (p l : Nat) (x : Trip) (res t0 : Int) (t4 : BitVec 48), s.rtLane p l = true →
     s.stamps (laneOf p l) = true → s.tdc.trips = [x] → x.port = p → x.t4 = none → x.resid = some res →
     s.stampHtFine t4 = some t0 → (s.delayEnt (laneOf p l)).batch < 256 →
     ∃ t, exec (.delayRespRx p l x.seq t4) s = .next t ∧
       (∃ u, u = s.tdcTake (laneOf p l) 2 t4.toNat ∧ t = { u with
         tdc := { u.tdc with trips := [], firstRt := t.tdc.firstRt, delays := t.tdc.delays } }) ∧
       t.delayEnt (laneOf p l) = { s.delayEnt (laneOf p l) with
         batch := (s.delayEnt (laneOf p l)).batch + 1, sum := (s.delayEnt (laneOf p l)).sum + ((t0 - x.t1) - res) }) ∧
   (∀ (s : State) (p l : Nat), ∃ t, exec (.roundTripDrop p l) s = .next t ∧
     t = { s with tdc := { s.tdc with trips := t.tdc.trips } } ∧
     ∀ x, x ∈ t.tdc.trips ↔ x ∈ s.tdc.trips ∧
       ¬ (x.port = p ∧ x.rspLane = l ∧ x.waitFrom = none ∧ x.resid = none ∧ x.hbs ≥ 16))) ∧
  ((∀ (s : State) (p l : Nat), p < s.nPorts → l < 4 → (s.delayEnt (laneOf p l)).batch = 256 →
     s.tdc.peerMean.has (laneOf p l) = true → s.rtKnown p l = true → ∃ t, exec (.batchComplete p l l) s = .next t ∧
     (t.delayEnt (laneOf p l)).batch = 0 ∧ t.time.htx = s.time.htx ∧
     t.tdc.rtMean.get (laneOf p l) 0 = Fl.rneDivInt (s.delayEnt (laneOf p l)).sum 256 ∧
     ((t.tdc.rtMean.get (laneOf p l) 0 - s.tdc.peerMean.get (laneOf p l) 0).natAbs > 1048 →
       t.flag Fld.TDC_STATUS_RT_MISMATCH = true ∧ t.tdc.shadow = s.tdc.shadow ∧
       (t.delayEnt (laneOf p l)).delay = (s.delayEnt (laneOf p l)).delay ∧
       OnlyEvents [Reg.TDC_STATUS] { s with tdc := t.tdc } t) ∧
     ((t.tdc.rtMean.get (laneOf p l) 0 - s.tdc.peerMean.get (laneOf p l) 0).natAbs ≤ 1048 → s.asymSrc p ≠ 2 →
       (s.delayEnt (laneOf p l)).state ≠ 0 → t = { s with tdc := t.tdc } ∧
       (t.delayEnt (laneOf p l)).delay = (s.delayEnt (laneOf p l)).delay ∧
       t.tdc.shadow.get (laneOf p l) 0 = (Fl.rneDivInt
         (t.tdc.rtMean.get (laneOf p l) 0 + s.tdc.peerMean.get (laneOf p l) 0) 2).tdiv 2 + s.aLane p l) ∧
     ((t.tdc.rtMean.get (laneOf p l) 0 - s.tdc.peerMean.get (laneOf p l) 0).natAbs ≤ 1048 → s.asymSrc p ≠ 2 →
       (s.delayEnt (laneOf p l)).state = 0 → (t.delayEnt (laneOf p l)).state = 1 ∧
       (t.delayEnt (laneOf p l)).delay = (Fl.rneDivInt
         (t.tdc.rtMean.get (laneOf p l) 0 + s.tdc.peerMean.get (laneOf p l) 0) 2).tdiv 2 + s.aLane p l ∧
       OnlyEvents [Reg.HT_STATUS] { s with time := { s.time with cls := t.time.cls }, tdc := t.tdc } t)) ∧
   (∀ (s : State) (l t0 : Nat), (s.delayEnt l).commitAt = some t0 → (s.delayEnt l).state = 1 →
     (s.time.now - t0) / msX > 10000 → ∃ t, exec (.delayEntryStale l) s = .next t ∧
     t.delayEnt l = { s.delayEnt l with state := 2 } ∧
     OnlyEvents [Reg.HT_STATUS] { s with time := { s.time with cls := t.time.cls }, tdc := t.tdc } t))

/-- The lane swap (R57): START on a port that the unit has begins step 1; steps follow in order, an averaging step only with its
4,096 heartbeats; step 3 retrains lane 0 swapped and step 5 in normal orientation, each without its old entry; the last step
writes a0 = (e_n - e_s) / 2 to TDC_PORT_ASYM and sets DONE; a step that fails, and 200 ms in all, set FAILED, change no
asymmetry and leave lane 0 in normal orientation. -/
def Obligations.LaneSwapMeasuresAsymmetry : Prop :=
  (∀ (s : State) (v : W), s.present Reg.TDC_SWAP_CTRL = true → s.tdc.swap.step = 0 → v.toNat % 64 < s.nPorts →
    ∃ t, exec (.laneSwapStart v) s = .next t ∧
      t.tdc = { s.tdc with swap := {
        port := v.toNat % 64, step := 1, startAt := s.time.now,
        rt00 := s.tdc.rtAcc.get (laneOf (v.toNat % 64) 0) 0 } } ∧
      OnlyEvents [Reg.TDC_SWAP_CTRL, Reg.HT_STATUS]
        { s with time := { s.time with cls := t.time.cls }, tdc := t.tdc } t) ∧
  (∀ s : State, s.tdc.swap.port < 64 →
    (s.tdc.swap.step = 1 → exec (.laneSwapStepEnd true) s =
      .next { s with tdc := { s.tdc with swap := { s.tdc.swap with step := 2 } } }) ∧
    (s.tdc.swap.step = 2 → s.tdc.swap.cntN ≥ 4096 → ∃ t, exec (.laneSwapStepEnd true) s = .next t ∧
      t.tdc.swap = { s.tdc.swap with step := 3 } ∧ (t.port s.tdc.swap.port).lane0Swap = true ∧
      0 ∈ (t.port s.tdc.swap.port).retrainLanes ∧ (t.delayEnt (laneOf s.tdc.swap.port 0)).state = 0 ∧
      OnlyEvents [Reg.HT_STATUS] { s with
        time := { s.time with cls := t.time.cls }, tdc := t.tdc, fab := { s.fab with ports := t.fab.ports } } t) ∧
    (s.tdc.swap.step = 3 → ∃ t, exec (.laneSwapStepEnd true) s = .next t ∧
      t = { s with
        tdc := { s.tdc with swap := { s.tdc.swap with step := 4 } }, fab := { s.fab with ports := t.fab.ports } } ∧
      0 ∉ (t.port s.tdc.swap.port).retrainLanes) ∧
    (s.tdc.swap.step = 4 → s.tdc.swap.cntS ≥ 4096 → ∃ t, exec (.laneSwapStepEnd true) s = .next t ∧
      t.tdc.swap = { s.tdc.swap with step := 5 } ∧ (t.port s.tdc.swap.port).lane0Swap = false ∧
      0 ∈ (t.port s.tdc.swap.port).retrainLanes ∧ (t.delayEnt (laneOf s.tdc.swap.port 0)).state = 0 ∧
      OnlyEvents [Reg.HT_STATUS] { s with
        time := { s.time with cls := t.time.cls }, tdc := t.tdc, fab := { s.fab with ports := t.fab.ports } } t) ∧
    (s.tdc.swap.step = 5 → ∃ t, exec (.laneSwapStepEnd true) s = .next t ∧ t.tdc.swap.step = 0 ∧
      t.reg (Reg.TDC_PORT_ASYM + 8 * s.tdc.swap.port) = BitVec.ofNat 64 (satBits 32
        ((Fl.rneDivInt s.tdc.swap.sumN s.tdc.swap.cntN - Fl.rneDivInt s.tdc.swap.sumS s.tdc.swap.cntS).tdiv 2)) ∧
      t.flag Fld.TDC_SWAP_STATUS_DONE = true ∧
      OnlyEvents [Reg.TDC_SWAP_STATUS, Reg.TDC_PORT_ASYM + 8 * s.tdc.swap.port, Reg.HT_STATUS] { s with
        time := { s.time with cls := t.time.cls }, tdc := t.tdc, fab := { s.fab with ports := t.fab.ports } } t) ∧
    (1 ≤ s.tdc.swap.step → ∃ t, exec (.laneSwapStepEnd false) s = .next t ∧
      t.tdc.swap = {} ∧ t.flag Fld.TDC_SWAP_STATUS_FAILED = true ∧
      (t.port s.tdc.swap.port).lane0Swap = false ∧
      OnlyEvents [Reg.TDC_SWAP_STATUS, Reg.HT_STATUS, Reg.XF_STATUS, (Fld.XF_PORT_ERR_HOLES.at s.tdc.swap.port).reg] { s with
        time := { s.time with cls := t.time.cls }, tdc := t.tdc, fab := { s.fab with ports := t.fab.ports } } t) ∧
    (1 ≤ s.tdc.swap.step → s.time.now - s.tdc.swap.startAt > 200 * msX → ∃ t, exec .laneSwapTimeout s = .next t ∧
      t.tdc.swap = {} ∧ t.flag Fld.TDC_SWAP_STATUS_FAILED = true ∧ (t.port s.tdc.swap.port).lane0Swap = false ∧
      OnlyEvents [Reg.TDC_SWAP_STATUS, Reg.HT_STATUS, Reg.XF_STATUS, (Fld.XF_PORT_ERR_HOLES.at s.tdc.swap.port).reg] { s with
        time := { s.time with cls := t.time.cls }, tdc := t.tdc, fab := { s.fab with ports := t.fab.ports } } t))

/-! ### References, tandem domains and holdover (R64 to R96) -/

/-- When a candidate has waited to restore for WTR seconds, and no better one falls due with it, it takes its place (R70, R71,
R72): as the selected input of its domain, where the difference of the two means joins the bias of the steering domain; as
the active domain; or as a root's reference. SWITCHED is raised, and HT does not move. Narrowing (R76, R78): once the error
has stayed within ±50 ps for the time that the code asks for, a loop goes one code narrower and its run starts again, a
root's in HOLDOVER too; at its final code, and in BRIDGE, it does not narrow. -/
def Obligations.CandidatesAreSelectedAndNarrowed : Prop :=
  ((∀ (s : State) (d : Dom) (p q : Nat), s.isRoot = false → s.wtrDue (.input d p) = true →
     (∀ w, w ∈ s.ref.wtr → s.wtrDue w.sel = true → s.wtrBeats w.sel (.input d p) = false) →
     s.ref.sel.get d = some q → s.ref.split = false →
     ∃ t, exec (.wtrExpiry (.input d p)) s = .next t ∧ t.ref.sel.get d = some p ∧
       t.ref.sel.get d.other = s.ref.sel.get d.other ∧ t.ref.active = s.ref.active ∧
       t.ref.bias = (if d = s.ref.active then
         s.ref.bias + ((s.portTime d p).meanErr - (s.portTime d q).meanErr) else s.ref.bias) ∧
       t.flag Fld.REF_STATUS_SWITCHED = true ∧ OnlyEvents [Reg.REF_STATUS, Reg.HT_STATUS]
         { s with ref := t.ref, time := { s.time with cls := t.time.cls } } t) ∧
   (∀ (s : State) (d : Dom), s.isRoot = false → s.wtrDue (.domain d) = true →
     ∃ t, exec (.wtrExpiry (.domain d)) s = .next t ∧ t.ref.active = d ∧ t.ref.sel = s.ref.sel ∧
       t.flag Fld.REF_STATUS_SWITCHED = true ∧ OnlyEvents [Reg.REF_STATUS, Reg.HT_STATUS]
         { s with ref := t.ref, time := { s.time with cls := t.time.cls } } t) ∧
   (∀ (s : State) (n : Nat), s.isRoot = true → s.wtrDue (.ref n) = true →
     (∀ w, w ∈ s.ref.wtr → s.wtrDue w.sel = true → s.wtrBeats w.sel (.ref n) = false) →
     ∃ t, exec (.wtrExpiry (.ref n)) s = .next t ∧ t.ref.selRef = some n ∧ t.ref.sel = s.ref.sel ∧
       t.time.htx = s.time.htx ∧ t.flag Fld.REF_STATUS_SWITCHED = true ∧
       OnlyEvents [Reg.REF_STATUS, Reg.HT_STATUS] { s with ref := t.ref, time := t.time } t)) ∧
  ((∀ s : State, s.ref.bwCur > s.fld Fld.REF_BW_FINAL → s.ref.bwRun ≥ narrowBeats s.ref.bwCur →
     s.time.servo = .acquire ∨ s.time.servo = .locked ∨ s.time.servo = .holdover → exec (.dpllNarrow .domain) s =
       .next { s with ref := { s.ref with bwCur := s.ref.bwCur - 1, bwRun := 0 } }) ∧
   (∀ s : State, s.ref.bwCur ≤ s.fld Fld.REF_BW_FINAL ∨ s.time.servo = .bridge → exec (.dpllNarrow .domain) s = .next s) ∧
   (∀ s : State, s.isRoot = true → s.ref.bwRoot > s.fld Fld.REF_BW_ROOT_FINAL →
     s.ref.bwRootRun ≥ rootNarrowNs s.ref.bwRoot → exec (.dpllNarrow .reference) s =
       .next { s with ref := { s.ref with bwRoot := s.ref.bwRoot - 1, bwRootRun := 0 } }) ∧
   (∀ s : State, s.ref.bwRoot ≤ s.fld Fld.REF_BW_ROOT_FINAL → exec (.dpllNarrow .reference) s = .next s))

/-- External references of a root spire (R45, R80, R81): a stamped edge is recorded; a first edge since an input was enabled
begins the count towards sixteen; one more than 100 ns off its prediction, periods apart being the same, is invalid and
breaks the count, and does not steer; three grid instants without a valid edge lose the input, raise REF_LOST, and a leading
root in LOCKED with no other source enters HOLDOVER without moving HT (R22). The tandem of the two roots (R83, R85, R86,
R88): a leader whose source has been clearly worse for WTR seconds clears LEADER with ROLE_CHANGE; a split follower joins
after 1,024 heartbeats within ±25 ps; 240 minutes of lock set QUALIFIED; and a root that reaches LOCKED with LEADER_INIT
leads. -/
def Obligations.ReferencesQualifyAndRootsFollow : Prop :=
  ((∀ (s : State) (n : Nat) (stamp : BitVec 48) (t0 : Int), n < 4 → s.refUse n = true → s.stamps (320 + n) = true →
     s.stampHt stamp = some t0 → s.ref.refs = [] → s.ref.selRef = none → s.time.servo = .freerun →
     ∃ t, exec (.refEdge n stamp) s = .next t ∧ (∃ u, u = s.tdcTake (320 + n) 3 stamp.toNat ∧ t = { u with ref := t.ref }) ∧
       (t.refIn n).run = 1 ∧ (t.refIn n).state = 1 ∧ (t.refIn n).err = edgeErr (s.refP n) (t0 - s.refDelay n) ∧
       (t.refIn n).lastHt = some t0 ∧ t.ref.selRef = none) ∧
   (∀ (s : State) (n : Nat) (stamp : BitVec 48) (t0 : Int) (r : RefIn), n < 4 → s.refUse n = true →
     s.stamps (320 + n) = true → s.stampHt stamp = some t0 → s.ref.refs = [(n, r)] → s.ref.rootOff = 0 →
     r.applied = 0 → r.lastHt ≠ none →
     (edgeErr (s.refP n) (edgeErr (s.refP n) (t0 - s.refDelay n) - r.err)).natAbs > 6553600 →
     ∃ t, exec (.refEdge n stamp) s = .next t ∧ (∃ u, u = s.tdcTake (320 + n) 3 stamp.toNat ∧
         t = { u with ref := { s.ref with refs := [(n, { r with run := 0 })], rootOffAt := t0 } })) ∧
   (∀ (s : State) (n : Nat) (stamp : BitVec 48), n < 4 → s.refUse n = false →
     exec (.refEdge n stamp) s = .next (s.tdcTake (320 + n) 3 stamp.toNat)) ∧
   (∀ (s : State) (n : Nat) (t0 : Int), n < 4 → s.refUse n = true → ((s.refIn n).state = 1 ∨ (s.refIn n).state = 2) →
     (s.refIn n).lastHt = some t0 → s.ref.selRef = some n → s.time.servo = .locked →
     s.ref.leader = true → (∀ m, m ≠ n → s.refQualified m = false) →
     (s.ht : Int) - s.refDelay n ≥
       (Fl.rneDivInt (t0 - s.refDelay n) (s.refP n) + 3) * s.refP n + (s.refP n : Int) / 2 →
     ∃ t, exec (.refLoss n) s = .next t ∧ (t.refIn n).state = 3 ∧ (t.refIn n).run = 0 ∧ t.ref.selRef = none ∧
       t.time.servo = .holdover ∧ t.time.htx = s.time.htx ∧ t.flag Fld.REF_STATUS_REF_LOST = true ∧
       t.ref.holdQual = s.ref.qualified ∧
       OnlyEvents [Reg.REF_STATUS, Reg.HT_STATUS] { s with ref := t.ref, time := t.time } t)) ∧
  ((∀ (s : State) (t0 : Nat), s.ref.worseAt = some t0 → s.clearlyWorse = true → s.time.now - t0 ≥ s.wtrTime →
     ∃ t, exec .leaderYield s = .next t ∧ t.ref.leader = false ∧ t.ref.worseAt = none ∧
       t.flag Fld.REF_STATUS_ROLE_CHANGE = true ∧ t.time.htx = s.time.htx ∧
       OnlyEvents [Reg.REF_STATUS, Reg.HT_STATUS] { s with ref := t.ref, time := t.time } t) ∧
   (∀ s : State, s.ref.split = true → s.following = true → s.ref.splitRun ≥ 1024 → exec .tandemJoin s =
     .next { s with ref := { s.ref with split := false, splitRun := 0, splitDpll := false } }) ∧
   (∀ s : State, s.isRoot = true → s.lockMinutes ≥ 240 →
     exec .holdoverQualify s = .next { s with ref := { s.ref with qualified := true } }) ∧
   (∀ s : State, s.isRoot = true → s.time.servo = .acquire → s.time.run50 ≥ 4096 →
     (s.preg Reg.REF_ROOT_CFG).getLsbD 1 = true → s.ref.leader = false → s.ref.selRef ≠ none →
     ∃ t, exec .servoLock s = .next t ∧ t.time.servo = .locked ∧ t.ref.leader = true ∧ t.clk.aligned = true ∧
       t.time.htx = s.time.htx ∧ t.flag Fld.REF_STATUS_ROLE_CHANGE = true ∧
       OnlyEvents [Reg.REF_STATUS, Reg.HT_STATUS] { s with ref := t.ref, time := t.time, clk := t.clk, free := t.free } t))

/-- UTC at a root spire whose PTP client runs (R92, R93): of a message in its domain and on its transport, the second Announce
of the one clock heard makes it the master (the choice among clocks is that of IEEE 1588, log entry 17), a one-step Sync of
the master keeps the master's time with the local time of its arrival, a two-step one the local time until its Follow_Up
brings the master's, a Delay_Req its departure, and the Delay_Resp that answers it completes a sample; every 16 Sync
intervals the median of the last 16 samples is written to REF_UTC_OFFSET_NS and REF_UTC_OFFSET_FRAC. Messages of another
domain or transport are ignored. HT and the cadence are unchanged (R16). -/
def Obligations.PtpMedianReachesUtcOffset : Prop :=
  (∀ (s : State) (h : PtpHdr), s.isRoot = true → s.flag Fld.REF_PTP_CFG_EN = true →
    h.domain = s.fld Fld.REF_PTP_CFG_DOMAIN_NUM → h.ieee = s.flag Fld.REF_PTP_CFG_TRANSPORT →
    (∀ c : PtpClock, (s.ref.ptp.foreign = [] → ∃ t, exec (.ptpMessageRx ⟨h, .announce c⟩) s = .next t ∧
        t.ref.ptp.foreign = [⟨h.src, c, s.time.now, none⟩] ∧ t.ref.ptp.master = none ∧
        t = { s with ref := { s.ref with ptp := t.ref.ptp } }) ∧
      (∀ x : PtpForeign, s.ref.ptp.foreign = [x] → x.src = h.src → s.time.now ≤ x.heardAt + announceWindow c → c.steps < 255 →
        ∃ t, exec (.ptpMessageRx ⟨h, .announce c⟩) s = .next t ∧ t.ref.ptp.master = some h.src ∧
          t.ref.ptp.utcOff = c.utcOffset ∧ t.ref.ptp.samples = s.ref.ptp.samples ∧
          t = { s with ref := { s.ref with ptp := t.ref.ptp } })) ∧
    (∀ ts : Int, s.ref.ptp.master = some h.src →
      exec (.ptpMessageRx ⟨h, .sync ts false⟩) s = .next { s with ref := { s.ref with ptp := { s.ref.ptp with
        t1 := some ts, t2 := (s.ht : Int), twoStep := none, syncs := s.ref.ptp.syncs + 1 } } } ∧
      exec (.ptpMessageRx ⟨h, .sync ts true⟩) s = .next { s with ref := { s.ref with ptp := { s.ref.ptp with
        twoStep := some (h.seq, (s.ht : Int)), syncs := s.ref.ptp.syncs + 1 } } }) ∧
    (∀ ts t2 : Int, s.ref.ptp.master = some h.src → s.ref.ptp.twoStep = some (h.seq, t2) →
      exec (.ptpMessageRx ⟨h, .followUp ts⟩) s = .next { s with ref := { s.ref with ptp := { s.ref.ptp with
        t1 := some ts, t2 := t2, twoStep := none } } }) ∧
    (exec (.ptpMessageRx ⟨h, .delayReqSent⟩) s = .next { s with ref := { s.ref with ptp := { s.ref.ptp with
      t3 := some (s.ht : Int), reqSeq := h.seq } } }) ∧
    (∀ ts t1 t3 : Int, s.ref.ptp.master = some h.src → s.ref.ptp.t1 = some t1 → s.ref.ptp.t3 = some t3 →
      s.ref.ptp.reqSeq = h.seq → ∃ t, exec (.ptpMessageRx ⟨h, .delayResp ts⟩) s = .next t ∧
        t = { s with ref := { s.ref with ptp := t.ref.ptp } } ∧ t.ref.ptp.state = 3 ∧ t.ref.ptp.t3 = none ∧
        t.ref.ptp.samples = (-(((s.ref.ptp.t2 - t1 * 65536) - (ts * 65536 - t3)) / 2) -
          s.ref.ptp.utcOff * 1000000000 * 65536) :: s.ref.ptp.samples.take 15)) ∧
  (∀ (s : State) (m : PtpMsg), m.hdr.domain ≠ s.fld Fld.REF_PTP_CFG_DOMAIN_NUM ∨
    m.hdr.ieee ≠ s.flag Fld.REF_PTP_CFG_TRANSPORT → exec (.ptpMessageRx m) s = .next s) ∧
  (∀ s : State, s.isRoot = true → s.flag Fld.REF_PTP_CFG_EN = true → s.ref.ptp.syncs ≥ 16 →
    s.ref.ptp.samples.length ≥ 16 → ∃ t, exec .utcOffsetUpdate s = .next t ∧
      t.reg Reg.REF_UTC_OFFSET_NS = BitVec.ofInt 64 (medianOf s.ref.ptp.samples / 65536) ∧
      t.reg Reg.REF_UTC_OFFSET_FRAC = BitVec.ofInt 64 (medianOf s.ref.ptp.samples % 65536) ∧ t.ref.ptp.syncs = 0 ∧
      OnlyRegs [Reg.REF_UTC_OFFSET_NS, Reg.REF_UTC_OFFSET_FRAC] { s with ref := t.ref } t)

/-- REALIGN (R94, R95): GO with none under way sets S to the first whole second of the new grid at least one second ahead, and
moves no output; at S the selected outputs take their new enables and phases and REALIGN_DONE is raised, and the others keep
theirs. The pulse outputs (R94, R95): PPS_OUT rises at each whole second of its grid, once, CLK10M_OUT every 100 ns of its
own, and STEP_MARK before each marked boundary; nothing but the pulse and its record changes. -/
def Obligations.OutputsRealignAndPulse : Prop :=
  ((∀ (s : State) (v : W), s.present Reg.REF_REALIGN = true → s.ref.realign = none →
     ∃ t r, exec (.realignGo v) s = .next t ∧ t.ref = { s.ref with realign := some r } ∧
       OnlyRegs [Reg.REF_REALIGN] { s with ref := t.ref } t ∧
       r.pps = v.getLsbD 1 ∧ r.clk = v.getLsbD 2 ∧ r.mark0 = v.getLsbD 3 ∧ r.mark1 = v.getLsbD 4 ∧
       r.s ≥ s.ht + 1000000000 * 65536 ∧ r.s < s.ht + 2 * (1000000000 * 65536) ∧
       r.s % (1000000000 * 65536) = r.phase ∧ r.phase < 1000000000 * 65536) ∧
   (∀ (s : State) (r : Realign), s.ref.realign = some r → s.ht ≥ r.s → ∃ t, exec .realignDone s = .next t ∧
     t.ref.realign = none ∧ (r.pps = true → t.ref.pps.en = r.ppsEn ∧ t.ref.pps.phase = r.phase) ∧
     (r.pps = false → t.ref.pps = s.ref.pps) ∧ (r.clk = true → t.ref.clk10.en = r.clkEn ∧ t.ref.clk10.phase = r.phase) ∧
     (r.clk = false → t.ref.clk10 = s.ref.clk10) ∧ (r.mark0 = true → t.ref.mark0.en = r.m0En ∧ t.ref.mark0.cfg = r.m0Cfg) ∧
     (r.mark0 = false → t.ref.mark0 = s.ref.mark0) ∧
     (r.mark1 = true → t.ref.mark1.en = r.m1En ∧ t.ref.mark1.cfg = r.m1Cfg) ∧
     (r.mark1 = false → t.ref.mark1 = s.ref.mark1) ∧ t.flag Fld.REF_STATUS_REALIGN_DONE = true ∧
     OnlyEvents [Reg.REF_STATUS] { s with ref := t.ref } t)) ∧
  ((∀ (s : State) (g : Nat), s.isVd = true → s.ref.pulsesOn = true → s.ref.pps.en = true → s.ref.realign = none →
     gridAtOrBefore secF s.ref.pps.phase s.ht = some g → (∀ l, s.ref.pps.last = some l → l < (g : Int)) →
     exec .ppsPulse s = .next { s with
       ref := { s.ref with pps := { s.ref.pps with last := some (g : Int) } },
       out := s.out ++ [.pps (BitVec.ofNat 64 (g / 65536))] }) ∧
   (∀ (s : State) (g : Nat), gridAtOrBefore secF s.ref.pps.phase s.ht = some g → s.ref.pps.last = some (g : Int) →
     exec .ppsPulse s = .next s) ∧
   (∀ (s : State) (l : Nat), s.isVd = true → s.ref.pulsesOn = true → s.ref.clk10.en = true → s.ref.realign = none →
     s.ref.clk10.last = some (l : Int) → l % tenMhz = s.ref.clk10.phase % tenMhz → l + tenMhz ≤ s.ht →
     exec .clk10mEdge s = .next { s with
       ref := { s.ref with clk10 := { s.ref.clk10 with last := some ((l + tenMhz : Nat) : Int) } },
       out := s.out ++ [.clk10 (BitVec.ofNat 64 ((l + tenMhz) / 65536))] }) ∧
   (∀ (s : State) (n m : Nat), s.isVd = true → s.ref.pulsesOn = true → s.ref.realign = none → n < 2 →
     s.markDue (if n = 0 then s.ref.mark0 else s.ref.mark1) false false 0 0 = some m →
     ∃ t, exec (.stepMarkPulse n) s = .next t ∧ t = { s with ref := t.ref, out := s.out ++ [.stepMark n s.htNs] } ∧
       (n = 0 → t.ref = { s.ref with mark0 := { s.ref.mark0 with last := some (m : Int) } }) ∧
       (n = 1 → t.ref = { s.ref with mark1 := { s.ref.mark1 with last := some (m : Int) } })))

/-! ### Steps, phases and launch by time (R97 to R132) -/

/-- Of any 64 consecutive boundaries under a ratio k of at most 63, exactly k are freewheel boundaries by the test of R126. -/
def Obligations.RatioSpreadsFreewheelBoundariesEvenly : Prop :=
  ∀ (n : W) (k : Nat), k ≤ 63 →
    ((List.range 64).filter fun i => freewheel (n + BitVec.ofNat 64 i) k).length = k

/-- The next boundary of a RUNNING unit falls due and nothing holds it (R98, R101, R102, R126, R127): SC advances by one; WSC
advances at a working boundary and stays at a freewheel boundary of the ratio in force, which is counted; the anchor, phase
and ratio stay; HT and memory are untouched. What waits for a boundary takes effect there: fences, routes and, where no swap
rewrites it, the remap (R233, R357, R365), at a working one the fold map too (R317). A boundary whose cutoff found it held,
or that the unit holds of its own accord, is not fired (R105, R106): a RUNNING unit enters HELD with its reason, SC and WSC
stay, HELD_ENTRY is raised, and no pass of the fabric runs; the boundary of a STOP takes the unit to IDLE and empties its
live and next sets (R200). At either, what waited for a boundary waits no longer (R233, R317, R357, R365). -/
def Obligations.BoundariesCountOrHold : Prop :=
  (∀ (s : State) (m : W), s.awake = true → s.cad.st = .running → m = s.cad.sc + 1 → (s.boundaryNs m).toNat ≤ s.htNs.toNat →
     s.cutFor m = some .fire → s.flt.examined = some m → s.localHold m = none →
     s.held .phase m = none → s.held .ratio m = none →
     ∃ t, exec .boundaryDue s = .next t ∧ t.cad.st = .running ∧ t.cad.sc = m ∧
       t.cad.freewheel = freewheel m s.cad.k ∧
       t.cad.wsc = (if freewheel m s.cad.k then s.cad.wsc else s.cad.wsc + 1) ∧
       t.cad.fwCount = (if freewheel m s.cad.k then s.cad.fwCount + 1 else s.cad.fwCount) ∧
       t.cad.anchorNs = s.cad.anchorNs ∧ t.cad.anchorSc = s.cad.anchorSc ∧ t.cad.phase = s.cad.phase ∧
       t.cad.k = s.cad.k ∧ t.cad.baseWsc = s.cad.baseWsc ∧ t.time.htx = s.time.htx ∧ t.fab.ram = s.fab.ram ∧
       t.flt.fenceP = [] ∧ t.fab.routeP = false ∧ (s.fab.routeP = true → t.fab.podAct = s.tableOf Reg.XF_POD_ROUTE 32) ∧
       (s.flt.swapP = [] → t.flt.remapP = false ∧ (s.flt.remapP = true → t.flt.remap = s.reg Reg.FLT_REMAP)) ∧
       (freewheel m s.cad.k = false → t.til.foldP = false)) ∧
  ((∀ (s : State) (m : W) (r : Nat), s.awake = true → s.cad.st = .running → m = s.cad.sc + 1 →
     (s.boundaryNs m).toNat ≤ s.htNs.toNat →
     (s.cutFor m = some (.hold r) ∨
       (s.cutFor m = some .fire ∧ s.flt.examined = some m ∧ s.localHold m = some r)) →
     ∃ t, exec .boundaryDue s = .next t ∧ t.cad.st = .held ∧ t.cad.heldReason = r ∧ t.cad.sc = s.cad.sc ∧
       t.cad.wsc = s.cad.wsc ∧ t.cad.phase = s.cad.phase ∧ t.flag Fld.CAD_STATUS_HELD_ENTRY = true ∧
       t.fab.passAt = none ∧ t.flt.swapP = [] ∧ t.time.htx = s.time.htx ∧ t.fab.ram = s.fab.ram ∧
       t.flt.fenceP = [] ∧ t.fab.routeP = false ∧ t.flt.remapP = false ∧ t.til.foldP = false) ∧
   (∀ (s : State) (m : W), s.awake = true → s.cad.st = .running → m = s.cad.sc + 1 →
     (s.boundaryNs m).toNat ≤ s.htNs.toNat → s.cutFor m = some .stop →
     ∃ t, exec .boundaryDue s = .next t ∧ t.cad.st = .idle ∧ t.cad.sc = s.cad.sc ∧ t.cad.wsc = s.cad.wsc ∧
       t.cad.armNo = 0 ∧ t.img.live = none ∧ t.img.next = none ∧ t.fab.passAt = none ∧ t.time.htx = s.time.htx ∧
       t.fab.ram = s.fab.ram ∧ t.flt.fenceP = [] ∧ t.fab.routeP = false ∧ t.flt.remapP = false ∧ t.til.foldP = false))

/-- The cutoff, 256 ns before a boundary, decides it from what the unit holds (R106, R115, R122, R123, R131): a conflict of the
planes before STOP before HOLD before a boundary missed by grant, by LAST_SEQ or by phase, and firing with none of them; a
missed or conflicting one raises MISSED and the unit reports DISARM. Before its instant nothing is decided, and a cutoff
that was taken, and does not fire, is not taken again. The vote instant of an issuer (R107, R109, R111, R112, R402): a unit
that does not issue, an issuer whose core 2 is held in reset, and one whose vote instant is not now send nothing. Of a run,
by the first row of R111 that applies: the agent's STOP sends STOP; its HOLD, or an aggregate more than D behind, HOLD; the
end of a phase without a successor STOP, that of one with a successor HOLD while the arming is incomplete and PHASE, with a
ratio that is due second, once it is complete; a due ratio alone RATIO; and otherwise nothing is sent. PHASE and RATIO, and
the last row, grant the boundary; the others leave GRANT_SC as it is. A START or RESUME that the agent has commanded is
sent, and granted, at its vote instant once the arming is complete, where no HOLD or STOP and, for a RESUME, no lag comes
before it. Each decision takes the next SEQ. -/
def Obligations.CutoffsDecideAndVotesGrant : Prop :=
  (∀ (s : State) (m b : W), s.awake = true → s.nextBoundary = some (m, b) →
     (s.htNs.toNat + 256 < b.toNat → exec .cutoff s = .next s) ∧
     (∀ o, s.cutFor m = some o → o ≠ .fire → b.toNat ≤ s.htNs.toNat + 256 → exec .cutoff s = .next s) ∧
     (b.toNat ≤ s.htNs.toNat + 256 → s.cutTaken m = false →
       (s.cad.conflicts.contains m = false → (s.held .stop m).isSome = true → exec .cutoff s =
         .next { s with cad := { s.cad with cuts := s.cad.cuts ++ [⟨m, .stop, s.time.servo == .locked⟩] } }) ∧
       (s.cad.conflicts.contains m = true → ∃ t, exec .cutoff s = .next t ∧
         t.cad = { s.cad with cuts := s.cad.cuts ++ [⟨m, .hold 3, s.time.servo == .locked⟩], missed := true } ∧
         t.disarmNow = true ∧ t.flag Fld.CAD_STATUS_MISSED = true ∧
         OnlyEvents [Reg.CAD_STATUS] { s with cad := t.cad } t) ∧
       ((s.held .stop m) = none → s.cad.conflicts.contains m = false → (s.held .hold m).isSome = true → exec .cutoff s =
         .next { s with cad := { s.cad with cuts := s.cad.cuts ++ [⟨m, .hold 1, s.time.servo == .locked⟩] } }) ∧
       ((s.held .stop m) = none → s.cad.conflicts.contains m = false → (s.held .hold m) = none →
         (s.cad.grant.toNat < m.toNat ∨ s.behindSeq = true ∨ s.phaseMismatch m = true) →
         ∃ t, exec .cutoff s = .next t ∧
           t.cad = { s.cad with cuts := s.cad.cuts ++ [⟨m, .hold 2, s.time.servo == .locked⟩], missed := true } ∧
           t.disarmNow = true ∧ t.flag Fld.CAD_STATUS_MISSED = true ∧
           OnlyEvents [Reg.CAD_STATUS, Reg.IMG_STATUS] { s with cad := t.cad } t) ∧
       ((s.held .stop m) = none → s.cad.conflicts.contains m = false → (s.held .hold m) = none →
         m.toNat ≤ s.cad.grant.toNat → s.behindSeq = false → s.phaseMismatch m = false →
         ∃ t, exec .cutoff s = .next t ∧ t.cutFor m = some .fire ∧ t.flt.examined = some m ∧
           t.cad = { s.cad with cuts := t.cad.cuts, missed := t.cad.missed } ∧
           OnlyEvents [Reg.CAD_STATUS, Reg.IMG_STATUS] { s with cad := t.cad, flt := t.flt, free := t.free } t ∧
           t.flt = { s.flt with swapP := t.flt.swapP, examined := some m }))) ∧
  ((∀ s : State, s.isRoot = false ∨ s.cad.root.issuer = false ∨ s.coreHeld 2 = true → exec .voteInstant s = .next s) ∧
   (∀ (s : State) (p : Proj) (m b w : W) (stops : Prop), s.projDecided = some p → m = p.sc + 1 → b = p.ns m →
     w = (if freewheel m ((s.ratioAt b).getD p.k) then p.wsc else p.wsc + 1) →
     (stops ↔ (p.desc.nSteps ≠ 0 ∧ p.wsc = p.base + BitVec.ofNat 64 p.desc.nSteps - 1) ∨
       (p.desc.nSteps = 0 ∧ s.cad.root.endCmd = true)) →
     (s.voteNow b = false → exec .voteInstant s = .next s) ∧
     (s.isRoot = true → s.awake = true → s.cad.root.issuer = true → s.coreHeld 2 = false → s.voteNow b = true →
       s.cad.root.noGrant = false →
       (∀ (k : DecKind) (held ends : Prop), (held ↔ s.cad.root.holdCmd = true ∨ s.tooSlow w p.desc.holdDist = true) →
         (ends ↔ stops ∧ p.desc.successor = 255) →
         (k = .stop ∧ (s.cad.root.stopCmd = true ∨ (¬ held ∧ ends))) ∨
         (k = .hold ∧ s.cad.root.stopCmd = false ∧ (held ∨ (stops ∧ ¬ ends ∧ s.armComplete = false))) →
         ∃ t, exec .voteInstant s = .next t ∧ SentDecisions s t (s.stampDec (bareDec k m) 1) none ∧
           t.cad.root.seq = (s.cad.root.seq + 1) % 65536 ∧ t.cad.root.decided = m ∧ t.cad.grant = s.cad.grant ∧
           t.cad.root.stopCmd = false ∧ t.cad.root.holdCmd = false ∧
           (k = .hold → t.flag Fld.CAD_ROOT_STATUS_HOLD_SENT = true) ∧ t.time = s.time ∧ t.fab.ram = s.fab.ram) ∧
       (s.cad.root.stopCmd = false → s.cad.root.holdCmd = false → s.tooSlow w p.desc.holdDist = false →
         (stops → p.desc.successor ≠ 255 → s.armComplete = true → ∃ t, exec .voteInstant s = .next t ∧
           SentDecisions s t (s.stampDec { bareDec .phase m with phase := p.desc.successor % 16 } 1)
             ((s.ratioDec m b).map fun d => s.stampDec d 2) ∧
           t.cad.root.seq = (s.cad.root.seq + if (s.ratioDec m b).isSome then 2 else 1) % 65536 ∧ t.cad.root.decided = m ∧
           t.cad.grant = (if s.cad.grant.toNat < m.toNat then m else s.cad.grant) ∧ t.time = s.time ∧
           t.fab.ram = s.fab.ram) ∧
         (∀ d, ¬ stops → s.ratioDec m b = some d → ∃ t, exec .voteInstant s = .next t ∧
           SentDecisions s t (s.stampDec d 1) none ∧ t.cad.root.ratioDue = none ∧
           t.cad.root.seq = (s.cad.root.seq + 1) % 65536 ∧ t.cad.root.decided = m ∧
           t.cad.grant = (if s.cad.grant.toNat < m.toNat then m else s.cad.grant) ∧ t.time = s.time ∧
           t.fab.ram = s.fab.ram) ∧
         (¬ stops → s.ratioDec m b = none → exec .voteInstant s = .next { s with cad := { s.cad with
           grant := if s.cad.grant.toNat < m.toNat then m else s.cad.grant,
           root := { s.cad.root with decided := m, endCmd := false } } })))) ∧
   (∀ (s : State) (c : RootCmd) (m : W), s.projDecided = none → s.notRunning = true → s.cad.root.cmd = some c →
     m = (if c.resume then s.cad.sc + 1 else c.sc) →
     (s.voteNow c.ns = false → exec .voteInstant s = .next s) ∧
     (s.isRoot = true → s.awake = true → s.cad.root.issuer = true → s.coreHeld 2 = false → s.voteNow c.ns = true →
       s.cad.root.stopCmd = false → s.cad.root.holdCmd = false → s.armComplete = true →
       (c.resume = true → ∀ w, w = (if freewheel m ((s.ratioAt c.ns).getD c.k) then c.wsc - 1 else c.wsc) →
         s.tooSlow w (match s.desc with | some x => x.holdDist | none => 0) = false) →
       ∃ t, exec .voteInstant s = .next t ∧
         SentDecisions s t (s.stampDec { bareDec (if c.resume then .resume else .start) m with
           phase := c.phase, anchor := c.ns, wsc := c.wsc, base := c.base, ratio := c.k } 1)
           ((s.ratioDec m c.ns).map fun d => s.stampDec d 2) ∧
         t.cad.root.cmd = none ∧ t.cad.root.noGrant = false ∧ t.cad.root.decided = m ∧
         t.cad.grant = (if s.cad.grant.toNat < m.toNat then m else s.cad.grant) ∧ t.time = s.time ∧
         t.fab.ram = s.fab.ram)))

/-- A DECISION at a port, with no cutoff due (R112 to R116, R123): its path delay is noted, and a new decision other than START
and RESUME of the unit's epoch whose cutoff is still to come is held and forwarded at once on the other fixed ports; the
same decision again, one of a lower epoch, and one past its cutoff have no other effect; another decision under a SEQ that
the unit holds is a plane conflict for the boundaries that either names. The issuer (R107, R108, R121, R124): 64 heartbeats
after lock, with the other root heard, once, the root with ISSUE_INIT issues and the other relays, epoch 0, and where both
or neither have it INIT_CONFLICT is raised and the lower DNO issues; a START of an IDLE issuer, or a RESUME of a HELD one,
before its vote instant waits for it and is refused otherwise; HOLD, STOP and END_PHASE wait for the next vote; TAKE_ISSUE
outside RUNNING makes the root the issuer of the next epoch, with HOLD for SC + 1 sent and no grant. -/
def Obligations.DecisionsAreTakenAndCommanded : Prop :=
  (∀ (s : State) (p : Nat) (d : Decision) (dep : W), s.awake = true → s.carriesOs p = true →
     (∀ m b, s.nextBoundary = some (m, b) → s.htNs.toNat + 256 < b.toNat ∧ s.cutTaken m = false) →
     (d.epoch = s.cad.epoch → (s.cad.decs ++ s.cad.decRep.map (·.1) ++ s.cad.lastDec.toList).find?
         (fun e => e.seq == d.seq && e.epoch == d.epoch) = none → s.past d = false →
         (d.kind = .hold ∨ d.kind = .phase ∨ d.kind = .ratio ∨ d.kind = .stop) →
       ∃ t, exec (.decisionRx p ⟨d, dep⟩ none) s = .next t ∧ t.cad.decs = s.cad.decs ++ [d] ∧ t.cad.lastDec = some d ∧
         t.cad.conflicts = s.cad.conflicts ∧ t.cad.armNo = (if d.kind = .phase then s.cad.armNo + 1 else s.cad.armNo) ∧
         t.cad.latency = s.htNs.toNat - dep.toNat ∧
         (∀ q, (t.port q).osq = if q ∈ s.decPorts (some p) then (s.port q).osq ++ [.decision d none] else (s.port q).osq) ∧
         t = { s with cad := t.cad, fab := { s.fab with ports := t.fab.ports } }) ∧
     ((s.cad.decs ++ s.cad.decRep.map (·.1) ++ s.cad.lastDec.toList).find?
           (fun e => e.seq == d.seq && e.epoch == d.epoch) = some d ∨ s.past d = true ∨
         s.cad.st ≠ .idle ∧ d.epoch ≠ s.cad.epoch ∧ serialHigher 8 d.epoch s.cad.epoch = false →
       exec (.decisionRx p ⟨d, dep⟩ none) s =
         .next { s with cad := { s.cad with latency := s.htNs.toNat - dep.toNat } }) ∧
     (∀ e, d.epoch = s.cad.epoch → (s.cad.decs ++ s.cad.decRep.map (·.1) ++ s.cad.lastDec.toList).find?
         (fun e => e.seq == d.seq && e.epoch == d.epoch) = some e → e ≠ d → s.past d = false →
       ∃ t, exec (.decisionRx p ⟨d, dep⟩ none) s = .next t ∧ t.cad.conflicts = s.cad.conflicts ++ [e.target, d.target] ∧
         t.cad.decs = s.cad.decs ∧ t.flag Fld.CAD_STATUS_PLANE_CONFLICT = true ∧
         OnlyEvents [Reg.CAD_STATUS] { s with cad := t.cad } t)) ∧
  ((∀ (s : State) (o : Bool), s.isRoot = true → s.awake = true → s.cad.root.initDone = false →
     s.cad.root.lockedHbs ≥ 64 → s.cad.root.otherInit = some o →
     (o ≠ (s.preg Reg.CAD_ROOT_CFG).getLsbD 0 → exec .issuerInit s = .next { s with cad := { s.cad with
       root := { s.cad.root with issuer := !o, relay := o, epoch := 0, initDone := true } } }) ∧
     (o = (s.preg Reg.CAD_ROOT_CFG).getLsbD 0 → ∃ t, exec .issuerInit s = .next t ∧
       t.cad = { s.cad with root := { s.cad.root with
         issuer := decide (s.ident.dno < s.cad.root.otherDno), relay := !decide (s.ident.dno < s.cad.root.otherDno),
         epoch := 0, initDone := true } } ∧
       t.flag Fld.CAD_ROOT_STATUS_INIT_CONFLICT = true ∧ OnlyEvents [Reg.CAD_ROOT_STATUS] { s with cad := t.cad } t)) ∧
   (∀ s : State, s.cad.root.initDone = true → exec .issuerInit s = .next s) ∧
   (∀ (s : State) (v : W), s.present Reg.CAD_ROOT_CMD = true → v.toNat % 64 = 1 → ∃ t, exec (.rootStart v) s = .next t ∧
     (s.cad.root.issuer = true → s.cad.st = .idle →
       s.htNs.toNat ≤ s.voteNs (s.reg Reg.CAD_ROOT_TARGET_NS) → s.lVoteNs ≤ (s.reg Reg.CAD_ROOT_TARGET_NS).toNat →
       OnlyRegs [Reg.CAD_ROOT_CMD] { s with cad := t.cad } t ∧ ∃ c, t.cad = { s.cad with root :=
         { s.cad.root with cmd := some c } } ∧ c.resume = false ∧ c.ns = s.reg Reg.CAD_ROOT_TARGET_NS ∧
         c.wsc = s.reg Reg.CAD_ROOT_WSC ∧ c.base = s.reg Reg.CAD_ROOT_BASE_WSC ∧
         c.phase = t.fld Fld.CAD_ROOT_CMD_PHASE ∧ c.k = t.fld Fld.CAD_ROOT_CMD_K) ∧
     (s.cad.root.issuer = false ∨ s.cad.st ≠ .idle ∨ s.voteNs (s.reg Reg.CAD_ROOT_TARGET_NS) < s.htNs.toNat → t.cad = s.cad ∧
       t.flag Fld.CAD_ROOT_STATUS_CMD_REFUSED = true ∧ OnlyEvents [Reg.CAD_ROOT_CMD, Reg.CAD_ROOT_STATUS] s t)) ∧
   (∀ (s : State) (v : W), s.present Reg.CAD_ROOT_CMD = true → v.toNat % 64 = 2 → ∃ t, exec (.rootResume v) s = .next t ∧
     (s.cad.root.issuer = true → s.cad.st = .held →
       s.htNs.toNat ≤ s.voteNs (s.reg Reg.CAD_ROOT_TARGET_NS) → s.lVoteNs ≤ (s.reg Reg.CAD_ROOT_TARGET_NS).toNat →
       OnlyRegs [Reg.CAD_ROOT_CMD] { s with cad := t.cad } t ∧ ∃ c, t.cad = { s.cad with root :=
         { s.cad.root with cmd := some c } } ∧ c.resume = true ∧ c.ns = s.reg Reg.CAD_ROOT_TARGET_NS ∧ c.k = s.cad.k) ∧
     (s.cad.root.issuer = false ∨ s.cad.st ≠ .held ∨ s.voteNs (s.reg Reg.CAD_ROOT_TARGET_NS) < s.htNs.toNat → t.cad = s.cad ∧
       t.flag Fld.CAD_ROOT_STATUS_CMD_REFUSED = true ∧ OnlyEvents [Reg.CAD_ROOT_CMD, Reg.CAD_ROOT_STATUS] s t)) ∧
   (∀ (s : State) (v : W), s.present Reg.CAD_ROOT_CMD = true → s.cad.root.issuer = true →
     (v.toNat % 64 = 4 → ∃ t, exec (.rootHold v) s = .next t ∧
       OnlyRegs [Reg.CAD_ROOT_CMD] { s with cad := { s.cad with root := { s.cad.root with holdCmd := true } } } t) ∧
     (v.toNat % 64 = 8 → ∃ t, exec (.rootStop v) s = .next t ∧
       OnlyRegs [Reg.CAD_ROOT_CMD] { s with cad := { s.cad with root := { s.cad.root with stopCmd := true } } } t) ∧
     (v.toNat % 64 = 16 → ∃ t, exec (.endPhase v) s = .next t ∧
       OnlyRegs [Reg.CAD_ROOT_CMD] { s with cad := { s.cad with root := { s.cad.root with endCmd := true } } } t)) ∧
   (∀ (s : State) (v : W), s.present Reg.CAD_ROOT_CMD = true → s.cad.st ≠ .running → v.toNat % 64 = 32 →
     ∃ t, exec (.takeIssue v) s = .next t ∧ t.cad.root.issuer = true ∧ t.cad.root.relay = false ∧
       t.cad.root.epoch = (s.cad.epoch + 1) % 256 ∧ t.cad.epoch = (s.cad.epoch + 1) % 256 ∧
       t.cad.root.noGrant = true ∧ t.cad.root.decided = s.cad.sc + 1 ∧ t.cad.grant = s.cad.grant ∧
       t.flag Fld.CAD_ROOT_STATUS_HOLD_SENT = true ∧ t.time = s.time ∧ t.fab.ram = s.fab.ram))

/-- Arming (R117, R194, R196, R197): a unit that is ready, not of class U and holds no arming decision whose boundary is still
to come signals its arming sprocket for the next arming decision, and locks the shadow that the decision takes, and in IDLE
or HELD shows DISARM no more; REARM in HELD ends the missed mark and asks for the next set again, so that a unit that has
signalled is ready no more and reports DISARM. -/
def Obligations.ArmingFollowsReadiness : Prop :=
  (∀ s : State, s.awake = true → s.ready = true → s.time.cls ≠ 0 → s.cad.armSpk ≠ s.cad.armNo + 1 →
    (s.cad.decs.any fun d => arming d.kind) = false → s.cad.st = .running → exec .armingSignal s = .next { s with
      cad := { s.cad with armSpk := s.cad.armNo + 1 }, img := { s.img with lock := s.img.lock || s.img.nxSrc } }) ∧
  (∀ s : State, s.awake = true → s.ready = true → s.time.cls ≠ 0 → s.cad.armSpk ≠ s.cad.armNo + 1 →
    (s.cad.decs.any fun d => arming d.kind) = false → s.cad.st ≠ .running → exec .armingSignal s = .next { s with
      cad := { s.cad with armSpk := s.cad.armNo + 1, disarm := false, missed := false },
      img := { s.img with lock := s.img.lock || s.img.nxSrc } }) ∧
  (∀ s : State, s.ready = false ∨ s.time.cls = 0 ∨ (s.cad.decs.any fun d => arming d.kind) = true →
    exec .armingSignal s = .next s) ∧
  (∀ s : State, s.present Reg.CAD_CMD = true → s.cad.st = .held → exec .rearm s = .next { s with
    cad := { s.cad with
      rearmed := true, missed := false,
      lost := s.cad.lost || (!s.cad.disarm && !s.cad.missed &&
        (s.signalled || (s.cad.armSpk == s.cad.armNo && s.cad.decs.any fun d => arming d.kind))) },
    img := { s.img with next := none, nxState := .none, nxSrc := false } }) ∧
  (∀ s : State, s.present Reg.CAD_CMD = true → s.cad.st ≠ .held →
    exec .rearm s = .next { s with cad := { s.cad with missed := false } })

/-! ### Sprockets (R133 to R163) -/

/-- SIGNAL by a lantern core on a LIVE local sprocket while no rejected tile is held (R134, R135, R137, R141, R145): the value
grows by inc modulo 2^64 and no other value changes; exactly the waits on it whose expected value it has now reached are
released, and registrations likewise; the operation completes with OK; memory and time are untouched. An inc of 0 completes
with BAD_ARG and does nothing else. -/
def Obligations.SignalAddsAndReleasesReached : Prop :=
  ∀ (s : State) (c ctx id p tag : Nat) (inc : W), s.LocalOp c ctx id 0 p → tag < 65536 →
    (0 < inc.toNat → inc.toNat < 2 ^ 32 → s.holdsRejected = false →
      ∃ t, exec (.spkSignal ⟨.core c, tag, 0⟩ ctx id inc) s = .next t ∧
      t.spkVal p = s.spkVal p + inc ∧ (∀ q, q ≠ p → t.spkVal q = s.spkVal q) ∧ t.spk.info = s.spk.info ∧
      (∀ w, w ∈ t.spk.waits ↔ w ∈ s.spk.waits ∧
        ¬ (w.phys = p ∧ w.lost = false ∧ reachedIn w.view32 (s.spkVal p + inc) w.expected = true)) ∧
      (∀ n, n ∈ t.spk.notifs ↔ n ∈ s.spk.notifs ∧
        ¬ (n.phys = p ∧ n.lost = false ∧ reachedIn n.view32 (s.spkVal p + inc) n.threshold = true)) ∧
      t.out.getLast? = some (.spkDone (.core c) 0 tag 0 (viewOf ((s.entryOf ctx id).getLsbD 39) (s.spkVal p + inc))) ∧
      t.fab.ram = s.fab.ram ∧ t.time = s.time ∧ t.nvs = s.nvs) ∧
    (inc = 0 → exec (.spkSignal ⟨.core c, tag, 0⟩ ctx id inc) s =
      .next { s with out := s.out ++ [.spkDone (.core c) 0 tag 7 0] })

/-- Increments commute (R136): applying a set of SIGNALs in any order leaves every sprocket with the same value. -/
def Obligations.IncrementsCommute : Prop :=
  ∀ (s : State) (l r : List (Nat × Nat)), l.Perm r → ∀ q,
    (l.foldl (fun t e => t.applySignal e.1 e.2) s).spkVal q = (r.foldl (fun t e => t.applySignal e.1 e.2) s).spkVal q

/-- WAIT by a lantern core (R135, R137, R138, R143): a value that has reached the expected one completes it with OK at once; a
deadline that has passed with TIMEOUT; otherwise, within its 256 waits, it pends. A pending wait whose deadline comes
completes with TIMEOUT and is gone, with no sprocket changed. A VSU's operation waits for its translation entry (R148, R443,
R459): when the read of the entry completes its tag is free again, and a READ of a LIVE local sprocket then returns the
value; a failed read completes with BAD_ID. -/
def Obligations.WaitsAndFillsComplete : Prop :=
  ((∀ (s : State) (c ctx id p tag : Nat) (e dl : W), s.LocalOp c ctx id 1 p → tag < 65536 →
     (s.entryOf ctx id).getLsbD 39 = false →
     (reached (s.spkVal p) e = true → exec (.spkWait (.core c) ctx id e dl tag) s =
       .next { s with out := s.out ++ [.spkDone (.core c) 1 tag 0 (s.spkVal p)] }) ∧
     (reached (s.spkVal p) e = false → dl ≠ BitVec.allOnes 64 → dl.toNat ≤ s.htNs.toNat →
       exec (.spkWait (.core c) ctx id e dl tag) s =
         .next { s with out := s.out ++ [.spkDone (.core c) 1 tag 1 (s.spkVal p)] }) ∧
     (reached (s.spkVal p) e = false → (dl = BitVec.allOnes 64 ∨ s.htNs.toNat < dl.toNat) →
       (s.spk.waits.filter fun w => w.src == .core c).length < 256 → exec (.spkWait (.core c) ctx id e dl tag) s =
         .next { s with spk := { s.spk with waits := s.spk.waits ++ [{
           src := .core c, ctx := ctx, id := id, phys := p, expected := e, deadline := dl, tag := tag, view32 := false }] } }) ∧
     (reached (s.spkVal p) e = false → (dl = BitVec.allOnes 64 ∨ s.htNs.toNat < dl.toNat) →
       256 ≤ (s.spk.waits.filter fun w => w.src == .core c).length →
       ∃ t, exec (.spkWait (.core c) ctx id e dl tag) s = .next t ∧ t.spk = s.spk ∧
         t.flag Fld.SPK_STATUS_BUSY_SEEN = true ∧ t.out.getLast? = some (.spkDone (.core c) 1 tag 8 0) ∧
         OnlyEvents [Reg.SPK_STATUS] s t)) ∧
   (∀ (s : State) (w : Wait) (rest : List Wait) (c : Nat), s.spk.waits = w :: rest → w.src = .core c →
     w.deadline ≠ BitVec.allOnes 64 → w.deadline.toNat ≤ s.htNs.toNat →
     exec (.spkWaitTimeout w.ctx w.id w.tag) s = .next { s with
       spk := { s.spk with waits := rest },
       out := s.out ++ [.spkDone (.core c) 1 w.tag 1 (viewOf w.view32 (s.spkVal w.phys))] })) ∧
  (∀ (s : State) (m : Nat) (o : SpkOp) (e : W) (p : Nat), s.isVsu = true → s.fab.mem = [(m, .xlat o)] → s.fab.memQ = [] →
     o.src = .vsuPort p → o.kind = 2 →
     (xKind e = 1 → xRight e 2 = true → xPhys e < 16384 → (s.meta (xPhys e)).st = .live →
       exec (.spkXlatFill m e false) s = .next { s with
         fab := { s.fab with mem := [], memWr := s.fab.memWr.del m },
         out := s.out ++ [.spkDone (.vsuPort p) 2 o.tag 0 (viewOf (e.getLsbD 39) (s.spkVal (xPhys e)))] }) ∧
     exec (.spkXlatFill m e true) s = .next { s with
       fab := { s.fab with mem := [], memWr := s.fab.memWr.del m },
       out := s.out ++ [.spkDone (.vsuPort p) 2 o.tag 4 0] })

/-- READ, NOTIFY and cancel by a lantern core (R137, R141): READ returns the value and changes nothing; NOTIFY registers when
the threshold is still ahead; cancel removes the matching registration with CANCELLED, or completes with BAD_ID when there
is none. A WAIT, NOTIFY or cancel whose entry names a remote sprocket completes with BAD_TARGET and has no other effect
(R139). An operation issued in a context that is not ACTIVE has no effect and completes at once (R497): with BAD_ID in a
FREE context, PREEMPTED in a SAVED one and OWNER_LOST in a RESET one. -/
def Obligations.ReadsAndInactiveContextsComplete : Prop :=
  ((∀ (s : State) (c ctx id p tag : Nat), s.LocalOp c ctx id 2 p → tag < 65536 →
     exec (.spkRead (.core c) ctx id tag) s = .next { s with
       out := s.out ++ [.spkDone (.core c) 2 tag 0 (viewOf ((s.entryOf ctx id).getLsbD 39) (s.spkVal p))] }) ∧
   (∀ (s : State) (c ctx id p tag : Nat) (th : W), s.LocalOp c ctx id 3 p → tag < 65536 →
     reachedIn ((s.entryOf ctx id).getLsbD 39) (s.spkVal p) th = false → s.notifyFull ctx = false →
     exec (.spkNotify (.core c) ctx id th tag) s = .next { s with
       spk := { s.spk with notifs := s.spk.notifs ++ [⟨ctx, id, tag, th, p, (s.entryOf ctx id).getLsbD 39, false⟩] },
       out := s.out ++ [.spkDone (.core c) 3 tag 0 (viewOf ((s.entryOf ctx id).getLsbD 39) (s.spkVal p))] }) ∧
   (∀ (s : State) (c ctx id p tag : Nat), s.LocalOp c ctx id 4 p → tag < 65536 →
     ∃ t, exec (.spkNotifyCancel (.core c) ctx id tag) s = .next t ∧
       ((∃ n, n ∈ s.spk.notifs ∧ n.ctx = ctx ∧ n.id = id ∧ n.tag = tag) →
         t = { s with spk := { s.spk with notifs := t.spk.notifs }, out := s.out ++ [.spkDone (.core c) 4 tag 9 0] } ∧
         ∀ n, n ∈ t.spk.notifs ↔ n ∈ s.spk.notifs ∧ ¬ (n.ctx = ctx ∧ n.id = id ∧ n.tag = tag)) ∧
       ((∀ n, n ∈ s.spk.notifs → ¬ (n.ctx = ctx ∧ n.id = id ∧ n.tag = tag)) →
         t = { s with out := s.out ++ [.spkDone (.core c) 4 tag 4 0] })) ∧
   (∀ (s : State) (c ctx id tag : Nat) (e dl : W), s.CoreActive c ctx → id < 4096 → tag < 65536 →
     (xKind (s.entryOf ctx id) = 2 ∨ xKind (s.entryOf ctx id) = 3) →
     exec (.spkWait (.core c) ctx id e dl tag) s = .next { s with out := s.out ++ [.spkDone (.core c) 1 tag 6 0] } ∧
     exec (.spkNotify (.core c) ctx id e tag) s = .next { s with out := s.out ++ [.spkDone (.core c) 3 tag 6 0] } ∧
     exec (.spkNotifyCancel (.core c) ctx id tag) s = .next { s with out := s.out ++ [.spkDone (.core c) 4 tag 6 0] })) ∧
  (∀ (s : State) (c ctx id tag : Nat) (a b : W), s.isVd = true → s.awake = true → c < 4 → ctx < 256 → tag < 65536 →
     (s.ctx ctx).st ≠ .active → ∀ code, code = (match (s.ctx ctx).st with
       | .saved => 3
       | .reset => 2
       | _ => 4) →
     exec (.spkSignal ⟨.core c, tag, 0⟩ ctx id a) s = .next { s with out := s.out ++ [.spkDone (.core c) 0 tag code 0] } ∧
     exec (.spkWait (.core c) ctx id a b tag) s = .next { s with out := s.out ++ [.spkDone (.core c) 1 tag code 0] } ∧
     exec (.spkRead (.core c) ctx id tag) s = .next { s with out := s.out ++ [.spkDone (.core c) 2 tag code 0] } ∧
     exec (.spkNotify (.core c) ctx id a tag) s = .next { s with out := s.out ++ [.spkDone (.core c) 3 tag code 0] } ∧
     exec (.spkNotifyCancel (.core c) ctx id tag) s = .next { s with out := s.out ++ [.spkDone (.core c) 4 tag code 0] })

/-- Commands on contexts outside RUNNING (R151, R153, R155, R156, R157): COMMIT_XLAT makes the shadow table the committed one;
SAVE completes the context's waits, writes its 128 KiB save area and nothing else of memory, and leaves the context and the
sprockets that it owns SAVED with their values; RESTORE of an area that fails its checks leaves the context SAVED; RESET
puts every owned sprocket into OWNER_LOST with its value frozen; ACTIVATE makes a FREE or RESET context ACTIVE. A RESTORE
whose area passes its checks (R155): the context is ACTIVE with its shadow table committed, every sprocket of the area is
LIVE and owned by it, one that had been evicted with its saved value, and the table is written back to memory and nothing
else of it. -/
def Obligations.ContextsMoveAndReturn : Prop :=
  ((∀ (s : State) (c : Nat), s.awake = true → s.isFore = false → c = s.selCtx → c < s.nCtx →
     (s.cad.st ≠ .running → ∃ t, exec .commitXlat s = .next t ∧
       t.ctx c = { s.ctx c with xlatActive := (s.ctx c).xlatShadow, xlatPend := false } ∧ t.flag Fld.SPK_CMD_STATUS_DONE = true ∧
       OnlyRegs [Reg.SPK_CMD_STATUS] { s with spk := { s.spk with ctxs := t.spk.ctxs } } t) ∧
     (s.cad.st = .running → ∃ t, exec .commitXlat s = .next t ∧ t.ctx c = { s.ctx c with xlatPend := true } ∧
       t = { s with spk := { s.spk with ctxs := t.spk.ctxs } }) ∧
     (s.isVd = true → (s.ctx c).st = .active → s.spk.job = none → ∃ t, exec .ctxSave s = .next t ∧ (t.ctx c).st = .saved ∧
       (∀ w, w ∈ t.spk.waits ↔ w ∈ s.spk.waits ∧ w.ctx ≠ c) ∧ (∀ n, n ∈ t.spk.notifs ↔ n ∈ s.spk.notifs ∧ n.ctx ≠ c) ∧
       t.spk.vals = s.spk.vals ∧ (∀ p, p ∈ s.owned c → (t.meta p).st = .saved) ∧
       t.flag Fld.SPK_CMD_STATUS_DONE = true ∧ MemoryFrame ((s.ctx c).saveBase.toNat % 2 ^ 40) 131072 s t) ∧
     (s.isVd = true → (s.ctx c).st = .saved → s.spk.job = none →
       areaOk (Memory.readBytes s.fab.ram ((s.ctx c).saveBase.toNat % 2 ^ 40) saveLen) = false →
       ∃ t, exec .ctxRestore s = .next t ∧ t.spk = s.spk ∧ t.flag Fld.SPK_STATUS_RESTORE_FAIL = true ∧
         t.flag Fld.SPK_CMD_STATUS_REFUSED = true ∧ OnlyEvents [Reg.SPK_STATUS, Reg.SPK_CMD_STATUS] s t) ∧
     (∃ t, exec .ctxReset s = .next t ∧ (t.ctx c).st = .reset ∧ t.spk.vals = s.spk.vals ∧
       (∀ p, p ∈ s.owned c → (t.meta p).st = .ownerLost) ∧ (∀ p, p ∉ s.owned c → t.meta p = s.meta p) ∧
       (s.owned c ≠ [] → t.flag Fld.SPK_STATUS_OWNER_LOST = true) ∧ t.flag Fld.SPK_CMD_STATUS_DONE = true ∧
       OnlyEvents [Reg.SPK_STATUS, Reg.SPK_CMD_STATUS] { s with spk := t.spk } t) ∧
     ((s.ctx c).st = .free ∨ (s.ctx c).st = .reset → ∃ t, exec .ctxActivate s = .next t ∧
       t.ctx c = { s.ctx c with st := .active, argValue := 0, argDeadl := BitVec.allOnes 64 } ∧
       t.flag Fld.SPK_CMD_STATUS_DONE = true ∧
       OnlyRegs [Reg.SPK_CMD_STATUS] { s with spk := { s.spk with ctxs := t.spk.ctxs } } t)) ∧
   (∀ s : State, s.cad.st ≠ .running → ∃ t, exec .ownerLostFlush s = .next t ∧
     (∀ w, w ∈ t.spk.waits ↔ w ∈ s.spk.waits ∧ w.lost = false) ∧
     (∀ n, n ∈ t.spk.notifs ↔ n ∈ s.spk.notifs ∧ n.lost = false) ∧ t.spk.vals = s.spk.vals ∧ t.spk.info = s.spk.info ∧
     t.fab.ram = s.fab.ram)) ∧
  (∀ (s : State) (c : Nat) (a : List Byte) (plan : List (Nat × Bool × W)), s.awake = true → s.isVd = true → c = s.selCtx →
     c < s.nCtx → (s.ctx c).st = .saved → s.spk.job = none →
     a = Memory.readBytes s.fab.ram ((s.ctx c).saveBase.toNat % 2 ^ 40) saveLen → areaOk a = true →
     s.areaPlan c a = some plan → ∃ t, exec .ctxRestore s = .next t ∧ (t.ctx c).st = .active ∧
       (t.ctx c).xlatActive = (s.ctx c).xlatShadow ∧
       (∀ e, e ∈ plan → (t.meta e.1).st = .live ∧ (t.meta e.1).owner = c) ∧
       (∀ p, (∀ e, e ∈ plan → e.1 ≠ p) → t.meta p = s.meta p ∧ t.spkVal p = s.spkVal p) ∧
       ((plan.map (·.1)).Nodup → ∀ e, e ∈ plan → t.spkVal e.1 = if e.2.1 then s.spkVal e.1 else e.2.2) ∧
       t.flag Fld.SPK_CMD_STATUS_DONE = true ∧ MemoryFrame ((s.ctx c).xlatShadow.toNat % 2 ^ 40) 32768 s t)

/-- Commands on the selected physical sprocket (R133, R150, R154, R157, R163): each makes its change of state where its
condition holds, and is refused without effect where it does not; ZERO alone sets a value, and only while IDLE. -/
def Obligations.PhysicalSprocketCommands : Prop :=
  ∀ (s : State) (p : Nat) (m : SpkMeta), s.awake = true → s.isFore = false → p = s.selPhys → p < s.nSpk → m = s.meta p →
    (∀ (c : Instr) (ok : Bool) (m' : SpkMeta),
      ((c, ok, m') = (.physAlloc, m.st == .free || m.st == .evicted, { m with st := .live, owner := s.selAdopt }) ∨
       (c, ok, m') = (.physEvict, m.st == .saved && m.shares == 0 && !s.waitedOn p, { m with st := .evicted }) ∨
       (c, ok, m') = (.physAdopt, m.st == .ownerLost, { m with st := .live, owner := s.selAdopt }) ∨
       (c, ok, m') = (.shareInc, decide (m.shares < 256), { m with shares := m.shares + 1 }) ∨
       (c, ok, m') = (.shareDec, decide (0 < m.shares), { m with shares := m.shares - 1 }) ∨
       (c, ok, m') = (.physFree, m.st == .live && m.shares == 0 && !(s.spk.waits.any fun w => w.phys == p),
         { m with st := .free })) →
      (ok = true → ∃ t, exec c s = .next t ∧ t.meta p = m' ∧ (∀ q, q ≠ p → t.meta q = s.meta q) ∧
        t.flag Fld.SPK_CMD_STATUS_DONE = true ∧
        OnlyRegs [Reg.SPK_CMD_STATUS] { s with spk := { s.spk with info := t.spk.info } } t) ∧
      (ok = false → ∃ t, exec c s = .next t ∧ t.flag Fld.SPK_CMD_STATUS_REFUSED = true ∧
        OnlyRegs [Reg.SPK_CMD_STATUS] s t)) ∧
    (s.cad.st = .idle → ∃ t, exec .physZero s = .next t ∧ t.spkVal p = 0 ∧ (∀ q, q ≠ p → t.spkVal q = s.spkVal q) ∧
      t.spk.info = s.spk.info ∧ t.flag Fld.SPK_CMD_STATUS_DONE = true ∧ t.fab.ram = s.fab.ram) ∧
    (s.cad.st ≠ .idle → ∃ t, exec .physZero s = .next t ∧ t.flag Fld.SPK_CMD_STATUS_REFUSED = true ∧
      OnlyRegs [Reg.SPK_CMD_STATUS] s t)

/-! ### The schedule image (R164 to R202) -/

/-- Commands on the shadow (R194, R200): LOAD_LOCAL at a VD takes the image in local memory for checking, and RECALL the
committed image as CHECKED with SHADOW_READY, while the shadow is neither locked nor RECEIVING; otherwise, and RECALL also
without a committed image, each is refused with CMD_REFUSED and changes no image; DISCARD empties the shadow and unlocks it.
The committed and live sets are unchanged in every case; a die has no LOAD_LOCAL. The check of a complete shadow (R192,
R195): with every check passed it is CHECKED and SHADOW_READY is raised; at the first failure the code and place stand in
IMG_CHECK, the shadow is FAILED and CHECK_FAIL is raised; a DOME delivers its dies' verified sections to them. The committed
image and both sets are unchanged; a shadow that is not CHECKING is not checked. -/
def Obligations.ShadowsAreCommandedAndChecked : Prop :=
  (∀ s : State, s.awake = true →
     (s.isVd = false → exec .loadLocal s = .next s) ∧
     (s.isVd = true → s.img.lock = false → s.img.shState ≠ .receiving → ∃ t, exec .loadLocal s = .next t ∧
       t.img.shState = .checking ∧ t.img.shadow = some s.loadedImg ∧ t.img.committed = s.img.committed ∧
       t.img.live = s.img.live ∧ t = { s with img := t.img, cad := { s.cad with lost := t.cad.lost } }) ∧
     (s.isVd = true → s.img.lock = true ∨ s.img.shState = .receiving → ∃ t, exec .loadLocal s = .next t ∧
       t.img = s.img ∧ t.flag Fld.IMG_STATUS_CMD_REFUSED = true ∧ OnlyEvents [Reg.IMG_STATUS] s t) ∧
     (∃ t, exec .discard s = .next t ∧ t.img.shadow = none ∧
       t.img.shState = .empty ∧ t.img.lock = false ∧ t.img.committed = s.img.committed ∧ t.img.live = s.img.live ∧
       t = { s with img := t.img, cad := { s.cad with lost := t.cad.lost } }) ∧
     (∀ c, s.img.committed = some c → s.img.lock = false → s.img.shState ≠ .receiving →
       ∃ t, exec .recall s = .next t ∧ t.img.shadow = some c ∧ t.img.shState = .checked ∧
         t.img.committed = some c ∧ t.img.live = s.img.live ∧ t.flag Fld.IMG_STATUS_SHADOW_READY = true ∧
         OnlyEvents [Reg.IMG_STATUS] { s with img := t.img, cad := { s.cad with lost := t.cad.lost } } t) ∧
     (s.img.committed = none ∨ s.img.lock = true ∨ s.img.shState = .receiving → ∃ t, exec .recall s = .next t ∧
       t.img = s.img ∧ t.flag Fld.IMG_STATUS_CMD_REFUSED = true ∧ OnlyEvents [Reg.IMG_STATUS] s t)) ∧
  ((∀ (s : State) (img : Img), s.awake = true → s.img.shadow = some img → s.img.shState = .checking →
     ∃ t, exec .shadowCheck s = .next t ∧ t.img.committed = s.img.committed ∧ t.img.live = s.img.live ∧
       t.img.next = s.img.next ∧ (∃ u, u = (if s.isDome then s.deliverDies img (s.shadowFail img).2 else s) ∧
         OnlyEvents [Reg.IMG_STATUS] { u with img := t.img } t) ∧
       (∀ f, (s.shadowFail img).1 = some f → t.img.shState = .failed ∧ t.img.check = f ∧
         t.flag Fld.IMG_STATUS_CHECK_FAIL = true) ∧
       ((s.shadowFail img).1 = none → t.img.shState = .checked ∧ t.img.check = s.img.check ∧
         t.flag Fld.IMG_STATUS_SHADOW_READY = true)) ∧
   (∀ s : State, s.img.shState ≠ .checking → exec .shadowCheck s = .next s))

/-- A tile of an image on a port that is UP (R191, R193, R194, R201): a tile whose CRC-64 fails has no effect; one of another
image under a locked shadow is ignored with FOREIGN; a first tile of a new image takes the place of an unlocked shadow and
is kept alone; a further tile of the shadow's image joins it, and one that is held already changes nothing. A parameter tile
is kept under its identifier once. BROADCAST at a root spire (R191, R192): each port that is UP and fixed gets the sixteen
flits of every tile of the image behind what waits there, in order; nothing else of the unit changes. -/
def Obligations.ImagesAreBroadcastAndKept : Prop :=
  (∀ (s : State) (p id tile : Nat) (b : List Byte) (crc : Nat), s.awake = true → s.portUp p = true → b.length = tileBytes →
     (crc64 b ≠ crc → ∀ k, exec (.bcastTileRx p id tile k b crc) s = .next s) ∧
     (crc64 b = crc →
       ((∀ img, s.img.shadow = some img → img.id ≠ id) → s.img.lock = true → ∃ t,
         exec (.bcastTileRx p id tile 0 b crc) s = .next t ∧ t.flag Fld.IMG_STATUS_FOREIGN = true ∧
         OnlyRegs [Reg.IMG_STATUS] s t) ∧
       (∀ img, s.img.shadow = some img → img.id = id → img.tiles.has tile = true →
         exec (.bcastTileRx p id tile 0 b crc) s = .next s) ∧
       (∀ img, s.img.shadow = some img → img.id = id → img.tiles.has tile = false → ∃ t,
         exec (.bcastTileRx p id tile 0 b crc) s = .next t ∧
         t.img.shadow = some { img with tiles := img.tiles.set tile b } ∧ t.img.committed = s.img.committed ∧
         t.img.live = s.img.live ∧ t.fab.ram = s.fab.ram ∧ t.time = s.time ∧ t.cad = s.cad) ∧
       ((∀ img, s.img.shadow = some img → img.id ≠ id) → s.img.lock = false → ∃ t img,
         exec (.bcastTileRx p id tile 0 b crc) s = .next t ∧
         t.img.shadow = some img ∧ img.id = id ∧ img.tiles = [(tile, b)] ∧ t.img.committed = s.img.committed ∧
         t.img.live = s.img.live ∧ t.fab.ram = s.fab.ram ∧ t.time = s.time) ∧
       ((s.img.params.get id []).has tile = false → ∃ t, exec (.bcastTileRx p id tile 1 b crc) s = .next t ∧
         (t.img.params.get id []).get tile [] = b ∧ t.img.shadow = s.img.shadow ∧ t.fab.ram = s.fab.ram ∧
         t.time = s.time) ∧
       ((s.img.params.get id []).has tile = true → exec (.bcastTileRx p id tile 1 b crc) s = .next s))) ∧
  (∀ s : State, s.isRoot = true → s.awake = true → ∃ t, exec .broadcast s = .next t ∧
     t = { s with fab := { s.fab with ports := t.fab.ports } } ∧
     ∀ p, (¬ (p < 64 ∧ s.portUp p = true ∧ s.portFixed p = true) → t.port p = s.port p) ∧
       (p < 64 → s.portUp p = true → s.portFixed p = true → (s.port p).q.length = 4 → (t.port p).q.getD 0 [] =
         (s.port p).q.getD 0 [] ++ (List.range (((s.reg Reg.IMG_LOAD_LEN).toNat % 2 ^ 40 + 3583) / 3584)).flatMap fun i =>
           (bcastFlits (leNat (Memory.readBytes s.fab.ram ((s.reg Reg.IMG_LOAD_BASE).toNat % 2 ^ 40 + 8) 4)) i 0
             (s.ramTile ((s.reg Reg.IMG_LOAD_BASE).toNat % 2 ^ 40) ((s.reg Reg.IMG_LOAD_LEN).toNat % 2 ^ 40) i)).map
               fun f => (none, f)))

/-- Loading the next set (R195, R196): while RUNNING under a successor below 16, that phase of the committed image; a set that
passes is LOADED, and one that fails a check is FAILED with IMG_CHECK and CHECK_FAIL. A set that failed for a route alone
returns to LOADED when every check passes again, and a LOADED one that fails a check again is FAILED with CHECK_FAIL. The
live set is unchanged throughout. A VD whose core 2 is held in reset loads none (R402). -/
def Obligations.NextSetLoadsOrFails : Prop :=
  (∀ s : State, s.coreHeld 2 = true → exec .nextSetLoad s = .next s) ∧
  (∀ (s : State) (l : PhaseSet) (img : Img), s.awake = true → s.coreHeld 2 = false → s.img.nxState = .none →
    s.cad.st = .running → s.img.live = some l → l.desc.successor < 16 → s.img.committed = some img → ∃ t, exec .nextSetLoad s = .next t ∧
      t.img.live = some l ∧ t.img.nxPhase = l.desc.successor ∧ t.img.nxSrc = false ∧ t.img.shadow = s.img.shadow ∧
      OnlyEvents [Reg.IMG_STATUS] { s with img := t.img, free := t.free } t ∧ (s.isVsu = false → t.free = s.free) ∧
      (s.ownEnt img = none → t.img.nxState = .failed ∧ t.img.check.code = 0xB ∧
        t.flag Fld.IMG_STATUS_CHECK_FAIL = true) ∧
      (∀ e, s.ownEnt img = some e → l.desc.successor < img.nPhases → img.phOff e.secOff l.desc.successor ≠ 0 →
        (∀ f, s.setFail img e (img.phaseSet e.secOff l.desc.successor) false = some f → t.img.nxState = .failed ∧
          t.img.check = f ∧ t.flag Fld.IMG_STATUS_CHECK_FAIL = true) ∧
        (s.setFail img e (img.phaseSet e.secOff l.desc.successor) false = none → t.img.nxState = .loaded ∧
          t.img.next = some (img.phaseSet e.secOff l.desc.successor)))) ∧
  (∀ (s : State) (ps : PhaseSet) (img : Img) (e : DirEnt), s.awake = true → s.img.next = some ps →
    s.img.nxState = .failed → s.img.nxRoute = true → s.img.nxSrc = false → s.img.committed = some img →
    s.ownEnt img = some e → ∃ t, exec .nextSetRecheck s = .next t ∧ OnlyEvents [Reg.IMG_STATUS] { s with img := t.img } t ∧
      t.img.next = some ps ∧ t.img.live = s.img.live ∧
      (s.setFail img e ps s.img.nxChain = none → t = { s with img := { s.img with nxState := .loaded, nxRoute := false } }) ∧
      (∀ f, s.setFail img e ps s.img.nxChain = some f → t.img.nxState = .failed ∧ t.img.check = f ∧
        t.flag Fld.IMG_STATUS_CHECK_FAIL = true)) ∧
  (∀ (s : State) (ps : PhaseSet) (img : Img) (e : DirEnt) (f : ChkFail), s.awake = true → s.img.next = some ps →
    s.img.nxState = .loaded → s.img.nxSrc = false → s.img.committed = some img → s.ownEnt img = some e →
    s.setFail img e ps s.img.nxChain = some f → ∃ t, exec .nextSetRecheck s = .next t ∧ t.img.nxState = .failed ∧
      t.img.check = f ∧ t.img.live = s.img.live ∧ t.flag Fld.IMG_STATUS_CHECK_FAIL = true ∧
      OnlyEvents [Reg.IMG_STATUS] { s with img := t.img, cad := { s.cad with lost := t.cad.lost } } t)

/-! ### The exchange fabric (R203 to R256) -/

/-- The states of a port (R60, R218, R220): a DOWN port with TRAIN_EN whose peer's level is known enters TRAINING with the
peer's identity and without its delay entries, and a VSU or tile block takes the HDN that the peer sends; a VD port that is
not DOWN, or without TRAIN_EN, does not train. LINK_UP makes a port in TRAINING UP with fresh numbering and full credits,
and 5 ms without it DOWN. A lane that has lost lock, by 8 uncorrectable codewords in succession, or has passed UNCORR_LIMIT
within 1 ms takes an UP port to RETRAIN, counted, and loses its delay entry, as does a further lane of a port in RETRAIN;
the scheduled flits due on a port that leaves UP are dropped and counted in HOLES; a lane that has not stays. A lock takes
the port back to UP, but for lane 0 at step 3 or 5 of a lane swap; the third attempt of 2 ms takes it DOWN. Clearing ISOLATE
takes a port from ISOLATED to DOWN, but for one that is kept isolated. A link that ends loses its replay, and its side flits
are handled again. -/
def Obligations.LinkStatesFollowTraining : Prop :=
  ∀ (s : State) (p : Nat) (x : PortSt), x = s.port p →
    (∀ peer : TrainInfo, s.awake = true → p < s.nPorts → (s.isVsu = true → s.sb.ucRun = true) →
      (x.st = .down → (s.reg (Reg.XF_PORT_CFG + 8 * p)).getLsbD 1 = true → s.peerLevel p ≠ 0 → ∃ t,
        exec (.portTrainStart p peer) s = .next t ∧ (t.port p).st = .training ∧ (t.port p).sinceAt = s.time.now ∧
        (t.port p).peerId = peer.sender ∧ (t.port p).peerKind = peer.senderKind ∧ (t.port p).peerRole = peer.role ∧
        (t.port p).level = s.peerLevel p ∧ (∀ q, q ≠ p → t.port q = s.port q) ∧
        (∀ i, i < 4 → t.tdc.delays.has (laneOf p i) = false) ∧
        (s.isVd = true → t.ident = s.ident ∧ t.cad = s.cad) ∧
        (s.isVd = false → peer.run = none → t.cad = s.cad ∧
          ∀ h, peer.hdn = some h → t.ident = { s.ident with hdn := h % 16384 }) ∧
        OnlyEvents [Reg.HT_STATUS] { s with
          fab := { s.fab with ports := t.fab.ports }, tdc := t.tdc, time := { s.time with cls := t.time.cls },
          ident := t.ident, cad := t.cad } t) ∧
      (s.isVd = true → x.st ≠ .down ∨ (s.reg (Reg.XF_PORT_CFG + 8 * p)).getLsbD 1 = false →
        exec (.portTrainStart p peer) s = .next s)) ∧
    (x.st = .training → ∃ t, exec (.linkUp p) s = .next t ∧ t = (s.setPort p (t.port p)).reclass ∧ (t.port p).st = .up ∧
      (t.port p).credits = [32, 64, 128, 256] ∧ (t.port p).lseqTx = 0 ∧ (t.port p).rxNext = 0 ∧
      (t.port p).replay = [] ∧ (t.port p).upAt = s.time.now ∧ (t.port p).locked = 15) ∧
    (x.st ≠ .training → exec (.linkUp p) s = .next s ∧ exec (.trainTimeout p) s = .next s) ∧
    (x.st = .training → s.time.now - x.sinceAt ≥ 5 * msX → exec (.trainTimeout p) s =
      .next ((({ s with tdc := { s.tdc with firstRt := s.tdc.firstRt.del p } } : State).setPort p
        { x.cutLink with st := .down, sinceAt := s.time.now }).emptyQueues p false).reclass) ∧
    (∀ lane, lane < 4 → s.carriesOs p = true → lane ∉ x.retrainLanes →
      (8 ≤ x.unRun.getD lane 0 ∨ s.fld (Fld.at Fld.XF_PORT_CFG_UNCORR_LIMIT p) <
        ((x.unAt.getD lane []).filter fun t => decide (s.time.now - t < msX)).length → ∃ t,
        exec (.portRetrain p lane) s = .next t ∧ (t.port p).st = .retrain ∧
        (t.port p).retrainLanes = lane :: x.retrainLanes ∧ (t.port p).locked = x.locked &&& (15 - 2 ^ lane) ∧
        (x.st = .up → (t.port p).retrains = min 65535 (x.retrains + 1) ∧ t.flag Fld.XF_STATUS_RETRAIN = true) ∧
        (x.st = .up → (t.port p).txq = x.txq.filter (fun f => !isSched f) ∧
          ∀ c, c = Fld.XF_PORT_ERR_HOLES.at p → t.fld c = min (s.fld c + (x.txq.filter isSched).length) (2 ^ c.w - 1)) ∧
        (x.st = .retrain → (t.port p).txq = x.txq) ∧
        (∀ q, q ≠ p → ({ t.port q with rx := [] } : PortSt) = { s.port q with rx := [] }) ∧
        ∃ u, u = (s.setPort p (t.port p)).dropEntry (laneOf p lane) ∧
          OnlyEvents [Reg.XF_STATUS, (Fld.XF_PORT_ERR_HOLES.at p).reg] { u with fab := { u.fab with ports := t.fab.ports } } t) ∧
      (x.unRun.getD lane 0 < 8 → ((x.unAt.getD lane []).filter fun t => decide (s.time.now - t < msX)).length ≤
          s.fld (Fld.at Fld.XF_PORT_CFG_UNCORR_LIMIT p) → exec (.portRetrain p lane) s = .next s)) ∧
    (∀ swap : Prop, (swap ↔ 0 ∈ x.retrainLanes ∧
        ((s.tdc.swap.port = p ∧ (s.tdc.swap.step = 3 ∨ s.tdc.swap.step = 5)) ∨
          s.tdc.peerSwap.get p 0 = 3 ∨ s.tdc.peerSwap.get p 0 = 5)) →
      x.st = .retrain → ∃ t, exec (.retrainDone p) s = .next t ∧ t = (s.setPort p (t.port p)).reclass ∧
        (t.port p).st = .up ∧ (t.port p).fails = 0 ∧ (t.port p).upAt = s.time.now ∧ (t.port p).rx = x.rx ∧
        (t.port p).replay = x.replay ∧ (swap → (t.port p).retrainLanes = [0]) ∧
        (¬ swap → (t.port p).retrainLanes = [] ∧ (t.port p).locked = 15)) ∧
    (x.st = .retrain → s.time.now - x.sinceAt ≥ 2 * msX →
      (x.fails < 2 → exec (.retrainTimeout p) s =
        .next (s.setPort p { x with fails := x.fails + 1, sinceAt := s.time.now })) ∧
      (2 ≤ x.fails → ∃ t, exec (.retrainTimeout p) s = .next t ∧ t.flag Fld.XF_STATUS_LINK_DOWN = true ∧
        OnlyEvents [Reg.XF_STATUS]
          ((({ s with tdc := { s.tdc with firstRt := s.tdc.firstRt.del p } } : State).setPort p
            { x.cutLink with st := .down, sinceAt := s.time.now }).emptyQueues p false).reclass t)) ∧
    (p < s.nPorts → (s.mustIsolate p = true → exec (.portUnisolate p) s = .next s) ∧
      (s.mustIsolate p = false → x.st = .isolated → ∃ t, exec (.portUnisolate p) s = .next t ∧ (t.port p).st = .down ∧
        t.reg (Reg.XF_PORT_CFG + 8 * p) = s.reg (Reg.XF_PORT_CFG + 8 * p) &&& ~~~1 ∧
        OnlyRegs [Reg.XF_PORT_CFG + 8 * p] (s.setPort p (t.port p)) t))

/-- Frames of a port (R205, R206, R210, R221, R222): the oldest flit due leaves first, with the port's ACK and its FCRC; where
none may leave, the oldest ordered set; a CREDIT where one is owed, else IDLE. A flit with the LSEQ that comes next is taken
in, a side flit behind a missing LSEQ is kept, and one further on has what lies between asked for; a damaged frame leaves a
hole and all that is missing is asked for, at most 8 ranges in a request; a copy of an accepted flit is dropped. The 256
bytes of a flit are taken as the flit where FCRC holds over them, and as a damaged one where it does not, whichever bits it
fails by; and a frame with an unknown tag is counted. Every frame sent goes onto the port's lanes in its code (R204). A
RETRY_REQ has the flit resent, until a scheduled one has failed three times. Credits and re-fetches (R221, R231, R232,
R238): a CREDIT adds to each level's credits, at most its buffers, and frees the replay up to its ACK; a level whose credits
have stayed at 0 for SAT_US is saturated, with its event, also in RETRAIN. A REFETCH of a tile that the unit did not send in
this step is answered with reason 1, of one with a row that has lost its stamp with 2, of one that needs more RETRY slots
than are left with 3, and any other by the tile's flits; REFETCH_FAIL leaves the tile rejected. -/
def Obligations.FramesRetryAndCreditsReturn : Prop :=
  (∀ (s : State) (p : Nat) (x : PortSt), x = s.port p → s.awake = true → p < s.nPorts → x.st = .up →
     s.stg.writes = [] → s.stg.accs = [] →
     (s.flitsOn p = true → ∀ f r, x.txq = f :: r → ∃ t g, exec (.frameTx p) s = .next t ∧
       t = (s.setPort p (t.port p)).sendFrame p (.flit p g) ∧ (t.port p).txq = r ∧ g.lseq = f.lseq ∧
       g.body = f.body ∧ g.payload = f.payload ∧ g.ack = x.ackOf ∧ g.fcrc = flitCrc g ∧ g.tcrc = f.tcrc) ∧
     (s.flitsOn p = false ∨ x.txq = [] →
       (∀ o r, x.osq = o :: r → exec (.frameTx p) s = .next ((s.setPort p { x with osq := r }).sendFrame p (.oset p o))) ∧
       (x.osq = [] → x.crdLevel = none → x.ackOf = x.ackTx → exec (.frameTx p) s = .next (s.sendFrame p (.idle p))) ∧
       (x.osq = [] → x.crdLevel ≠ none ∨ x.ackOf ≠ x.ackTx → exec (.frameTx p) s =
         .next ((s.setPort p { x with owedCr := [0, 0, 0, 0], ackTx := x.ackOf }).sendFrame p
           (.oset p (.credit x.owedCr x.ackOf))))) ∧
     (∀ f : RxFrame, ((∃ lane, lane < 4 ∧ f = .uncorrectable lane) ∨ ∃ g : Flit, f = .flit g ∧ g.fcrc ≠ flitCrc g) → ∃ t,
       exec (.flitRx p f) s = .next t ∧ (t.port p).rxNext = (x.rxNext + 1) % 4096 ∧
       (t.port p).rxMiss = (x.rxMiss ++ [x.rxNext]).filter
         (fun m => decide (((x.rxNext + 1) % 4096 + 4096 - m) % 4096 ≤ 1024)) ∧
       (t.port p).rx.length = x.rx.length + 1 ∧
       (t.port p).osq = x.osq ++ (eights (t.port p).rxMiss.length
         (lseqRanges (t.port p).rxMiss.length (t.port p).rxMiss)).map .retryReq ∧
       (∀ lane, f = .uncorrectable lane → x.unRun.length = 4 →
         (t.port p).unRun.getD lane 0 = min 8 (x.unRun.getD lane 0 + 1)) ∧
       (t.port p).st = .up ∧ t.fab.ram = s.fab.ram ∧ t.time = s.time) ∧
     (∀ (g : Flit) (y : PortSt),
       y = ({ x with unRun := [0, 0, 0, 0] }.addCredit (g.crdLevel % 4) g.crdCount).takeAck g.ack → g.fcrc = flitCrc g →
       (g.lseq % 4096 = x.rxNext → x.sideHold = [] → isSched g = false → schedSignal g = false →
         (x.rxMiss = [] → exec (.flitRx p (.flit g)) s =
           .next ((s.setPort p { y with rxNext := (x.rxNext + 1) % 4096 }).routeFlit (some p) g)) ∧
         (∀ m, x.rxMiss = [m] → lseqLe g.lseq m = false → ((x.rxNext + 1) % 4096 + 4096 - m) % 4096 ≤ 1024 →
           exec (.flitRx p (.flit g)) s =
             .next (s.setPort p { y with rxNext := (x.rxNext + 1) % 4096, sideHold := [g] }))) ∧
       (g.lseq % 4096 = x.rxNext → isSched g = true → g.resent = false → s.isVd = true → s.fab.passAt = none →
         x.sideHold = [] → ∃ t u, exec (.flitRx p (.flit g)) s = .next t ∧ (t.port p).rx = x.rx ++ [u] ∧
           u.flit = some (s.nameSource p g) ∧ (t.port p).rxNext = (x.rxNext + 1) % 4096 ∧ t = s.setPort p (t.port p)) ∧
       (∀ n, (g.lseq % 4096 + 4096 - x.rxNext) % 4096 = n → 0 < n → n < 2048 →
         x.rxMiss.contains (g.lseq % 4096) = false → isSched g = true → g.resent = false → s.isVd = true →
         s.fab.passAt = none → x.sideHold = [] → ∃ t, exec (.flitRx p (.flit g)) s = .next t ∧
           (t.port p).rxNext = (g.lseq % 4096 + 1) % 4096 ∧ (t.port p).rx.length = x.rx.length + n + 1 ∧
           (t.port p).osq = x.osq ++ (eights n (lseqRanges n
             ((upto n).map fun i => (x.rxNext + i) % 4096))).map .retryReq ∧
           t = s.setPort p (t.port p)) ∧
       (x.rxMiss.contains (g.lseq % 4096) = false → 2048 ≤ (g.lseq % 4096 + 4096 - x.rxNext) % 4096 →
         exec (.flitRx p (.flit g)) s = .next (s.setPort p y))) ∧
     (∀ (tag : Nat) (c : List Byte),
       (∀ g, (fcrcOk c = true ∧ flitOf c = some g ∧ g.fcrc = flitCrc g) ∨ (fcrcOk c = false ∧ g.fcrc ≠ flitCrc g) →
         exec (.flitRx p (.frame 0x0F c)) s = exec (.flitRx p (.flit g)) s) ∧
       (tag ≠ 0x0F → tag ≠ 0x33 → tag ≠ 0x55 → exec (.flitRx p (.frame tag c)) s =
         .next ((s.setPort p { x with unRun := [0, 0, 0, 0] }).addCount ((Fld.XF_PORT_ERR_UNCORR).at p) 1)) ∧
       (tag = 0x55 ∨ (tag = 0x33 ∧ osOf c = none) → exec (.flitRx p (.frame tag c)) s =
         .next (s.setPort p { x with unRun := [0, 0, 0, 0] }))) ∧
     (∀ r : Replay, r.lseq < 4096 → x.replay.find? (fun e => e.lseq == r.lseq) = some r →
       (r.flit = none → exec (.retryReqRx p [(r.lseq, r.lseq)]) s = .next s) ∧
       (∀ f : Flit, r.flit = some f → (x.resendSched ++ x.resendSide).any (fun g => g.lseq == r.lseq) = false →
         (r.sched = false → exec (.retryReqRx p [(r.lseq, r.lseq)]) s = .next ((s.setPort p { x with
           replay := x.replay.map fun e => if e.lseq == r.lseq then { e with resends := e.resends + 1 } else e,
           resendSide := x.resendSide ++ [{ f with resent := true }] }).addCount ((Fld.XF_PORT_ERR_RETRY).at p) 1)) ∧
         (r.sched = true → r.resends < 3 → exec (.retryReqRx p [(r.lseq, r.lseq)]) s = .next ((s.setPort p { x with
           replay := x.replay.map fun e => if e.lseq == r.lseq then { e with resends := e.resends + 1 } else e,
           resendSched := insertLseq { f with resent := true } x.resendSched }).addCount
             ((Fld.XF_PORT_ERR_RETRY).at p) 1)) ∧
         (r.sched = true → 3 ≤ r.resends → exec (.retryReqRx p [(r.lseq, r.lseq)]) s = .next ((s.setPort p { x with
           replay := x.replay.filter fun e => e.lseq != r.lseq }).addCount ((Fld.XF_PORT_ERR_HOLES).at p) 1))))) ∧
  (∀ (s : State) (p : Nat) (x : PortSt), x = s.port p → s.awake = true → s.carriesOs p = true →
     (∀ (cr : List Nat) (ack : Nat), x.credits.length = 4 → x.zeroAt.length = 4 →
       (∀ l, l < 4 → x.credits.getD l 0 ≤ bufOf l) → ∃ t, exec (.creditRx p cr ack) s = .next t ∧
         t = s.setPort p (t.port p) ∧
         (∀ l, l < 4 → (t.port p).credits.getD l 0 = min (bufOf l) (x.credits.getD l 0 + cr.getD l 0) ∧
           (cr.getD l 0 ≠ 0 → Nat.testBit (t.port p).sat l = false)) ∧
         ∀ r, r ∈ (t.port p).replay ↔ r ∈ x.replay ∧ lseqLe r.lseq ack = false) ∧
     (∀ l t0, l < 4 → x.zeroAt.getD l none = some t0 → Nat.testBit x.sat l = false →
       (s.time.now - t0 ≥ s.fld Fld.XF_CTRL_SAT_US * usX → ∃ t, exec (.creditSaturation p l) s = .next t ∧
         (t.port p).sat = x.sat ||| 2 ^ l ∧ t.flag Fld.XF_STATUS_SATURATED = true ∧
         OnlyEvents [Reg.XF_STATUS] (s.setPort p (t.port p)) t) ∧
       (s.time.now - t0 < s.fld Fld.XF_CTRL_SAT_US * usX → exec (.creditSaturation p l) s = .next s)) ∧
     (∀ (wsc slot mask tile : Nat) (fails : Nat → Prop),
       (∀ n, fails n ↔ ∃ t, exec (.refetchRx p wsc slot mask tile) s = .next t ∧
         t.flag Fld.XF_STATUS_REFETCH_FAIL = true ∧
         OnlyEvents [Reg.XF_STATUS] (s.setPort p { x with osq := x.osq ++ [.refetchFail wsc slot mask tile n] }) t) →
       (s.isVd = false ∨ s.fab.origin.find? (fun e => e.1 == tile) = none ∨ s.cad.st ≠ .running ∨ wsc ≠ s.wsc16 → fails 1) ∧
       (∀ src parts, s.isVd = true → s.cad.st = .running → wsc = s.wsc16 →
         s.fab.origin.find? (fun e => e.1 == tile) = some (tile, src, parts) →
         ((∃ e, e ∈ parts ∧ s.rereadFlit src e.2.1 = none) → fails 2) ∧
         (∀ ds, parts.map (fun (e : Nat × Nat × Nat) => (s.rereadFlit src e.2.1).map fun d => (e.1, e.2.2, d)) = ds.map some →
           (s.retryLeft p < (s.refetchFlits tile mask ds).length → fails 3) ∧
           ((s.refetchFlits tile mask ds).length ≤ s.retryLeft p → exec (.refetchRx p wsc slot mask tile) s =
             .next (s.setPort p { x with refetch := x.refetch ++ s.refetchFlits tile mask ds })))) ∧
       (∀ reason, ∃ t, exec (.refetchFailRx p wsc slot mask tile reason) s = .next t ∧
         t.flag Fld.XF_STATUS_REFETCH_FAIL = true ∧ OnlyEvents [Reg.XF_STATUS, Reg.XF_REJECT_LOG] s t ∧
         (x.peerKind = 0 → (s.reg Reg.XF_REJECT_LOG).toNat % 2 ^ 53 =
           wsc % 65536 + tile % 2 ^ 20 * 2 ^ 16 + x.peerId % 4096 * 2 ^ 36 + 16 * 2 ^ 48 →
           t.fld Fld.XF_REJECT_LOG_OUTCOME = 2))))

/-- Slots (R175 to R177, R191, R225, R230, R233, R253): in a slot whose one entry forwards a receive port to a port that carries
flits, the next slot unit's flit leaves there with that port's next LSEQ; while no pass runs every port has a side slot, in
which a pending resend goes first, else a flit of the next level that has a credit; a scheduled SIGNAL is applied when what
came before it on its port has been consumed; a route commit takes effect at once while IDLE or HELD and waits for the next
boundary while RUNNING. -/
def Obligations.SlotsRunTheTable : Prop :=
  ∀ s : State, s.isVd = true → s.awake = true →
    (∀ (b : W) (ps : PhaseSet) (r : Run) (o src : Nat) (f : Flit), s.fab.passAt = some b → s.img.live = some ps →
      s.fab.dieWait = [] → s.fab.asm = [] → s.stg.writes = [] → s.stg.accs = [] → ps.cmbs = [] → ps.outs = List.replicate o [] ++ [[r]] → r.action = 1 → r.source = src →
      r.len = ps.desc.tableSlots → 0 < r.len → o < 64 → src < 64 → s.halfRate o = false → s.halfRate src = false →
      s.fab.slot < slotsIn ps.desc.stepNs → s.slotDue b s.fab.slot = true → s.flitsOn (s.physPort o) = true →
      ((s.port (s.physPort src)).rx[(s.port (s.physPort src)).unitIdx]?).bind (·.flit) = some f →
      ∃ t, exec .slotStart s = .next t ∧ t.fab.slot = s.fab.slot + 1 ∧
        (t.port (s.physPort o)).txq = (s.port (s.physPort o)).txq ++
          [{ f with level := 0, resent := false, crdLevel := 0, crdCount := 0, lseq := (s.port (s.physPort o)).lseqTx }] ∧
        (t.port (s.physPort o)).lseqTx = ((s.port (s.physPort o)).lseqTx + 1) % 4096 ∧
        (t.port (s.physPort src)).unitIdx = (s.port (s.physPort src)).unitIdx + 1 ∧
        t.regs = s.regs ∧ t.fab.ram = s.fab.ram ∧ t.spk = s.spk) ∧
    (s.fab.passAt = none → s.fab.dieWait = [] → ∃ t, exec .slotStart s = .next t ∧
      t = { s with fab := { s.fab with ports := t.fab.ports } } ∧
      (∀ p f r, p < 64 → s.flitsOn p = true → (s.port p).resendSide = f :: r →
        (t.port p).txq = (s.port p).txq ++ [f] ∧ (t.port p).resendSide = r ∧ (t.port p).credits = (s.port p).credits) ∧
      (∀ p l g src r, p < 64 → s.flitsOn p = true → (s.port p).resendSide = [] →
        (afterLevel (s.port p).lastLvl).find? (fun l => !((s.port p).q.getD l []).isEmpty &&
          decide (0 < (s.port p).credits.getD l 0)) = some l → (s.port p).q.getD l [] = (src, g) :: r →
        (t.port p).txq = (s.port p).txq ++ [{ g with lseq := (s.port p).lseqTx }] ∧ (t.port p).q.getD l [] = r ∧
        (t.port p).credits.getD l 0 = (s.port p).credits.getD l 0 - 1 ∧ (t.port p).lastLvl = l)) ∧
    (∀ p n phys inc r, (s.port p).sigWait = (n, phys, inc) :: r →
      ((∃ i, i < n ∧ s.unitConsumed p i = false) → exec (.schedSignalApply p) s = .next s) ∧
      ((∀ i, i < n → s.unitConsumed p i = true) → s.diePortOf p = false → phys < 16384 →
        (s.meta phys).st = .live → s.holdsRejected = false →
        ∃ t, exec (.schedSignalApply p) s = .next t ∧ (t.port p).sigWait = r ∧
          t.spkVal phys = s.spkVal phys + BitVec.ofNat 64 inc ∧ (∀ q, q ≠ phys → t.spkVal q = s.spkVal q) ∧
          t.fab.ram = s.fab.ram)) ∧
    (s.cad.st ≠ .running → ∃ t, exec .routeCommit s = .next t ∧ t.flag Fld.XF_STATUS_ROUTE_COMMIT = true ∧
      OnlyEvents [Reg.XF_STATUS] { s with fab := { s.fab with
        dnoAct := s.tableOf Reg.XF_DNO 4096, podAct := s.tableOf Reg.XF_POD_ROUTE 32, routeP := false,
        holdDst := t.fab.holdDst, holdDie := t.fab.holdDie } } t) ∧
    (s.cad.st = .running → exec .routeCommit s = .next { s with fab := { s.fab with routeP := true } })

/-- Side requests at their destination (R242, R243, R244, R502): a READ of main memory is answered with the bytes, a WRITE whose
TCRC fails with CORRUPT and no effect, a good one stores its bytes and no other; a FENCE waits and is answered behind the
requests before it; READ_SPK returns the value of a sprocket that holds one; an unused OP is answered BAD_OP; and every one
of them is DENIED without effect while SIDE_EN is 0. A VSU passes a READ on to its host die, with the link fields of its
header as received. An answer to another unit is one side message on the port of its route. Side requests and BAR2 accesses
of the unit's own (R243, R244, R246, R247): an answer completes its request and frees the tag; a CORRUPT write is sent
again, at most three times; a request without an answer for TIMEOUT_US is logged with TIMEOUT. A host access behind an
enabled aperture of the unit's own memory reads and writes exactly its bytes; one that is misaligned, or behind an aperture
that is not enabled, completes a read with Completer Abort and a write without effect, both logged. -/
def Obligations.SideRequestsCompleteAtBothEnds : Prop :=
  ((∀ (s : State) (r : SideReq) (st q : Nat) (d : List Byte), r.dno ≠ s.srcDno →
     s.exit (s.route s.srcDno r.dno (subDie r.sub)) = .port q →
     s.respond r st d = s.queueFlits q none (sideFlits (.sideRsp st r.tag r.dno r.sub) (s.levelTo r.dno) d)) ∧
   (∀ (s : State) (p : Nat) (r : SideReq), s.isVd = true → s.awake = true → s.portUp p = true →
     hallUnit r.addr = s.ident.dno → r.dno ≠ s.ident.dno → entKind (s.dnoEnt s.ident.dno) ≠ 3 →
     (s.flag Fld.MEM_CTRL_SIDE_EN = false →
       exec (.sideRead p r) s = .next (s.respond r 2 []) ∧ exec (.sideFence p r) s = .next (s.respond r 2 []) ∧
       (∀ d c, exec (.sideWrite p r d c) s = .next (s.respond r 2 [])) ∧
       (4 ≤ r.op → exec (.sideBadOp p r) s = .next (s.respond r 2 [])) ∧
       (Nat.testBit r.addr 20 = false → exec (.readSpk p r) s = .next (s.respond r 2 []))) ∧
     (s.flag Fld.MEM_CTRL_SIDE_EN = true →
       (∀ a n, a = r.addr % 2 ^ 40 → n = 8 * (r.len8 + 1) → a % 8 = 0 → a % 4096 + n ≤ 4096 → a < memEnd →
         exec (.sideRead p r) s = .next (s.respond r 0 (Memory.readBytes s.fab.ram a n)) ∧
         (∀ d c, crc64 d ≠ c → exec (.sideWrite p r d c) s = .next (s.respond r 7 [])) ∧
         (∀ d, ∃ t, exec (.sideWrite p r d (crc64 d)) s = .next t ∧ Memory.readBytes t.fab.ram a n = padTo n d ∧
           MemoryFrame a n s t ∧ t.regs = s.regs ∧ t.spk = s.spk)) ∧
       exec (.sideFence p r) s =
         .next { s with fab := { s.fab with fences := s.fab.fences ++ [⟨r.dno, r.sub, r.tag, 2, 0⟩] } } ∧
       (r.addr % 2 ^ 40 < 16384 → (s.meta (r.addr % 2 ^ 40)).st = .live → exec (.readSpk p r) s =
         .next (s.respond r 0 (leBytes 8 (s.spkVal (r.addr % 2 ^ 40)).toNat))) ∧
       (4 ≤ r.op → exec (.sideBadOp p r) s = .next (s.respond r 5 []))) ∧
     (∀ x rest, s.fab.fences = x :: rest → exec .fenceComplete s =
       .next (({ s with fab := { s.fab with fences := rest } } : State).reply x.dno x.sub x.tag 0 []))) ∧
   ∀ (s : State) (p : Nat) (r : SideReq), s.isVd = false → s.awake = true → s.portUp p = true →
     s.flag Fld.MEM_CTRL_SIDE_EN = true → exec (.sideRead p r) s = .next { s with
       fab := { s.fab with serving := s.fab.serving ++ [⟨r.dno, r.sub, r.tag, 0, r.len8⟩] },
       out := s.out ++ (asReceived (sideFlits (.sideReq 0 r.tag r.addr r.len8 r.sub r.dno) 0 []) r.link).map fun f => .srx 1 f }) ∧
  ((∀ (s : State) (r : SideOut) (d : List Byte) (h : List FlitLink), s.awake = true →
     s.fab.side.find? (fun x => x.tag == r.tag) = some r → s.fab.sideWait = [] →
     (r.use = .bar2Write → ∃ t, exec (.sideRspRx ⟨r.tag, h⟩ 0 d) s = .next t ∧
       t = { s with fab := { s.fab with side := s.fab.side.filter (fun x => x.tag != r.tag), holdDst := t.fab.holdDst } }) ∧
     (r.op = 1 → r.tries < 3 → exec (.sideRspRx ⟨r.tag, h⟩ 7 d) s =
       .next (({ s with fab := { s.fab with side := s.fab.side.filter fun x => x.tag != r.tag } } : State).sideSend
         { r with tries := r.tries + 1 })) ∧
     (r.use = .bar2Write → s.time.now - r.sentAt ≥ s.fld Fld.MEM_CTRL_TIMEOUT_US * usX → ∃ t,
       exec (.sideReqTimeout r.tag) s = .next t ∧ t.flag Fld.MEM_STATUS_TIMEOUT = true ∧
       t.reg Reg.MEM_ERR_LOG = mkw [(0, r.addr % 2 ^ 52), (52, 6), (56, r.op % 16), (60, 1)] ∧
       OnlyEvents [Reg.MEM_STATUS, Reg.MEM_ERR_LOG] { s with fab := { s.fab with
         side := s.fab.side.filter (fun x => x.tag != r.tag), holdDst := t.fab.holdDst } } t) ∧
     (s.time.now - r.sentAt < s.fld Fld.MEM_CTRL_TIMEOUT_US * usX → exec (.sideReqTimeout r.tag) s = .next s)) ∧
   (∀ (s : State) (off len a : Nat) (d : List Byte), s.hasBar2 = true → off + len ≤ 2 ^ 36 → 0 < len → d.length = len →
     (∀ e, e ∈ s.fab.bar2 → e.1 < s.fab.bar2No) →
     (bar2Aligned off len = true → s.aperture off = some a → len ≤ 3584 → off % 4096 + len ≤ 4096 →
       s.route s.srcDno (hallUnit a) none = .loc → s.fab.side.length < 4096 → s.pairHeld (hallUnit a) = false →
       (∀ w, w ∈ s.fab.side → w.op ≠ 1) → a % 2 ^ 40 < memEnd →
       exec (.bar2Read off len) s = .next { s with
         fab := { s.fab with bar2No := s.fab.bar2No + 1, nextTag := (s.freeTag + 1) % 4096 },
         out := s.out ++ [.bar2Done 0 (Memory.readBytes s.fab.ram (a % 2 ^ 40) len)] } ∧
       ∃ t, exec (.bar2Write off d) s = .next t ∧ Memory.readBytes t.fab.ram (a % 2 ^ 40) len = d ∧
         MemoryFrame (a % 2 ^ 40) len s t ∧
         t = { s with fab := { s.fab with ram := t.fab.ram, nextTag := (s.freeTag + 1) % 4096 } }) ∧
     (bar2Aligned off len = false ∨ (s.aperture off = none ∧ len ≤ 3584 ∧ off % 4096 + len ≤ 4096) →
       (∃ t, exec (.bar2Read off len) s = .next t ∧ t.out.getLast? = some (.bar2Done 1 []) ∧
         t.flag Fld.MEM_STATUS_ERROR = true ∧
         OnlyEvents [Reg.MEM_STATUS, Reg.MEM_ERR_LOG] { s with fab := { s.fab with bar2No := s.fab.bar2No + 1 } } t) ∧
       ∃ t, exec (.bar2Write off d) s = .next t ∧ t.flag Fld.MEM_STATUS_ERROR = true ∧
         OnlyEvents [Reg.MEM_STATUS, Reg.MEM_ERR_LOG] s t)))

/-- Remote SIGNALs and the ports of a VSU (R250, R251, R252, R436, R438, R439, R443, R445, R446): a record is judged once, in
the order of SEQ: applied when it is new and fresh, and without effect on any sprocket when its SEQ was judged before, it is
stale, or its sprocket does not accept it; an acknowledgement retires records, a refusal gives one up with SPK_UNREACHABLE,
a second one for the same ACK_SEQ has no effect, 100 µs send it again under the same SEQ and 4 ms give it up. A payload of
the host die's joins its queue of 32; a side message is gathered whole before it is sent, a SIGNAL with the unit itself as
its source; an answer on the memory port frees its tag. A beat or request that comes while its ready bit is 0 has no effect. -/
def Obligations.SignalRecordsAreJudgedOnce : Prop :=
  (∀ (s : State) (p dno sub : Nat) (r : SigRec), s.awake = true → s.portUp p = true → s.diePortOf p = false → r.seq ≠ 0 →
    (serialHigher 32 r.seq (s.fab.judge.get (dno * 32 + sub) {}).last = false →
      exec (.signalFlitRx p dno sub s.srcSub [r]) s = .next (s.ackPair dno sub)) ∧
    (serialHigher 32 r.seq (s.fab.judge.get (dno * 32 + sub) {}).last = true →
      (s.staleSig r.sentUs = true ∨ s.nakOf r.phys ≠ 0 → ∃ t,
        exec (.signalFlitRx p dno sub s.srcSub [r]) s = .next t ∧ t.spk = s.spk ∧
        (t.fab.judge.get (dno * 32 + sub) {}).last = r.seq ∧
        (t.fab.judge.get (dno * 32 + sub) {}).applied = (s.fab.judge.get (dno * 32 + sub) {}).applied ∧
        t.regs = s.regs ∧ t.fab.ram = s.fab.ram) ∧
      (s.staleSig r.sentUs = false → s.isFore = false → r.phys < s.nSpk → (s.meta r.phys).st = .live → s.holdsRejected = false →
        serialHigher 32 r.seq (s.fab.judge.get (dno * 32 + sub) {}).applied = true → ∃ t,
          exec (.signalFlitRx p dno sub s.srcSub [r]) s = .next t ∧
          t.spkVal r.phys = s.spkVal r.phys + BitVec.ofNat 64 r.inc ∧
          (∀ q, q ≠ r.phys → t.spkVal q = s.spkVal q) ∧
          (t.fab.judge.get (dno * 32 + sub) {}).last = r.seq ∧
          (t.fab.judge.get (dno * 32 + sub) {}).applied = r.seq ∧ t.fab.ram = s.fab.ram))) ∧
  (∀ (s : State) (dno sub seq st : Nat), s.awake = true → (dno, sub, seq) ∈ s.fab.sigActed →
    exec (.sigAckRx dno sub seq st) s = .next s) ∧
  (∀ (s : State) (dno sub seq : Nat), s.awake = true → s.fab.sideWait = [] → (dno, sub, seq) ∉ s.fab.sigActed →
    (∃ t, exec (.sigAckRx dno sub seq 0) s = .next t ∧
      t = { s with fab := { s.fab with holdDst := t.fab.holdDst, sigActed := t.fab.sigActed, sigOut := s.fab.sigOut.filter fun o =>
        !(o.isTo dno sub && !serialHigher 32 o.record.seq seq) } }) ∧
    ∀ st o, st ≠ 0 → s.fab.sigOut.find? (fun o => o.isTo dno sub && o.record.seq == seq) = some o →
      ∃ t, exec (.sigAckRx dno sub seq st) s = .next t ∧ t.fab.sigOut = s.fab.sigOut.erase o ∧
        t.flag Fld.SPK_STATUS_UNREACHABLE = true ∧ t.flag Fld.MEM_STATUS_SIG_UNREACHABLE = true ∧
        OnlyEvents [Reg.SPK_STATUS, Reg.MEM_STATUS]
          { s with fab := { s.fab with sigOut := t.fab.sigOut, sigActed := t.fab.sigActed, holdDst := t.fab.holdDst } } t) ∧
  (∀ s : State, s.awake = true →
    (∃ t, exec .signalResend s = .next t ∧
      t = { s with fab := { s.fab with sigOut := t.fab.sigOut, ports := t.fab.ports } } ∧
      t.fab.sigOut = s.fab.sigOut.map fun o =>
        if s.time.now - o.lastAt ≥ 100 * usX then { o with lastAt := s.time.now } else o) ∧
    (s.fab.sideWait = [] → ∃ t, exec .signalGiveUp s = .next t ∧
      (∀ o, o ∈ t.fab.sigOut ↔ o ∈ s.fab.sigOut ∧ s.time.now - o.firstAt < 4 * msX) ∧
      OnlyEvents [Reg.SPK_STATUS, Reg.MEM_STATUS]
        { s with fab := { s.fab with sigOut := t.fab.sigOut, holdDst := t.fab.holdDst } } t ∧
      ((∃ o, o ∈ s.fab.sigOut ∧ s.time.now - o.firstAt ≥ 4 * msX) →
        t.flag Fld.SPK_STATUS_UNREACHABLE = true ∧ t.flag Fld.MEM_STATUS_SIG_UNREACHABLE = true))) ∧
  (∀ (s : State) (q lvl p : Nat) (h : FlitBody) (l : Bool) (b : List Byte), s.isVd = false →
    (s.stxReady q = false → exec (.streamTxBeat false q h lvl l b) s = .next s) ∧
    (s.stxSready = false → exec (.streamTxBeat true q h lvl l b) s = .next s) ∧
    (s.spkReady p = false → ∀ (c i tag op : Nat) (v : W), exec (.spkSignal ⟨.vsuPort p, tag, op⟩ c i v) s = .next s)) ∧
  (∀ (s : State) (q lvl : Nat) (h : FlitBody) (l : Bool) (b : List Byte), s.isVd = false → s.awake = true →
    (q < s.hostQueues → (s.fab.stq.get q []).length < 32 → exec (.streamTxBeat false q h lvl l b) s =
      .next { s with fab := { s.fab with stq := s.fab.stq.set q (s.fab.stq.get q [] ++ [padTo 224 b]) } }) ∧
    (s.sideBuf < 32 → exec (.streamTxBeat true q h lvl false b) s =
      .next { s with fab := { s.fab with stMsg := s.fab.stMsg ++ [b] } }) ∧
    (∀ dd ds c sd ss, h = .signal dd ds c sd ss → s.sideBuf < 32 → s.portUp 0 = true → s.signalWaits dd = false →
      exec (.streamTxBeat true q h lvl true b) s =
        .next (({ s with fab := { s.fab with stMsg := [] } } : State).queueFlits 0 none
          (sideFlits (.signal dd ds c s.srcDno s.srcSub) (s.hostLevel lvl)
            (((s.fab.stMsg ++ [b]).flatMap (padTo 224)).take (16 * c)))))) ∧
  (∀ (s : State) (tag : Nat) (d : List Byte), s.fab.mem.find? (fun e => e.1 == tag) = some (tag, .imageWrite) →
    s.fab.memQ = [] →
    exec (.memPortResponse tag d false) s =
      .next { s with fab := { s.fab with mem := s.fab.mem.del tag, memWr := s.fab.memWr.del tag } } ∧
    ∃ t, exec (.memPortResponse tag d true) s = .next t ∧ t.img.shState = .failed ∧ t.img.check.code = 9 ∧
      t.flag Fld.IMG_STATUS_CHECK_FAIL = true ∧ t.fab.ram = s.fab.ram)

/-- The forms on the wire say everything they carry (R204, R205, R207, R209, R210, R212 to R216, R451): of every ordered set,
flit and sideband cell whose operands lie in their fields, what is read from its bytes is itself, so that no field is
dropped and no two overlap; the four quarters of a frame give its tag and its content back; and what is scrambled on a lane
(R204) descrambles to itself, from one history on both sides, as a symbol's Gray-coded levels give it back. It says that no
bit is lost, not where one stands. The offset of the ACK in a CREDIT is the model's choice (log entry 150), and so is the
bit order of a cell's CRC-16 (log entry 161). -/
def Obligations.WireFormsRoundTrip : Prop :=
  (∀ o : OSet, o.wf = true → (osBytes o).length = 256 ∧ osOf (osBytes o) = some o) ∧
  (∀ f : Flit, f.wf = true → (flitBytes f).length = 256 ∧ flitOf (flitBytes f) = some f) ∧
  (∀ c : Cell, c.wf = true → cellOf (cellBits c) = some c) ∧
  (∀ (tag : Nat) (content : List Byte), tag < 256 → content.length = 256 →
    frameOfQuarters ((upto 4).map (quarter tag content)) = (tag, content)) ∧
  (∀ n h w : Nat, h < 2 ^ 58 → w < 2 ^ n →
    scramble true n h (scramble false n h w).2 = ((scramble false n h w).1, w)) ∧
  (∀ sym, sym < 1024 → symOf (grayOf sym) = sym ∧ (grayOf sym).length = 5 ∧ ∀ v, v ∈ grayOf sym → v < 4)

/-- Reads of the log and count registers (R47, R255, R256, R305, R333, R334, R377, R431): each returns the register's value and
clears its RC fields, and touches no other register; a path that does not reach the register reads 0 and touches nothing; a
read of another size or alignment, or on a path that carries none, fails without effect (R487, R489). -/
def Obligations.LogReadsReturnAndClear : Prop :=
  ∀ (n : Nat) (c : ReadVia → Instr) (a : Nat),
    ((c, a) = (.tdcStatusRead, Reg.TDC_STATUS) ∨ (c, a) = (.tdcFifoStatusRead, Reg.TDC_FIFO_STATUS) ∨
     (c, a) = (.xfRejectLogRead, Reg.XF_REJECT_LOG) ∨ (c, a) = (.xfPortErrRead n, Reg.XF_PORT_ERR + 8 * n) ∨
     (c, a) = (.xfLaneStatusRead n, Reg.XF_LANE_STATUS + 8 * n) ∨ (c, a) = (.memErrLogRead, Reg.MEM_ERR_LOG) ∨
     (c, a) = (.cmbXsLogRead, Reg.CMB_XS_LOG) ∨ (c, a) = (.cmbMoeCountRead, Reg.CMB_MOE_COUNT) ∨
     (c, a) = (.cmbSpecialRead, Reg.CMB_SPECIAL) ∨ (c, a) = (.tilFaultLogRead, Reg.TIL_FAULT_LOG) ∨
     (c, a) = (.stgFaultLogRead, Reg.STG_FAULT_LOG) ∨ (c, a) = (.stgCountRead, Reg.STG_COUNT) ∨
     (c, a) = (.fltSwapLogRead, Reg.FLT_SWAP_LOG) ∨ (c, a) = (.evqStatusRead, Reg.EVQ_STATUS)) →
    OtherReadsFail c ∧ ∀ (s : State) (v : ReadVia), s.Carries v →
      (s.reach v.path a = true → ∃ t, exec (c v) s = .next t ∧
        OnlyRegs [a] { s with out := s.out ++ [.readData v.path (s.readReg v.path a)] } t ∧
        t.reg a = s.reg a &&& ~~~ rcMask a) ∧
      (s.reach v.path a = false → exec (c v) s = .next { s with out := s.out ++ [.readData v.path 0] })

/-! ### The combiner, the tile array and staging (R257 to R334) -/

/-- EXACT sums are free of order and tree shape (R276): frames give one sum in every order, and the sum of the sums of parts is
the sum of the whole. -/
def Obligations.ExactSumsAreFreeOfOrder : Prop :=
  (∀ l r : List Frame, l.Perm r → l.foldl Frame.add {} = r.foldl Frame.add {}) ∧
  (∀ ls : List (List Frame), (ls.map fun l => l.foldl Frame.add {}).foldl Frame.add {} = ls.flatten.foldl Frame.add {})

/-- A reduction's result (R260, R261) is formed from its verified inputs while its cell is clocked and no earlier instruction of
the cell is unfinished: flits are appended to the results of its first cell's source, and no other result, memory, sprocket
or time changes; the element that is formed of an EXACT sum is the exact sum over the contributors. -/
def Obligations.ReductionAppendsItsResult : Prop :=
  ∀ (s : State) (ps : PhaseSet) (i : Nat) (c : CmbInstr) (r : CellRun), s.awake = true → s.clk.cmbCur ≠ 7 →
    s.img.live = some ps → ps.cmbs[i]? = some c →
    s.cmb.runs.find? (fun x => x.instr == i && !x.done) = some r → s.badInput ps c r = none → s.waitsFor ps i c = false →
    c.famR = true → ∃ t fs, exec (.cmbResultReady i) s = .next t ∧
      t.cmb.results.get (64 + c.cell0) [] = s.cmb.results.get (64 + c.cell0) [] ++ fs ∧
      (∀ q, q ≠ 64 + c.cell0 → t.cmb.results.get q [] = s.cmb.results.get q []) ∧
      OnlyEvents [Reg.CMB_STATUS, Reg.CMB_XS_LOG, Reg.CMB_SPECIAL] { s with cmb := t.cmb } t ∧
      (c.opcode = 1 → c.mode = 1 → c.fmtR ≠ 14 → c.sr = false →
        (readyCount (s.streams ps c r)).2 = true → fs = resFlits r.formed
          ((toFlits (streamBytes c.fmtR (c.opnd.getLsbD 44) (fun _ => .even)
            ((List.range (readyCount (s.streams ps c r)).1).map fun k =>
              (((s.streams ps c r).map Stm.frames).filterMap (fun l => l[k]?) |>.foldl Frame.add {}).val)).1).length / 224)
          ((toFlits (streamBytes c.fmtR (c.opnd.getLsbD 44) (fun _ => .even)
            ((List.range (readyCount (s.streams ps c r)).1).map fun k =>
              (((s.streams ps c r).map Stm.frames).filterMap (fun l => l[k]?) |>.foldl Frame.add {}).val)).1).length / 224)
          (toFlits (streamBytes c.fmtR (c.opnd.getLsbD 44) (fun _ => .even)
            ((List.range (readyCount (s.streams ps c r)).1).map fun k =>
              (((s.streams ps c r).map Stm.frames).filterMap (fun l => l[k]?) |>.foldl Frame.add {}).val)).1))

/-- Seeds and the random register (R294, R295, R305): a seed is written while IDLE or HELD and refused with SEED_REFUSED while
RUNNING; a write of CMB_RAND_CTR1 starts the encryption of the counter as it then stands and clears RAND_READY; its end sets
RAND_READY and shows the block, for PURPOSE 15, and zeros otherwise. A forerunner block, which has no such register, keeps
its state. The tile array (R306, R313, R315, R318, R319): an instruction whose start has come on an idle, clocked array
starts once in its pass, occupies the array for its cycles, one more for each retired row, and holds its result for the rows
of C; a vector round of a combiner occupies it for 48; both leave memory and time as they are. A residue mismatch is logged
with its row and column, and the step counts as holding a rejected tile; a fold commit takes the map of TIL_FOLD at once
while IDLE or HELD, never retires a third row, and waits for the boundary while RUNNING. -/
def Obligations.SeedsAndTileArray : Prop :=
  ((∀ (s : State) (hi : Bool) (v : W) (a : Nat), s.isFore = false → a = (if hi then Reg.CMB_SEED1 else Reg.CMB_SEED0) →
     (s.cad.st ≠ .running → ∃ t, exec (.cmbSeedWrite hi v) s = .next t ∧ t.reg a = v ∧ OnlyRegs [a] s t) ∧
     (s.cad.st = .running → ∃ t, exec (.cmbSeedWrite hi v) s = .next t ∧ t.reg a = s.reg a ∧
       t.flag Fld.CMB_STATUS_SEED_REFUSED = true ∧ OnlyRegs [Reg.CMB_STATUS] s t)) ∧
   (∀ (s : State) (v : W), s.isFore = false → ∃ t, exec (.cmbRandStart v) s = .next t ∧ t.reg Reg.CMB_RAND_CTR1 = v ∧
     OnlyRegs [Reg.CMB_RAND_CTR1] { s with cmb := { s.cmb with randReady := false, randNext := some (
       if v.toNat / 16 % 16 = 15 then
         BitVec.ofNat 128 (leNat (s.randBlock ((s.reg Reg.CMB_RAND_CTR0).toNat + v.toNat * 2 ^ 64)))
       else 0) } } t) ∧
   (∀ s : State, (∀ o, s.cmb.randNext = some o → exec .cmbRandDone s = .next { s with cmb := { s.cmb with
     randReady := true, randNext := none, randOut := o } }) ∧
     (s.cmb.randNext = none → exec .cmbRandDone s = .next s)) ∧
   (∀ (s : State) (hi : Bool) (v : W), s.isFore = true → exec (.cmbSeedWrite hi v) s = .next s ∧
     exec (.cmbRandStart v) s = .next s)) ∧
  (∀ s : State, s.isVd = true → s.awake = true →
     (∀ (b : W) (ps : PhaseSet) (i : Nat) (c : TilInstr) (p : Nat), s.fab.passAt = some b → s.img.live = some ps →
       s.tilBusy = none → s.clk.tilCur ≠ 7 → ps.tils[i]? = some c → c.opcode ≠ 0 →
       s.tilPass (max 1 ps.desc.tableSlots) i c.start = some p →
       (∃ t r, exec (.tilInstrStart (.instr i) none) s = .next t ∧ t.til.run = some r ∧ r.instr = i ∧ r.vector = false ∧
         r.startAt = s.time.now ∧ r.span = (c.nominal + s.til.retired.length) * regionCycle s.clk.tilCur ∧
         r.passes = c.passes ∧ r.row = 16 * c.cTile ∧ r.out = (s.tilProduct c none).2 ∧
         t.til.started = (i, p) :: s.til.started ∧ t.fab.ram = s.fab.ram ∧ t.time = s.time ∧ t.spk = s.spk ∧
         t.free = s.free) ∧
       (∀ row col, s.flag Fld.TIL_CTRL_AUTO_RETIRE = false → ∃ t,
         exec (.tilInstrStart (.instr i) (some (row, col))) s = .next t ∧ t.til.faultStep = true ∧
         t.flag Fld.TIL_STATUS_ROW_FAULT = true ∧ t.til.started = (i, p) :: s.til.started ∧
         t.reg Reg.TIL_FAULT_LOG = mkw [(0, row % 256), (8, col % 128), (15, 0), (16, s.wsc16), (32, i % 65536)] ∧
         t.til.retired = s.til.retired ∧ t.fab.ram = s.fab.ram ∧ t.time = s.time)) ∧
     (∀ (b : W) (ps : PhaseSet) (i : Nat) (c : CmbInstr), s.fab.passAt = some b → s.img.live = some ps →
       s.tilBusy = none → s.clk.tilCur ≠ 7 → ps.cmbs[i]? = some c → c.opcode = 0x29 → c.start < s.fab.slot → ∃ t,
       exec (.tilInstrStart (.combine i) none) s = .next t ∧ t.til.run = 
         some ⟨i, true, s.time.now, (48 + s.til.retired.length) * regionCycle s.clk.tilCur, 1, 0, 1, 0, []⟩ ∧
       t.fab.ram = s.fab.ram ∧ t.time = s.time ∧ t.spk = s.spk ∧ t.stg = s.stg) ∧
     (s.cad.st = .running → exec .foldCommit s = .next { s with til := { s.til with foldP := true } }) ∧
     (s.cad.st ≠ .running → ∀ l, l = foldOf (s.preg Reg.TIL_FOLD) →
       ((s.til.retired ++ l.filter fun r => !s.til.retired.contains r).length ≤ 2 → ∃ t, exec .foldCommit s = .next t ∧
         t.flag Fld.TIL_STATUS_FOLD_COMMIT = true ∧
         OnlyEvents [Reg.TIL_STATUS] { s with til := { s.til with retired := l, foldP := false } } t) ∧
       (2 < (s.til.retired ++ l.filter fun r => !s.til.retired.contains r).length → ∃ t, exec .foldCommit s = .next t ∧
         t.til.retired = s.til.retired ∧ t.til.noSpare = true ∧
         OnlyEvents [Reg.TIL_STATUS] { s with til := { s.til with noSpare := true, foldP := false } } t)))

/-! ### Faults, spares and verdicts (R354 to R378) -/

/-- The end of a detector round (R354, R355): in a round of 65,536 ns of HT other than the one judged last, every judged die
port and VD peer moves by its verdict, and the counts of the round begin again. One bad verdict makes an ALIVE peer SUSPECT,
the next DOUBTED; a good one makes a SUSPECT peer ALIVE, and two in adjacent rounds a DOUBTED one that is not marked.
Verdict states rest while core 3 is held in reset (R402). -/
def Obligations.DetectorRoundJudgesPeers : Prop :=
  (∀ s : State, s.isVd = true → s.awake = true → (∀ d, (s.die d).staged = false) →
    (s.htNs.toNat / 65536 = s.flt.round ∨ s.coreHeld 3 = true → exec .detectorRoundEnd s = .next s) ∧
    (s.coreHeld 3 = false → s.htNs.toNat / 65536 ≠ s.flt.round → ∃ t, exec .detectorRoundEnd s = .next t ∧
      t.flt.round = s.htNs.toNat / 65536 ∧
      (∀ d, d < 16 → s.isDome = true → s.judgedDie d = true → (t.die d).judge = (s.die d).judge.after
        (s.verdictOf [2 * d, 2 * d + 1] (s.die d).sbHbs true (s.die d).mark)
        (s.htNs.toNat / 65536 == s.flt.round + 1) (s.die d).mark) ∧
      (∀ d, (16 ≤ d ∨ s.isDome = false ∨ s.judgedDie d = false) → (t.die d).judge = (s.die d).judge) ∧
      (∀ p, p < 64 → s.vdPeerPort p = true → t.peerJ p =
        (s.peerJ p).after (s.verdictOf [p] 0 (s.portFixed p) false) (s.htNs.toNat / 65536 == s.flt.round + 1) false) ∧
      (∀ p, (t.port p).hbCount = 0 ∧ (t.port p).hbTimed = 0) ∧ t.time = s.time ∧ t.fab.ram = s.fab.ram)) ∧
  (∀ (j : Judge) (v : Nat) (adj m : Bool),
    (v ≠ 0 → (j.st = .alive → (j.after v adj m).st = .suspect) ∧ (j.st = .suspect → (j.after v adj m).st = .doubted)) ∧
    (v = 0 → (j.st = .suspect → (j.after v adj m).st = .alive) ∧
      (j.st = .doubted → m = false → adj = true → j.posRun = 1 → (j.after v adj m).st = .alive) ∧
      (j.st = .doubted → m = true ∨ adj = false → (j.after v adj m).st = .doubted)) ∧
    (j.st = .fenced ∨ j.st = .swapped → (j.after v adj m).st = j.st))

/-- FLT_CMD (R356, R361, R377): at a DOME, DOUBT moves an ALIVE or SUSPECT die port to DOUBTED and no other; APPROVE notes the
approval; CLEAR returns a FENCED port whose ports are not isolated to ALIVE with a grace of 1,024 steps; COMMIT_REMAP takes
FLT_REMAP into force at once while IDLE or HELD, and waits for the next boundary while RUNNING. With PEER, DOUBT moves an
ALIVE or SUSPECT VD peer. A unit other than a VD keeps its state. Spares and joins (R357, R361, R362): a spare that has
loaded its section and is LOCKED in class H is staged, with its event, and one that is not LOCKED stays; for each swap that
a working swap point will admit, its staged spare is sent a join record at least 20 µs before; the spare holds it as a
provisional RESUME of that boundary with the identity it is to take. -/
def Obligations.DiesAreCommandedAndStaged : Prop :=
  (∀ (s : State) (d : Nat), s.isDome = true → s.present Reg.FLT_CMD = true → d < 16 →
     ((s.die d).judge.st = .alive ∨ (s.die d).judge.st = .suspect → ∃ t,
       exec (.fltDoubt (BitVec.ofNat 64 d)) s = .next t ∧ (t.die d).judge.st = .doubted ∧ (t.die d).judge.posRun = 0 ∧
       t.flag Fld.FLT_STATUS_VERDICT = true ∧ (∀ e, e ≠ d → (t.die e).judge = (s.die e).judge) ∧
       t.flt.peers = s.flt.peers ∧ t.fab.ram = s.fab.ram ∧ t.time = s.time) ∧
     (∃ t, exec (.fltApprove (BitVec.ofNat 64 d)) s = .next t ∧ t.die d = { s.die d with approved := true } ∧
       (∀ e, e ≠ d → t.die e = s.die e) ∧
       OnlyRegs [Reg.FLT_CMD] { s with flt := { s.flt with dies := t.flt.dies } } t) ∧
     ((s.die d).judge.st = .fenced → s.dieIsolated d = false → ∃ t, exec (.fltClear (BitVec.ofNat 64 d)) s = .next t ∧
       (t.die d).judge = { (s.die d).judge with st := .alive } ∧ (t.die d).grace = 1024 ∧
       (∀ e, e ≠ d → (t.die e).judge = (s.die e).judge) ∧ t.flag Fld.FLT_STATUS_VERDICT = true) ∧
     (s.cad.st ≠ .running → ∃ t, exec (.commitRemap (BitVec.ofNat 64 d)) s = .next t ∧
       t.flt = { s.flt with remap := s.reg Reg.FLT_REMAP, remapP := false } ∧ OnlyRegs [Reg.FLT_CMD] { s with flt := t.flt } t) ∧
     (s.cad.st = .running → ∃ t, exec (.commitRemap (BitVec.ofNat 64 d)) s = .next t ∧
       t.flt = { s.flt with remapP := true } ∧ OnlyRegs [Reg.FLT_CMD] { s with flt := t.flt } t) ∧
     (∀ n, n < 64 → (s.peerJ n).st = .alive ∨ (s.peerJ n).st = .suspect → ∃ t,
       exec (.fltDoubt (BitVec.ofNat 64 (64 + n))) s = .next t ∧ (t.peerJ n).st = .doubted ∧ (t.peerJ n).posRun = 0 ∧
       t.flag Fld.FLT_STATUS_VERDICT = true ∧ (∀ q, q ≠ n → t.peerJ q = s.peerJ q) ∧ t.flt.dies = s.flt.dies) ∧
     (∀ (u : State) (v : W), u.isVd = false → exec (.fltDoubt v) u = .next u ∧ exec (.fltApprove v) u = .next u ∧
       exec (.fltClear v) u = .next u ∧ exec (.commitRemap v) u = .next u)) ∧
  ((∀ (s : State) (d : Nat), s.isDome = true → s.awake = true → d < 16 → s.coreHeld 3 = false →
     (s.die d).staging = true → s.portUp (s.diePort d) = true →
     (s.spareLocked d = false → exec (.spareStaged d) s = .next s) ∧
     (s.spareLocked d = true → ∃ t, exec (.spareStaged d) s = .next t ∧
       t.die d = { s.die d with staging := false, staged := true } ∧ (∀ e, e ≠ d → t.die e = s.die e) ∧
       t.flag Fld.FLT_STATUS_STAGED = true ∧
       OnlyEvents [Reg.FLT_STATUS] { s with flt := { s.flt with dies := t.flt.dies } } t)) ∧
   (∀ (s : State) (d c : Nat), s.isDome = true → s.awake = true → s.workSwapPoint = true →
     s.flag Fld.FLT_CFG_LIVE_SWAP = true → s.swapWanted = [d] → s.stagedFor (s.logicalOf d) = some c →
     (s.htNs.toNat + 20000 ≤ (s.boundaryNs (s.cad.sc + 1)).toNat → exec .joinRecordSend s =
       .next (s.msgOut (s.diePort c) (s.ownMsg 3 0 (.join (s.cad.sc + 1) (s.boundaryNs (s.cad.sc + 1)) (s.cad.wsc + 1)
         s.cad.baseWsc s.cad.phase s.cad.k s.cad.epoch s.cad.lastSeqRx (s.ident.dno * 16 + s.logicalOf d))))) ∧
     ((s.boundaryNs (s.cad.sc + 1)).toNat < s.htNs.toNat + 20000 → exec .joinRecordSend s = .next s)) ∧
   (∀ (s : State) (m : Message) (target anchor wsc base : W) (phase ratio epoch q hdn : Nat), s.isVd = false →
     s.awake = true → s.cad.st = .held → s.cad.spare.isSome = true →
     m.body = .join target anchor wsc base phase ratio epoch q hdn → hdn < 2 ^ 14 →
     ∃ t dec, exec (.joinRx m) s = .next t ∧ t.ident.hdn = hdn ∧ t.cad.epoch = epoch ∧ t.cad.prov = some dec ∧
       dec.kind = .resume ∧ dec.target = target ∧ dec.anchor = anchor ∧ dec.wsc = wsc ∧ dec.base = base ∧
       dec.phase = phase ∧ dec.ratio = ratio ∧ dec.epoch = epoch ∧
       t = { s with ident := { s.ident with hdn := hdn }, cad := { s.cad with epoch := epoch, prov := some dec } }))

/-- Verdicts (R356, R364, R365, R366): the issuer numbers a verdict and accepts it itself; a unit accepts the first copy of a
VSEQ, isolates every port to a FENCED unit, and fences or clears its DNO at once while IDLE or HELD, and leaves that to the
next boundary while RUNNING; an equal copy changes nothing; one that differs raises VERDICT_CONFLICT and discards both: a
fence that waits is dropped, one in the table goes back to what it was, the ports that the first copy isolated go to DOWN,
and FLT_VERDICT_RX shows the verdict before it (log entry 164). A notice waits while core 3 is held in reset (R402). A root
that does not issue sends none. -/
def Obligations.VerdictsFenceOnceEverywhere : Prop :=
  (∀ (s : State) (v : W), s.isRoot = true → s.present Reg.FLT_VERDICT_TX = true → s.cad.root.issuer = true →
    ((v.toNat >>> 12) % 8 = 0 ∨ (v.toNat >>> 12) % 8 = 3) → ∃ t n, exec (.verdictSend v) s = .next t ∧
      t.flt.vRx = some n ∧ n.vseq = (s.flt.vTx + 1) % 65536 ∧ t.flt.vTx = n.vseq ∧ n.dno = v.toNat % 4096 ∧
      n.state = (v.toNat >>> 12) % 8 ∧ n.ns = s.htNs ∧ n.epoch = s.cad.root.epoch ∧
      (s.cad.st ≠ .running → entFenced (t.dnoEnt n.dno) = (n.state == 3)) ∧
      (s.cad.st = .running → t.flt.fenceP = s.flt.fenceP ++ [(n.dno, n.state == 3)])) ∧
  (∀ (s : State) (v : W), s.cad.root.issuer = false → exec (.verdictSend v) s = .next s) ∧
  (∀ (s : State) (p : Nat) (n : Verdict), s.isVd = true → s.awake = true → s.portUp p = true → s.coreHeld 3 = true →
    exec (.verdictRx p n) s = .next { s with evq := { s.evq with wait3 := s.evq.wait3 ++ [.verdict p n] } }) ∧
  (∀ (s : State) (p : Nat) (n : Verdict), s.isVd = true → s.awake = true → s.portUp p = true → s.coreHeld 3 = false →
    n.dno < 4096 →
    (∀ x, s.flt.vSeen.find? (fun x => x.v.vseq == n.vseq && x.v.epoch == n.epoch) = some x →
      (x.v = n → exec (.verdictRx p n) s = .next s) ∧
      (x.v ≠ n → x.void = true → ∃ t, exec (.verdictRx p n) s = .next t ∧ t.flag Fld.FLT_STATUS_VERDICT_CONFLICT = true ∧
        OnlyEvents [Reg.FLT_STATUS] s t) ∧
      (x.v ≠ n → x.void = false → ∃ t, exec (.verdictRx p n) s = .next t ∧ t.flag Fld.FLT_STATUS_VERDICT_CONFLICT = true ∧
        t.flt.fenceP = s.flt.fenceP.filter (fun e => e != (x.v.dno % 4096, x.v.state == 3)) ∧
        t.flt.vRx = (if s.flt.vRx = some x.v then x.prev else s.flt.vRx) ∧
        ((x.v.dno % 4096, x.v.state == 3) ∈ s.flt.fenceP → t.fab.dnoAct = s.fab.dnoAct) ∧
        ((x.v.dno % 4096, x.v.state == 3) ∉ s.flt.fenceP → entFenced (t.dnoEnt (x.v.dno % 4096)) = x.was ∧
          ∀ d, d ≠ x.v.dno % 4096 → t.dnoEnt d = s.dnoEnt d) ∧
        (∀ q, q ∈ x.ports → (s.port q).st = .isolated → s.mustIsolate q = false → (t.port q).st = .down) ∧
        (∀ q, q ∉ x.ports → t.port q = s.port q) ∧ t.flt.dies = s.flt.dies ∧ t.flt.peers = s.flt.peers ∧
        t.cad = s.cad ∧ t.spk = s.spk ∧ t.time = s.time ∧ t.fab.ram = s.fab.ram)) ∧
    (s.flt.vSeen.find? (fun x => x.v.vseq == n.vseq && x.v.epoch == n.epoch) = none → ∃ t, exec (.verdictRx p n) s = .next t ∧
      t.flt.vRx = some n ∧ (∃ e, t.flt.vSeen = e :: s.flt.vSeen ∧ e.v = n ∧ e.void = false ∧ e.prev = s.flt.vRx) ∧
      (s.cad.st ≠ .running → entFenced (t.dnoEnt n.dno) = (n.state == 3)) ∧
      (s.cad.st = .running → t.flt.fenceP = s.flt.fenceP ++ [(n.dno, n.state == 3)]) ∧
      (n.state = 3 → ∀ q, q < 64 → (s.port q).peerId = n.dno → (s.port q).peerKind = 0 → (s.port q).peerRole ≠ 0 →
        (t.port q).st = .isolated) ∧
      (n.state ≠ 3 → ∀ q, (t.port q).st = (s.port q).st)))

/-- The guaranteed operations of the belfry (R10, R11, R220, R371, R373, R374), on a path that carries the read and reaches its
registers: READ_HT latches the fraction for the reading path and no other, and returns HT and that fraction; READ_SC returns
SC and WSC, and READ_SUMMARY the status summary, without any other effect; EVT_TAIL selects one of the last 64 records and
returns its four words; READ_NVS selects a persistent word and returns it and its wear. HOLD_AT latches CAD_HOLD_AT, so that
its boundary is held; one at or below SC only sets HOLD_AT_LATE, with EN clear; after QUIESCE the next boundary is held;
PORT_ISOLATE isolates exactly the ports of its mask. The registers read are read-only and hold no stored bits; whatever the
state stores there, the read shows it beside the value. -/
def Obligations.GuaranteedOperationsAnswer : Prop :=
  (OtherReadsFail .readHt ∧ OtherReadsFail .readSc ∧ OtherReadsFail .readSummary ∧ (∀ age, OtherReadsFail (.evtTail age)) ∧
    ∀ w, OtherReadsFail (.readNvs w)) ∧
  (∀ (s : State) (v : ReadVia) (p : Path), s.Carries v → v.path = p →
    (s.reach p Reg.BEL_HT_NS = true → s.reach p Reg.BEL_HT_FRAC = true → ∃ t, exec (.readHt v) s = .next t ∧
      t = { s with time := { s.time with latch := t.time.latch }, out := t.out } ∧
      t.time.latch.get p = s.htFrac ∧ (∀ q, q ≠ p → t.time.latch.get q = s.time.latch.get q) ∧
      t.out = s.out ++ [.readData p (s.reg Reg.BEL_HT_NS ||| s.htNs),
        .readData p (s.reg Reg.BEL_HT_FRAC ||| BitVec.ofNat 64 s.htFrac.toNat)]) ∧
    (s.reach p Reg.BEL_SC = true → s.reach p Reg.BEL_WSC = true → exec (.readSc v) s = .next { s with out := s.out ++
      [.readData p (s.reg Reg.BEL_SC ||| s.cad.sc), .readData p (s.reg Reg.BEL_WSC ||| s.cad.wsc)] }) ∧
    (s.reach p Reg.BEL_SUMMARY = true → exec (.readSummary v) s =
      .next { s with out := s.out ++ [.readData p (s.readReg p Reg.BEL_SUMMARY)] }) ∧
    (∀ age, s.reach p Reg.BEL_EVT_SEL = true → (∀ k, k < 4 → s.reach p (Reg.BEL_EVT_REC + 8 * k) = true) → ∃ t,
      exec (.evtTail age v) s = .next t ∧ t.fld Fld.BEL_EVT_SEL_AGE = age % 64 ∧
      OnlyRegs [Reg.BEL_EVT_SEL] { s with out := t.out } t ∧
      t.out = s.out ++ (List.range 4).map fun k =>
        .readData p (s.reg (Reg.BEL_EVT_REC + 8 * k) ||| s.tailWord (age % 64) k)) ∧
    (∀ w, s.isVd = true → s.reach p Reg.BEL_NVS_ADDR = true → s.reach p Reg.BEL_NVS_DATA = true →
      s.reach p Reg.BEL_NVS_WEAR = true → ∃ t, exec (.readNvs w v) s = .next t ∧
      t.fld Fld.BEL_NVS_ADDR_WORD = w % 4096 ∧ OnlyRegs [Reg.BEL_NVS_ADDR] { s with out := t.out } t ∧
      t.out = s.out ++ [.readData p (s.reg Reg.BEL_NVS_DATA ||| s.nvsWord (w % 4096)),
        .readData p (s.reg Reg.BEL_NVS_WEAR ||| mkw [(0, s.wear (w % 4096)), (24, bit (s.worn (w % 4096)))])])) ∧
  ∀ s : State, s.belfryOn = true →
    (∀ v : W, (v.getLsbD 63 = false ∨ s.cad.sc.toNat < v.toNat % 2 ^ 63 → ∃ t, exec (.holdAt v) s = .next t ∧
        t.reg Reg.CAD_HOLD_AT = v ∧ OnlyRegs [Reg.CAD_HOLD_AT] s t ∧
        (v.getLsbD 63 = true → t.localHold (BitVec.ofNat 64 (v.toNat % 2 ^ 63)) = some 4)) ∧
      (v.getLsbD 63 = true → v.toNat % 2 ^ 63 ≤ s.cad.sc.toNat → ∃ t, exec (.holdAt v) s = .next t ∧
        (t.reg Reg.CAD_HOLD_AT).getLsbD 63 = false ∧ t.flag Fld.BEL_SUMMARY_HOLD_AT_LATE = true ∧
        OnlyRegs [Reg.CAD_HOLD_AT, Reg.BEL_SUMMARY] s t)) ∧
    (∃ t, exec .quiesce s = .next t ∧ t = { s with cad := { s.cad with quiesce := true } } ∧
      ∀ m, t.localHold m = some 4 ∨ t.localHold m = some 5) ∧
    (∀ mask : W, ∃ t, exec (.portIsolate mask) s = .next t ∧
      (∀ p, p < s.nPorts → mask.getLsbD p = true → (t.port p).st = .isolated ∧
        ((s.port p).st ≠ .isolated → (t.port p).replay = [] ∧ (t.reg (Reg.XF_PORT_CFG + 8 * p)).getLsbD 0 = true)) ∧
      (∀ p, (s.nPorts ≤ p ∨ mask.getLsbD p = false) → (t.port p).st = (s.port p).st) ∧ t.time.htx = s.time.htx ∧
      (s.fab.sideWait = [] → t.spk.vals = s.spk.vals))

/-- The sideband (R10, R371, R451, R452, R453): at a multiple of 1,024 ns a cell that waits leaves with the next SEQ, else the
next cell of a microcode delivery, after whose END the DOME awaits the answer, else an empty cell with the SEQ unchanged,
and none at another time; a cell whose SYNC or CRC is wrong has no effect; one received at a DOME counts as a heartbeat of
its die, and the fourth without an answer after END, or a fall of UCODE_RUN, starts the delivery again; a die answers RD_REQ
with RD_RSP, latching the fraction for the sideband at BEL_HT_NS, and takes WR_REQ into BEL_ alone; microcode whose length
and CRC match runs and is acknowledged, any other is refused and what ran goes on, and so is an END without START (how a
DOME learns of a delivery that a reset cut off is the model's, log entry 196); a relayed operation is sent once, fails at
once for an invalid OP, and after 10 µs. -/
def Obligations.SidebandCarriesCells : Prop :=
  (∀ (s : State) (d : Nat), s.hasSb d = true →
    (s.htNs.toNat % 1024 ≠ 0 ∨ (s.sbLink d).txNs = some s.htNs → exec (.sbCellTx d) s = .next s) ∧
    (s.htNs.toNat % 1024 = 0 → (s.sbLink d).txNs ≠ some s.htNs →
      (∀ c r, (s.sbLink d).out = c :: r → c.kind ≠ 0 → exec (.sbCellTx d) s =
        .next ((s.setLink d { s.sbLink d with
          out := r, seq := ((s.sbLink d).seq + 1) % 16, txNs := some s.htNs }).emit
          (.cell d (cellBits ⟨c.kind, ((s.sbLink d).seq + 1) % 16, s.sbHb, c.payload⟩)))) ∧
      (∀ k, (s.sbLink d).out = [] → (s.sbLink d).ucSeg = some k → ∃ t, exec (.sbCellTx d) s = .next t ∧
        t.out = s.out ++ [.cell d (cellBits
          ⟨(s.ucodeCell k).1, ((s.sbLink d).seq + 1) % 16, s.sbHb, (s.ucodeCell k).2⟩)] ∧
        (k ≤ s.ucodeLen8 → (t.sbLink d).ucSeg = some (k + 1) ∧ (t.sbLink d).ucWait = none) ∧
        (s.ucodeLen8 < k → (t.sbLink d).ucSeg = none ∧ (t.sbLink d).ucWait = some 0)) ∧
      ((s.sbLink d).out = [] → (s.sbLink d).ucSeg = none → ∃ t, exec (.sbCellTx d) s = .next t ∧
        t.out = s.out ++ [.cell d (cellBits ⟨0, (s.sbLink d).seq, s.sbHb, 0⟩)] ∧
        t.sbLink d = { s.sbLink d with txNs := some s.htNs }))) ∧
  (∀ (s : State) (d : Nat) (w : BitVec 128), cellOf w = none → exec (.sbCellRx d w) s = .next s) ∧
  (∀ (s : State) (d : Nat) (w : BitVec 128) (c : Cell), cellOf w = some c → s.isVd = true → s.hasSb d = true →
    c.kind = 0 → ∃ t, exec (.sbCellRx d w) s = .next t ∧ (t.die d).sbHbs = (s.die d).sbHbs + 1 ∧ (t.sbLink d).hb = c.hb ∧
    (t.die d).judge = (s.die d).judge ∧ t.regs = s.regs ∧
    (s.peerLevel (2 * d) = 3 → Nat.testBit c.hb 8 = false →
      (Nat.testBit (s.sbLink d).hb 8 = true ∨ ∃ n, (s.sbLink d).ucWait = some n ∧ 4 ≤ n) →
      (t.sbLink d).ucSeg = some 0 ∧ (t.sbLink d).ucWait = none) ∧
    (Nat.testBit (s.sbLink d).hb 8 = Nat.testBit c.hb 8 → (∀ n, (s.sbLink d).ucWait = some n → n < 4) →
      (t.sbLink d).ucSeg = (s.sbLink d).ucSeg ∧ (t.sbLink d).ucWait = (s.sbLink d).ucWait.map (· + 1)) ∧
    ((s.die d).idPart = none → (s.sbLink d).reading = false → (t.sbLink d).reading = true ∧
      (t.sbLink d).out = (s.sbLink d).out ++ [⟨1, 0, 0, 0⟩])) ∧
  (∀ (s : State) (c : Cell), s.isVd = false → s.belfryOn = true →
    (∀ w : BitVec 128, cellOf w = some c → (c.kind = 1 → exec (.sbCellRx 0 w) s = exec (.sbRdReq c) s) ∧
      (c.kind = 2 → exec (.sbCellRx 0 w) s = exec (.sbWrReq c) s)) ∧
    (cellAddr c.payload = none → exec (.sbWrReq c) s = .next s ∧
      exec (.sbRdReq c) s = .next (s.queueCell 0 3 (2 ^ 64))) ∧
    (∀ a, cellAddr c.payload = some a →
      (s.reach .sideband a = true → a ≠ Reg.BEL_HT_NS → exec (.sbRdReq c) s =
        .next (s.queueCell 0 3 (s.readReg .sideband a).toNat)) ∧
      (s.reach .sideband a = true → a = Reg.BEL_HT_NS → ∃ t, exec (.sbRdReq c) s = .next t ∧
        t.time.latch.get .sideband = s.htFrac ∧ (∀ q, q ≠ .sideband → t.time.latch.get q = s.time.latch.get q) ∧
        (t.sbLink 0).out = (s.sbLink 0).out ++
          [⟨3, 0, 0, (s.readReg .sideband a).toNat⟩]) ∧
      (a < 0x2400000 → exec (.sbWrReq c) s = .next s) ∧
      (s.reach .sideband a = true → 0x2400000 ≤ a → exec (.sbWrReq c) s =
        .next (s.belWrite (a - 0x2400000) (BitVec.ofNat 64 (c.payload >>> 16)))))) ∧
  (∀ (s : State) (n crc seg : Nat) (b : List Byte), s.canUcode = true →
    exec (.ucodeStart n) s = .next { s with sb := { s.sb with ucOpen := true, ucLen8 := n, ucBuf := [] } } ∧
    (s.sb.ucOpen = false → exec (.ucodeSegment seg b) s = .next s ∧ exec (.ucodeEnd n crc) s = .next (s.queueCell 0 8 2)) ∧
    (s.sb.ucOpen = true →
      exec (.ucodeSegment seg b) s = .next { s with sb := { s.sb with ucBuf := s.sb.ucBuf.set seg (padTo 8 b) } } ∧
      (s.ucodeGood n crc = true → ∃ t, exec (.ucodeEnd n crc) s = .next t ∧ t.sb.ucRun = true ∧ t.sb.ucOpen = false ∧
        (t.sbLink 0).out = (s.sbLink 0).out ++ [⟨8, 0, 0, 1⟩] ∧ t.regs = s.regs) ∧
      (s.ucodeGood n crc = false → exec (.ucodeEnd n crc) s =
        .next (({ s with sb := { s.sb with ucOpen := false } } : State).queueCell 0 8 2)))) ∧
  (∀ (s : State) (d : Nat), s.isDome = true → s.hasSb d = true →
    exec (.ucodeAck d true) s = .next (s.setLink d { s.sbLink d with ucSeg := none, ucWait := none }) ∧
    (s.peerLevel (2 * d) = 3 → exec (.ucodeAck d false) s = .next (s.setLink d { s.sbLink d with ucSeg := some 0, ucWait := none }))) ∧
  (∀ (s : State) (v : W), s.belfryOn = true → s.isDome = true → s.sb.relayAt = none →
    (1 ≤ (v.toNat >>> 8) % 16 → (v.toNat >>> 8) % 16 ≤ 7 → ∃ t, exec (.sbRelayGo v) s = .next t ∧
      t.sb.relayAt = some s.time.now ∧ t.sb.relayDie = v.toNat % 16 ∧
      (t.sbLink (v.toNat % 16)).out = (s.sbLink (v.toNat % 16)).out ++
        [⟨4, 0, 0, (v.toNat >>> 8) % 16 + (s.reg Reg.BEL_SB_ARG).toNat * 16⟩] ∧
      OnlyRegs [Reg.BEL_SB_CMD] { s with sb := t.sb } t) ∧
    ((v.toNat >>> 8) % 16 = 0 ∨ 7 < (v.toNat >>> 8) % 16 → ∃ t, exec (.sbRelayGo v) s = .next t ∧
      t.flag Fld.BEL_SB_CMD_FAIL = true ∧ OnlyRegs [Reg.BEL_SB_CMD] s t)) ∧
  (∀ (s : State) (t0 : Nat), s.sb.relayAt = some t0 →
    (s.time.now - t0 < 10 * usX → exec .sbRelayTimeout s = .next s) ∧
    (s.time.now - t0 ≥ 10 * usX → ∃ t,
      exec .sbRelayTimeout s = .next t ∧ t.sb.relayAt = none ∧ t.flag Fld.BEL_SB_CMD_FAIL = true ∧
      OnlyRegs [Reg.BEL_SB_CMD] { s with sb := t.sb } t))

/-! ### Clock domains and energy (R379 to R401) -/

/-- Clock regions, host crossings, comparators and standby (R383 to R386, R389, R390): a region's change stops it at once while
IDLE or HELD and is pending while RUNNING; the end of a stop sets REGION_DONE; a VSU realigns once after it has lost its
host clock; a comparator whose EN is 1 and whose filtered level is 1, with the reading that its firing brings, sets its
status, and a one-shot HT wake disarms itself; at a time-clock edge every filter takes the comparator's raw level; standby
is entered only while IDLE, keeps HT, and ends by a write. What the host-clock, sensor and sideband comparators' commands
stand for is the model's (log entries 91, 188). -/
def Obligations.RegionsComparatorsAndStandby : Prop :=
  (∀ (s : State) (off : Int), s.isVsu = true →
    exec .hostClockLoss s = .next { s with clk := { s.clk with hostOk := false } } ∧
    (s.awake = true → s.clk.hostOk = false → ∃ t, exec (.hostRealign off) s = .next t ∧ t.clk.hostOk = true ∧
      t.clk.hostOff = off ∧ t.flag Fld.CLK_STATUS_HOST_REALIGN = true ∧ OnlyRegs [Reg.CLK_STATUS] { s with clk := t.clk } t)) ∧
  (∀ (s : State) (v : W), s.isVd = true → s.present Reg.CLK_REGION = true → v.toNat % 8 = 7 → s.clk.cmbCur ≠ 7 →
    (v.toNat >>> 4) % 8 = s.clk.tilCur → codeValid s.clk.tilCur = true →
    (s.cad.st = .running → ∃ t, exec (.clkRegionWrite v) s = .next t ∧ t.clk.pendCmb = some 7 ∧ t.clk.pendTil = none ∧
      t.clk.cmbCur = s.clk.cmbCur ∧ t.clk.stopping = s.clk.stopping ∧ OnlyRegs [Reg.CLK_REGION] { s with clk := t.clk } t) ∧
    (s.cad.st ≠ .running → s.clk.stopping = false → ∃ t, exec (.clkRegionWrite v) s = .next t ∧ t.clk.cmbCur = 7 ∧
      t.clk.tilCur = s.clk.tilCur ∧ t.clk.stopping = true ∧ t.clk.pendCmb = none ∧
      OnlyRegs [Reg.CLK_REGION] { s with clk := t.clk } t)) ∧
  (∀ s : State, s.clk.stopping = true → s.clk.pendCmb = none → s.clk.pendTil = none → ∃ t,
    exec .regionStopDone s = .next t ∧ t.clk.stopping = false ∧ t.flag Fld.CLK_STATUS_REGION_DONE = true ∧
    OnlyEvents [Reg.CLK_STATUS] { s with clk := { s.clk with stopping := false } } t) ∧
  (∀ (s : State) (n : Nat) (r : Option Int), s.belfryOn = true →
    ((s.cmpSense ⟨n, r⟩).cmpFires n = false → exec (.comparatorFire ⟨n, r⟩) s = .next s) ∧
    ((s.cmpSense ⟨n, r⟩).cmpFires n = true → (s.reg Reg.CLK_CMP_CFG).getLsbD (8 + n) = false → ∃ t,
      exec (.comparatorFire ⟨n, r⟩) s = .next t ∧
      t.cmpLevel n = true ∧ (∀ m, m ≠ n → t.cmpLevel m = s.cmpLevel m) ∧
      t.pwr = { s.pwr with
        vin := if n = 4 then (r.map Int.toNat).getD s.pwr.vin else s.pwr.vin,
        tj := if n = 5 then r.getD s.pwr.tj else s.pwr.tj } ∧
      t.reg Reg.CLK_CMP_STATUS = s.reg Reg.CLK_CMP_STATUS ||| BitVec.ofNat 64 (2 ^ n) ∧
      (n < 4 → (t.reg (Reg.CLK_WAKE_HT + 8 * n)).getLsbD 63 = false) ∧
      ((n = 4 ∧ (s.reg Reg.CLK_CMP_CFG).getLsbD 16 = true) ∨ (n = 5 ∧ (s.reg Reg.CLK_CMP_CFG).getLsbD 17 = true) →
        t.cad.quiesce = true) ∧
      OnlyEvents [Reg.CLK_CMP_STATUS, Reg.CLK_WAKE_HT + 8 * n] { s with
        cad := { s.cad with quiesce := t.cad.quiesce }, pwr := t.pwr, clk := t.clk } t)) ∧
  (∀ s : State, s.pending = [] → s.belfryOn = true → s.time.servo ≠ .coarse → s.til.run = none → s.pwr.mainAt = none →
    s.pwr.modEnAt = none → s.pwr.perstAt = none → ∃ t, step s = .next t ∧ t.regs = s.regs ∧ ∀ n, n < 8 →
      t.clk.cmpFilt.get n {} = (s.clk.cmpFilt.get n {}).next (s.tick.cmpRaw n) t.time.now
        (10 * s.fld Fld.CLK_CMP_CFG_FILTER)) ∧
  (∀ (s : State) (v : W), s.belfryOn = true → s.pwr.power = .on →
    (s.clk.standby = false → s.cad.st ≠ .idle → ∃ t, exec (.standbyEnter v) s = .next t ∧
      t.flag Fld.CLK_STATUS_STANDBY_REFUSED = true ∧ OnlyRegs [Reg.CLK_STATUS] s t) ∧
    (s.clk.standby = false → s.cad.st = .idle → ∃ t, exec (.standbyEnter v) s = .next t ∧ t.clk.standby = true ∧
      t.reg Reg.CLK_POWER = 1 ∧ t.time.htx = s.time.htx ∧ (s.fab.sideWait = [] → t.spk.vals = s.spk.vals) ∧
      ∀ p, p < s.nPorts → (t.port p).st = .down ∨ (t.port p).st = .isolated) ∧
    (s.clk.standby = true → ∃ t, exec (.standbyExit v) s = .next t ∧ t.clk.standby = false ∧ t.reg Reg.CLK_POWER = 0 ∧
      OnlyRegs [Reg.CLK_POWER] { s with clk := { s.clk with standby := false }, evq := { s.evq with cores := t.evq.cores } } t))

/-- The energy ledger (R391 to R398, R402): a sample brings the sensors' readings where it carries them (log entry 189), and
adds its nanojoules to the period's sum and, by the kind of the step at the middle of its microsecond, to that kind's; at
the end of a period the sum goes, in microjoules and truncated, to NRG_LAST_UJ, and the plan takes the smallest ratio that
fits the budget corrected by at most an eighth, not below the thermal ratio and K_MIN and at most 2 below the last one; a
unit sends upwards the largest of its own proposal and those from below, once in a period; a proposal that comes while core
3 is in reset waits for it; the issuer makes a RATIO due when the larger of both halves differs from the ratio that will be
in force when the period begins. -/
def Obligations.LedgerPlansAndAggregates : Prop :=
  (∀ (s : State) (mw : Nat) (x : Option Sensors), s.isVd = true → s.belfryOn = true → ∃ t,
    exec (.powerSample ⟨mw, x⟩) s = .next t ∧
    t.nrg.sumNj = (s.nrg.sumNj + mw) % 2 ^ 64 ∧ (x = none → t.pwr = { s.pwr with pin := mw }) ∧
    (∀ y, x = some y → t.pwr = { s.pwr with pin := mw, vin := y.vin, iin := y.iin, tc := y.tc, tj := y.tj }) ∧
    (s.kindAt (s.htNs.toNat - 500) = .neither → t.nrg = { s.nrg with sumNj := t.nrg.sumNj }) ∧
    (s.kindAt (s.htNs.toNat - 500) = .work → t.nrg = { s.nrg with
      sumNj := t.nrg.sumNj, accEw := s.nrg.accEw + mw, accTw := s.nrg.accTw + 1000 }) ∧
    (s.kindAt (s.htNs.toNat - 500) = .freewheel → t.nrg = { s.nrg with
      sumNj := t.nrg.sumNj, accEf := s.nrg.accEf + mw, accTf := s.nrg.accTf + 1000 }) ∧ t = { s with pwr := t.pwr, nrg := t.nrg }) ∧
  (∀ s : State, s.isVd = true → s.belfryOn = true →
    (s.htNs.toNat / 1024000 = s.nrg.period → exec .ledgerPeriodEnd s = .next s) ∧
    (s.htNs.toNat / 1024000 ≠ s.nrg.period → ∃ t, exec .ledgerPeriodEnd s = .next t ∧
      t.nrg.lastUj = s.nrg.sumNj / 1000 ∧ t.nrg.sumNj = 0 ∧ t.nrg.period = s.htNs.toNat / 1024000 ∧
      OnlyEvents [Reg.NRG_STATUS] { s with nrg := t.nrg } t ∧
      (∀ l b, s.awake = true → s.coreHeld 2 = false → s.cad.st = .running → s.img.live = some l →
        s.costNow.nMeas + s.nrg.bounds.get s.cad.phase 0 < 4096 → b = s.fld Fld.NRG_CTRL_BUDGET_W * 1024 →
        t.nrg.kE = (fitRatio (l.eWork * 5 / 4) (l.eFw * 5 / 4) s.stepNs
          (b - min (s.nrg.sumNj / 1000 - b) (b / 8))).getD 63 ∧
        t.nrg.kT = s.thermalK ∧
        t.nrg.kOwn = max (max (s.fld Fld.NRG_CTRL_K_MIN) (max t.nrg.kE t.nrg.kT)) (s.nrg.kOwn - 2) ∧
        (fitRatio (l.eWork * 5 / 4) (l.eFw * 5 / 4) s.stepNs (b - min (s.nrg.sumNj / 1000 - b) (b / 8)) = none →
          t.flag Fld.NRG_STATUS_OVER = true)))) ∧
  (∀ ew ef step room k, fitRatio ew ef step room = some k → k < 64 ∧
    1024000 * (ew * (64 - k) + ef * k) ≤ 64 * step * room ∧
    ∀ i, i < k → 64 * step * room < 1024000 * (ew * (64 - i) + ef * i)) ∧
  (∀ (s : State) (p : Nat), s.awake = true → s.isRoot = false → s.cad.root.issuer = false → s.inputPorts = [p] →
    s.sendOffset ≤ s.htNs.toNat % 1024000 → s.nrg.sentPer ≠ some (s.htNs.toNat / 1024000) →
    exec .ledgerSend s = .next (({ s with nrg := { s.nrg with
      sentPer := some (s.htNs.toNat / 1024000), kSent := s.aggK } } : State).msgOut p
        (s.ownMsg 3 0 (.ledger (s.htNs.toNat / 1024000 + 1) s.aggK))) ∧
    s.ownK ≤ s.aggK ∧ ∀ q, q ∈ s.portsBelow → (s.port q).prop ≤ s.aggK) ∧
  (∀ s : State, s.awake = true → s.isRoot = true → s.cad.root.issuer = false →
    s.sendOffset ≤ s.htNs.toNat % 1024000 → s.nrg.sentPer ≠ some (s.htNs.toNat / 1024000) →
    exec .ledgerSend s = .next (({ s with nrg := { s.nrg with
      sentPer := some (s.htNs.toNat / 1024000), kSent := s.aggK } } : State).routeMsg
        (s.ownMsg 0 s.cad.root.otherDno (.ledger (s.htNs.toNat / 1024000 + 1) s.aggK)))) ∧
  (∀ (s : State) (p per k : Nat), s.awake = true → s.portUp p = true →
    (s.coreHeld 3 = false → exec (.ledgerRx p per k) s = .next (s.setPort p { s.port p with prop := k % 64 })) ∧
    (s.coreHeld 3 = true → exec (.ledgerRx p per k) s = .next { s with
      evq := { s.evq with wait3 := s.evq.wait3 ++ [.ledger p k] } })) ∧
  (∀ (s : State), s.isRoot = true → s.awake = true → s.cad.root.issuer = true → 256000 ≤ s.htNs.toNat % 1024000 →
    s.nrg.hallDone ≠ some (s.htNs.toNat / 1024000) → ∃ t, exec .hallRatioDecide s = .next t ∧
      t.nrg.hallK = max s.aggK s.nrg.relayK ∧ t.nrg.hallDone = some (s.htNs.toNat / 1024000) ∧
      (max s.aggK s.nrg.relayK ≠ s.ratioAhead → t.cad.root.ratioDue =
        some (max s.aggK s.nrg.relayK, (s.htNs.toNat / 1024000 + 1) * 1024000)) ∧
      (max s.aggK s.nrg.relayK = s.ratioAhead → t.cad = s.cad) ∧ t = { s with nrg := t.nrg, cad := t.cad })

/-! ### Management, events and updates (R402 to R433) -/

/-- Events (R407, R409, R413): raising an event of a condition sets its W1C bit, counts the record once in SEQ, copies it first
into the belfry tail with its code and HT, and places it in the queues of its block or counts it as dropped; nothing but
event state changes. -/
def Obligations.EventsAreCountedOnceAndKept : Prop :=
  ∀ (s : State) (f : Fld), f.lo + f.w ≤ 64 → 0 < f.w → f.reg / 0x200000 ≠ 15 →
    (∀ id, id ∈ s.routes (f.code / 256) → s.hqFull id = false) → ∃ r,
      OnlyEvents [f.reg] s (s.raise f) ∧ (s.raise f).fld f = 1 ∧ (s.raise f).evq.seq = s.evq.seq + 1 ∧
      (s.raise f).evq.tail64 = (r :: s.evq.tail64).take 64 ∧ r.code = f.code ∧ r.ns = s.htNs ∧
      r.seq = (s.evq.seq + 1).toNat ∧ r.arg1 = (s.logArg (f.reg / 0x200000)) ∧
      (∀ c, c < 4 → s.isVd = true → (s.reg (Reg.EVQ_ROUTE + 8 * (f.code / 256))).getLsbD c = true →
        (s.coreQ c).count < coreQSize →
        ((s.raise f).coreQ c).head = (s.coreQ c).head + 1) ∧
      (∀ c, (s.reg (Reg.EVQ_ROUTE + 8 * (f.code / 256))).getLsbD c = false →
        (s.raise f).coreQ c = s.coreQ c)

/-- Queues, the mailbox and deferred records (R404, R410, R412, R414): TAIL moves where HEAD - TAIL stays between 0 and the size
and is ignored otherwise, and a host queue that is not empty afterwards gets its vector; the mailbox holds the last word the
host wrote and is taken by the core's read alone; the first deferred record whose queue has room is placed, and none is
lost. The cores of the lantern (R403, R404, R416): a watchdog that passes half its timeout raises its core's source; one
that expires holds its core in reset and counts it, and latches QUIESCE if it is set to; a kick starts the count again; a
message for this unit is held until the core that owns source 47 takes its interrupt, and any other is routed; a core with a
pending source wakes, in standby too. -/
def Obligations.QueuesAndCoresAreServed : Prop :=
  ((∀ (s : State) (c : Nat) (v : W) (t0 : BitVec 32), c < 4 → s.present (Reg.EVQ_CORE_Q + 8 * c) = true →
     t0 = v.extractLsb' 32 32 →
     (((s.coreQ c).head - t0).toNat ≤ coreQSize → exec (.coreQTailWrite c v) s = .next { s with
       evq := { s.evq with coreQ := s.evq.coreQ.set c { s.coreQ c with tail := t0 } } }) ∧
     (coreQSize < ((s.coreQ c).head - t0).toNat → exec (.coreQTailWrite c v) s = .next s)) ∧
   (∀ (s : State) (q : Nat) (v : W) (t0 : BitVec 32), s.present (Reg.EVQ_HQ_IDX + 32 * q) = true →
     t0 = v.extractLsb' 32 32 →
     (((s.hostQ q).head - t0).toNat ≤ s.hqSize q → exec (.hqTailWrite q v) s = .next { s with
       evq := { s.evq with hostQ := s.evq.hostQ.set q { s.hostQ q with tail := t0 } },
       out := if s.isVd = true ∧ (s.hostQ q).head ≠ t0 then s.out ++ [.msix q] else s.out }) ∧
     (s.hqSize q < ((s.hostQ q).head - t0).toNat → exec (.hqTailWrite q v) s = .next s)) ∧
   (∀ (s : State) (v : W) (r : ReadVia),
     (s.reach .bar0 Reg.EVQ_MAILBOX = true → ∃ t, exec (.mailboxWrite v) s = .next t ∧ t.reg Reg.EVQ_MAILBOX = v ∧ t.evq.mailNew = true ∧
       OnlyRegs [Reg.EVQ_MAILBOX] { s with evq := { s.evq with mailNew := true } } t) ∧
     (s.reach .bar0 Reg.EVQ_MAILBOX = false → exec (.mailboxWrite v) s = .next s) ∧
     (s.Carries r → s.reach r.path Reg.EVQ_MAILBOX = true → exec (.mailboxRead r) s = .next { s with
       out := s.out ++ [.readData r.path (s.readReg r.path Reg.EVQ_MAILBOX)],
       evq := { s.evq with mailNew := if r.path = .lantern then false else s.evq.mailNew } }) ∧
     (s.Carries r → s.reach r.path Reg.EVQ_MAILBOX = false → exec (.mailboxRead r) s = .next { s with
       out := s.out ++ [.readData r.path 0] })) ∧
   OtherReadsFail .mailboxRead ∧
   (∀ s : State, ((∀ e, e ∈ s.evq.defer → s.canPlace e.1 = false) → exec .recordPlaceDeferred s = .next s) ∧
     ∀ c r rest, s.evq.defer = (.core c, r) :: rest → s.canPlace (.core c) = true → ∃ t,
       exec .recordPlaceDeferred s = .next t ∧ t.evq.defer = rest ∧ (t.coreQ c).head = (s.coreQ c).head + 1 ∧
       (t.coreQ c).tail = (s.coreQ c).tail ∧ t.regs = s.regs ∧
       t.evq.ring.get (coreQSize * c + (s.coreQ c).head.toNat % coreQSize) r = { r with lost := (s.coreQ c).lost })) ∧
  ((∀ (s : State) (c : Nat), s.wdgRuns c = true →
     ((s.core c).wdgAt + s.wdgTimeout c / 2 ≤ s.time.now →
       exec (.wdgHalf c) s = .next (s.setCore c { s.core c with half := true })) ∧
     (s.time.now < (s.core c).wdgAt + s.wdgTimeout c / 2 → exec (.wdgHalf c) s = .next s) ∧
     ((s.core c).wdgAt + s.wdgTimeout c ≤ s.time.now → ∃ t, exec (.wdgExpire c) s = .next t ∧
       (t.core c).inReset = true ∧ (t.core c).expiries = min 65535 ((s.core c).expiries + 1) ∧
       (∀ d, d ≠ c → t.core d = s.core d) ∧ t.flag Fld.EVQ_STATUS_WDG_EXPIRED = true ∧
       t.cad = { s.cad with quiesce := s.cad.quiesce || (s.wdgReg c).getLsbD 9 } ∧
       t.spk = s.spk ∧ t.fab.ram = s.fab.ram ∧ t.time = s.time) ∧
     (s.time.now < (s.core c).wdgAt + s.wdgTimeout c → exec (.wdgExpire c) s = .next s)) ∧
   (∀ (s : State) (c : Nat) (v : W), c < 4 → s.present (Reg.EVQ_WDG + 8 * c) = true → ∃ t,
     exec (.wdgKick c v) s = .next t ∧ (t.core c).wdgAt = s.time.now ∧ (t.core c).half = false ∧
     (∀ d, d ≠ c → t.core d = s.core d) ∧
     OnlyRegs [Reg.EVQ_WDG + 8 * c] { s with evq := { s.evq with cores := t.evq.cores } } t ∧
     (v.toNat % 256 ≠ 0 → (t.reg (Reg.EVQ_WDG + 8 * c)).toNat % 256 = v.toNat % 256) ∧
     (v.toNat % 256 = 0 → (t.reg (Reg.EVQ_WDG + 8 * c)).toNat % 256 = (s.reg (Reg.EVQ_WDG + 8 * c)).toNat % 256)) ∧
   (∀ (s : State) (p : Nat) (m : Message), s.awake = true → s.portUp p = true → s.isVd = true → s.msgForMe m = true →
     exec (.lanternMessageRx p m) s = .next { s with evq := { s.evq with held := s.evq.held ++ [(p, m)] } }) ∧
   (∀ (s : State) (p : Nat) (m : Message), s.awake = true → s.portUp p = true → s.msgForMe m = false →
     exec (.lanternMessageRx p m) s = .next (s.routeMsg m)) ∧
   (∀ (s : State) (c : Nat), s.isVd = true → s.belfryOn = true → s.pwr.power = .on → c < 4 → (s.core c).inReset = false →
     (s.corePending c = false → exec (.coreInterrupt c) s = .next s) ∧
     (s.corePending c = true → (s.reg (Reg.EVQ_CORE_CTRL + 8 * c)).getLsbD 32 = true →
       exec (.coreInterrupt c) s = .next (s.setCore c { s.core c with asleep := false })) ∧
     (∀ p per k, s.corePending c = true → (s.reg (Reg.EVQ_CORE_CTRL + 8 * c)).getLsbD 32 = false →
       s.sharedPend 47 = true → s.sharedTarget 47 = c → s.portUp p = true →
       s.evq.held = [(p, ⟨3, 0, 0, 0, .ledger per k⟩)] → ∃ t, exec (.coreInterrupt c) s = .next t ∧ t.evq.held = [] ∧
         (t.port p).prop = k % 64 ∧ (t.core c).asleep = false ∧ t.regs = s.regs)))

/-- The persistent store (R418, R419): a write joins the queue behind those that wait; when it completes the word holds the
value and its wear count grows by one; a write of the value that the word holds is not performed; a word of 10,000,000
writes refuses every write, keeps its value, and sets NVS_STATUS.REFUSED. -/
def Obligations.PersistentWordsKeepTheirWear : Prop :=
  (∀ (s : State) (w : Nat) (v : W), s.isVd = true → s.present Reg.NVS_DATA = true → w < 4096 →
    (s.wear w < 10000000 → ∃ t, exec (.nvsWrite w v) s = .next t ∧ t.nvs.queue = s.nvs.queue ++ [⟨w, v, false⟩] ∧
      t.nvs.words = s.nvs.words ∧ t.nvs.wear = s.nvs.wear ∧ t = { s with nvs := t.nvs }) ∧
    (10000000 ≤ s.wear w → ∃ t, exec (.nvsWrite w v) s = .next t ∧ t.nvs = s.nvs ∧
      t.flag Fld.NVS_STATUS_REFUSED = true ∧ OnlyEvents [Reg.NVS_STATUS] s t)) ∧
  (∀ (s : State) (e : NvsWr) (rest : List NvsWr), s.nvs.queue = e :: rest → ∃ t, exec .nvsWriteDone s = .next t ∧
    t.nvs.queue = rest ∧ (rest = [] → t.flag Fld.NVS_STATUS_WRITTEN = true) ∧
    (∀ w, w ≠ e.word → t.nvsWord w = s.nvsWord w ∧ t.wear w = s.wear w) ∧
    (s.wear e.word < 10000000 → t.nvsWord e.word = e.val ∧
      t.wear e.word = (if s.nvsWord e.word = e.val then s.wear e.word else s.wear e.word + 1)) ∧
    (10000000 ≤ s.wear e.word → t.nvsWord e.word = s.nvsWord e.word ∧ t.wear e.word = s.wear e.word ∧
      (s.nvsWord e.word ≠ e.val → t.flag Fld.NVS_STATUS_REFUSED = true)) ∧
    OnlyEvents [Reg.NVS_STATUS] { s with nvs := t.nvs } t)

/-- Firmware slots and boot (R422 to R425, R429): STAGE writes the inactive slot, and its end leaves it VALID or FAILED by the
image's own check; ACTIVATE refuses in MODE 1 or with a slot that is not VALID, and otherwise makes the other slot active on
trial and restarts the lantern; CONFIRM ends the trial; ROM_BOOT starts the cores from a slot whose image verifies by the
key accepted then, sets ACTIVATED where that is the other one, takes what has waited for core 3, and enters recovery without
such a slot, where chunks are taken and DONE fills slot A; while the main core runs it starts the service cores in reset
alone. -/
def Obligations.SlotsAreStagedAndBooted : Prop :=
  (∀ s : State, s.mainRuns = true →
    (s.fwu.fw ≠ .ready → s.fwu.fw ≠ .go → ∃ t, exec .fwuStage s = .next t ∧ (t.slot s.inactive).st = .writing ∧
      t.slot s.bootActive = s.slot s.bootActive ∧ t.fwu.staging = some s.fwSrc ∧ t = { s with fwu := t.fwu }) ∧
    (s.fwu.fw = .ready ∨ s.fwu.fw = .go → ∃ t, exec .fwuStage s = .next t ∧
      t.flag Fld.FWU_STATUS_CMD_REFUSED = true ∧ OnlyRegs [Reg.FWU_STATUS] s t) ∧
    (∀ r, s.fwu.staging = some r → ∃ t, exec .fwuStageDone s = .next t ∧ t.fwu.staging = none ∧
      t.slot s.inactive = s.slotOf (Memory.readBytes s.fab.ram r.1 (min r.2 (2 ^ 26))) ∧
      ((t.slot s.inactive).st = .valid ↔
        fwSound (Memory.readBytes s.fab.ram r.1 (min r.2 (2 ^ 26))) = true ∧
        signerOf (fwBlock (Memory.readBytes s.fab.ram r.1 (min r.2 (2 ^ 26)))) = s.fwKeyHash) ∧
      t.slot s.bootActive = s.slot s.bootActive ∧ t.flag Fld.FWU_STATUS_STAGED = true ∧
      OnlyEvents [Reg.FWU_STATUS] { s with fwu := t.fwu } t) ∧
    (s.flag Fld.FWU_CFG_MODE = true ∨ (s.slot s.inactive).st ≠ .valid → ∃ t, exec .fwuActivate s = .next t ∧
      t.flag Fld.FWU_STATUS_CMD_REFUSED = true ∧ OnlyRegs [Reg.FWU_STATUS] s t) ∧
    (s.flag Fld.FWU_CFG_MODE = false → (s.slot s.inactive).st = .valid → s.worn 17 = false → ∃ t,
      exec .fwuActivate s = .next t ∧ t.bootActive = s.inactive ∧ t.bootTrial = true ∧ t.bootCount = 0 ∧
      t.flag Fld.FWU_STATUS_ACTIVATED = true ∧ (∀ c, c < 4 → (t.core c).inReset = true) ∧ t.fwu = s.fwu) ∧
    (s.worn 17 = false → ∃ t, exec .fwuConfirm s = .next t ∧ t.bootActive = s.bootActive ∧ t.bootTrial = false ∧
      t.bootCount = s.bootCount ∧ t = { s with nvs := t.nvs })) ∧
  (∀ s : State, s.isVd = true → s.awake = true → ∃ t, exec .fwuRestart s = .next t ∧
    (∀ c, c < 4 → (t.core c).inReset = true) ∧ t = { s with evq := { s.evq with cores := t.evq.cores } }) ∧
  (∀ s : State, s.isVd = true → s.pwr.power = .on → s.pwr.aonRstN = true → (s.core 0).inReset = true →
    (s.evq.wait3 = [] → s.slotGood s.bootActive = true ∨ s.slotGood s.inactive = true → ∃ t, exec .romBoot s = .next t ∧
      (∀ c, c < 4 → (t.core c).inReset = false ∧ (t.core c).wdgAt = s.time.now) ∧ t.pwr = { s.pwr with recovery := false } ∧
      (s.slotGood s.bootActive = false → t.flag Fld.FWU_STATUS_ACTIVATED = true) ∧
      (s.worn 17 = false → t.bootActive = if s.slotGood s.bootActive then s.bootActive else s.inactive)) ∧
    (∀ p k, s.slotGood s.bootActive = true → s.evq.wait3 = [.ledger p k] → ∃ t, exec .romBoot s = .next t ∧
      t.evq.wait3 = [] ∧ (t.port p).prop = k % 64 ∧ ∀ c, c < 4 → (t.core c).inReset = false) ∧
    (∀ n, s.slotGood n = true ↔ ((s.slot n).st = .valid ∨ (s.slot n).st = .failed) ∧ (s.slot n).sound = true ∧
      (s.slot n).signer = s.fwKeyHash) ∧
    (s.slotGood s.bootActive = false → s.slotGood s.inactive = false → exec .romBoot s =
      .next { s with pwr := { s.pwr with recovery := true } })) ∧
  (∀ s : State, s.isVd = true → s.pwr.power = .on → s.pwr.aonRstN = true → (s.core 0).inReset = false → s.evq.wait3 = [] → ∃ t,
    exec .romBoot s = .next t ∧ (∀ c, c < 4 → (t.core c).inReset = false ∧ ((s.core c).inReset = false → t.core c = s.core c)) ∧
    t.nvs = s.nvs ∧ t.fwu = s.fwu ∧ t.regs = s.regs) ∧
  (∀ (s : State) (v : W), s.present Reg.FWU_RCV_CTRL = true → s.pwr.recovery = true → v.getLsbD 42 = false →
    v.getLsbD 43 = false →
    (∃ t, exec (.rcvChunk v) s = .next t ∧
      (∀ i, i < min 65536 ((t.fld Fld.FWU_RCV_CTRL_LEN + 1) * 8) →
        t.fwu.chunks.get (t.fld Fld.FWU_RCV_CTRL_OFFSET * 8 + i) 0 = s.fwu.rcvBuf.get i 0) ∧
      OnlyRegs [Reg.FWU_RCV_CTRL] { s with fwu := { s.fwu with chunks := t.fwu.chunks } } t) ∧
    ∃ t, exec (.rcvDone v) s = .next t ∧ t.fwu.chunks = [] ∧ t.fwu.rcvBuf = [] ∧ t.flag Fld.FWU_STATUS_STAGED = true ∧
      t.slot 1 = s.slot 1 ∧ (t.verifies (t.slot 0) = true → t.pwr.recovery = false ∧
        (s.bootActive ≠ 0 → t.flag Fld.FWU_STATUS_ACTIVATED = true)) ∧
      (t.verifies (t.slot 0) = false → t.pwr.recovery = true ∧ t.bootActive = s.bootActive))

/-- Activations (R426, R427): a manifest that passes every check while the cadence is IDLE is READY, and one that fails keeps
the first code; FW_READY reports the aggregate upwards; the issuer sends GO when both aggregates are READY, ABORT when one
fails or the deadline has passed; a READY unit holds GO until its instant and then swaps its slot; ABORT discards the
manifest, and a notice is taken once, and waits while core 3 is in reset (R402). -/
def Obligations.ActivationsGoOrAbort : Prop :=
  (∀ (s : State) (b : List Byte), s.mainRuns = true → s.fwu.fw ≠ .go →
    b = Memory.readBytes s.fab.ram s.fwSrc.1 (min s.fwSrc.2 (128 + 64 * 18432 + 256)) → ∃ t,
      exec .fwuManifest s = .next t ∧ (t.fwu.fw = .ready ↔ s.manFail b = 0) ∧
      (s.manFail b ≠ 0 → t.fwu.fw = .fail) ∧ t.fwu.failCode = s.manFail b ∧ t.fwu.manifest = fieldAt b 8 4 ∧
      t.fwu.slotA = s.fwu.slotA ∧ t.fwu.slotB = s.fwu.slotB ∧ t = { s with fwu := t.fwu } ∧
      (s.cad.st ≠ .idle → t.fwu.fw = .fail)) ∧
  (∀ (s : State) (p : Nat), s.isVd = true → s.awake = true → s.fwu.manifest ≠ 0 → s.isRoot = false →
    s.cad.root.issuer = false → s.fwu.sentPer ≠ some (s.htNs.toNat / 1024000) → s.inputPorts = [p] →
    s.sendOffset + 512000 ≤ s.htNs.toNat % 1024000 → exec .fwReadySend s =
      .next (({ s with fwu := { s.fwu with sentPer := some (s.htNs.toNat / 1024000) } } : State).msgOut p
        (s.ownMsg 3 0 (.fwReady s.fwu.manifest s.fwAgg.1 s.fwAgg.2)))) ∧
  (∀ (s : State) (p m : Nat) (r f : Bool) (act : W), s.isVd = true → s.awake = true → s.portUp p = true →
    (s.coreHeld 3 = false →
      exec (.fwReadyRx p m r f) s = .next (s.setPort p { s.port p with fwReady := some (m, r, f) })) ∧
    (s.coreHeld 3 = true →
      exec (.fwReadyRx p m r f) s = .next { s with evq := { s.evq with wait3 := s.evq.wait3 ++ [.fwReady p m r f] } } ∧
      exec (.fwGoRx p m act) s = .next { s with evq := { s.evq with wait3 := s.evq.wait3 ++ [.fwGo p m act] } } ∧
      exec (.fwAbortRx p ⟨m, act⟩) s = .next { s with
        evq := { s.evq with wait3 := s.evq.wait3 ++ [.fwAbort p ⟨m, act⟩] } })) ∧
  (∀ s : State, s.fwIssuer = true →
    (s.fwAgg.2 = true → ∃ t, exec .fwDecide s = .next t ∧ t.fwu.fw = .idle ∧ t.fwu.manifest = 0) ∧
    (s.fwAgg = (true, false) → s.fwu.otherFw = some (s.fwu.manifest, true, false) →
      s.fwu.seen.contains (3, s.fwu.manifest) = false → s.fwu.fw = .ready → ∃ t, exec .fwDecide s = .next t ∧
        t.fwu.fw = .go ∧ t.fwu.goSent = true ∧ t.fwu.manifest = s.fwu.manifest ∧ t.fwu.actNs = s.fwu.actNs) ∧
    (s.fwAgg.2 = false → s.fwu.otherFw = none → exec .fwDecide s = .next s) ∧
    (s.fwu.actNs.toNat ≤ s.htNs.toNat + 10000000 → ∃ t, exec .fwDeadline s = .next t ∧ t.fwu.fw = .idle ∧
      t.fwu.manifest = 0) ∧
    (s.htNs.toNat + 10000000 < s.fwu.actNs.toNat → exec .fwDeadline s = .next s)) ∧
  (∀ (s : State) (p m : Nat) (act : W), s.isVd = true → s.awake = true → s.portUp p = true → s.coreHeld 3 = false →
    (s.fwu.seen.contains (2, m) = true → exec (.fwGoRx p m act) s = .next s) ∧
    (s.fwu.seen.contains (3, m) = true → exec (.fwAbortRx p ⟨m, act⟩) s = .next s) ∧
    (s.fwu.seen.contains (2, m) = false → s.fwu.seen.contains (3, m) = false → s.fwu.manifest = m →
      (s.fwu.fw = .ready → ∃ t, exec (.fwGoRx p m act) s = .next t ∧ t.fwu.fw = .go ∧ t.fwu.actNs = act ∧
        t.fwu.seen = (2, m) :: s.fwu.seen) ∧
      (∃ t, exec (.fwAbortRx p ⟨m, act⟩) s = .next t ∧ t.fwu.fw = .idle ∧ t.fwu.manifest = 0 ∧
        t.fwu.seen = (3, m) :: s.fwu.seen))) ∧
  (∀ s : State, s.isVd = true → s.awake = true → s.fwu.fw = .go →
    (s.htNs.toNat < s.fwu.actNs.toNat → exec .fwSlotSwap s = .next s) ∧
    (s.fwu.actNs.toNat ≤ s.htNs.toNat → s.worn 17 = false → ∃ t, exec .fwSlotSwap s = .next t ∧
      t.bootActive = s.inactive ∧ t.bootTrial = true ∧ t.fwu.fw = .idle ∧ (∀ c, c < 4 → (t.core c).inReset = true)))

/-- Heartbeats (R32, R43, R45, R65, R109, R118, R119, R211 to R213, R217): once in each period of 1,024 ns of HT, when none of
the stamped sets has left for 256 ns and no flit is due, the heartbeat of a port leaves: it carries its HB_SEQ, the
departure of the one before it and, on a fixed port alone, time and decisions; its own departure is stamped and noted. A
heartbeat that arrives counts for the detector; one on a port that is not fixed or with TIME_VALID clear changes neither
time nor cadence; one with time leaves what it says of each domain, its report where it is marked and no report otherwise,
and its grant under the epoch in force where that is higher. -/
def Obligations.HeartbeatsCarryTimeAndReports : Prop :=
  (∀ (s : State) (p : Nat), s.awake = true → s.carriesOs p = true →
    ((s.port p).hbTick = some (s.htNs.toNat / 1024) ∨ (s.port p).txq ≠ [] ∨
      (∃ t0, (s.port p).lastOs = some t0 ∧ s.time.now - t0 < 256 * nsX) → exec (.heartbeatSend p) s = .next s) ∧
    ((s.port p).hbTick ≠ some (s.htNs.toNat / 1024) → (s.port p).txq = [] →
      (∀ t0, (s.port p).lastOs = some t0 → s.time.now - t0 ≥ 256 * nsX) → ∃ t h,
      exec (.heartbeatSend p) s = .next t ∧ t.out = s.out ++ [.oset p (.heartbeat h)] ∧
      h.seq = (s.port p).hbSeq % 65536 ∧ h.prevNs = (s.port p).hbPrev.1 ∧ h.prevFrac = (s.port p).hbPrev.2.toNat ∧
      h.timeValid = s.portFixed p ∧
      (s.portFixed p = false → h.d0 = none ∧ h.d1 = none ∧ ∀ d, (h.doms.get d).valid = false) ∧
      (∀ d, (h.doms.get d).complete = (s.aggregate d).complete ∧ (h.doms.get d).arm = (s.aggregate d).arm) ∧
      (t.port p).hbSeq = (s.port p).hbSeq + 1 ∧ (t.port p).hbPrev = (s.htNs, s.htFrac) ∧
      (t.port p).lastOs = some s.time.now ∧ (t.port p).hbTick = some (s.htNs.toNat / 1024) ∧
      (s.stamps (256 + p) = true → s.tdc.fifo.length < 4096 → s.tdc.cdRun = none →
        t.tdc.fifo = s.tdc.fifo ++ [fifoRec (rawStamp s.tdc.coarse 65536) (256 + p) 0 (bit (!s.tdc.ringLock))]) ∧
      (s.isRoot = false → s.cad.st = .running →
        t = { s.setPort p (t.port p) with tdc := t.tdc, out := t.out, regs := t.regs } ∧
        ∀ a, a ∉ [Reg.TDC_STATUS, Reg.TDC_FIFO_STATUS] → t.reg a = s.reg a))) ∧
  (∀ (s : State) (p : Nat) (hb : Heartbeat) (stamps : List (BitVec 48)), s.awake = true → s.carriesOs p = true →
    s.ensureCut = s → s.cad.st = .running → hb.d0 = none → hb.d1 = none → ∃ t,
      exec (.heartbeatRx p hb stamps) s = .next t ∧ (t.port p).hbCount = (s.port p).hbCount + 1 ∧
      (t.port p).hbAt = some s.time.now ∧ t.fab.ram = s.fab.ram ∧
      (s.portFixed p = false ∨ hb.timeValid = false → t.time = s.time ∧ t.cad = s.cad ∧ t.ref.sel = s.ref.sel ∧
        (∀ a, a ∉ [Reg.TDC_STATUS, Reg.TDC_FIFO_STATUS] → t.reg a = s.reg a) ∧
        ∀ d, ((t.ref.pt.get d).get p {}).errs = []) ∧
      (s.portFixed p = true → hb.timeValid = true → ∀ d,
        ((t.ref.pt.get d).get p {}).valid = (hb.doms.get d).valid ∧ ((t.ref.pt.get d).get p {}).ql = (hb.doms.get d).ql ∧
        ((t.ref.pt.get d).get p {}).hop = (hb.doms.get d).hop ∧
        ((hb.doms.get d).mark = true → (t.cad.reps.get d).get p ⟨0, 0, false⟩ =
          ⟨(hb.doms.get d).complete, (hb.doms.get d).arm, (hb.doms.get d).disarm⟩) ∧
        ((hb.doms.get d).mark = false → (t.cad.reps.get d).has p = false)) ∧
      (s.portFixed p = true → hb.timeValid = true → (∀ d, (hb.doms.get d).epoch = s.cad.epoch) →
        t.cad.grant.toNat = max (max s.cad.grant.toNat hb.doms.a.grant.toNat) hb.doms.b.grant.toNat))

/-- HT_PORT_FIXED in DOME role (R34): it reads all ones, and a write leaves the unit as it is. -/
def Obligations.DomePortsAreAllFixed : Prop :=
  ∀ (s : State) (path : Path) (v : W), s.isDome = true → s.reach path Reg.HT_PORT_FIXED = true →
    s.readReg path Reg.HT_PORT_FIXED = BitVec.allOnes 64 ∧ (∀ p, s.portFixed p = true) ∧
    (∀ (by' : Path) (addr n : Nat), pathAddr by' addr = some Reg.HT_PORT_FIXED →
      exec (.registerWrite by' addr n v) s = .next s)

/-- Writes of registers (R371, R489 to R493): only an aligned write of eight bytes to a register that the path reaches has an
effect; a status register's W1C bits written 1 are cleared, RW fields take their value, every other bit and register stays;
a value that a field does not take leaves it. -/
def Obligations.RegisterWritesFollowAccessCodes : Prop :=
  ∀ (s : State) (path : Path) (addr n : Nat) (v : W),
    (n ≠ 8 ∨ addr % 8 ≠ 0 → exec (.registerWrite path addr n v) s = .next s) ∧
    (pathAddr path addr = none → exec (.registerWrite path addr n v) s = .next s) ∧
    (∀ a, pathAddr path addr = some a → hostPage? a = none → s.reach path a = false →
      exec (.registerWrite path addr n v) s = .next s) ∧
    (∀ a r, pathAddr path addr = some a → addr % 8 = 0 → s.reach path a = true → regRow? a = some r → r.rwp = 0 →
      (a = Reg.TDC_STATUS ∨ a = Reg.REF_STATUS ∨ a = Reg.SPK_STATUS ∨ a = Reg.IMG_STATUS ∨ a = Reg.XF_STATUS ∨
       a = Reg.MEM_STATUS ∨ a = Reg.CMB_STATUS ∨ a = Reg.TIL_STATUS ∨ a = Reg.STG_STATUS ∨ a = Reg.STG_CTRL ∨
       a = Reg.FLT_STATUS ∨ a = Reg.FLT_CFG ∨ a = Reg.NRG_STATUS ∨ a = Reg.NRG_THERM ∨ a = Reg.CLK_STATUS ∨
       a = Reg.NVS_STATUS ∨ a = Reg.NVS_ADDR ∨ a = Reg.FWU_STATUS) → ∃ t,
        exec (.registerWrite path addr 8 v) s = .next t ∧ OnlyRegs [a] s t ∧
        t.reg a = ((s.reg a &&& ~~~(v &&& BitVec.ofNat 64 r.w1c)) &&& ~~~(BitVec.ofNat 64 r.rw)) |||
          (v &&& BitVec.ofNat 64 r.rw)) ∧
    (path = .lantern → s.reach path Reg.NRG_CTRL = true → 850 < Fld.NRG_CTRL_BUDGET_W.of v → ∃ t,
      exec (.registerWrite path Reg.NRG_CTRL 8 v) s = .next t ∧
      t.fld Fld.NRG_CTRL_BUDGET_W = s.fld Fld.NRG_CTRL_BUDGET_W ∧ OnlyRegs [Reg.NRG_CTRL] s t)

/-! ### What every step keeps -/

/-- Every step keeps main memory in its canonical form: addresses strictly rising, and no byte listed that reads as an unlisted
one. -/
def Obligations.StepKeepsMemoryCanonical : Prop :=
  ∀ s t : State, Memory.wf s.fab.ram = true → step s = .next t → Memory.wf t.fab.ram = true

/-- Every step keeps the register table in its canonical form, for the kind of unit that no step changes. -/
def Obligations.StepKeepsRegistersCanonical : Prop :=
  ∀ s t : State, regsWf s.ident.kind s.regs = true → step s = .next t →
    t.ident.kind = s.ident.kind ∧ regsWf t.ident.kind t.regs = true

/-- Every step keeps the bounds of the manual (R19, R41, R45, R374): 4,096 stamp records, four anchor slots, 64 records in the
belfry tail, and spread depths of at most 10. -/
def Obligations.StepKeepsBounds : Prop := ∀ s t : State, Bounded s → step s = .next t → Bounded t

/-- The machine right after reset (R14, R31, R104, R455): it meets what every step keeps; HT is 0 and the servo is in FREERUN,
the cadence is IDLE, every port is DOWN, every sprocket is FREE with value 0, every stored register bit has its reset value,
and no command waits; that it is a DOME with DNO 0 is the model's choice (log entry 1). -/
def Obligations.ResetIsTheManuals : Prop :=
  Memory.wf State.reset.fab.ram = true ∧ regsWf State.reset.ident.kind State.reset.regs = true ∧ Bounded State.reset ∧
  State.reset.ht = 0 ∧ State.reset.time.servo = .freerun ∧ State.reset.cad.st = .idle ∧
  (∀ p, (State.reset.port p).st = .down) ∧ (∀ p, State.reset.spkVal p = 0 ∧ (State.reset.meta p).st = .free) ∧
  (∀ a, State.reset.reg a = regResetOf .vd a) ∧ (∀ c, (State.reset.core c).inReset = true) ∧ State.reset.pending = [] ∧
  State.reset.isDome = true ∧ State.reset.ident.dno = 0

/-! ### Resets, supplies and contacts (R454 to R487) -/

/-- AON reset resets the whole unit (R455): HT 0 in FREERUN, every register at its reset value, the cadence generator IDLE,
memory and staging empty; the persistent store keeps its words, and a VD takes its DNO from word 2 and its fold map from
word 20 (R420). When it ends, a DOME with a DNO of 1,024 or more isolates its die ports (R8). A reset of a VSU's core keeps
HT, the sprocket values and, but for the event of a BRIDGE that it causes (log entry 96), the belfry tail, and drops its
waits and registrations with no response. -/
def Obligations.ResetsKeepWhatTheirTableNames : Prop :=
  (∀ s : State, s.nvs.queue = [] → ∃ t, exec .aonReset s = .next t ∧ t.time.htx = 0 ∧ t.time.servo = .freerun ∧
    t.regs = [] ∧ t.cad = {} ∧ t.spk = {} ∧ t.fab = {} ∧ t.stg = {} ∧ t.evq = {} ∧ t.nvs.words = s.nvs.words ∧
    t.pwr.aonRstN = false ∧ t.ident.kind = s.ident.kind ∧
    t.til.retired = foldOf (s.nvsWord 20) ∧ (s.isVd = true → t.ident.dno = (s.nvsWord 2).toNat % 4096)) ∧
  (∀ s : State, s.isVd = false → s.pwr.vsuRstN = true → ∃ t, exec .vsuReset s = .next t ∧
    t.pwr = { s.pwr with vsuRstN := false } ∧ t.time.htx = s.time.htx ∧
    (s.time.servo ≠ .locked → t.evq.tail64 = s.evq.tail64 ∧ t.out = s.out) ∧
    t.spk = { vals := s.spk.vals, info := s.spk.info } ∧ t.cad.st = .idle ∧ t.cad.sc = s.cad.sc ∧
    t.img.live = none ∧ t.fab.side = []) ∧
  (∀ s : State, s.pwr.aonRstN = false → s.pwr.power ≠ .off →
    (s.isDome = false ∨ s.ident.dno < 1024 → exec .aonResetRelease s = .next { s with
      pwr := { s.pwr with aonRstN := true }, out := if s.isVd then s.out else s.out ++ [.discClk true] }) ∧
    (s.isDome = true → 1024 ≤ s.ident.dno → ∃ t, exec .aonResetRelease s = .next t ∧
      t.pwr = { s.pwr with aonRstN := true } ∧
      ∀ p, p < 32 → (t.port p).st = .isolated ∧ (t.reg (Reg.XF_PORT_CFG + 8 * p)).getLsbD 0 = true)) ∧
  (∀ s : State, s.isVd = false →
    exec .vsuResetRelease s = .next { s with pwr := { s.pwr with vsuRstN := true } })

/-- The supplies of the module (R470 to R473, R479, R481, R486, R487): VIN brings up AON 2 ms after lockout, and with MOD_EN
high, as a rise of MOD_EN in AON, the main sequence, whose end 20 ms later is ON with MOD_PG; MOD_EN low, or a junction at
115 °C, in ON or during the sequence, takes the main supplies away and leaves AON, which keeps HT running; a new level of
MOD_EN is taken once it has stood for 1 µs, and a pulse back before then is ignored; a supply out of regulation lowers
MOD_FAULT_N and changes nothing else; VIN below lockout removes every supply. That VIN_UP stands for the time to AON, and
the count of the sequence, are the model's (log entry 166). PERST_N, the sensor bus, test access and SCAN_MODE (R459, R479,
R483 to R487): PERST_N resets the endpoint while time, cadence and fabric continue, its new level taken once it has stood
for 1 µs, a pulse back before then being ignored; a sensor register that R485 names is returned at the module's own address,
and of another a free value, and another address is not the module's; an instruction of test access is held and carried out
as long as R484 lets it, outside IDLE BYPASS, IDCODE and SAMPLE/PRELOAD alone; IDCODE captures 0x10302A97. The numbers of
the instructions are the model's (log entry 98). -/
def Obligations.SuppliesAndContacts : Prop :=
  ((∀ s : State, s.isVd = true → s.pwr.power = .off → s.pwr.mainAt = none → s.pwr.hwShutdown = false → ∃ t,
     exec .vinUp s = .next t ∧ t.pwr = { s.pwr with
       power := .aon, aonRstN := true, modFaultN := true, enAt := s.time.now + 2 * msX,
       mainAt := if s.pwr.modEn then some (s.time.now + 22 * msX) else none } ∧
     (s.isDome = false ∨ s.ident.dno < 1024 → t = { s with pwr := t.pwr })) ∧
   (∀ s : State, s.isVd = true → s.pwr.power ≠ .off → ∃ t, exec .vinDown s = .next t ∧ t.pwr.power = .off ∧
     t.pwr.modPg = false ∧ t.pwr.mainAt = none ∧ t.time.htx = 0 ∧ t.fab = {} ∧ t.stg = {}) ∧
   (∀ s : State, s.isVd = true → s.pwr.power ≠ .off →
     exec .modEnRise s = .next { s with pwr := { s.pwr with
       modEnAt := if s.pwr.modEn then none else some (s.pwr.modEnAt.getD s.time.now) } } ∧
     exec .modEnFall s = .next { s with pwr := { s.pwr with
       modEnAt := if s.pwr.modEn then some (s.pwr.modEnAt.getD s.time.now) else none } }) ∧
   (∀ (s : State) (e : Nat), s.pending = [] → s.belfryOn = true → s.pwr.modEnAt = some e → s.pwr.perstAt = none →
     s.pwr.mainAt = none → ∃ t, step s = .next t ∧
     (t.time.now < e + 1000 * nsX → t.pwr = s.pwr) ∧
     (e + 1000 * nsX ≤ t.time.now →
       (s.pwr.power = .aon → s.pwr.modEn = false → s.pwr.hwShutdown = false → t.time.now < max s.pwr.enAt e + 20 * msX →
         t.pwr = { s.pwr with modEnAt := none, modEn := true, mainAt := some (max s.pwr.enAt e + 20 * msX) }) ∧
       (s.pwr.power = .on → s.pwr.modEn = true → t.pwr.power = .aon ∧ t.pwr.modEn = false ∧ t.pwr.modEnAt = none ∧
         t.pwr.modPg = false ∧ t.pwr.modFaultN = true ∧ t.time.htx = s.tick.time.htx ∧ t.fab.ram = [] ∧ t.stg = {} ∧
         t.nvs = s.nvs))) ∧
   (∀ (s : State) (e f : Nat), s.pending = [] → s.belfryOn = true → s.pwr.modEnAt = some e → s.pwr.perstAt = none →
     s.pwr.power = .aon → s.pwr.modEn = true → s.pwr.mainAt = some f → ∃ t, step s = .next t ∧
     (e + 1000 * nsX ≤ t.time.now → t.pwr.power = .aon ∧ t.pwr.modEn = false ∧ t.pwr.mainAt = none)) ∧
   (∀ (s : State) (e : Nat), s.pending = [] → s.belfryOn = true → s.pwr.modEnAt = none → s.pwr.perstAt = none →
     s.pwr.mainAt = some e → ∃ t, step s = .next t ∧
     (e ≤ t.time.now → t.pwr = { s.pwr with power := .on, modPg := true, mainAt := none }) ∧
     (t.time.now < e → t.pwr = s.pwr)) ∧
   (∀ s : State, s.isVd = true → s.pwr.power = .on → ∃ t, exec .thermalShutdown s = .next t ∧ t.pwr.power = .aon ∧
     t.pwr.hwShutdown = true ∧ t.pwr.modFaultN = false ∧ t.pwr.modPg = false ∧ t.time.htx = s.time.htx ∧
     t.fab.ram = [] ∧ t.nvs = s.nvs) ∧
   (∀ (s : State) (e : Nat), s.isVd = true → s.pwr.power = .aon → s.pwr.mainAt = some e → exec .thermalShutdown s =
     .next { s with pwr := { s.pwr with hwShutdown := true, modFaultN := false, mainAt := none } }) ∧
   (∀ s : State, s.isVd = true → s.pwr.power = .on →
     exec .supplyFault s = .next { s with pwr := { s.pwr with supplyBad := true, modFaultN := false } })) ∧
  ((∀ s : State, s.isVd = true → s.pwr.power ≠ .off →
     exec .perstAssert s = .next { s with pwr := { s.pwr with
       perstAt := if s.pwr.perstN then some (s.pwr.perstAt.getD s.time.now) else none } } ∧
     exec .perstRelease s = .next { s with pwr := { s.pwr with
       perstAt := if s.pwr.perstN then none else some (s.pwr.perstAt.getD s.time.now) } }) ∧
   (∀ (s : State) (e : Nat), s.pending = [] → s.belfryOn = true → s.pwr.perstAt = some e → s.pwr.modEnAt = none →
     s.pwr.mainAt = none → s.time.servo ≠ .coarse → s.til.run = none → ∃ t, step s = .next t ∧ t.cad = s.cad ∧ t.time.htx = s.tick.time.htx ∧
     (t.time.now < e + 1000 * nsX → t.pwr = s.pwr ∧ t.fab = { s.fab with laneOut := t.fab.laneOut }) ∧
     (e + 1000 * nsX ≤ t.time.now → t.pwr = { s.pwr with perstAt := none, perstN := !s.pwr.perstN } ∧
       t.fab = { s.fab with bar2 := if s.pwr.perstN then [] else s.fab.bar2, laneOut := t.fab.laneOut })) ∧
   (∀ (s : State) (addr reg : Nat), s.isVd = true → s.pwr.power ≠ .off →
     (addr = 0x48 + s.pwr.i2cAddr % 8 →
       (∀ v, s.i2cReg reg = some v → exec (.i2cRead ⟨addr, reg⟩) s = .next { s with out := s.out ++ [.i2c v] }) ∧
       (s.i2cReg reg = none → exec (.i2cRead ⟨addr, reg⟩) s = .next { s with
         free := s.free + 1, out := s.out ++ [.i2c (Config.i2cOther s.free)] })) ∧
     (addr ≠ 0x48 + s.pwr.i2cAddr % 8 → exec (.i2cRead ⟨addr, reg⟩) s = .next s)) ∧
   (∀ (s : State) (op : Nat), s.isVd = true → s.pwr.power ≠ .off → ∃ t, exec (.jtagInstruction op) s = .next t ∧
      t = { s with pwr := { s.pwr with jtagOp := op }, out := t.out } ∧
      (op ≤ 2 ∨ (op ≤ 7 ∧ s.cad.st = .idle) → t.jtagNow = op) ∧ (2 < op → s.cad.st ≠ .idle → t.jtagNow = 0) ∧
      (7 < op → t.jtagNow = 0) ∧ t.out = s.out ++ [.jtag t.jtagNow
        (if t.jtagNow = 0 then some 0 else if t.jtagNow = 1 then some 0x10302A97 else none)]) ∧
   (∀ (s : State) (m : Bool), s.isVd = false →
     exec (.scanModeChange m) s = .next { s with pwr := { s.pwr with scanMode := m } }))
end

