-- ==== Sys2Proof/Laws/Bytes.lean ====
section
/-! SUPPORT. Sys2Proof/Laws/Bytes.lean: little-endian bytes and the numbers that they spell, lengths, and the range of a
CRC-64. -/

namespace Sys2Proof.Machine

@[simp] theorem leBytes_length (k n : Nat) : (leBytes k n).length = k := by
  induction k generalizing n with
  | zero => rfl
  | succ k ih => simp [leBytes, ih]

/-- The bytes of a number spell it back. -/
theorem leNat_leBytes (k n : Nat) (h : n < 256 ^ k) : leNat (leBytes k n) = n := by
  induction k generalizing n with
  | zero => simp at h; simp [leBytes, leNat, h]
  | succ k ih =>
    have h1 : n / 256 < 256 ^ k := by
      rw [Nat.div_lt_iff_lt_mul (by norm_num)]
      rw [Nat.pow_succ] at h
      exact h
    simp only [leBytes, leNat, ih _ h1, BitVec.toNat_ofNat]
    omega

@[simp] theorem padTo_length (n : Nat) (l : List Byte) : (padTo n l).length = n := by
  simp [padTo]
  omega

theorem padTo_self (l : List Byte) : padTo l.length l = l := by simp [padTo]

theorem overlay_length (l : List Byte) (off : Nat) (d : List Byte) (h : off + d.length ≤ l.length) :
    (overlay l off d).length = l.length := by
  simp [overlay]
  omega

/-- What was laid over is what lies there. -/
theorem fieldAt_overlay (l : List Byte) (off : Nat) (d : List Byte) (h : off ≤ l.length) :
    fieldAt (overlay l off d) off d.length = leNat d := by
  unfold fieldAt overlay
  rw [List.append_assoc, List.drop_append_of_le_length (by simp; omega)]
  simp

/-- A second overlay of the same length replaces the first. -/
theorem overlay_overlay (l : List Byte) (off : Nat) (d e : List Byte) (h : off ≤ l.length) (he : e.length = d.length) :
    overlay (overlay l off d) off e = overlay l off e := by
  have h1 : (l.take off).length = off := by simp [h]
  have h2 : (l.take off ++ d).length = off + d.length := by simp [h]
  unfold overlay
  congr 1
  · congr 1
    rw [List.append_assoc, List.take_append_of_le_length (by omega), List.take_take, Nat.min_self]
  · rw [he, ← h2, List.drop_left]

theorem crc64Bit_lt (c : Nat) : crc64Bit c < 2 ^ 64 := by
  unfold crc64Bit
  have h : c * 2 % 2 ^ 64 < 2 ^ 64 := Nat.mod_lt _ (by norm_num)
  split
  · exact Nat.xor_lt_two_pow h (by norm_num)
  · exact h

theorem crc64_lt (l : List Byte) : crc64 l < 2 ^ 64 := by
  unfold crc64
  suffices h : ∀ c, c < 2 ^ 64 → l.foldl crc64Byte c < 2 ^ 64 from h 0 (by norm_num)
  induction l with
  | nil => intro c hc; exact hc
  | cons b r ih =>
    intro c _
    exact ih _ (by simp only [crc64Byte, iter]; exact crc64Bit_lt _)

end Sys2Proof.Machine
end

