-- ==== Sys2Proof/Laws/Tab.lean ====
section
/-! SUPPORT. Sys2Proof/Laws/Tab.lean: reading a keyed table after writing it. -/

namespace Sys2Proof

variable {α : Type}

@[simp] theorem Tab.get_nil (k : Nat) (d : α) : Tab.get [] k d = d := rfl

@[simp] theorem Tab.get_set_self (t : Tab α) (k : Nat) (v d : α) : (t.set k v).get k d = v := by
  induction t with
  | nil => simp [Tab.set, Tab.get]
  | cons e r ih =>
    obtain ⟨a, b⟩ := e
    unfold Tab.set
    split
    · simp [Tab.get]
    · split
      · simp [Tab.get]
      · simp only [Tab.get]
        rw [if_neg (by omega)]
        exact ih

theorem Tab.get_set_ne (t : Tab α) (k j : Nat) (v d : α) (h : j ≠ k) : (t.set k v).get j d = t.get j d := by
  induction t with
  | nil => simp [Tab.set, Tab.get, Ne.symm h]
  | cons e r ih =>
    obtain ⟨a, b⟩ := e
    unfold Tab.set
    split
    · simp [Tab.get, Ne.symm h]
    · split
      · rename_i h1
        subst h1
        simp [Tab.get, Ne.symm h]
      · simp only [Tab.get]
        split
        · rfl
        · exact ih

@[simp] theorem Tab.get_del_self (t : Tab α) (k : Nat) (d : α) : (t.del k).get k d = d := by
  induction t with
  | nil => rfl
  | cons e r ih =>
    obtain ⟨a, b⟩ := e
    simp only [Tab.del, List.filter_cons]
    split
    · rename_i h
      have : a ≠ k := by simpa using h
      simp only [Tab.get, if_neg this]
      exact ih
    · exact ih

theorem Tab.get_del_ne (t : Tab α) (k j : Nat) (d : α) (h : j ≠ k) : (t.del k).get j d = t.get j d := by
  induction t with
  | nil => rfl
  | cons e r ih =>
    obtain ⟨a, b⟩ := e
    simp only [Tab.del, List.filter_cons]
    split
    · simp only [Tab.get]
      split
      · rfl
      · exact ih
    · rename_i h1
      have : a = k := by simpa using h1
      subst this
      simp only [Tab.get, if_neg (Ne.symm h)]
      exact ih

/-- The value that one domain has after the other's is set. -/
@[simp] theorem PerDom.get_set_self (p : PerDom α) (d : Dom) (v : α) : (p.set d v).get d = v := by cases d <;> rfl
@[simp] theorem PerDom.get_set_other (p : PerDom α) (d : Dom) (v : α) : (p.set d v).get d.other = p.get d.other := by
  cases d <;> rfl
@[simp] theorem PerDom.get_other_set (p : PerDom α) (d : Dom) (v : α) : (p.set d.other v).get d = p.get d := by
  cases d <;> rfl

end Sys2Proof
end

