-- ==== Sys2Proof/Laws/Events.lean ====
section
/-! SUPPORT. Sys2Proof/Laws/Events.lean: a register after a write of its stored bits, and once for all what recording an
event can change. -/

namespace Sys2Proof.Machine

/-! ### Stored bits -/

@[simp] theorem State.reg_setReg_self (s : State) (a : Nat) (v : W) : (s.setReg a v).reg a = v := by
  simp only [State.reg, State.setReg, regsPut]
  split
  · simp [*]
  · simp

theorem State.reg_setReg_ne (s : State) (a b : Nat) (v : W) (h : b ≠ a) : (s.setReg a v).reg b = s.reg b := by
  simp only [State.reg, State.setReg, regsPut]
  split
  · exact Tab.get_del_ne _ _ _ _ h
  · exact Tab.get_set_ne _ _ _ _ _ h

/-- A field of a word into which it has been put. -/
theorem Fld.of_put (f : Fld) (v : W) (n : Nat) (h : f.lo + f.w ≤ 64) : f.of (f.put v n) = n % 2 ^ f.w := by
  apply Nat.eq_of_testBit_eq
  intro i
  simp only [Fld.of, Fld.put, Fld.mask, Nat.testBit_mod_two_pow, Nat.testBit_shiftRight]
  by_cases hi : i < f.w
  · have h1 : f.lo + i < 64 := by omega
    have e1 : ∀ x : W, x.toNat.testBit (f.lo + i) = x.getLsbD (f.lo + i) := fun x => rfl
    rw [e1]
    simp only [BitVec.getLsbD_or, BitVec.getLsbD_and, BitVec.getLsbD_not, BitVec.getLsbD_ofNat, BitVec.getLsbD_shiftLeft,
      Nat.testBit_shiftLeft, Nat.testBit_two_pow_sub_one, Nat.testBit_mod_two_pow]
    have h2 : i < 64 := by omega
    simp [hi, h1, h2]
  · simp [hi]

/-- Another field of the same word. -/
theorem Fld.of_put_ne (f g : Fld) (v : W) (n : Nat) (h : g.lo + g.w ≤ 64) (hd : f.lo + f.w ≤ g.lo ∨ g.lo + g.w ≤ f.lo) :
    g.of (f.put v n) = g.of v := by
  apply Nat.eq_of_testBit_eq
  intro i
  simp only [Fld.of, Fld.put, Fld.mask, Nat.testBit_mod_two_pow, Nat.testBit_shiftRight]
  by_cases hi : i < g.w
  · have h1 : g.lo + i < 64 := by omega
    have e1 : ∀ x : W, x.toNat.testBit (g.lo + i) = x.getLsbD (g.lo + i) := fun x => rfl
    rw [e1, e1]
    simp only [BitVec.getLsbD_or, BitVec.getLsbD_and, BitVec.getLsbD_not, BitVec.getLsbD_ofNat, BitVec.getLsbD_shiftLeft,
      Nat.testBit_shiftLeft, Nat.testBit_two_pow_sub_one, Nat.testBit_mod_two_pow]
    rcases hd with h2 | h2
    · have : ¬ g.lo + i - f.lo < f.w := by omega
      simp [hi, h1, this]
    · have : ¬ g.lo + i ≥ f.lo := by omega
      have h3 : g.lo + i < f.lo := by omega
      simp [hi, h1, this, h3]
  · simp [hi]

/-- A field after it has been set, and another one. -/
theorem State.fld_setFld_self (s : State) (f : Fld) (n : Nat) (h : f.lo + f.w ≤ 64) :
    (s.setFld f n).fld f = n % 2 ^ f.w := by
  simp [State.fld, State.setFld, Fld.of_put _ _ _ h]

theorem State.fld_setFld_ne_reg (s : State) (f g : Fld) (n : Nat) (h : g.reg ≠ f.reg) :
    (s.setFld f n).fld g = s.fld g := by
  simp only [State.fld, State.setFld, State.reg_setReg_ne _ _ _ _ h]

/-! ### The frame of an event -/

theorem OnlyEvents.refl (rs : List Nat) (s : State) : OnlyEvents rs s s := ⟨rfl, fun _ _ _ => rfl⟩

theorem OnlyEvents.trans {rs : List Nat} {s t u : State} (h : OnlyEvents rs s t) (k : OnlyEvents rs t u) :
    OnlyEvents rs s u := by
  refine ⟨?_, fun a ha hb => (k.2 a ha hb).trans (h.2 a ha hb)⟩
  have h1 := h.1
  have k1 := k.1
  rw [k1, h1]

theorem OnlyEvents.mono {rs rs' : List Nat} {s t : State} (h : OnlyEvents rs s t) (hs : ∀ a, a ∈ rs → a ∈ rs') :
    OnlyEvents rs' s t := ⟨h.1, fun a ha hb => h.2 a (fun x => ha (hs a x)) hb⟩

/-- What recording an event leaves alone. -/
theorem OnlyEvents.ident {rs : List Nat} {s t : State} (h : OnlyEvents rs s t) : t.ident = s.ident := by rw [h.1]
theorem OnlyEvents.time {rs : List Nat} {s t : State} (h : OnlyEvents rs s t) : t.time = s.time := by rw [h.1]
theorem OnlyEvents.ram {rs : List Nat} {s t : State} (h : OnlyEvents rs s t) : t.fab.ram = s.fab.ram := by rw [h.1]
theorem OnlyEvents.pending {rs : List Nat} {s t : State} (h : OnlyEvents rs s t) : t.pending = s.pending := by rw [h.1]

theorem setReg_onlyEvents (s : State) (a : Nat) (v : W) : OnlyEvents [a] s (s.setReg a v) :=
  ⟨rfl, fun b hb _ => State.reg_setReg_ne s a b v (by simpa using hb)⟩

theorem memReq_onlyEvents (s : State) (r : MemReq) : OnlyEvents [] s (s.memReq r) := by
  unfold State.memReq
  split <;> exact ⟨rfl, fun _ _ _ => rfl⟩

theorem place_onlyEvents (s : State) (id : QId) (r : EvtRec) : OnlyEvents [] s (s.place id r) := by
  cases id with
  | core c => exact ⟨rfl, fun _ _ _ => rfl⟩
  | host n =>
    simp only [State.place]
    split
    · exact ⟨rfl, fun _ _ _ => rfl⟩
    · refine OnlyEvents.trans ?_ (memReq_onlyEvents _ _)
      exact ⟨rfl, fun _ _ _ => rfl⟩

theorem bump_reg (s : State) (f : Fld) (n a : Nat) (e : EvqSt) (h : a ≠ f.reg) :
    ({ s with regs := s.bumpRegs f n, evq := e } : State).reg a = s.reg a :=
  State.reg_setReg_ne s f.reg a _ h

theorem dropRec_onlyEvents (s : State) (id : QId) : OnlyEvents [] s (s.dropRec id) := by
  cases id with
  | core c =>
    simp only [State.dropRec]
    split
    · exact ⟨rfl, fun a _ hb => bump_reg s _ 1 a _ hb⟩
    · exact OnlyEvents.refl _ _
  | host q => exact ⟨rfl, fun a _ hb => bump_reg s _ 1 a _ hb⟩

theorem putOrDrop_onlyEvents (s : State) (r : EvtRec) (id : QId) : OnlyEvents [] s (s.putOrDrop r id) := by
  unfold State.putOrDrop
  split
  · exact place_onlyEvents s id r
  · exact dropRec_onlyEvents s id

theorem deliver_onlyEvents (s : State) (r : EvtRec) (ids : List QId) : OnlyEvents [] s (s.deliver r ids) := by
  unfold State.deliver
  induction ids generalizing s with
  | nil => exact OnlyEvents.refl _ _
  | cons i rest ih => exact OnlyEvents.trans (putOrDrop_onlyEvents s r i) (ih _)

theorem record1_onlyEvents (s : State) (code : Nat) (a0 a1 : W) (ids : List QId) :
    OnlyEvents [] s (s.record1 code a0 a1 ids) := by
  unfold State.record1
  refine OnlyEvents.trans ?_ (deliver_onlyEvents _ _ _)
  exact ⟨rfl, fun _ _ _ => rfl⟩

theorem overflow_onlyEvents (s : State) (b : Bool) : OnlyEvents [] s (s.overflow b) := by
  unfold State.overflow
  split
  · refine OnlyEvents.trans ?_ (record1_onlyEvents _ _ _ _ _)
    exact ⟨rfl, fun a _ hb => State.reg_setReg_ne s _ a _ hb⟩
  · exact OnlyEvents.refl _ _

theorem overflows_onlyEvents (s : State) (ids : List QId) (old : State) : OnlyEvents [] s (s.overflows ids old) := by
  unfold State.overflows
  induction ids generalizing s with
  | nil => exact OnlyEvents.refl _ _
  | cons i rest ih => exact OnlyEvents.trans (overflow_onlyEvents s _) (ih _)

theorem record_onlyEvents (s : State) (code : Nat) (a0 a1 : W) (also : List QId) :
    OnlyEvents [] s (s.record code a0 a1 also) :=
  OnlyEvents.trans (record1_onlyEvents _ _ _ _ _) (overflows_onlyEvents _ _ _)

theorem raiseArg_onlyEvents (s : State) (f : Fld) (a1 : W) (also : List QId) :
    OnlyEvents [f.reg] s (s.raiseArg f a1 also) :=
  OnlyEvents.trans (setReg_onlyEvents s f.reg _) ((record_onlyEvents _ _ _ _ _).mono (by simp))

/-- Raising an event changes the register of its status bit, and what `OnlyEvents` names. -/
theorem raise_onlyEvents (s : State) (f : Fld) : OnlyEvents [f.reg] s (s.raise f) := raiseArg_onlyEvents s f _ _

/-- The status bit that an event's occurrence sets, for a block other than the event queues' own. -/
theorem raise_fld (s : State) (f : Fld) (h : f.lo + f.w ≤ 64) (hw : 0 < f.w) (hq : f.reg ≠ Reg.EVQ_STATUS) :
    (s.raise f).fld f = 1 := by
  have h1 : (s.raise f).reg f.reg = (s.setBit f).reg f.reg :=
    (record_onlyEvents (s.setBit f) _ _ _ []).2 f.reg (by simp) hq
  have h2 : (s.setBit f).fld f = 1 % 2 ^ f.w := State.fld_setFld_self s f 1 h
  have h3 : 1 % 2 ^ f.w = 1 := Nat.mod_eq_of_lt (Nat.one_lt_two_pow (by omega))
  unfold State.fld at h2 ⊢
  rw [h1, h2, h3]

end Sys2Proof.Machine
end

