-- ==== Sys2Proof/Laws/Memory.lean ====
section
/-! SUPPORT. Sys2Proof/Laws/Memory.lean: main memory: reading after a write, what a write leaves alone, and that every
operation over memory keeps its canonical form. -/

namespace Sys2Proof.Machine

/-! ### Reading -/

/-- A selection of cells by address shows the addresses it keeps. -/
theorem Memory.read_filter (m : List Host.Cell) (p : Nat → Bool) (x : Nat) :
    Memory.read (m.filter fun c => p c.1) x = if p x then Memory.read m x else 0 := by
  induction m with
  | nil => simp [Memory.read]
  | cons c r ih =>
    obtain ⟨k, v⟩ := c
    by_cases hk : k = x
    · subst hk
      by_cases hp : p k = true <;> simp [hp, Memory.read, ih]
    · by_cases hp : p k = true <;> simp [hp, Memory.read, hk, ih]

/-- Cells of which none lies at `x` hide nothing behind them. -/
theorem Memory.read_append_absent (l r : List Host.Cell) (x : Nat) (h : ∀ c ∈ l, c.1 ≠ x) :
    Memory.read (l ++ r) x = Memory.read r x := by
  induction l with
  | nil => rfl
  | cons c l ih =>
    have h1 := h c (by simp)
    simp only [List.cons_append, Memory.read, if_neg h1]
    exact ih fun d hd => h d (by simp [hd])

/-- Cells behind which none lies at `x`. -/
theorem Memory.read_append_zero (l r : List Host.Cell) (x : Nat) (h : Memory.read r x = 0) :
    Memory.read (l ++ r) x = Memory.read l x := by
  induction l with
  | nil => simpa [Memory.read] using h
  | cons c l ih => simp only [List.cons_append, Memory.read, ih]

theorem Memory.cells_key (a : Nat) (l : List Byte) : ∀ c ∈ Memory.cells a l, a ≤ c.1 ∧ c.1 < a + l.length ∧ c.2 ≠ 0 := by
  induction l generalizing a with
  | nil => simp [Memory.cells]
  | cons b r ih =>
    intro c hc
    unfold Memory.cells at hc
    split at hc
    · have := ih (a + 1) c hc
      simp only [List.length_cons]
      exact ⟨by omega, by omega, this.2.2⟩
    · rename_i hb
      rcases List.mem_cons.1 hc with rfl | hc
      · exact ⟨Nat.le_refl _, by simp, hb⟩
      · have := ih (a + 1) c hc
        simp only [List.length_cons]
        exact ⟨by omega, by omega, this.2.2⟩

theorem Memory.read_absent (l : List Host.Cell) (x : Nat) (h : ∀ c ∈ l, c.1 ≠ x) : Memory.read l x = 0 := by
  simpa [Memory.read] using Memory.read_append_absent l [] x h

theorem Memory.read_cells (a : Nat) (l : List Byte) (i : Nat) (h : i < l.length) :
    Memory.read (Memory.cells a l) (a + i) = l[i] := by
  induction l generalizing a i with
  | nil => simp at h
  | cons b r ih =>
    cases i with
    | zero =>
      unfold Memory.cells
      split
      · rename_i hb
        rw [Memory.read_absent _ _ fun c hc => by have := Memory.cells_key (a + 1) r c hc; omega]
        simp [hb]
      · simp [Memory.read]
    | succ j =>
      have hj : j < r.length := by simpa using h
      have e : a + (j + 1) = a + 1 + j := by omega
      unfold Memory.cells
      split
      · rw [e, ih (a + 1) j hj]
        simp
      · simp only [Memory.read]
        rw [if_neg (by omega), e, ih (a + 1) j hj]
        simp

/-! ### Reading after a write -/

/-- A write leaves every byte outside what it stores alone. -/
theorem Memory.read_writeBytes_out (m : List Host.Cell) (a : Nat) (l : List Byte) (x : Nat)
    (h : x < a ∨ a + l.length ≤ x) : Memory.read (Memory.writeBytes m a l) x = Memory.read m x := by
  unfold Memory.writeBytes
  rw [List.append_assoc]
  rcases h with h | h
  · rw [Memory.read_append_zero]
    · rw [Memory.read_filter m (fun k => decide (k < a)) x]
      simp [h]
    · rw [Memory.read_append_absent _ _ _ fun c hc => by have := Memory.cells_key a l c hc; omega,
        Memory.read_filter m (fun k => decide (a + l.length ≤ k)) x]
      simp
      omega
  · rw [Memory.read_append_absent, Memory.read_append_absent _ _ _ fun c hc => by
        have := Memory.cells_key a l c hc; omega,
      Memory.read_filter m (fun k => decide (a + l.length ≤ k)) x]
    · simp [h]
    · intro c hc
      have := (List.mem_filter.1 hc).2
      simp at this
      omega

/-- A write stores its bytes. -/
theorem Memory.read_writeBytes_in (m : List Host.Cell) (a : Nat) (l : List Byte) (i : Nat) (h : i < l.length) :
    Memory.read (Memory.writeBytes m a l) (a + i) = l[i] := by
  unfold Memory.writeBytes
  rw [List.append_assoc, Memory.read_append_absent, Memory.read_append_zero, Memory.read_cells a l i h]
  · rw [Memory.read_filter m (fun k => decide (a + l.length ≤ k)) (a + i)]
    simp
    omega
  · intro c hc
    have := (List.mem_filter.1 hc).2
    simp at this
    omega

/-! ### The canonical form -/

theorem Memory.wf_iff (m : List Host.Cell) :
    Memory.wf m = true ↔ m.Pairwise (fun c d => c.1 < d.1) ∧ ∀ c ∈ m, c.2 ≠ 0 := by
  induction m with
  | nil => simp [Memory.wf]
  | cons c r ih =>
    obtain ⟨k, v⟩ := c
    cases r with
    | nil => simp [Memory.wf]
    | cons d r =>
      obtain ⟨k', v'⟩ := d
      simp only [Memory.wf, Bool.and_eq_true, ih, bne_iff_ne, decide_eq_true_eq]
      constructor
      · rintro ⟨⟨hv, hk⟩, hp, hz⟩
        refine ⟨List.pairwise_cons.2 ⟨fun e he => ?_, hp⟩, fun e he => ?_⟩
        · rcases List.mem_cons.1 he with rfl | he
          · exact hk
          · exact Nat.lt_trans hk ((List.pairwise_cons.1 hp).1 e he)
        · rcases List.mem_cons.1 he with rfl | he
          · exact hv
          · exact hz e he
      · rintro ⟨hp, hz⟩
        exact ⟨⟨hz (k, v) (by simp), (List.pairwise_cons.1 hp).1 (k', v') (by simp)⟩, (List.pairwise_cons.1 hp).2,
          fun e he => hz e (by simp [he])⟩

theorem Memory.wf_nil : Memory.wf [] = true := rfl

theorem Memory.cells_sorted (a : Nat) (l : List Byte) : (Memory.cells a l).Pairwise (fun c d => c.1 < d.1) := by
  induction l generalizing a with
  | nil => exact List.Pairwise.nil
  | cons b r ih =>
    unfold Memory.cells
    split
    · exact ih _
    · refine List.pairwise_cons.2 ⟨fun c hc => ?_, ih _⟩
      have := Memory.cells_key (a + 1) r c hc
      show a < c.1
      omega

/-- A write keeps the canonical form. -/
theorem Memory.wf_writeBytes (m : List Host.Cell) (a : Nat) (l : List Byte) (h : Memory.wf m = true) :
    Memory.wf (Memory.writeBytes m a l) = true := by
  rw [Memory.wf_iff] at h ⊢
  unfold Memory.writeBytes
  refine ⟨List.pairwise_append.2 ⟨List.pairwise_append.2 ⟨h.1.filter _, Memory.cells_sorted a l, ?_⟩, h.1.filter _, ?_⟩, ?_⟩
  · intro c hc d hd
    have h1 := (List.mem_filter.1 hc).2
    have h2 := Memory.cells_key a l d hd
    simp at h1
    omega
  · intro c hc d hd
    have h1 := (List.mem_filter.1 hd).2
    simp at h1
    rcases List.mem_append.1 hc with hc | hc
    · have h2 := (List.mem_filter.1 hc).2
      simp at h2
      omega
    · have h2 := Memory.cells_key a l c hc
      omega
  · intro c hc
    rcases List.mem_append.1 hc with hc | hc
    · rcases List.mem_append.1 hc with hc | hc
      · exact h.2 c (List.mem_filter.1 hc).1
      · exact (Memory.cells_key a l c hc).2.2
    · exact h.2 c (List.mem_filter.1 hc).1

theorem Memory.readBytes_length (m : List Host.Cell) (a n : Nat) : (Memory.readBytes m a n).length = n := by
  induction n generalizing a with
  | zero => rfl
  | succ n ih => simp [Memory.readBytes, ih]

theorem Memory.readBytes_getElem (m : List Host.Cell) (a n i : Nat) (h : i < (Memory.readBytes m a n).length) :
    (Memory.readBytes m a n)[i] = Memory.read m (a + i) := by
  induction n generalizing a i with
  | zero => simp [Memory.readBytes] at h
  | succ n ih =>
    cases i with
    | zero => simp [Memory.readBytes]
    | succ j =>
      simp only [Memory.readBytes, List.getElem_cons_succ]
      rw [ih]
      congr 1
      omega

/-- The bytes that a write stored read back. -/
theorem Memory.readBytes_writeBytes (m : List Host.Cell) (a : Nat) (l : List Byte) :
    Memory.readBytes (Memory.writeBytes m a l) a l.length = l := by
  refine List.ext_getElem (Memory.readBytes_length _ _ _) fun i h1 h2 => ?_
  rw [Memory.readBytes_getElem, Memory.read_writeBytes_in _ _ _ _ h2]

end Sys2Proof.Machine
end

