-- ==== Sys2Proof/Laws/State.lean ====
section
/-! SUPPORT. Sys2Proof/Laws/State.lean: what each named update of a unit's state leaves alone, one lemma per field and
update, and what it puts there. -/

namespace Sys2Proof.Machine

variable (s : State)

/-! ### setReg: it changes `regs` alone -/

@[simp] theorem State.setReg_ident (a : Nat) (v : W) : (s.setReg a v).ident = s.ident := rfl
@[simp] theorem State.setReg_pwr (a : Nat) (v : W) : (s.setReg a v).pwr = s.pwr := rfl
@[simp] theorem State.setReg_time (a : Nat) (v : W) : (s.setReg a v).time = s.time := rfl
@[simp] theorem State.setReg_tdc (a : Nat) (v : W) : (s.setReg a v).tdc = s.tdc := rfl
@[simp] theorem State.setReg_ref (a : Nat) (v : W) : (s.setReg a v).ref = s.ref := rfl
@[simp] theorem State.setReg_cad (a : Nat) (v : W) : (s.setReg a v).cad = s.cad := rfl
@[simp] theorem State.setReg_spk (a : Nat) (v : W) : (s.setReg a v).spk = s.spk := rfl
@[simp] theorem State.setReg_img (a : Nat) (v : W) : (s.setReg a v).img = s.img := rfl
@[simp] theorem State.setReg_fab (a : Nat) (v : W) : (s.setReg a v).fab = s.fab := rfl
@[simp] theorem State.setReg_cmb (a : Nat) (v : W) : (s.setReg a v).cmb = s.cmb := rfl
@[simp] theorem State.setReg_til (a : Nat) (v : W) : (s.setReg a v).til = s.til := rfl
@[simp] theorem State.setReg_stg (a : Nat) (v : W) : (s.setReg a v).stg = s.stg := rfl
@[simp] theorem State.setReg_flt (a : Nat) (v : W) : (s.setReg a v).flt = s.flt := rfl
@[simp] theorem State.setReg_clk (a : Nat) (v : W) : (s.setReg a v).clk = s.clk := rfl
@[simp] theorem State.setReg_nrg (a : Nat) (v : W) : (s.setReg a v).nrg = s.nrg := rfl
@[simp] theorem State.setReg_evq (a : Nat) (v : W) : (s.setReg a v).evq = s.evq := rfl
@[simp] theorem State.setReg_nvs (a : Nat) (v : W) : (s.setReg a v).nvs = s.nvs := rfl
@[simp] theorem State.setReg_fwu (a : Nat) (v : W) : (s.setReg a v).fwu = s.fwu := rfl
@[simp] theorem State.setReg_sb (a : Nat) (v : W) : (s.setReg a v).sb = s.sb := rfl
@[simp] theorem State.setReg_out (a : Nat) (v : W) : (s.setReg a v).out = s.out := rfl
@[simp] theorem State.setReg_free (a : Nat) (v : W) : (s.setReg a v).free = s.free := rfl
@[simp] theorem State.setReg_pending (a : Nat) (v : W) : (s.setReg a v).pending = s.pending := rfl

/-! ### setFld: it changes `regs` alone -/

@[simp] theorem State.setFld_ident (f : Fld) (n : Nat) : (s.setFld f n).ident = s.ident := rfl
@[simp] theorem State.setFld_pwr (f : Fld) (n : Nat) : (s.setFld f n).pwr = s.pwr := rfl
@[simp] theorem State.setFld_time (f : Fld) (n : Nat) : (s.setFld f n).time = s.time := rfl
@[simp] theorem State.setFld_tdc (f : Fld) (n : Nat) : (s.setFld f n).tdc = s.tdc := rfl
@[simp] theorem State.setFld_ref (f : Fld) (n : Nat) : (s.setFld f n).ref = s.ref := rfl
@[simp] theorem State.setFld_cad (f : Fld) (n : Nat) : (s.setFld f n).cad = s.cad := rfl
@[simp] theorem State.setFld_spk (f : Fld) (n : Nat) : (s.setFld f n).spk = s.spk := rfl
@[simp] theorem State.setFld_img (f : Fld) (n : Nat) : (s.setFld f n).img = s.img := rfl
@[simp] theorem State.setFld_fab (f : Fld) (n : Nat) : (s.setFld f n).fab = s.fab := rfl
@[simp] theorem State.setFld_cmb (f : Fld) (n : Nat) : (s.setFld f n).cmb = s.cmb := rfl
@[simp] theorem State.setFld_til (f : Fld) (n : Nat) : (s.setFld f n).til = s.til := rfl
@[simp] theorem State.setFld_stg (f : Fld) (n : Nat) : (s.setFld f n).stg = s.stg := rfl
@[simp] theorem State.setFld_flt (f : Fld) (n : Nat) : (s.setFld f n).flt = s.flt := rfl
@[simp] theorem State.setFld_clk (f : Fld) (n : Nat) : (s.setFld f n).clk = s.clk := rfl
@[simp] theorem State.setFld_nrg (f : Fld) (n : Nat) : (s.setFld f n).nrg = s.nrg := rfl
@[simp] theorem State.setFld_evq (f : Fld) (n : Nat) : (s.setFld f n).evq = s.evq := rfl
@[simp] theorem State.setFld_nvs (f : Fld) (n : Nat) : (s.setFld f n).nvs = s.nvs := rfl
@[simp] theorem State.setFld_fwu (f : Fld) (n : Nat) : (s.setFld f n).fwu = s.fwu := rfl
@[simp] theorem State.setFld_sb (f : Fld) (n : Nat) : (s.setFld f n).sb = s.sb := rfl
@[simp] theorem State.setFld_out (f : Fld) (n : Nat) : (s.setFld f n).out = s.out := rfl
@[simp] theorem State.setFld_free (f : Fld) (n : Nat) : (s.setFld f n).free = s.free := rfl
@[simp] theorem State.setFld_pending (f : Fld) (n : Nat) : (s.setFld f n).pending = s.pending := rfl

/-! ### countFld: it changes `regs` alone -/

@[simp] theorem State.countFld_ident (f : Fld) (n : Nat) : (s.countFld f n).ident = s.ident := rfl
@[simp] theorem State.countFld_pwr (f : Fld) (n : Nat) : (s.countFld f n).pwr = s.pwr := rfl
@[simp] theorem State.countFld_time (f : Fld) (n : Nat) : (s.countFld f n).time = s.time := rfl
@[simp] theorem State.countFld_tdc (f : Fld) (n : Nat) : (s.countFld f n).tdc = s.tdc := rfl
@[simp] theorem State.countFld_ref (f : Fld) (n : Nat) : (s.countFld f n).ref = s.ref := rfl
@[simp] theorem State.countFld_cad (f : Fld) (n : Nat) : (s.countFld f n).cad = s.cad := rfl
@[simp] theorem State.countFld_spk (f : Fld) (n : Nat) : (s.countFld f n).spk = s.spk := rfl
@[simp] theorem State.countFld_img (f : Fld) (n : Nat) : (s.countFld f n).img = s.img := rfl
@[simp] theorem State.countFld_fab (f : Fld) (n : Nat) : (s.countFld f n).fab = s.fab := rfl
@[simp] theorem State.countFld_cmb (f : Fld) (n : Nat) : (s.countFld f n).cmb = s.cmb := rfl
@[simp] theorem State.countFld_til (f : Fld) (n : Nat) : (s.countFld f n).til = s.til := rfl
@[simp] theorem State.countFld_stg (f : Fld) (n : Nat) : (s.countFld f n).stg = s.stg := rfl
@[simp] theorem State.countFld_flt (f : Fld) (n : Nat) : (s.countFld f n).flt = s.flt := rfl
@[simp] theorem State.countFld_clk (f : Fld) (n : Nat) : (s.countFld f n).clk = s.clk := rfl
@[simp] theorem State.countFld_nrg (f : Fld) (n : Nat) : (s.countFld f n).nrg = s.nrg := rfl
@[simp] theorem State.countFld_evq (f : Fld) (n : Nat) : (s.countFld f n).evq = s.evq := rfl
@[simp] theorem State.countFld_nvs (f : Fld) (n : Nat) : (s.countFld f n).nvs = s.nvs := rfl
@[simp] theorem State.countFld_fwu (f : Fld) (n : Nat) : (s.countFld f n).fwu = s.fwu := rfl
@[simp] theorem State.countFld_sb (f : Fld) (n : Nat) : (s.countFld f n).sb = s.sb := rfl
@[simp] theorem State.countFld_out (f : Fld) (n : Nat) : (s.countFld f n).out = s.out := rfl
@[simp] theorem State.countFld_free (f : Fld) (n : Nat) : (s.countFld f n).free = s.free := rfl
@[simp] theorem State.countFld_pending (f : Fld) (n : Nat) : (s.countFld f n).pending = s.pending := rfl

/-! ### setBit: it changes `regs` alone -/

@[simp] theorem State.setBit_ident (f : Fld) : (s.setBit f).ident = s.ident := rfl
@[simp] theorem State.setBit_pwr (f : Fld) : (s.setBit f).pwr = s.pwr := rfl
@[simp] theorem State.setBit_time (f : Fld) : (s.setBit f).time = s.time := rfl
@[simp] theorem State.setBit_tdc (f : Fld) : (s.setBit f).tdc = s.tdc := rfl
@[simp] theorem State.setBit_ref (f : Fld) : (s.setBit f).ref = s.ref := rfl
@[simp] theorem State.setBit_cad (f : Fld) : (s.setBit f).cad = s.cad := rfl
@[simp] theorem State.setBit_spk (f : Fld) : (s.setBit f).spk = s.spk := rfl
@[simp] theorem State.setBit_img (f : Fld) : (s.setBit f).img = s.img := rfl
@[simp] theorem State.setBit_fab (f : Fld) : (s.setBit f).fab = s.fab := rfl
@[simp] theorem State.setBit_cmb (f : Fld) : (s.setBit f).cmb = s.cmb := rfl
@[simp] theorem State.setBit_til (f : Fld) : (s.setBit f).til = s.til := rfl
@[simp] theorem State.setBit_stg (f : Fld) : (s.setBit f).stg = s.stg := rfl
@[simp] theorem State.setBit_flt (f : Fld) : (s.setBit f).flt = s.flt := rfl
@[simp] theorem State.setBit_clk (f : Fld) : (s.setBit f).clk = s.clk := rfl
@[simp] theorem State.setBit_nrg (f : Fld) : (s.setBit f).nrg = s.nrg := rfl
@[simp] theorem State.setBit_evq (f : Fld) : (s.setBit f).evq = s.evq := rfl
@[simp] theorem State.setBit_nvs (f : Fld) : (s.setBit f).nvs = s.nvs := rfl
@[simp] theorem State.setBit_fwu (f : Fld) : (s.setBit f).fwu = s.fwu := rfl
@[simp] theorem State.setBit_sb (f : Fld) : (s.setBit f).sb = s.sb := rfl
@[simp] theorem State.setBit_out (f : Fld) : (s.setBit f).out = s.out := rfl
@[simp] theorem State.setBit_free (f : Fld) : (s.setBit f).free = s.free := rfl
@[simp] theorem State.setBit_pending (f : Fld) : (s.setBit f).pending = s.pending := rfl

/-! ### addCount: it changes `regs` alone -/

@[simp] theorem State.addCount_ident (f : Fld) (n : Nat) : (s.addCount f n).ident = s.ident := rfl
@[simp] theorem State.addCount_pwr (f : Fld) (n : Nat) : (s.addCount f n).pwr = s.pwr := rfl
@[simp] theorem State.addCount_time (f : Fld) (n : Nat) : (s.addCount f n).time = s.time := rfl
@[simp] theorem State.addCount_tdc (f : Fld) (n : Nat) : (s.addCount f n).tdc = s.tdc := rfl
@[simp] theorem State.addCount_ref (f : Fld) (n : Nat) : (s.addCount f n).ref = s.ref := rfl
@[simp] theorem State.addCount_cad (f : Fld) (n : Nat) : (s.addCount f n).cad = s.cad := rfl
@[simp] theorem State.addCount_spk (f : Fld) (n : Nat) : (s.addCount f n).spk = s.spk := rfl
@[simp] theorem State.addCount_img (f : Fld) (n : Nat) : (s.addCount f n).img = s.img := rfl
@[simp] theorem State.addCount_fab (f : Fld) (n : Nat) : (s.addCount f n).fab = s.fab := rfl
@[simp] theorem State.addCount_cmb (f : Fld) (n : Nat) : (s.addCount f n).cmb = s.cmb := rfl
@[simp] theorem State.addCount_til (f : Fld) (n : Nat) : (s.addCount f n).til = s.til := rfl
@[simp] theorem State.addCount_stg (f : Fld) (n : Nat) : (s.addCount f n).stg = s.stg := rfl
@[simp] theorem State.addCount_flt (f : Fld) (n : Nat) : (s.addCount f n).flt = s.flt := rfl
@[simp] theorem State.addCount_clk (f : Fld) (n : Nat) : (s.addCount f n).clk = s.clk := rfl
@[simp] theorem State.addCount_nrg (f : Fld) (n : Nat) : (s.addCount f n).nrg = s.nrg := rfl
@[simp] theorem State.addCount_evq (f : Fld) (n : Nat) : (s.addCount f n).evq = s.evq := rfl
@[simp] theorem State.addCount_nvs (f : Fld) (n : Nat) : (s.addCount f n).nvs = s.nvs := rfl
@[simp] theorem State.addCount_fwu (f : Fld) (n : Nat) : (s.addCount f n).fwu = s.fwu := rfl
@[simp] theorem State.addCount_sb (f : Fld) (n : Nat) : (s.addCount f n).sb = s.sb := rfl
@[simp] theorem State.addCount_out (f : Fld) (n : Nat) : (s.addCount f n).out = s.out := rfl
@[simp] theorem State.addCount_free (f : Fld) (n : Nat) : (s.addCount f n).free = s.free := rfl
@[simp] theorem State.addCount_pending (f : Fld) (n : Nat) : (s.addCount f n).pending = s.pending := rfl

/-! ### putMasked: it changes `regs` alone -/

@[simp] theorem State.putMasked_ident (a : Nat) (mask v : W) : (s.putMasked a mask v).ident = s.ident := rfl
@[simp] theorem State.putMasked_pwr (a : Nat) (mask v : W) : (s.putMasked a mask v).pwr = s.pwr := rfl
@[simp] theorem State.putMasked_time (a : Nat) (mask v : W) : (s.putMasked a mask v).time = s.time := rfl
@[simp] theorem State.putMasked_tdc (a : Nat) (mask v : W) : (s.putMasked a mask v).tdc = s.tdc := rfl
@[simp] theorem State.putMasked_ref (a : Nat) (mask v : W) : (s.putMasked a mask v).ref = s.ref := rfl
@[simp] theorem State.putMasked_cad (a : Nat) (mask v : W) : (s.putMasked a mask v).cad = s.cad := rfl
@[simp] theorem State.putMasked_spk (a : Nat) (mask v : W) : (s.putMasked a mask v).spk = s.spk := rfl
@[simp] theorem State.putMasked_img (a : Nat) (mask v : W) : (s.putMasked a mask v).img = s.img := rfl
@[simp] theorem State.putMasked_fab (a : Nat) (mask v : W) : (s.putMasked a mask v).fab = s.fab := rfl
@[simp] theorem State.putMasked_cmb (a : Nat) (mask v : W) : (s.putMasked a mask v).cmb = s.cmb := rfl
@[simp] theorem State.putMasked_til (a : Nat) (mask v : W) : (s.putMasked a mask v).til = s.til := rfl
@[simp] theorem State.putMasked_stg (a : Nat) (mask v : W) : (s.putMasked a mask v).stg = s.stg := rfl
@[simp] theorem State.putMasked_flt (a : Nat) (mask v : W) : (s.putMasked a mask v).flt = s.flt := rfl
@[simp] theorem State.putMasked_clk (a : Nat) (mask v : W) : (s.putMasked a mask v).clk = s.clk := rfl
@[simp] theorem State.putMasked_nrg (a : Nat) (mask v : W) : (s.putMasked a mask v).nrg = s.nrg := rfl
@[simp] theorem State.putMasked_evq (a : Nat) (mask v : W) : (s.putMasked a mask v).evq = s.evq := rfl
@[simp] theorem State.putMasked_nvs (a : Nat) (mask v : W) : (s.putMasked a mask v).nvs = s.nvs := rfl
@[simp] theorem State.putMasked_fwu (a : Nat) (mask v : W) : (s.putMasked a mask v).fwu = s.fwu := rfl
@[simp] theorem State.putMasked_sb (a : Nat) (mask v : W) : (s.putMasked a mask v).sb = s.sb := rfl
@[simp] theorem State.putMasked_out (a : Nat) (mask v : W) : (s.putMasked a mask v).out = s.out := rfl
@[simp] theorem State.putMasked_free (a : Nat) (mask v : W) : (s.putMasked a mask v).free = s.free := rfl
@[simp] theorem State.putMasked_pending (a : Nat) (mask v : W) : (s.putMasked a mask v).pending = s.pending := rfl

/-! ### clearW1c: it changes `regs` alone -/

@[simp] theorem State.clearW1c_ident (a : Nat) (mask v : W) : (s.clearW1c a mask v).ident = s.ident := rfl
@[simp] theorem State.clearW1c_pwr (a : Nat) (mask v : W) : (s.clearW1c a mask v).pwr = s.pwr := rfl
@[simp] theorem State.clearW1c_time (a : Nat) (mask v : W) : (s.clearW1c a mask v).time = s.time := rfl
@[simp] theorem State.clearW1c_tdc (a : Nat) (mask v : W) : (s.clearW1c a mask v).tdc = s.tdc := rfl
@[simp] theorem State.clearW1c_ref (a : Nat) (mask v : W) : (s.clearW1c a mask v).ref = s.ref := rfl
@[simp] theorem State.clearW1c_cad (a : Nat) (mask v : W) : (s.clearW1c a mask v).cad = s.cad := rfl
@[simp] theorem State.clearW1c_spk (a : Nat) (mask v : W) : (s.clearW1c a mask v).spk = s.spk := rfl
@[simp] theorem State.clearW1c_img (a : Nat) (mask v : W) : (s.clearW1c a mask v).img = s.img := rfl
@[simp] theorem State.clearW1c_fab (a : Nat) (mask v : W) : (s.clearW1c a mask v).fab = s.fab := rfl
@[simp] theorem State.clearW1c_cmb (a : Nat) (mask v : W) : (s.clearW1c a mask v).cmb = s.cmb := rfl
@[simp] theorem State.clearW1c_til (a : Nat) (mask v : W) : (s.clearW1c a mask v).til = s.til := rfl
@[simp] theorem State.clearW1c_stg (a : Nat) (mask v : W) : (s.clearW1c a mask v).stg = s.stg := rfl
@[simp] theorem State.clearW1c_flt (a : Nat) (mask v : W) : (s.clearW1c a mask v).flt = s.flt := rfl
@[simp] theorem State.clearW1c_clk (a : Nat) (mask v : W) : (s.clearW1c a mask v).clk = s.clk := rfl
@[simp] theorem State.clearW1c_nrg (a : Nat) (mask v : W) : (s.clearW1c a mask v).nrg = s.nrg := rfl
@[simp] theorem State.clearW1c_evq (a : Nat) (mask v : W) : (s.clearW1c a mask v).evq = s.evq := rfl
@[simp] theorem State.clearW1c_nvs (a : Nat) (mask v : W) : (s.clearW1c a mask v).nvs = s.nvs := rfl
@[simp] theorem State.clearW1c_fwu (a : Nat) (mask v : W) : (s.clearW1c a mask v).fwu = s.fwu := rfl
@[simp] theorem State.clearW1c_sb (a : Nat) (mask v : W) : (s.clearW1c a mask v).sb = s.sb := rfl
@[simp] theorem State.clearW1c_out (a : Nat) (mask v : W) : (s.clearW1c a mask v).out = s.out := rfl
@[simp] theorem State.clearW1c_free (a : Nat) (mask v : W) : (s.clearW1c a mask v).free = s.free := rfl
@[simp] theorem State.clearW1c_pending (a : Nat) (mask v : W) : (s.clearW1c a mask v).pending = s.pending := rfl

/-! ### emit: it changes `out` alone -/

@[simp] theorem State.emit_ident (e : Emit) : (s.emit e).ident = s.ident := rfl
@[simp] theorem State.emit_pwr (e : Emit) : (s.emit e).pwr = s.pwr := rfl
@[simp] theorem State.emit_regs (e : Emit) : (s.emit e).regs = s.regs := rfl
@[simp] theorem State.emit_time (e : Emit) : (s.emit e).time = s.time := rfl
@[simp] theorem State.emit_tdc (e : Emit) : (s.emit e).tdc = s.tdc := rfl
@[simp] theorem State.emit_ref (e : Emit) : (s.emit e).ref = s.ref := rfl
@[simp] theorem State.emit_cad (e : Emit) : (s.emit e).cad = s.cad := rfl
@[simp] theorem State.emit_spk (e : Emit) : (s.emit e).spk = s.spk := rfl
@[simp] theorem State.emit_img (e : Emit) : (s.emit e).img = s.img := rfl
@[simp] theorem State.emit_fab (e : Emit) : (s.emit e).fab = s.fab := rfl
@[simp] theorem State.emit_cmb (e : Emit) : (s.emit e).cmb = s.cmb := rfl
@[simp] theorem State.emit_til (e : Emit) : (s.emit e).til = s.til := rfl
@[simp] theorem State.emit_stg (e : Emit) : (s.emit e).stg = s.stg := rfl
@[simp] theorem State.emit_flt (e : Emit) : (s.emit e).flt = s.flt := rfl
@[simp] theorem State.emit_clk (e : Emit) : (s.emit e).clk = s.clk := rfl
@[simp] theorem State.emit_nrg (e : Emit) : (s.emit e).nrg = s.nrg := rfl
@[simp] theorem State.emit_evq (e : Emit) : (s.emit e).evq = s.evq := rfl
@[simp] theorem State.emit_nvs (e : Emit) : (s.emit e).nvs = s.nvs := rfl
@[simp] theorem State.emit_fwu (e : Emit) : (s.emit e).fwu = s.fwu := rfl
@[simp] theorem State.emit_sb (e : Emit) : (s.emit e).sb = s.sb := rfl
@[simp] theorem State.emit_free (e : Emit) : (s.emit e).free = s.free := rfl
@[simp] theorem State.emit_pending (e : Emit) : (s.emit e).pending = s.pending := rfl

/-! ### emits: it changes `out` alone -/

@[simp] theorem State.emits_ident (es : List Emit) : (s.emits es).ident = s.ident := rfl
@[simp] theorem State.emits_pwr (es : List Emit) : (s.emits es).pwr = s.pwr := rfl
@[simp] theorem State.emits_regs (es : List Emit) : (s.emits es).regs = s.regs := rfl
@[simp] theorem State.emits_time (es : List Emit) : (s.emits es).time = s.time := rfl
@[simp] theorem State.emits_tdc (es : List Emit) : (s.emits es).tdc = s.tdc := rfl
@[simp] theorem State.emits_ref (es : List Emit) : (s.emits es).ref = s.ref := rfl
@[simp] theorem State.emits_cad (es : List Emit) : (s.emits es).cad = s.cad := rfl
@[simp] theorem State.emits_spk (es : List Emit) : (s.emits es).spk = s.spk := rfl
@[simp] theorem State.emits_img (es : List Emit) : (s.emits es).img = s.img := rfl
@[simp] theorem State.emits_fab (es : List Emit) : (s.emits es).fab = s.fab := rfl
@[simp] theorem State.emits_cmb (es : List Emit) : (s.emits es).cmb = s.cmb := rfl
@[simp] theorem State.emits_til (es : List Emit) : (s.emits es).til = s.til := rfl
@[simp] theorem State.emits_stg (es : List Emit) : (s.emits es).stg = s.stg := rfl
@[simp] theorem State.emits_flt (es : List Emit) : (s.emits es).flt = s.flt := rfl
@[simp] theorem State.emits_clk (es : List Emit) : (s.emits es).clk = s.clk := rfl
@[simp] theorem State.emits_nrg (es : List Emit) : (s.emits es).nrg = s.nrg := rfl
@[simp] theorem State.emits_evq (es : List Emit) : (s.emits es).evq = s.evq := rfl
@[simp] theorem State.emits_nvs (es : List Emit) : (s.emits es).nvs = s.nvs := rfl
@[simp] theorem State.emits_fwu (es : List Emit) : (s.emits es).fwu = s.fwu := rfl
@[simp] theorem State.emits_sb (es : List Emit) : (s.emits es).sb = s.sb := rfl
@[simp] theorem State.emits_free (es : List Emit) : (s.emits es).free = s.free := rfl
@[simp] theorem State.emits_pending (es : List Emit) : (s.emits es).pending = s.pending := rfl

/-! ### setPort: it changes `fab` alone -/

@[simp] theorem State.setPort_ident (p : Nat) (x : PortSt) : (s.setPort p x).ident = s.ident := rfl
@[simp] theorem State.setPort_pwr (p : Nat) (x : PortSt) : (s.setPort p x).pwr = s.pwr := rfl
@[simp] theorem State.setPort_regs (p : Nat) (x : PortSt) : (s.setPort p x).regs = s.regs := rfl
@[simp] theorem State.setPort_time (p : Nat) (x : PortSt) : (s.setPort p x).time = s.time := rfl
@[simp] theorem State.setPort_tdc (p : Nat) (x : PortSt) : (s.setPort p x).tdc = s.tdc := rfl
@[simp] theorem State.setPort_ref (p : Nat) (x : PortSt) : (s.setPort p x).ref = s.ref := rfl
@[simp] theorem State.setPort_cad (p : Nat) (x : PortSt) : (s.setPort p x).cad = s.cad := rfl
@[simp] theorem State.setPort_spk (p : Nat) (x : PortSt) : (s.setPort p x).spk = s.spk := rfl
@[simp] theorem State.setPort_img (p : Nat) (x : PortSt) : (s.setPort p x).img = s.img := rfl
@[simp] theorem State.setPort_cmb (p : Nat) (x : PortSt) : (s.setPort p x).cmb = s.cmb := rfl
@[simp] theorem State.setPort_til (p : Nat) (x : PortSt) : (s.setPort p x).til = s.til := rfl
@[simp] theorem State.setPort_stg (p : Nat) (x : PortSt) : (s.setPort p x).stg = s.stg := rfl
@[simp] theorem State.setPort_flt (p : Nat) (x : PortSt) : (s.setPort p x).flt = s.flt := rfl
@[simp] theorem State.setPort_clk (p : Nat) (x : PortSt) : (s.setPort p x).clk = s.clk := rfl
@[simp] theorem State.setPort_nrg (p : Nat) (x : PortSt) : (s.setPort p x).nrg = s.nrg := rfl
@[simp] theorem State.setPort_evq (p : Nat) (x : PortSt) : (s.setPort p x).evq = s.evq := rfl
@[simp] theorem State.setPort_nvs (p : Nat) (x : PortSt) : (s.setPort p x).nvs = s.nvs := rfl
@[simp] theorem State.setPort_fwu (p : Nat) (x : PortSt) : (s.setPort p x).fwu = s.fwu := rfl
@[simp] theorem State.setPort_sb (p : Nat) (x : PortSt) : (s.setPort p x).sb = s.sb := rfl
@[simp] theorem State.setPort_out (p : Nat) (x : PortSt) : (s.setPort p x).out = s.out := rfl
@[simp] theorem State.setPort_free (p : Nat) (x : PortSt) : (s.setPort p x).free = s.free := rfl
@[simp] theorem State.setPort_pending (p : Nat) (x : PortSt) : (s.setPort p x).pending = s.pending := rfl

/-! ### setFab: it changes `fab` alone -/

@[simp] theorem State.setFab_ident (f : FabSt → FabSt) : (s.setFab f).ident = s.ident := rfl
@[simp] theorem State.setFab_pwr (f : FabSt → FabSt) : (s.setFab f).pwr = s.pwr := rfl
@[simp] theorem State.setFab_regs (f : FabSt → FabSt) : (s.setFab f).regs = s.regs := rfl
@[simp] theorem State.setFab_time (f : FabSt → FabSt) : (s.setFab f).time = s.time := rfl
@[simp] theorem State.setFab_tdc (f : FabSt → FabSt) : (s.setFab f).tdc = s.tdc := rfl
@[simp] theorem State.setFab_ref (f : FabSt → FabSt) : (s.setFab f).ref = s.ref := rfl
@[simp] theorem State.setFab_cad (f : FabSt → FabSt) : (s.setFab f).cad = s.cad := rfl
@[simp] theorem State.setFab_spk (f : FabSt → FabSt) : (s.setFab f).spk = s.spk := rfl
@[simp] theorem State.setFab_img (f : FabSt → FabSt) : (s.setFab f).img = s.img := rfl
@[simp] theorem State.setFab_cmb (f : FabSt → FabSt) : (s.setFab f).cmb = s.cmb := rfl
@[simp] theorem State.setFab_til (f : FabSt → FabSt) : (s.setFab f).til = s.til := rfl
@[simp] theorem State.setFab_stg (f : FabSt → FabSt) : (s.setFab f).stg = s.stg := rfl
@[simp] theorem State.setFab_flt (f : FabSt → FabSt) : (s.setFab f).flt = s.flt := rfl
@[simp] theorem State.setFab_clk (f : FabSt → FabSt) : (s.setFab f).clk = s.clk := rfl
@[simp] theorem State.setFab_nrg (f : FabSt → FabSt) : (s.setFab f).nrg = s.nrg := rfl
@[simp] theorem State.setFab_evq (f : FabSt → FabSt) : (s.setFab f).evq = s.evq := rfl
@[simp] theorem State.setFab_nvs (f : FabSt → FabSt) : (s.setFab f).nvs = s.nvs := rfl
@[simp] theorem State.setFab_fwu (f : FabSt → FabSt) : (s.setFab f).fwu = s.fwu := rfl
@[simp] theorem State.setFab_sb (f : FabSt → FabSt) : (s.setFab f).sb = s.sb := rfl
@[simp] theorem State.setFab_out (f : FabSt → FabSt) : (s.setFab f).out = s.out := rfl
@[simp] theorem State.setFab_free (f : FabSt → FabSt) : (s.setFab f).free = s.free := rfl
@[simp] theorem State.setFab_pending (f : FabSt → FabSt) : (s.setFab f).pending = s.pending := rfl

/-! ### putMemFlit: it changes `fab` alone -/

@[simp] theorem State.putMemFlit_ident (i : Nat) (l : List Byte) : (s.putMemFlit i l).ident = s.ident := rfl
@[simp] theorem State.putMemFlit_pwr (i : Nat) (l : List Byte) : (s.putMemFlit i l).pwr = s.pwr := rfl
@[simp] theorem State.putMemFlit_regs (i : Nat) (l : List Byte) : (s.putMemFlit i l).regs = s.regs := rfl
@[simp] theorem State.putMemFlit_time (i : Nat) (l : List Byte) : (s.putMemFlit i l).time = s.time := rfl
@[simp] theorem State.putMemFlit_tdc (i : Nat) (l : List Byte) : (s.putMemFlit i l).tdc = s.tdc := rfl
@[simp] theorem State.putMemFlit_ref (i : Nat) (l : List Byte) : (s.putMemFlit i l).ref = s.ref := rfl
@[simp] theorem State.putMemFlit_cad (i : Nat) (l : List Byte) : (s.putMemFlit i l).cad = s.cad := rfl
@[simp] theorem State.putMemFlit_spk (i : Nat) (l : List Byte) : (s.putMemFlit i l).spk = s.spk := rfl
@[simp] theorem State.putMemFlit_img (i : Nat) (l : List Byte) : (s.putMemFlit i l).img = s.img := rfl
@[simp] theorem State.putMemFlit_cmb (i : Nat) (l : List Byte) : (s.putMemFlit i l).cmb = s.cmb := rfl
@[simp] theorem State.putMemFlit_til (i : Nat) (l : List Byte) : (s.putMemFlit i l).til = s.til := rfl
@[simp] theorem State.putMemFlit_stg (i : Nat) (l : List Byte) : (s.putMemFlit i l).stg = s.stg := rfl
@[simp] theorem State.putMemFlit_flt (i : Nat) (l : List Byte) : (s.putMemFlit i l).flt = s.flt := rfl
@[simp] theorem State.putMemFlit_clk (i : Nat) (l : List Byte) : (s.putMemFlit i l).clk = s.clk := rfl
@[simp] theorem State.putMemFlit_nrg (i : Nat) (l : List Byte) : (s.putMemFlit i l).nrg = s.nrg := rfl
@[simp] theorem State.putMemFlit_evq (i : Nat) (l : List Byte) : (s.putMemFlit i l).evq = s.evq := rfl
@[simp] theorem State.putMemFlit_nvs (i : Nat) (l : List Byte) : (s.putMemFlit i l).nvs = s.nvs := rfl
@[simp] theorem State.putMemFlit_fwu (i : Nat) (l : List Byte) : (s.putMemFlit i l).fwu = s.fwu := rfl
@[simp] theorem State.putMemFlit_sb (i : Nat) (l : List Byte) : (s.putMemFlit i l).sb = s.sb := rfl
@[simp] theorem State.putMemFlit_out (i : Nat) (l : List Byte) : (s.putMemFlit i l).out = s.out := rfl
@[simp] theorem State.putMemFlit_free (i : Nat) (l : List Byte) : (s.putMemFlit i l).free = s.free := rfl
@[simp] theorem State.putMemFlit_pending (i : Nat) (l : List Byte) : (s.putMemFlit i l).pending = s.pending := rfl

/-! ### setStream: it changes `fab` alone -/

@[simp] theorem State.setStream_ident (p : Nat) (x : SrcStream) : (s.setStream p x).ident = s.ident := rfl
@[simp] theorem State.setStream_pwr (p : Nat) (x : SrcStream) : (s.setStream p x).pwr = s.pwr := rfl
@[simp] theorem State.setStream_regs (p : Nat) (x : SrcStream) : (s.setStream p x).regs = s.regs := rfl
@[simp] theorem State.setStream_time (p : Nat) (x : SrcStream) : (s.setStream p x).time = s.time := rfl
@[simp] theorem State.setStream_tdc (p : Nat) (x : SrcStream) : (s.setStream p x).tdc = s.tdc := rfl
@[simp] theorem State.setStream_ref (p : Nat) (x : SrcStream) : (s.setStream p x).ref = s.ref := rfl
@[simp] theorem State.setStream_cad (p : Nat) (x : SrcStream) : (s.setStream p x).cad = s.cad := rfl
@[simp] theorem State.setStream_spk (p : Nat) (x : SrcStream) : (s.setStream p x).spk = s.spk := rfl
@[simp] theorem State.setStream_img (p : Nat) (x : SrcStream) : (s.setStream p x).img = s.img := rfl
@[simp] theorem State.setStream_cmb (p : Nat) (x : SrcStream) : (s.setStream p x).cmb = s.cmb := rfl
@[simp] theorem State.setStream_til (p : Nat) (x : SrcStream) : (s.setStream p x).til = s.til := rfl
@[simp] theorem State.setStream_stg (p : Nat) (x : SrcStream) : (s.setStream p x).stg = s.stg := rfl
@[simp] theorem State.setStream_flt (p : Nat) (x : SrcStream) : (s.setStream p x).flt = s.flt := rfl
@[simp] theorem State.setStream_clk (p : Nat) (x : SrcStream) : (s.setStream p x).clk = s.clk := rfl
@[simp] theorem State.setStream_nrg (p : Nat) (x : SrcStream) : (s.setStream p x).nrg = s.nrg := rfl
@[simp] theorem State.setStream_evq (p : Nat) (x : SrcStream) : (s.setStream p x).evq = s.evq := rfl
@[simp] theorem State.setStream_nvs (p : Nat) (x : SrcStream) : (s.setStream p x).nvs = s.nvs := rfl
@[simp] theorem State.setStream_fwu (p : Nat) (x : SrcStream) : (s.setStream p x).fwu = s.fwu := rfl
@[simp] theorem State.setStream_sb (p : Nat) (x : SrcStream) : (s.setStream p x).sb = s.sb := rfl
@[simp] theorem State.setStream_out (p : Nat) (x : SrcStream) : (s.setStream p x).out = s.out := rfl
@[simp] theorem State.setStream_free (p : Nat) (x : SrcStream) : (s.setStream p x).free = s.free := rfl
@[simp] theorem State.setStream_pending (p : Nat) (x : SrcStream) : (s.setStream p x).pending = s.pending := rfl

/-! ### setRow: it changes `stg` alone -/

@[simp] theorem State.setRow_ident (r : Nat) (l : List Byte) : (s.setRow r l).ident = s.ident := rfl
@[simp] theorem State.setRow_pwr (r : Nat) (l : List Byte) : (s.setRow r l).pwr = s.pwr := rfl
@[simp] theorem State.setRow_regs (r : Nat) (l : List Byte) : (s.setRow r l).regs = s.regs := rfl
@[simp] theorem State.setRow_time (r : Nat) (l : List Byte) : (s.setRow r l).time = s.time := rfl
@[simp] theorem State.setRow_tdc (r : Nat) (l : List Byte) : (s.setRow r l).tdc = s.tdc := rfl
@[simp] theorem State.setRow_ref (r : Nat) (l : List Byte) : (s.setRow r l).ref = s.ref := rfl
@[simp] theorem State.setRow_cad (r : Nat) (l : List Byte) : (s.setRow r l).cad = s.cad := rfl
@[simp] theorem State.setRow_spk (r : Nat) (l : List Byte) : (s.setRow r l).spk = s.spk := rfl
@[simp] theorem State.setRow_img (r : Nat) (l : List Byte) : (s.setRow r l).img = s.img := rfl
@[simp] theorem State.setRow_fab (r : Nat) (l : List Byte) : (s.setRow r l).fab = s.fab := rfl
@[simp] theorem State.setRow_cmb (r : Nat) (l : List Byte) : (s.setRow r l).cmb = s.cmb := rfl
@[simp] theorem State.setRow_til (r : Nat) (l : List Byte) : (s.setRow r l).til = s.til := rfl
@[simp] theorem State.setRow_flt (r : Nat) (l : List Byte) : (s.setRow r l).flt = s.flt := rfl
@[simp] theorem State.setRow_clk (r : Nat) (l : List Byte) : (s.setRow r l).clk = s.clk := rfl
@[simp] theorem State.setRow_nrg (r : Nat) (l : List Byte) : (s.setRow r l).nrg = s.nrg := rfl
@[simp] theorem State.setRow_evq (r : Nat) (l : List Byte) : (s.setRow r l).evq = s.evq := rfl
@[simp] theorem State.setRow_nvs (r : Nat) (l : List Byte) : (s.setRow r l).nvs = s.nvs := rfl
@[simp] theorem State.setRow_fwu (r : Nat) (l : List Byte) : (s.setRow r l).fwu = s.fwu := rfl
@[simp] theorem State.setRow_sb (r : Nat) (l : List Byte) : (s.setRow r l).sb = s.sb := rfl
@[simp] theorem State.setRow_out (r : Nat) (l : List Byte) : (s.setRow r l).out = s.out := rfl
@[simp] theorem State.setRow_free (r : Nat) (l : List Byte) : (s.setRow r l).free = s.free := rfl
@[simp] theorem State.setRow_pending (r : Nat) (l : List Byte) : (s.setRow r l).pending = s.pending := rfl

/-! ### setRowMeta: it changes `stg` alone -/

@[simp] theorem State.setRowMeta_ident (r : Nat) (m : RowMeta) : (s.setRowMeta r m).ident = s.ident := rfl
@[simp] theorem State.setRowMeta_pwr (r : Nat) (m : RowMeta) : (s.setRowMeta r m).pwr = s.pwr := rfl
@[simp] theorem State.setRowMeta_regs (r : Nat) (m : RowMeta) : (s.setRowMeta r m).regs = s.regs := rfl
@[simp] theorem State.setRowMeta_time (r : Nat) (m : RowMeta) : (s.setRowMeta r m).time = s.time := rfl
@[simp] theorem State.setRowMeta_tdc (r : Nat) (m : RowMeta) : (s.setRowMeta r m).tdc = s.tdc := rfl
@[simp] theorem State.setRowMeta_ref (r : Nat) (m : RowMeta) : (s.setRowMeta r m).ref = s.ref := rfl
@[simp] theorem State.setRowMeta_cad (r : Nat) (m : RowMeta) : (s.setRowMeta r m).cad = s.cad := rfl
@[simp] theorem State.setRowMeta_spk (r : Nat) (m : RowMeta) : (s.setRowMeta r m).spk = s.spk := rfl
@[simp] theorem State.setRowMeta_img (r : Nat) (m : RowMeta) : (s.setRowMeta r m).img = s.img := rfl
@[simp] theorem State.setRowMeta_fab (r : Nat) (m : RowMeta) : (s.setRowMeta r m).fab = s.fab := rfl
@[simp] theorem State.setRowMeta_cmb (r : Nat) (m : RowMeta) : (s.setRowMeta r m).cmb = s.cmb := rfl
@[simp] theorem State.setRowMeta_til (r : Nat) (m : RowMeta) : (s.setRowMeta r m).til = s.til := rfl
@[simp] theorem State.setRowMeta_flt (r : Nat) (m : RowMeta) : (s.setRowMeta r m).flt = s.flt := rfl
@[simp] theorem State.setRowMeta_clk (r : Nat) (m : RowMeta) : (s.setRowMeta r m).clk = s.clk := rfl
@[simp] theorem State.setRowMeta_nrg (r : Nat) (m : RowMeta) : (s.setRowMeta r m).nrg = s.nrg := rfl
@[simp] theorem State.setRowMeta_evq (r : Nat) (m : RowMeta) : (s.setRowMeta r m).evq = s.evq := rfl
@[simp] theorem State.setRowMeta_nvs (r : Nat) (m : RowMeta) : (s.setRowMeta r m).nvs = s.nvs := rfl
@[simp] theorem State.setRowMeta_fwu (r : Nat) (m : RowMeta) : (s.setRowMeta r m).fwu = s.fwu := rfl
@[simp] theorem State.setRowMeta_sb (r : Nat) (m : RowMeta) : (s.setRowMeta r m).sb = s.sb := rfl
@[simp] theorem State.setRowMeta_out (r : Nat) (m : RowMeta) : (s.setRowMeta r m).out = s.out := rfl
@[simp] theorem State.setRowMeta_free (r : Nat) (m : RowMeta) : (s.setRowMeta r m).free = s.free := rfl
@[simp] theorem State.setRowMeta_pending (r : Nat) (m : RowMeta) : (s.setRowMeta r m).pending = s.pending := rfl

/-! ### setPeerJ: it changes `flt` alone -/

@[simp] theorem State.setPeerJ_ident (n : Nat) (j : Judge) : (s.setPeerJ n j).ident = s.ident := rfl
@[simp] theorem State.setPeerJ_pwr (n : Nat) (j : Judge) : (s.setPeerJ n j).pwr = s.pwr := rfl
@[simp] theorem State.setPeerJ_regs (n : Nat) (j : Judge) : (s.setPeerJ n j).regs = s.regs := rfl
@[simp] theorem State.setPeerJ_time (n : Nat) (j : Judge) : (s.setPeerJ n j).time = s.time := rfl
@[simp] theorem State.setPeerJ_tdc (n : Nat) (j : Judge) : (s.setPeerJ n j).tdc = s.tdc := rfl
@[simp] theorem State.setPeerJ_ref (n : Nat) (j : Judge) : (s.setPeerJ n j).ref = s.ref := rfl
@[simp] theorem State.setPeerJ_cad (n : Nat) (j : Judge) : (s.setPeerJ n j).cad = s.cad := rfl
@[simp] theorem State.setPeerJ_spk (n : Nat) (j : Judge) : (s.setPeerJ n j).spk = s.spk := rfl
@[simp] theorem State.setPeerJ_img (n : Nat) (j : Judge) : (s.setPeerJ n j).img = s.img := rfl
@[simp] theorem State.setPeerJ_fab (n : Nat) (j : Judge) : (s.setPeerJ n j).fab = s.fab := rfl
@[simp] theorem State.setPeerJ_cmb (n : Nat) (j : Judge) : (s.setPeerJ n j).cmb = s.cmb := rfl
@[simp] theorem State.setPeerJ_til (n : Nat) (j : Judge) : (s.setPeerJ n j).til = s.til := rfl
@[simp] theorem State.setPeerJ_stg (n : Nat) (j : Judge) : (s.setPeerJ n j).stg = s.stg := rfl
@[simp] theorem State.setPeerJ_clk (n : Nat) (j : Judge) : (s.setPeerJ n j).clk = s.clk := rfl
@[simp] theorem State.setPeerJ_nrg (n : Nat) (j : Judge) : (s.setPeerJ n j).nrg = s.nrg := rfl
@[simp] theorem State.setPeerJ_evq (n : Nat) (j : Judge) : (s.setPeerJ n j).evq = s.evq := rfl
@[simp] theorem State.setPeerJ_nvs (n : Nat) (j : Judge) : (s.setPeerJ n j).nvs = s.nvs := rfl
@[simp] theorem State.setPeerJ_fwu (n : Nat) (j : Judge) : (s.setPeerJ n j).fwu = s.fwu := rfl
@[simp] theorem State.setPeerJ_sb (n : Nat) (j : Judge) : (s.setPeerJ n j).sb = s.sb := rfl
@[simp] theorem State.setPeerJ_out (n : Nat) (j : Judge) : (s.setPeerJ n j).out = s.out := rfl
@[simp] theorem State.setPeerJ_free (n : Nat) (j : Judge) : (s.setPeerJ n j).free = s.free := rfl
@[simp] theorem State.setPeerJ_pending (n : Nat) (j : Judge) : (s.setPeerJ n j).pending = s.pending := rfl

/-! ### setDie: it changes `flt` alone -/

@[simp] theorem State.setDie_ident (d : Nat) (x : DieSt) : (s.setDie d x).ident = s.ident := rfl
@[simp] theorem State.setDie_pwr (d : Nat) (x : DieSt) : (s.setDie d x).pwr = s.pwr := rfl
@[simp] theorem State.setDie_regs (d : Nat) (x : DieSt) : (s.setDie d x).regs = s.regs := rfl
@[simp] theorem State.setDie_time (d : Nat) (x : DieSt) : (s.setDie d x).time = s.time := rfl
@[simp] theorem State.setDie_tdc (d : Nat) (x : DieSt) : (s.setDie d x).tdc = s.tdc := rfl
@[simp] theorem State.setDie_ref (d : Nat) (x : DieSt) : (s.setDie d x).ref = s.ref := rfl
@[simp] theorem State.setDie_cad (d : Nat) (x : DieSt) : (s.setDie d x).cad = s.cad := rfl
@[simp] theorem State.setDie_spk (d : Nat) (x : DieSt) : (s.setDie d x).spk = s.spk := rfl
@[simp] theorem State.setDie_img (d : Nat) (x : DieSt) : (s.setDie d x).img = s.img := rfl
@[simp] theorem State.setDie_fab (d : Nat) (x : DieSt) : (s.setDie d x).fab = s.fab := rfl
@[simp] theorem State.setDie_cmb (d : Nat) (x : DieSt) : (s.setDie d x).cmb = s.cmb := rfl
@[simp] theorem State.setDie_til (d : Nat) (x : DieSt) : (s.setDie d x).til = s.til := rfl
@[simp] theorem State.setDie_stg (d : Nat) (x : DieSt) : (s.setDie d x).stg = s.stg := rfl
@[simp] theorem State.setDie_clk (d : Nat) (x : DieSt) : (s.setDie d x).clk = s.clk := rfl
@[simp] theorem State.setDie_nrg (d : Nat) (x : DieSt) : (s.setDie d x).nrg = s.nrg := rfl
@[simp] theorem State.setDie_evq (d : Nat) (x : DieSt) : (s.setDie d x).evq = s.evq := rfl
@[simp] theorem State.setDie_nvs (d : Nat) (x : DieSt) : (s.setDie d x).nvs = s.nvs := rfl
@[simp] theorem State.setDie_fwu (d : Nat) (x : DieSt) : (s.setDie d x).fwu = s.fwu := rfl
@[simp] theorem State.setDie_sb (d : Nat) (x : DieSt) : (s.setDie d x).sb = s.sb := rfl
@[simp] theorem State.setDie_out (d : Nat) (x : DieSt) : (s.setDie d x).out = s.out := rfl
@[simp] theorem State.setDie_free (d : Nat) (x : DieSt) : (s.setDie d x).free = s.free := rfl
@[simp] theorem State.setDie_pending (d : Nat) (x : DieSt) : (s.setDie d x).pending = s.pending := rfl

/-! ### setLink: it changes `sb` alone -/

@[simp] theorem State.setLink_ident (d : Nat) (l : SbLink) : (s.setLink d l).ident = s.ident := rfl
@[simp] theorem State.setLink_pwr (d : Nat) (l : SbLink) : (s.setLink d l).pwr = s.pwr := rfl
@[simp] theorem State.setLink_regs (d : Nat) (l : SbLink) : (s.setLink d l).regs = s.regs := rfl
@[simp] theorem State.setLink_time (d : Nat) (l : SbLink) : (s.setLink d l).time = s.time := rfl
@[simp] theorem State.setLink_tdc (d : Nat) (l : SbLink) : (s.setLink d l).tdc = s.tdc := rfl
@[simp] theorem State.setLink_ref (d : Nat) (l : SbLink) : (s.setLink d l).ref = s.ref := rfl
@[simp] theorem State.setLink_cad (d : Nat) (l : SbLink) : (s.setLink d l).cad = s.cad := rfl
@[simp] theorem State.setLink_spk (d : Nat) (l : SbLink) : (s.setLink d l).spk = s.spk := rfl
@[simp] theorem State.setLink_img (d : Nat) (l : SbLink) : (s.setLink d l).img = s.img := rfl
@[simp] theorem State.setLink_fab (d : Nat) (l : SbLink) : (s.setLink d l).fab = s.fab := rfl
@[simp] theorem State.setLink_cmb (d : Nat) (l : SbLink) : (s.setLink d l).cmb = s.cmb := rfl
@[simp] theorem State.setLink_til (d : Nat) (l : SbLink) : (s.setLink d l).til = s.til := rfl
@[simp] theorem State.setLink_stg (d : Nat) (l : SbLink) : (s.setLink d l).stg = s.stg := rfl
@[simp] theorem State.setLink_flt (d : Nat) (l : SbLink) : (s.setLink d l).flt = s.flt := rfl
@[simp] theorem State.setLink_clk (d : Nat) (l : SbLink) : (s.setLink d l).clk = s.clk := rfl
@[simp] theorem State.setLink_nrg (d : Nat) (l : SbLink) : (s.setLink d l).nrg = s.nrg := rfl
@[simp] theorem State.setLink_evq (d : Nat) (l : SbLink) : (s.setLink d l).evq = s.evq := rfl
@[simp] theorem State.setLink_nvs (d : Nat) (l : SbLink) : (s.setLink d l).nvs = s.nvs := rfl
@[simp] theorem State.setLink_fwu (d : Nat) (l : SbLink) : (s.setLink d l).fwu = s.fwu := rfl
@[simp] theorem State.setLink_out (d : Nat) (l : SbLink) : (s.setLink d l).out = s.out := rfl
@[simp] theorem State.setLink_free (d : Nat) (l : SbLink) : (s.setLink d l).free = s.free := rfl
@[simp] theorem State.setLink_pending (d : Nat) (l : SbLink) : (s.setLink d l).pending = s.pending := rfl

/-! ### setVal: it changes `spk` alone -/

@[simp] theorem State.setVal_ident (p : Nat) (v : W) : (s.setVal p v).ident = s.ident := rfl
@[simp] theorem State.setVal_pwr (p : Nat) (v : W) : (s.setVal p v).pwr = s.pwr := rfl
@[simp] theorem State.setVal_regs (p : Nat) (v : W) : (s.setVal p v).regs = s.regs := rfl
@[simp] theorem State.setVal_time (p : Nat) (v : W) : (s.setVal p v).time = s.time := rfl
@[simp] theorem State.setVal_tdc (p : Nat) (v : W) : (s.setVal p v).tdc = s.tdc := rfl
@[simp] theorem State.setVal_ref (p : Nat) (v : W) : (s.setVal p v).ref = s.ref := rfl
@[simp] theorem State.setVal_cad (p : Nat) (v : W) : (s.setVal p v).cad = s.cad := rfl
@[simp] theorem State.setVal_img (p : Nat) (v : W) : (s.setVal p v).img = s.img := rfl
@[simp] theorem State.setVal_fab (p : Nat) (v : W) : (s.setVal p v).fab = s.fab := rfl
@[simp] theorem State.setVal_cmb (p : Nat) (v : W) : (s.setVal p v).cmb = s.cmb := rfl
@[simp] theorem State.setVal_til (p : Nat) (v : W) : (s.setVal p v).til = s.til := rfl
@[simp] theorem State.setVal_stg (p : Nat) (v : W) : (s.setVal p v).stg = s.stg := rfl
@[simp] theorem State.setVal_flt (p : Nat) (v : W) : (s.setVal p v).flt = s.flt := rfl
@[simp] theorem State.setVal_clk (p : Nat) (v : W) : (s.setVal p v).clk = s.clk := rfl
@[simp] theorem State.setVal_nrg (p : Nat) (v : W) : (s.setVal p v).nrg = s.nrg := rfl
@[simp] theorem State.setVal_evq (p : Nat) (v : W) : (s.setVal p v).evq = s.evq := rfl
@[simp] theorem State.setVal_nvs (p : Nat) (v : W) : (s.setVal p v).nvs = s.nvs := rfl
@[simp] theorem State.setVal_fwu (p : Nat) (v : W) : (s.setVal p v).fwu = s.fwu := rfl
@[simp] theorem State.setVal_sb (p : Nat) (v : W) : (s.setVal p v).sb = s.sb := rfl
@[simp] theorem State.setVal_out (p : Nat) (v : W) : (s.setVal p v).out = s.out := rfl
@[simp] theorem State.setVal_free (p : Nat) (v : W) : (s.setVal p v).free = s.free := rfl
@[simp] theorem State.setVal_pending (p : Nat) (v : W) : (s.setVal p v).pending = s.pending := rfl

/-! ### setCtx: it changes `spk` alone -/

@[simp] theorem State.setCtx_ident (c : Nat) (x : Ctx) : (s.setCtx c x).ident = s.ident := rfl
@[simp] theorem State.setCtx_pwr (c : Nat) (x : Ctx) : (s.setCtx c x).pwr = s.pwr := rfl
@[simp] theorem State.setCtx_regs (c : Nat) (x : Ctx) : (s.setCtx c x).regs = s.regs := rfl
@[simp] theorem State.setCtx_time (c : Nat) (x : Ctx) : (s.setCtx c x).time = s.time := rfl
@[simp] theorem State.setCtx_tdc (c : Nat) (x : Ctx) : (s.setCtx c x).tdc = s.tdc := rfl
@[simp] theorem State.setCtx_ref (c : Nat) (x : Ctx) : (s.setCtx c x).ref = s.ref := rfl
@[simp] theorem State.setCtx_cad (c : Nat) (x : Ctx) : (s.setCtx c x).cad = s.cad := rfl
@[simp] theorem State.setCtx_img (c : Nat) (x : Ctx) : (s.setCtx c x).img = s.img := rfl
@[simp] theorem State.setCtx_fab (c : Nat) (x : Ctx) : (s.setCtx c x).fab = s.fab := rfl
@[simp] theorem State.setCtx_cmb (c : Nat) (x : Ctx) : (s.setCtx c x).cmb = s.cmb := rfl
@[simp] theorem State.setCtx_til (c : Nat) (x : Ctx) : (s.setCtx c x).til = s.til := rfl
@[simp] theorem State.setCtx_stg (c : Nat) (x : Ctx) : (s.setCtx c x).stg = s.stg := rfl
@[simp] theorem State.setCtx_flt (c : Nat) (x : Ctx) : (s.setCtx c x).flt = s.flt := rfl
@[simp] theorem State.setCtx_clk (c : Nat) (x : Ctx) : (s.setCtx c x).clk = s.clk := rfl
@[simp] theorem State.setCtx_nrg (c : Nat) (x : Ctx) : (s.setCtx c x).nrg = s.nrg := rfl
@[simp] theorem State.setCtx_evq (c : Nat) (x : Ctx) : (s.setCtx c x).evq = s.evq := rfl
@[simp] theorem State.setCtx_nvs (c : Nat) (x : Ctx) : (s.setCtx c x).nvs = s.nvs := rfl
@[simp] theorem State.setCtx_fwu (c : Nat) (x : Ctx) : (s.setCtx c x).fwu = s.fwu := rfl
@[simp] theorem State.setCtx_sb (c : Nat) (x : Ctx) : (s.setCtx c x).sb = s.sb := rfl
@[simp] theorem State.setCtx_out (c : Nat) (x : Ctx) : (s.setCtx c x).out = s.out := rfl
@[simp] theorem State.setCtx_free (c : Nat) (x : Ctx) : (s.setCtx c x).free = s.free := rfl
@[simp] theorem State.setCtx_pending (c : Nat) (x : Ctx) : (s.setCtx c x).pending = s.pending := rfl

/-! ### setMeta: it changes `spk` alone -/

@[simp] theorem State.setMeta_ident (p : Nat) (m : SpkMeta) : (s.setMeta p m).ident = s.ident := rfl
@[simp] theorem State.setMeta_pwr (p : Nat) (m : SpkMeta) : (s.setMeta p m).pwr = s.pwr := rfl
@[simp] theorem State.setMeta_regs (p : Nat) (m : SpkMeta) : (s.setMeta p m).regs = s.regs := rfl
@[simp] theorem State.setMeta_time (p : Nat) (m : SpkMeta) : (s.setMeta p m).time = s.time := rfl
@[simp] theorem State.setMeta_tdc (p : Nat) (m : SpkMeta) : (s.setMeta p m).tdc = s.tdc := rfl
@[simp] theorem State.setMeta_ref (p : Nat) (m : SpkMeta) : (s.setMeta p m).ref = s.ref := rfl
@[simp] theorem State.setMeta_cad (p : Nat) (m : SpkMeta) : (s.setMeta p m).cad = s.cad := rfl
@[simp] theorem State.setMeta_img (p : Nat) (m : SpkMeta) : (s.setMeta p m).img = s.img := rfl
@[simp] theorem State.setMeta_fab (p : Nat) (m : SpkMeta) : (s.setMeta p m).fab = s.fab := rfl
@[simp] theorem State.setMeta_cmb (p : Nat) (m : SpkMeta) : (s.setMeta p m).cmb = s.cmb := rfl
@[simp] theorem State.setMeta_til (p : Nat) (m : SpkMeta) : (s.setMeta p m).til = s.til := rfl
@[simp] theorem State.setMeta_stg (p : Nat) (m : SpkMeta) : (s.setMeta p m).stg = s.stg := rfl
@[simp] theorem State.setMeta_flt (p : Nat) (m : SpkMeta) : (s.setMeta p m).flt = s.flt := rfl
@[simp] theorem State.setMeta_clk (p : Nat) (m : SpkMeta) : (s.setMeta p m).clk = s.clk := rfl
@[simp] theorem State.setMeta_nrg (p : Nat) (m : SpkMeta) : (s.setMeta p m).nrg = s.nrg := rfl
@[simp] theorem State.setMeta_evq (p : Nat) (m : SpkMeta) : (s.setMeta p m).evq = s.evq := rfl
@[simp] theorem State.setMeta_nvs (p : Nat) (m : SpkMeta) : (s.setMeta p m).nvs = s.nvs := rfl
@[simp] theorem State.setMeta_fwu (p : Nat) (m : SpkMeta) : (s.setMeta p m).fwu = s.fwu := rfl
@[simp] theorem State.setMeta_sb (p : Nat) (m : SpkMeta) : (s.setMeta p m).sb = s.sb := rfl
@[simp] theorem State.setMeta_out (p : Nat) (m : SpkMeta) : (s.setMeta p m).out = s.out := rfl
@[simp] theorem State.setMeta_free (p : Nat) (m : SpkMeta) : (s.setMeta p m).free = s.free := rfl
@[simp] theorem State.setMeta_pending (p : Nat) (m : SpkMeta) : (s.setMeta p m).pending = s.pending := rfl

/-! ### setCore: it changes `evq` alone -/

@[simp] theorem State.setCore_ident (c : Nat) (x : CoreSt) : (s.setCore c x).ident = s.ident := rfl
@[simp] theorem State.setCore_pwr (c : Nat) (x : CoreSt) : (s.setCore c x).pwr = s.pwr := rfl
@[simp] theorem State.setCore_regs (c : Nat) (x : CoreSt) : (s.setCore c x).regs = s.regs := rfl
@[simp] theorem State.setCore_time (c : Nat) (x : CoreSt) : (s.setCore c x).time = s.time := rfl
@[simp] theorem State.setCore_tdc (c : Nat) (x : CoreSt) : (s.setCore c x).tdc = s.tdc := rfl
@[simp] theorem State.setCore_ref (c : Nat) (x : CoreSt) : (s.setCore c x).ref = s.ref := rfl
@[simp] theorem State.setCore_cad (c : Nat) (x : CoreSt) : (s.setCore c x).cad = s.cad := rfl
@[simp] theorem State.setCore_spk (c : Nat) (x : CoreSt) : (s.setCore c x).spk = s.spk := rfl
@[simp] theorem State.setCore_img (c : Nat) (x : CoreSt) : (s.setCore c x).img = s.img := rfl
@[simp] theorem State.setCore_fab (c : Nat) (x : CoreSt) : (s.setCore c x).fab = s.fab := rfl
@[simp] theorem State.setCore_cmb (c : Nat) (x : CoreSt) : (s.setCore c x).cmb = s.cmb := rfl
@[simp] theorem State.setCore_til (c : Nat) (x : CoreSt) : (s.setCore c x).til = s.til := rfl
@[simp] theorem State.setCore_stg (c : Nat) (x : CoreSt) : (s.setCore c x).stg = s.stg := rfl
@[simp] theorem State.setCore_flt (c : Nat) (x : CoreSt) : (s.setCore c x).flt = s.flt := rfl
@[simp] theorem State.setCore_clk (c : Nat) (x : CoreSt) : (s.setCore c x).clk = s.clk := rfl
@[simp] theorem State.setCore_nrg (c : Nat) (x : CoreSt) : (s.setCore c x).nrg = s.nrg := rfl
@[simp] theorem State.setCore_nvs (c : Nat) (x : CoreSt) : (s.setCore c x).nvs = s.nvs := rfl
@[simp] theorem State.setCore_fwu (c : Nat) (x : CoreSt) : (s.setCore c x).fwu = s.fwu := rfl
@[simp] theorem State.setCore_sb (c : Nat) (x : CoreSt) : (s.setCore c x).sb = s.sb := rfl
@[simp] theorem State.setCore_out (c : Nat) (x : CoreSt) : (s.setCore c x).out = s.out := rfl
@[simp] theorem State.setCore_free (c : Nat) (x : CoreSt) : (s.setCore c x).free = s.free := rfl
@[simp] theorem State.setCore_pending (c : Nat) (x : CoreSt) : (s.setCore c x).pending = s.pending := rfl

/-! ### setJudged: it changes `fab` alone -/

@[simp] theorem State.setJudged_ident (dno sub : Nat) (j : SigJudge) : (s.setJudged dno sub j).ident = s.ident := rfl
@[simp] theorem State.setJudged_pwr (dno sub : Nat) (j : SigJudge) : (s.setJudged dno sub j).pwr = s.pwr := rfl
@[simp] theorem State.setJudged_regs (dno sub : Nat) (j : SigJudge) : (s.setJudged dno sub j).regs = s.regs := rfl
@[simp] theorem State.setJudged_time (dno sub : Nat) (j : SigJudge) : (s.setJudged dno sub j).time = s.time := rfl
@[simp] theorem State.setJudged_tdc (dno sub : Nat) (j : SigJudge) : (s.setJudged dno sub j).tdc = s.tdc := rfl
@[simp] theorem State.setJudged_ref (dno sub : Nat) (j : SigJudge) : (s.setJudged dno sub j).ref = s.ref := rfl
@[simp] theorem State.setJudged_cad (dno sub : Nat) (j : SigJudge) : (s.setJudged dno sub j).cad = s.cad := rfl
@[simp] theorem State.setJudged_spk (dno sub : Nat) (j : SigJudge) : (s.setJudged dno sub j).spk = s.spk := rfl
@[simp] theorem State.setJudged_img (dno sub : Nat) (j : SigJudge) : (s.setJudged dno sub j).img = s.img := rfl
@[simp] theorem State.setJudged_cmb (dno sub : Nat) (j : SigJudge) : (s.setJudged dno sub j).cmb = s.cmb := rfl
@[simp] theorem State.setJudged_til (dno sub : Nat) (j : SigJudge) : (s.setJudged dno sub j).til = s.til := rfl
@[simp] theorem State.setJudged_stg (dno sub : Nat) (j : SigJudge) : (s.setJudged dno sub j).stg = s.stg := rfl
@[simp] theorem State.setJudged_flt (dno sub : Nat) (j : SigJudge) : (s.setJudged dno sub j).flt = s.flt := rfl
@[simp] theorem State.setJudged_clk (dno sub : Nat) (j : SigJudge) : (s.setJudged dno sub j).clk = s.clk := rfl
@[simp] theorem State.setJudged_nrg (dno sub : Nat) (j : SigJudge) : (s.setJudged dno sub j).nrg = s.nrg := rfl
@[simp] theorem State.setJudged_evq (dno sub : Nat) (j : SigJudge) : (s.setJudged dno sub j).evq = s.evq := rfl
@[simp] theorem State.setJudged_nvs (dno sub : Nat) (j : SigJudge) : (s.setJudged dno sub j).nvs = s.nvs := rfl
@[simp] theorem State.setJudged_fwu (dno sub : Nat) (j : SigJudge) : (s.setJudged dno sub j).fwu = s.fwu := rfl
@[simp] theorem State.setJudged_sb (dno sub : Nat) (j : SigJudge) : (s.setJudged dno sub j).sb = s.sb := rfl
@[simp] theorem State.setJudged_out (dno sub : Nat) (j : SigJudge) : (s.setJudged dno sub j).out = s.out := rfl
@[simp] theorem State.setJudged_free (dno sub : Nat) (j : SigJudge) : (s.setJudged dno sub j).free = s.free := rfl
@[simp] theorem State.setJudged_pending (dno sub : Nat) (j : SigJudge) : (s.setJudged dno sub j).pending = s.pending := rfl

/-! ### steerTo: it changes `time` alone -/

@[simp] theorem State.steerTo_ident (y : Int) : (s.steerTo y).ident = s.ident := rfl
@[simp] theorem State.steerTo_pwr (y : Int) : (s.steerTo y).pwr = s.pwr := rfl
@[simp] theorem State.steerTo_regs (y : Int) : (s.steerTo y).regs = s.regs := rfl
@[simp] theorem State.steerTo_tdc (y : Int) : (s.steerTo y).tdc = s.tdc := rfl
@[simp] theorem State.steerTo_ref (y : Int) : (s.steerTo y).ref = s.ref := rfl
@[simp] theorem State.steerTo_cad (y : Int) : (s.steerTo y).cad = s.cad := rfl
@[simp] theorem State.steerTo_spk (y : Int) : (s.steerTo y).spk = s.spk := rfl
@[simp] theorem State.steerTo_img (y : Int) : (s.steerTo y).img = s.img := rfl
@[simp] theorem State.steerTo_fab (y : Int) : (s.steerTo y).fab = s.fab := rfl
@[simp] theorem State.steerTo_cmb (y : Int) : (s.steerTo y).cmb = s.cmb := rfl
@[simp] theorem State.steerTo_til (y : Int) : (s.steerTo y).til = s.til := rfl
@[simp] theorem State.steerTo_stg (y : Int) : (s.steerTo y).stg = s.stg := rfl
@[simp] theorem State.steerTo_flt (y : Int) : (s.steerTo y).flt = s.flt := rfl
@[simp] theorem State.steerTo_clk (y : Int) : (s.steerTo y).clk = s.clk := rfl
@[simp] theorem State.steerTo_nrg (y : Int) : (s.steerTo y).nrg = s.nrg := rfl
@[simp] theorem State.steerTo_evq (y : Int) : (s.steerTo y).evq = s.evq := rfl
@[simp] theorem State.steerTo_nvs (y : Int) : (s.steerTo y).nvs = s.nvs := rfl
@[simp] theorem State.steerTo_fwu (y : Int) : (s.steerTo y).fwu = s.fwu := rfl
@[simp] theorem State.steerTo_sb (y : Int) : (s.steerTo y).sb = s.sb := rfl
@[simp] theorem State.steerTo_out (y : Int) : (s.steerTo y).out = s.out := rfl
@[simp] theorem State.steerTo_free (y : Int) : (s.steerTo y).free = s.free := rfl
@[simp] theorem State.steerTo_pending (y : Int) : (s.steerTo y).pending = s.pending := rfl

/-! ### What events leave alone -/

section

variable {rs : List Nat} {u t : State}

theorem OnlyEvents.ident_eq (h : OnlyEvents rs u t) : t.ident = u.ident := by rw [h.1]
theorem OnlyEvents.pwr_eq (h : OnlyEvents rs u t) : t.pwr = u.pwr := by rw [h.1]
theorem OnlyEvents.time_eq (h : OnlyEvents rs u t) : t.time = u.time := by rw [h.1]
theorem OnlyEvents.tdc_eq (h : OnlyEvents rs u t) : t.tdc = u.tdc := by rw [h.1]
theorem OnlyEvents.ref_eq (h : OnlyEvents rs u t) : t.ref = u.ref := by rw [h.1]
theorem OnlyEvents.cad_eq (h : OnlyEvents rs u t) : t.cad = u.cad := by rw [h.1]
theorem OnlyEvents.spk_eq (h : OnlyEvents rs u t) : t.spk = u.spk := by rw [h.1]
theorem OnlyEvents.img_eq (h : OnlyEvents rs u t) : t.img = u.img := by rw [h.1]
theorem OnlyEvents.cmb_eq (h : OnlyEvents rs u t) : t.cmb = u.cmb := by rw [h.1]
theorem OnlyEvents.til_eq (h : OnlyEvents rs u t) : t.til = u.til := by rw [h.1]
theorem OnlyEvents.stg_eq (h : OnlyEvents rs u t) : t.stg = u.stg := by rw [h.1]
theorem OnlyEvents.flt_eq (h : OnlyEvents rs u t) : t.flt = u.flt := by rw [h.1]
theorem OnlyEvents.clk_eq (h : OnlyEvents rs u t) : t.clk = u.clk := by rw [h.1]
theorem OnlyEvents.nrg_eq (h : OnlyEvents rs u t) : t.nrg = u.nrg := by rw [h.1]
theorem OnlyEvents.nvs_eq (h : OnlyEvents rs u t) : t.nvs = u.nvs := by rw [h.1]
theorem OnlyEvents.fwu_eq (h : OnlyEvents rs u t) : t.fwu = u.fwu := by rw [h.1]
theorem OnlyEvents.sb_eq (h : OnlyEvents rs u t) : t.sb = u.sb := by rw [h.1]
theorem OnlyEvents.free_eq (h : OnlyEvents rs u t) : t.free = u.free := by rw [h.1]
theorem OnlyEvents.pending_eq (h : OnlyEvents rs u t) : t.pending = u.pending := by rw [h.1]
theorem OnlyEvents.ram_eq (h : OnlyEvents rs u t) : t.fab.ram = u.fab.ram := by rw [h.1]
theorem OnlyEvents.ports_eq (h : OnlyEvents rs u t) : t.fab.ports = u.fab.ports := by rw [h.1]

end

@[simp] theorem State.raise_ident (f : Fld) : (s.raise f).ident = s.ident :=
  (raise_onlyEvents s f).ident_eq
@[simp] theorem State.raise_pwr (f : Fld) : (s.raise f).pwr = s.pwr :=
  (raise_onlyEvents s f).pwr_eq
@[simp] theorem State.raise_time (f : Fld) : (s.raise f).time = s.time :=
  (raise_onlyEvents s f).time_eq
@[simp] theorem State.raise_tdc (f : Fld) : (s.raise f).tdc = s.tdc :=
  (raise_onlyEvents s f).tdc_eq
@[simp] theorem State.raise_ref (f : Fld) : (s.raise f).ref = s.ref :=
  (raise_onlyEvents s f).ref_eq
@[simp] theorem State.raise_cad (f : Fld) : (s.raise f).cad = s.cad :=
  (raise_onlyEvents s f).cad_eq
@[simp] theorem State.raise_spk (f : Fld) : (s.raise f).spk = s.spk :=
  (raise_onlyEvents s f).spk_eq
@[simp] theorem State.raise_img (f : Fld) : (s.raise f).img = s.img :=
  (raise_onlyEvents s f).img_eq
@[simp] theorem State.raise_cmb (f : Fld) : (s.raise f).cmb = s.cmb :=
  (raise_onlyEvents s f).cmb_eq
@[simp] theorem State.raise_til (f : Fld) : (s.raise f).til = s.til :=
  (raise_onlyEvents s f).til_eq
@[simp] theorem State.raise_stg (f : Fld) : (s.raise f).stg = s.stg :=
  (raise_onlyEvents s f).stg_eq
@[simp] theorem State.raise_flt (f : Fld) : (s.raise f).flt = s.flt :=
  (raise_onlyEvents s f).flt_eq
@[simp] theorem State.raise_clk (f : Fld) : (s.raise f).clk = s.clk :=
  (raise_onlyEvents s f).clk_eq
@[simp] theorem State.raise_nrg (f : Fld) : (s.raise f).nrg = s.nrg :=
  (raise_onlyEvents s f).nrg_eq
@[simp] theorem State.raise_nvs (f : Fld) : (s.raise f).nvs = s.nvs :=
  (raise_onlyEvents s f).nvs_eq
@[simp] theorem State.raise_fwu (f : Fld) : (s.raise f).fwu = s.fwu :=
  (raise_onlyEvents s f).fwu_eq
@[simp] theorem State.raise_sb (f : Fld) : (s.raise f).sb = s.sb :=
  (raise_onlyEvents s f).sb_eq
@[simp] theorem State.raise_free (f : Fld) : (s.raise f).free = s.free :=
  (raise_onlyEvents s f).free_eq
@[simp] theorem State.raise_pending (f : Fld) : (s.raise f).pending = s.pending :=
  (raise_onlyEvents s f).pending_eq
@[simp] theorem State.raise_ram (f : Fld) : (s.raise f).fab.ram = s.fab.ram :=
  (raise_onlyEvents s f).ram_eq
@[simp] theorem State.raise_ports (f : Fld) : (s.raise f).fab.ports = s.fab.ports :=
  (raise_onlyEvents s f).ports_eq

@[simp] theorem State.raiseArg_ident (f : Fld) (a1 : W) (also : List QId) : (s.raiseArg f a1 also).ident = s.ident :=
  (raiseArg_onlyEvents s f a1 also).ident_eq
@[simp] theorem State.raiseArg_pwr (f : Fld) (a1 : W) (also : List QId) : (s.raiseArg f a1 also).pwr = s.pwr :=
  (raiseArg_onlyEvents s f a1 also).pwr_eq
@[simp] theorem State.raiseArg_time (f : Fld) (a1 : W) (also : List QId) : (s.raiseArg f a1 also).time = s.time :=
  (raiseArg_onlyEvents s f a1 also).time_eq
@[simp] theorem State.raiseArg_tdc (f : Fld) (a1 : W) (also : List QId) : (s.raiseArg f a1 also).tdc = s.tdc :=
  (raiseArg_onlyEvents s f a1 also).tdc_eq
@[simp] theorem State.raiseArg_ref (f : Fld) (a1 : W) (also : List QId) : (s.raiseArg f a1 also).ref = s.ref :=
  (raiseArg_onlyEvents s f a1 also).ref_eq
@[simp] theorem State.raiseArg_cad (f : Fld) (a1 : W) (also : List QId) : (s.raiseArg f a1 also).cad = s.cad :=
  (raiseArg_onlyEvents s f a1 also).cad_eq
@[simp] theorem State.raiseArg_spk (f : Fld) (a1 : W) (also : List QId) : (s.raiseArg f a1 also).spk = s.spk :=
  (raiseArg_onlyEvents s f a1 also).spk_eq
@[simp] theorem State.raiseArg_img (f : Fld) (a1 : W) (also : List QId) : (s.raiseArg f a1 also).img = s.img :=
  (raiseArg_onlyEvents s f a1 also).img_eq
@[simp] theorem State.raiseArg_cmb (f : Fld) (a1 : W) (also : List QId) : (s.raiseArg f a1 also).cmb = s.cmb :=
  (raiseArg_onlyEvents s f a1 also).cmb_eq
@[simp] theorem State.raiseArg_til (f : Fld) (a1 : W) (also : List QId) : (s.raiseArg f a1 also).til = s.til :=
  (raiseArg_onlyEvents s f a1 also).til_eq
@[simp] theorem State.raiseArg_stg (f : Fld) (a1 : W) (also : List QId) : (s.raiseArg f a1 also).stg = s.stg :=
  (raiseArg_onlyEvents s f a1 also).stg_eq
@[simp] theorem State.raiseArg_flt (f : Fld) (a1 : W) (also : List QId) : (s.raiseArg f a1 also).flt = s.flt :=
  (raiseArg_onlyEvents s f a1 also).flt_eq
@[simp] theorem State.raiseArg_clk (f : Fld) (a1 : W) (also : List QId) : (s.raiseArg f a1 also).clk = s.clk :=
  (raiseArg_onlyEvents s f a1 also).clk_eq
@[simp] theorem State.raiseArg_nrg (f : Fld) (a1 : W) (also : List QId) : (s.raiseArg f a1 also).nrg = s.nrg :=
  (raiseArg_onlyEvents s f a1 also).nrg_eq
@[simp] theorem State.raiseArg_nvs (f : Fld) (a1 : W) (also : List QId) : (s.raiseArg f a1 also).nvs = s.nvs :=
  (raiseArg_onlyEvents s f a1 also).nvs_eq
@[simp] theorem State.raiseArg_fwu (f : Fld) (a1 : W) (also : List QId) : (s.raiseArg f a1 also).fwu = s.fwu :=
  (raiseArg_onlyEvents s f a1 also).fwu_eq
@[simp] theorem State.raiseArg_sb (f : Fld) (a1 : W) (also : List QId) : (s.raiseArg f a1 also).sb = s.sb :=
  (raiseArg_onlyEvents s f a1 also).sb_eq
@[simp] theorem State.raiseArg_free (f : Fld) (a1 : W) (also : List QId) : (s.raiseArg f a1 also).free = s.free :=
  (raiseArg_onlyEvents s f a1 also).free_eq
@[simp] theorem State.raiseArg_pending (f : Fld) (a1 : W) (also : List QId) : (s.raiseArg f a1 also).pending = s.pending :=
  (raiseArg_onlyEvents s f a1 also).pending_eq
@[simp] theorem State.raiseArg_ram (f : Fld) (a1 : W) (also : List QId) : (s.raiseArg f a1 also).fab.ram = s.fab.ram :=
  (raiseArg_onlyEvents s f a1 also).ram_eq
@[simp] theorem State.raiseArg_ports (f : Fld) (a1 : W) (also : List QId) : (s.raiseArg f a1 also).fab.ports = s.fab.ports :=
  (raiseArg_onlyEvents s f a1 also).ports_eq

@[simp] theorem State.record_ident (c : Nat) (a0 a1 : W) (also : List QId) : (s.record c a0 a1 also).ident = s.ident :=
  (record_onlyEvents s c a0 a1 also).ident_eq
@[simp] theorem State.record_pwr (c : Nat) (a0 a1 : W) (also : List QId) : (s.record c a0 a1 also).pwr = s.pwr :=
  (record_onlyEvents s c a0 a1 also).pwr_eq
@[simp] theorem State.record_time (c : Nat) (a0 a1 : W) (also : List QId) : (s.record c a0 a1 also).time = s.time :=
  (record_onlyEvents s c a0 a1 also).time_eq
@[simp] theorem State.record_tdc (c : Nat) (a0 a1 : W) (also : List QId) : (s.record c a0 a1 also).tdc = s.tdc :=
  (record_onlyEvents s c a0 a1 also).tdc_eq
@[simp] theorem State.record_ref (c : Nat) (a0 a1 : W) (also : List QId) : (s.record c a0 a1 also).ref = s.ref :=
  (record_onlyEvents s c a0 a1 also).ref_eq
@[simp] theorem State.record_cad (c : Nat) (a0 a1 : W) (also : List QId) : (s.record c a0 a1 also).cad = s.cad :=
  (record_onlyEvents s c a0 a1 also).cad_eq
@[simp] theorem State.record_spk (c : Nat) (a0 a1 : W) (also : List QId) : (s.record c a0 a1 also).spk = s.spk :=
  (record_onlyEvents s c a0 a1 also).spk_eq
@[simp] theorem State.record_img (c : Nat) (a0 a1 : W) (also : List QId) : (s.record c a0 a1 also).img = s.img :=
  (record_onlyEvents s c a0 a1 also).img_eq
@[simp] theorem State.record_cmb (c : Nat) (a0 a1 : W) (also : List QId) : (s.record c a0 a1 also).cmb = s.cmb :=
  (record_onlyEvents s c a0 a1 also).cmb_eq
@[simp] theorem State.record_til (c : Nat) (a0 a1 : W) (also : List QId) : (s.record c a0 a1 also).til = s.til :=
  (record_onlyEvents s c a0 a1 also).til_eq
@[simp] theorem State.record_stg (c : Nat) (a0 a1 : W) (also : List QId) : (s.record c a0 a1 also).stg = s.stg :=
  (record_onlyEvents s c a0 a1 also).stg_eq
@[simp] theorem State.record_flt (c : Nat) (a0 a1 : W) (also : List QId) : (s.record c a0 a1 also).flt = s.flt :=
  (record_onlyEvents s c a0 a1 also).flt_eq
@[simp] theorem State.record_clk (c : Nat) (a0 a1 : W) (also : List QId) : (s.record c a0 a1 also).clk = s.clk :=
  (record_onlyEvents s c a0 a1 also).clk_eq
@[simp] theorem State.record_nrg (c : Nat) (a0 a1 : W) (also : List QId) : (s.record c a0 a1 also).nrg = s.nrg :=
  (record_onlyEvents s c a0 a1 also).nrg_eq
@[simp] theorem State.record_nvs (c : Nat) (a0 a1 : W) (also : List QId) : (s.record c a0 a1 also).nvs = s.nvs :=
  (record_onlyEvents s c a0 a1 also).nvs_eq
@[simp] theorem State.record_fwu (c : Nat) (a0 a1 : W) (also : List QId) : (s.record c a0 a1 also).fwu = s.fwu :=
  (record_onlyEvents s c a0 a1 also).fwu_eq
@[simp] theorem State.record_sb (c : Nat) (a0 a1 : W) (also : List QId) : (s.record c a0 a1 also).sb = s.sb :=
  (record_onlyEvents s c a0 a1 also).sb_eq
@[simp] theorem State.record_free (c : Nat) (a0 a1 : W) (also : List QId) : (s.record c a0 a1 also).free = s.free :=
  (record_onlyEvents s c a0 a1 also).free_eq
@[simp] theorem State.record_pending (c : Nat) (a0 a1 : W) (also : List QId) : (s.record c a0 a1 also).pending = s.pending :=
  (record_onlyEvents s c a0 a1 also).pending_eq
@[simp] theorem State.record_ram (c : Nat) (a0 a1 : W) (also : List QId) : (s.record c a0 a1 also).fab.ram = s.fab.ram :=
  (record_onlyEvents s c a0 a1 also).ram_eq
@[simp] theorem State.record_ports (c : Nat) (a0 a1 : W) (also : List QId) : (s.record c a0 a1 also).fab.ports = s.fab.ports :=
  (record_onlyEvents s c a0 a1 also).ports_eq

/-! ### What an update puts there -/

@[simp] theorem State.setReg_regs (a : Nat) (v : W) : (s.setReg a v).regs = regsPut s.ident.kind s.regs a v := rfl
@[simp] theorem State.emit_out (e : Emit) : (s.emit e).out = s.out ++ [e] := rfl
@[simp] theorem State.emits_out (es : List Emit) : (s.emits es).out = s.out ++ es := rfl
@[simp] theorem State.setFab_fab (f : FabSt → FabSt) : (s.setFab f).fab = f s.fab := rfl
@[simp] theorem State.setPort_ram (p : Nat) (x : PortSt) : (s.setPort p x).fab.ram = s.fab.ram := rfl
@[simp] theorem State.port_setPort_self (p : Nat) (x : PortSt) : (s.setPort p x).port p = x := Tab.get_set_self _ _ _ _
theorem State.port_setPort_ne (p q : Nat) (x : PortSt) (h : q ≠ p) : (s.setPort p x).port q = s.port q :=
  Tab.get_set_ne _ _ _ _ _ h
@[simp] theorem State.spkVal_setVal_self (p : Nat) (v : W) : (s.setVal p v).spkVal p = v := Tab.get_set_self _ _ _ _
theorem State.spkVal_setVal_ne (p q : Nat) (v : W) (h : q ≠ p) : (s.setVal p v).spkVal q = s.spkVal q :=
  Tab.get_set_ne _ _ _ _ _ h
@[simp] theorem State.meta_setMeta_self (p : Nat) (m : SpkMeta) : (s.setMeta p m).meta p = m := Tab.get_set_self _ _ _ _
theorem State.meta_setMeta_ne (p q : Nat) (m : SpkMeta) (h : q ≠ p) : (s.setMeta p m).meta q = s.meta q :=
  Tab.get_set_ne _ _ _ _ _ h
@[simp] theorem State.ctx_setCtx_self (c : Nat) (x : Ctx) : (s.setCtx c x).ctx c = x := Tab.get_set_self _ _ _ _
theorem State.ctx_setCtx_ne (c d : Nat) (x : Ctx) (h : d ≠ c) : (s.setCtx c x).ctx d = s.ctx d :=
  Tab.get_set_ne _ _ _ _ _ h
@[simp] theorem State.die_setDie_self (d : Nat) (x : DieSt) : (s.setDie d x).die d = x := Tab.get_set_self _ _ _ _
theorem State.die_setDie_ne (d e : Nat) (x : DieSt) (h : e ≠ d) : (s.setDie d x).die e = s.die e :=
  Tab.get_set_ne _ _ _ _ _ h
@[simp] theorem State.rowMeta_setRowMeta_self (r : Nat) (m : RowMeta) : (s.setRowMeta r m).rowMeta r = m := Tab.get_set_self _ _ _ _
theorem State.rowMeta_setRowMeta_ne (r q : Nat) (m : RowMeta) (h : q ≠ r) : (s.setRowMeta r m).rowMeta q = s.rowMeta q :=
  Tab.get_set_ne _ _ _ _ _ h
@[simp] theorem State.peerJ_setPeerJ_self (n : Nat) (j : Judge) : (s.setPeerJ n j).peerJ n = j := Tab.get_set_self _ _ _ _
theorem State.peerJ_setPeerJ_ne (n m : Nat) (j : Judge) (h : m ≠ n) : (s.setPeerJ n j).peerJ m = s.peerJ m :=
  Tab.get_set_ne _ _ _ _ _ h
@[simp] theorem State.core_setCore_self (c : Nat) (x : CoreSt) : (s.setCore c x).core c = x := Tab.get_set_self _ _ _ _
theorem State.core_setCore_ne (c d : Nat) (x : CoreSt) (h : d ≠ c) : (s.setCore c x).core d = s.core d :=
  Tab.get_set_ne _ _ _ _ _ h
@[simp] theorem State.sbLink_setLink_self (d : Nat) (l : SbLink) : (s.setLink d l).sbLink d = l := Tab.get_set_self _ _ _ _
theorem State.sbLink_setLink_ne (d e : Nat) (l : SbLink) (h : e ≠ d) : (s.setLink d l).sbLink e = s.sbLink e :=
  Tab.get_set_ne _ _ _ _ _ h
@[simp] theorem State.judged_setJudged_self (dno sub : Nat) (j : SigJudge) : (s.setJudged dno sub j).judged dno sub = j :=
  Tab.get_set_self _ _ _ _
@[simp] theorem State.setJudged_ram (dno sub : Nat) (j : SigJudge) : (s.setJudged dno sub j).fab.ram = s.fab.ram := rfl
@[simp] theorem State.steerTo_htx (y : Int) : (s.steerTo y).time.htx = s.time.htx := rfl
@[simp] theorem State.steerTo_now (y : Int) : (s.steerTo y).time.now = s.time.now := rfl
@[simp] theorem State.steerTo_yTo (y : Int) : (s.steerTo y).time.yTo = clampTo ppm100 y := rfl

/-- Main memory keeps its canonical form when a flit is stored. -/
theorem State.putMemFlit_ram_wf (i : Nat) (l : List Byte) (h : Memory.wf s.fab.ram = true) :
    Memory.wf (s.putMemFlit i l).fab.ram = true := Memory.wf_writeBytes _ _ _ h

end Sys2Proof.Machine
end

