-- ==== Sys2Proof/Tests/Slice0.lean ====
section
/-! SUPPORT. Sys2Proof/Tests/Slice0.lean: ill-formed commands that the check refuses, worked examples of the manual, and for
each statement states and operands that meet its hypotheses, one witness for each clause. -/

namespace Sys2Proof.Machine


set_option maxRecDepth 8000

/-! ### Small states -/

/-- A DOME right after reset, one without main supplies, and one without supply. -/
def wVd : State := State.reset
def wAon : State := { wVd with pwr := { power := .aon, modEn := false, modPg := false } }
def wOff : State := { wVd with pwr := { power := .off, modPg := false } }
/-- A DOME whose lantern runs, a SPIRE, a root spire with LEADER_INIT, and a VSU. -/
def wLan : State := { wVd with evq := { cores := [(0, ⟨false, false, 0, false, 0⟩), (1, ⟨false, false, 0, false, 0⟩),
  (2, ⟨false, false, 0, false, 0⟩), (3, ⟨false, false, 0, false, 0⟩)] } }
def wSpire : State := { wVd with ident := { role := .spire } }
def wRoot : State := { wSpire with nvs := { words := shippedWords.set 3 0xEC3 } }
def wVsu : State := { ident := { kind := .vsu } }
/-- Elapsed time and hall time, in ns. -/
def State.atNow (s : State) (ns : Nat) : State := { s with time := { s.time with now := ns * 2 ^ 48 } }
def State.atNs (s : State) (ns : Nat) : State :=
  { s with time := { s.time with htx := BitVec.ofNat 112 (ns * 2 ^ 48), now := ns * 2 ^ 48 } }
def State.servoAt (s : State) (v : Servo) : State := { s with time := { s.time with servo := v } }
/-- A port that is UP, with calibrated lanes. -/
def State.upPort (s : State) (p : Nat) : State :=
  { s.setPort p { st := .up, credits := [32, 64, 128, 256], level := 3 } with
    tdc := { s.tdc with delays := ((((s.tdc.delays.set (4 * p) { state := 1, commitAt := some 0 }).set (4 * p + 1)
      { state := 1, commitAt := some 0 }).set (4 * p + 2) { state := 1, commitAt := some 0 }).set (4 * p + 3)
      { state := 1, commitAt := some 0 }) } }

/-! ### The block and hall time -/

def wLoad : State := { wRoot with time := { wRoot.time with loadAt := some 0 } }
def wDepth : State := { wVd with time := { wVd.time with depthPend := some (10, 0) } }
def wAcq : State := { (wSpire.upPort 40).servoAt .acquire with
  ref := { wSpire.ref with sel := ⟨some 40, none⟩ },
  nvs := { words := shippedWords.set 18 (BitVec.allOnes 64) } }
def wAcq4096 : State := { wAcq with time := { wAcq.time with run50 := 4096 } }
/-- A LOCKED spire whose domain A comes in at port 40. -/
def wLocked : State := { wAcq.servoAt .locked with
  ref := { wAcq.ref with
    pt := ⟨[(40, { valid := true, ql := 2, hop := 1, upDno := 7, errs := List.replicate 64 3, fresh := some (some 5), heard := true })], []⟩ },
  evq := wLan.evq }
def wLost : State := { wAcq.servoAt .locked with
  time := { (wAcq.servoAt .locked).time with discard := ⟨16, 0⟩ } }

/-- A read of `p` as an aligned one of 8 bytes, and one of 4 bytes. -/
def rd (p : Path) : ReadVia := ⟨p, 8, 0⟩
def rd4 (p : Path) : ReadVia := ⟨p, 4, 0⟩
/-- The endpoint in reset. -/
def wPerst : State := { wVd with pwr := { wVd.pwr with perstN := false } }

theorem witness_ReadsAreCarriedOrFail :
    wVd.Carries (rd .bar0) ∧ wVd.Carries (rd .belfry) ∧ wVd.Carries (rd .lantern) ∧ wVsu.Carries (rd .port) ∧
    wVsu.Carries (rd .sideband) ∧ (wVd.pathUp .bar0 = true ∧ wholeRead (rd4 .bar0) = false) ∧
    (wPerst.pathUp .bar0 = false ∧ wVd.pathUp .port = false) := by
  unfold State.Carries
  decide

theorem witness_StepRunsFrontCommand : ({ wVd with pending := [.voteInstant] } : State).pending = .voteInstant :: [] := rfl

theorem witness_TimeClockEdgeAddsStretchedCycle :
    wVd.pending = [] ∧ wVd.belfryOn = true ∧ wVd.time.servo ≠ .coarse ∧ wVd.til.run = none ∧ wVd.pwr.mainAt = none ∧
    wVd.pwr.modEnAt = none ∧ wVd.pwr.perstAt = none ∧ (wVd.servoAt .coarse).pwr.modEnAt = none ∧
    (wVd.servoAt .coarse).pending = [] ∧ (wVd.servoAt .coarse).belfryOn = true ∧
    (wVd.servoAt .coarse).time.servo = .coarse ∧ wOff.pending = [] ∧ wOff.belfryOn = false := by decide

theorem witness_HallTimeIsReadAndLoaded :
    (wVd.reach .bar0 (htNsAddr .bar0) = true ∧ wAon.pathUp .bar0 = true ∧ wAon.reach .bar0 (htNsAddr .bar0) = false ∧ wVsu.isVd = false) ∧
    (wRoot.isVd = true ∧ wRoot.present Reg.HT_LOAD_CTRL = true ∧ wRoot.isRoot = true ∧ wRoot.cad.firedAny = false) ∧
    (wVd.isVd = true ∧ wVd.present Reg.HT_LOAD_CTRL = true ∧ wVd.isRoot = false) ∧
    (wLoad.time.loadAt = some 0 ∧ 0 = wLoad.fld Fld.HT_LOAD_CTRL_REF_SEL ∧ wLoad.time.now - 0 < 2000 * msX ∧
      wLoad.cad.firedAny = false ∧ wLoad.isRoot = true ∧ ({ wLoad with nvs := {} } : State).isRoot = false) ∧
    ((wLoad.atNow 2000000000).time.loadAt = some 0 ∧ (wLoad.atNow 2000000000).time.now - 0 ≥ 2000 * msX) := by decide

theorem witness_SpreadDepthChangesAtProfileStart :
    (wVd.present Reg.HT_CTRL = true ∧ (10 : W).toNat % 16 ≤ 10 ∧ (11 : W).toNat % 16 > 10) ∧
    ((wDepth.atNow 64000).cad.st ≠ .running ∧ (wDepth.atNow 64000).time.depthPend = some (10, 0) ∧
      (wDepth.atNow 64000).time.now - 0 ≥ 64 * usX) ∧
    (wVd.profileDue = true ∧ wVd.time.servo = .freerun) ∧
    ((wVd.servoAt .locked).profileDue = true ∧ (wVd.servoAt .locked).time.servo = .locked) := by decide

theorem witness_ServoLocksBridgesAndLosesInputs :
    (wAcq4096.time.servo = .acquire ∧ wAcq4096.time.run50 ≥ 4096 ∧ wAcq4096.inputsCalibrated = true ∧
      wAcq4096.isRoot = false) ∧
    (((wVd.servoAt .bridge).atNow 1000000).time.servo = .bridge ∧
      ((wVd.servoAt .bridge).atNow 1000000).time.now - ((wVd.servoAt .bridge).atNow 1000000).time.bridgeAt ≥ msX) ∧
    (wLost.time.discard.get wLost.ref.active ≥ 16 ∧ wLost.ref.sel.get wLost.ref.active = some 40 ∧ wLost.isRoot = false ∧
      wLost.time.servo = .locked ∧ wLost.ref.sel.get wLost.ref.active.other = none) := by decide

theorem witness_ServoLosesInputs_noOther (q : Nat) : wLost.candidate wLost.ref.active q = false := by
  have h : wLost.portTime wLost.ref.active q = {} := rfl
  simp [State.candidate, h]

theorem witness_DpllHeartbeatDrivesActiveDomain :
    (wLocked.awake = true ∧ wLocked.isRoot = false ∧ wLocked.coreHeld 1 = false ∧ wLocked.time.servo = .locked ∧
      wLocked.ref.active = .A ∧ wLocked.ref.sel.get .A = some 40 ∧ (wLocked.portTime .A 40).heard = true ∧ wLocked.candidate .A 40 = true ∧
      wLocked.flag Fld.REF_CTRL_FORCE_EN = false ∧ wLocked.tdc.shadow = [] ∧
      wLocked.fld Fld.REF_BW_FINAL ≤ wLocked.ref.bwCur ∧ min (wLocked.fld Fld.REF_BW_ROOT_FINAL) 3 ≤ wLocked.ref.bwRoot) ∧
    (wLocked.portTime .A 40).fresh = some (some 5) ∧
    (∃ s, s = { wLocked with ref := { wLocked.ref with pt := ⟨[(40, { wLocked.portTime .A 40 with fresh := some none })], []⟩ } } ∧
      (s.portTime .A 40).fresh = some none ∧ (s.portTime .A 40).heard = true ∧ s.candidate .A 40 = true) :=
  ⟨by decide, by decide, _, rfl, by decide⟩

/-! ### Vernier stamps and link delay -/

def State.tdcWith (s : State) (f : TdcSt → TdcSt) : State := { s with tdc := f s.tdc }
def wAnchor : State := (wVd.upPort 40).tdcWith fun t => { t with anchors := [⟨0, 0, 0, 0, 0⟩] }
def wTray : State := { wAnchor with regs := [(Reg.TDC_PORT_CFG + 8 * 40, 5)] }
def wSwap (n : Nat) : State := (wVd.upPort 40).tdcWith fun t => { t with
  swap := { port := 40, step := n, cntN := 4096, cntS := 4096, sumN := 9000, sumS := 100 } }
def wRsp : State := (wAnchor.tdcWith fun t => { t with rspDue := [⟨40, 2, 2, 9, 7, 0, 0⟩] }).atNs 700
def wTrip : State := wAnchor.tdcWith fun t => { t with trips := [{ port := 40, reqLane := 2, seq := 9, t1 := 5, resid := some 3, rspLane := 2 }] }
def wLost2 : State := wAnchor.tdcWith fun t => { t with coarse := 65536, trips := [{ port := 40, reqLane := 2, seq := 9, t1 := 5, rspLane := 2, waitFrom := some 0 }] }
def wDrop : State := wAnchor.tdcWith fun t => { t with trips := [{ port := 40, reqLane := 2, seq := 9, t1 := 5, rspLane := 2, hbs := 16 }] }
/-- A full batch on lane 2 of port 40 with the peer's mean, 16 ps apart or more. -/
def wBatch (st : Nat) (peer : Int) : State := wTray.tdcWith fun t => { t with
  delays := [(162, { state := st, batch := 256, sum := 256 * 70000 })], peerMean := [(162, peer)] }

theorem witness_StampsJoinFifoAndTimeoutsShow :
    (wVd.kindOk 255 2 = true ∧ wVd.armedCh 255 = true ∧ wVd.tdc.deadTill.get 255 0 ≤ wVd.time.now ∧ 255 ≠ 324 ∧
      wVd.tdc.fifo.length < 4096) ∧
    (wVd.kindOk 255 3 = false ∧ wVd.kindOk 320 3 = true ∧ wVd.armedCh 320 = false) ∧
    (∃ s, s = (wVd.tdcWith fun t => { t with deadTill := [(255, 1)] }) ∧ s.kindOk 255 0 = true ∧ s.armedCh 255 = true ∧
      s.time.now < s.tdc.deadTill.get 255 0) ∧
    (∃ s, s = (wVd.tdcWith fun t => { t with cdRun := some 1 }) ∧ s.kindOk 324 3 = true ∧ s.armedCh 324 = true ∧
      s.tdc.deadTill.get 324 0 ≤ s.time.now ∧ s.tdc.cdRun = some (0 + 1)) ∧
    (∃ s, s = (wVd.tdcWith fun t => { t with waitFrom := [(320, 0)], coarse := 65536 }) ∧ refChannel 320 = true ∧
      s.tdc.waitFrom.has 320 = true ∧ s.tdc.coarse - s.tdc.waitFrom.get 320 0 ≥ 2 ^ s.fld Fld.TDC_CTRL_TIMEOUT_EXP ∧
      s.tdc.fifo.length < 4096) ∧
    (refChannel 162 = false ∧ wLost2.tdc.fifo.length < 4096 ∧
      wLost2.lostTrip 162 = some { port := 40, reqLane := 2, seq := 9, t1 := 5, rspLane := 2, waitFrom := some 0 }) ∧
    (∃ s, s = (wVd.tdcWith fun t => { t with ringLock := true }) ∧ s.tdc.ringLock = true) :=
  ⟨by decide, by decide, ⟨_, rfl, by decide⟩, ⟨_, rfl, by decide⟩, ⟨_, rfl, by decide⟩, by decide, ⟨_, rfl, rfl⟩⟩

theorem witness_StampFindsFifoFull : ∃ s : State, s = (wVd.tdcWith fun t => { t with fifo := List.replicate 4096 0 }) ∧
    s.kindOk 0 0 = true ∧ s.armedCh 0 = true ∧ s.tdc.deadTill.get 0 0 ≤ s.time.now ∧ s.tdc.fifo.length ≥ 4096 :=
  ⟨_, rfl, by decide, by decide, by decide, Nat.le_of_eq List.length_replicate.symm⟩

theorem witness_FifoPopsAndCalibrationRuns :
    (wVd.reach .bar0 Reg.TDC_FIFO = true ∧ wVd.reach .belfry Reg.TDC_FIFO = false) ∧
    (wVd.reach .bar0 (Reg.TDC_ANCHOR_CNT + 8 * 3) = true ∧ wVd.reach .belfry (Reg.TDC_ANCHOR_CNT + 8 * 3) = false ∧ 3 < 4) ∧
    (wVd.present Reg.TDC_CAL_CTRL = true ∧ (32 : W).getLsbD 6 = false) ∧
    (wVd.tdcWith fun t => { t with cdRun := some 0 }).tdc.cdRun = some 0 ∧
    (wVd.tdc.lbLane = none ∧ (0xFF0000 : W).getLsbD 0 = false ∧ (0xFF0000 : W).toNat / 65536 % 256 < wVd.nLanes) ∧
    (∃ s, s = (wVd.tdcWith fun t => { t with lbLane := some 255 }) ∧ s.tdc.lbLane = some 255 ∧ s.tdc.lbLeft = 0 ∧
      s.tdc.lbTxLeft = 0) :=
  ⟨by decide, by decide, by decide, rfl, by decide, ⟨_, rfl, rfl, rfl, rfl⟩⟩

theorem witness_RoundTripsCommitAsBatches :
    ((wTray.atNs 700).reqDue 40 3 = true ∧ ∃ t0, (wTray.atNs 700).stampHtFine 1000 = some t0) ∧
    (wAnchor.rtLane 40 3 = true ∧ wAnchor.stamps (laneOf 40 3) = true ∧ ∃ t0, wAnchor.stampHtFine 1000 = some t0) ∧
    (wRsp.tdc.rspDue = [⟨40, 2, 2, 9, 7, 0, 0⟩] ∧ wRsp.rtLane 40 2 = true ∧ wRsp.dlDue 40 = true ∧
      wRsp.stamps (txChannel 40) = true ∧ wRsp.time.now - 0 ≥ 128 * nsX ∧ ∃ t0, wRsp.stampHtFine 1000 = some t0) ∧
    (wTrip.rtLane 40 2 = true ∧ wTrip.stamps (laneOf 40 2) = true ∧
      (∃ x, wTrip.tdc.trips = [x] ∧ x.port = 40 ∧ x.t4 = none ∧ x.resid = some 3) ∧
      (∃ t0, wTrip.stampHtFine 1000 = some t0) ∧ (wTrip.delayEnt (laneOf 40 2)).batch < 256) ∧
    (∃ x ∈ wDrop.tdc.trips, x.port = 40 ∧ x.rspLane = 2 ∧ x.waitFrom = none ∧ x.resid = none ∧ x.hbs ≥ 16) :=
  ⟨⟨by decide, _, rfl⟩, ⟨by decide, by decide, _, rfl⟩,
   ⟨rfl, by decide, by decide, by decide, by decide, _, rfl⟩,
   ⟨by decide, by decide, ⟨_, rfl, rfl, rfl, rfl⟩, ⟨_, rfl⟩, by decide⟩, by decide⟩

theorem witness_BatchesCommit :
    (40 < (wBatch 1 0).nPorts ∧ ((wBatch 1 0).delayEnt (laneOf 40 2)).batch = 256 ∧
      (wBatch 1 0).tdc.peerMean.has (laneOf 40 2) = true ∧ (wBatch 1 0).rtKnown 40 2 = true ∧ wTray.asymSrc 40 ≠ 2) ∧
    (((wBatch 1 68951).delayEnt (laneOf 40 2)).batch = 256 ∧ (wBatch 1 68951).tdc.peerMean.has (laneOf 40 2) = true) ∧
    (((wBatch 0 71048).delayEnt (laneOf 40 2)).batch = 256 ∧ ((wBatch 0 71048).delayEnt (laneOf 40 2)).state = 0) ∧
    ((70000 - 68951 : Int).natAbs > 1048 ∧ (70000 - 71048 : Int).natAbs ≤ 1048) ∧
    ((wAnchor.atNow 10001000000).delayEnt 163).commitAt = some 0 ∧ ((wAnchor.atNow 10001000000).delayEnt 163).state = 1 ∧
    ((wAnchor.atNow 10001000000).time.now - 0) / msX > 10000 := by decide

theorem witness_LaneSwapMeasuresAsymmetry :
    (∀ n, (wSwap n).tdc.swap.port < 64) ∧
    (wVd.present Reg.TDC_SWAP_CTRL = true ∧ wVd.tdc.swap.step = 0 ∧ (63 : W).toNat % 64 < wVd.nPorts) ∧
    ((wSwap 1).tdc.swap.step = 1 ∧ (wSwap 2).tdc.swap.step = 2 ∧ (wSwap 2).tdc.swap.cntN ≥ 4096 ∧ (wSwap 3).tdc.swap.step = 3 ∧
      (wSwap 4).tdc.swap.step = 4 ∧ (wSwap 4).tdc.swap.cntS ≥ 4096 ∧ (wSwap 5).tdc.swap.step = 5) ∧
    (1 ≤ (wSwap 5).tdc.swap.step ∧
      ((wSwap 5).atNow 200000001).time.now - ((wSwap 5).atNow 200000001).tdc.swap.startAt > 200 * msX) :=
  ⟨fun _ => show (40 : Nat) < 64 by decide, by decide⟩

/-! ### References, tandem domains and holdover -/

/-- A phase set with nothing in its tables, and a unit that runs it. -/
def wSet : PhaseSet := {
  phase := 0, imageId := 1, compSpk := 0, compInc := 1, eWork := 40, eFw := 10,
  desc := ⟨100000, 1000, 255, 4, 0, 0, 0, false, []⟩,
  outs := [], sigs := [], cmbs := [], tils := [], keeps := [] }
def State.runAt (s : State) (sc : W) : State :=
  { s with cad := { s.cad with st := .running, sc := sc, wsc := sc }, img := { s.img with live := some wSet } }

def State.refWith (s : State) (f : RefSt → RefSt) : State := { s with ref := f s.ref }
/-- What a port says of a domain that has been heard for 64 heartbeats. -/
def pSaid (q : Nat) (e : Int) : PortTime :=
  { valid := true, ql := q, hop := 1, upDno := 7, errs := List.replicate 64 e, fresh := some (some e), heard := true }
/-- A spire that follows domain A on port 40 at QL 9, with a better input 41 and a better domain B. -/
def wWtr (x : WtrSel) : State := ((({ wSpire with nvs := { words := shippedWords.set 18 (BitVec.allOnes 64) } }.upPort 40).upPort 41).servoAt .locked |>.atNow 5000000000).refWith fun r => { r with
  sel := ⟨some 40, some 41⟩, wtr := [⟨x, 0⟩], pt := ⟨[(40, pSaid 9 3), (41, pSaid 2 5)], [(41, pSaid 2 5)]⟩ }
/-- A root with its first external input enabled. -/
def wRefRoot : State := { wRoot with
  nvs := { words := (shippedWords.set 3 0xEC3).set 24 1 }, regs := [(Reg.TDC_REF_CFG, 0x232), (Reg.TDC_REF_CFG + 8, 0x232)],
  tdc := { wRoot.tdc with anchors := [⟨0, 0, 0, 0, 0⟩] } }
def wBadEdge : State := wRefRoot.refWith fun r => { r with refs := [(0, { state := 2, run := 3, lastHt := some 0 })] }
/-- A root whose first input is selected and whose second, of a better QL, is qualified. -/
def wTwoRefs : State := { (wRefRoot.servoAt .acquire |>.atNow 5000000000).refWith (fun r => { r with
    selRef := some 0, refs := [(0, { state := 2 }), (1, { state := 2 })], wtr := [⟨.ref 1, 0⟩] }) with
  nvs := { words := ((shippedWords.set 3 0xEC3).set 24 0x91).set 25 0x1 } }
def wRefLoss : State := ((wBadEdge.servoAt .locked).atNs 3500000000).refWith fun r => { r with selRef := some 0, leader := true }
def wYield : State := ((wRefRoot.servoAt .locked).atNow 5000000000).refWith fun r => { r with
  leader := true, worseAt := some 0, sel := ⟨none, some 40⟩, pt := ⟨[], [(40, { sbql := 2 })]⟩ }
def wSplit : State := (wRefRoot.servoAt .locked).refWith fun r => { r with sel := ⟨none, some 40⟩, split := true, splitRun := 1024 }
def wRootAcq : State := { (wRefRoot.servoAt .acquire).refWith (fun r => { r with selRef := some 0 }) with
  time := { (wRefRoot.servoAt .acquire).time with run50 := 4096 } }
def wPtp : State := { wRoot with
  regs := [(Reg.REF_PTP_CFG, BitVec.ofNat 64 (2 ^ Fld.REF_PTP_CFG_EN.lo))],
  ref := { wRoot.ref with ptp := { master := some 7, twoStep := some (5, 0), reqSeq := 5, t1 := some 1000, t3 := some 9000, syncs := 16, samples := List.replicate 16 77 } } }
def wPulse (ns : Nat) : State := (wVd.atNs ns).refWith fun r => { r with
  pulsesOn := true, pps := { en := true, last := some 0 }, clk10 := { en := true, last := some 0 }, mark0 := { en := true },
  mark1 := { en := true } }
def wMark : State := (wPulse 100000).runAt 0
def wRealign : State := (wPulse 2000000000).refWith fun r => { r with
  realign := some ⟨1000000000 * 65536, true, false, true, false, 5, true, false, true, false, 1, 2, false⟩ }

theorem witness_CandidatesAreSelectedAndNarrowed :
    ((wWtr (.input .A 41)).isRoot = false ∧ (wWtr (.input .A 41)).wtrDue (.input .A 41) = true ∧
      (∀ w, w ∈ (wWtr (.input .A 41)).ref.wtr → (wWtr (.input .A 41)).wtrDue w.sel = true →
        (wWtr (.input .A 41)).wtrBeats w.sel (.input .A 41) = false) ∧
      (wWtr (.input .A 41)).ref.sel.get .A = some 40 ∧ (wWtr (.input .A 41)).ref.split = false) ∧
    ((wWtr (.domain .B)).isRoot = false ∧ (wWtr (.domain .B)).wtrDue (.domain .B) = true) ∧
    (wTwoRefs.isRoot = true ∧ wTwoRefs.wtrDue (.ref 1) = true ∧
      (∀ w, w ∈ wTwoRefs.ref.wtr → wTwoRefs.wtrDue w.sel = true → wTwoRefs.wtrBeats w.sel (.ref 1) = false)) ∧
    (∃ s, s = (wLocked.refWith fun r => { r with bwCur := 6, bwRun := 9766 }) ∧ s.ref.bwCur > s.fld Fld.REF_BW_FINAL ∧
      s.ref.bwRun ≥ narrowBeats s.ref.bwCur ∧ s.time.servo = .locked ∧ (s.servoAt .holdover).time.servo = .holdover ∧
      (s.servoAt .bridge).time.servo = .bridge) ∧
    (∃ s, s = (wLocked.refWith fun r => { r with bwCur := 0 }) ∧ s.ref.bwCur ≤ s.fld Fld.REF_BW_FINAL) ∧
    (∃ s, s = (wRoot.refWith fun r => { r with bwRoot := 3, bwRootRun := 10000000000 }) ∧ s.isRoot = true ∧
      s.ref.bwRoot > s.fld Fld.REF_BW_ROOT_FINAL ∧ s.ref.bwRootRun ≥ rootNarrowNs s.ref.bwRoot) :=
  ⟨by decide, by decide, by decide, ⟨_, rfl, by decide⟩, ⟨_, rfl, by decide⟩, ⟨_, rfl, by decide⟩⟩

theorem witness_ReferencesQualifyAndRootsFollow :
    (wRefRoot.refUse 0 = true ∧ wRefRoot.stamps (320 + 0) = true ∧ wRefRoot.refUse 2 = false ∧ wRefRoot.stampHt 512 = some 65536 ∧ wRefRoot.ref.refs = [] ∧ wRefRoot.ref.selRef = none ∧
      wRefRoot.time.servo = .freerun) ∧
    (wBadEdge.refUse 0 = true ∧ wBadEdge.stamps (320 + 0) = true ∧ wBadEdge.stampHt 512000000 = some 65536000000 ∧
      wBadEdge.ref.refs = [(0, { state := 2, run := 3, lastHt := some 0 })] ∧ wBadEdge.ref.rootOff = 0 ∧
      (edgeErr (wBadEdge.refP 0) (edgeErr (wBadEdge.refP 0) (65536000000 - wBadEdge.refDelay 0) - 0)).natAbs > 6553600) ∧
    (wRefLoss.refUse 0 = true ∧ (refIn wRefLoss 0).state = 2 ∧ (refIn wRefLoss 0).lastHt = some 0 ∧ wRefLoss.ref.selRef = some 0 ∧
      wRefLoss.isRoot = true ∧ wRefLoss.time.servo = .locked ∧ wRefLoss.ref.leader = true ∧
      (wRefLoss.ht : Int) - wRefLoss.refDelay 0 ≥
        (Fl.rneDivInt (0 - wRefLoss.refDelay 0) (wRefLoss.refP 0) + 3) * wRefLoss.refP 0 + (wRefLoss.refP 0 : Int) / 2) ∧
    (wYield.ref.worseAt = some 0 ∧ wYield.clearlyWorse = true ∧ wYield.time.now - 0 ≥ wYield.wtrTime) ∧
    (wSplit.ref.split = true ∧ wSplit.following = true ∧ wSplit.ref.splitRun ≥ 1024) ∧
    (((wRoot.atNow (240 * 60000000000)).refWith fun r => { r with lockAt := some 0 }).isRoot = true ∧
      ((wRoot.atNow (240 * 60000000000)).refWith fun r => { r with lockAt := some 0 }).lockMinutes ≥ 240) ∧
    (wRootAcq.isRoot = true ∧ wRootAcq.time.servo = .acquire ∧ wRootAcq.time.run50 ≥ 4096 ∧
      (wRootAcq.preg Reg.REF_ROOT_CFG).getLsbD 1 = true ∧ wRootAcq.ref.leader = false ∧ wRootAcq.ref.selRef ≠ none) := by
  decide

theorem witness_ReferencesLost_noOther (m : Nat) (h : m ≠ 0) : wRefLoss.refQualified m = false := by
  have h1 : wRefLoss.refIn m = if 0 = m then { state := 2, run := 3, lastHt := some 0 } else {} := rfl
  simp [State.refQualified, h1, Ne.symm h]

theorem witness_PtpMedianReachesUtcOffset :
    (wPtp.isRoot = true ∧ wPtp.flag Fld.REF_PTP_CFG_EN = true ∧ 0 = wPtp.fld Fld.REF_PTP_CFG_DOMAIN_NUM ∧
      false = wPtp.flag Fld.REF_PTP_CFG_TRANSPORT ∧ wPtp.ref.ptp.master = some 7 ∧ wPtp.ref.ptp.twoStep = some (5, 0) ∧
      wPtp.ref.ptp.t1 = some 1000 ∧ wPtp.ref.ptp.t3 = some 9000 ∧ wPtp.ref.ptp.reqSeq = 5) ∧
    (wPtp.ref.ptp.foreign = [] ∧ (∃ s x, s = (wPtp.refWith fun r => { r with ptp := { r.ptp with
        foreign := [⟨7, ⟨128, 6, 0x21, 0, 128, 7, 0, 0, 37⟩, 0, none⟩] } }) ∧ s.ref.ptp.foreign = [x] ∧ x.src = 7 ∧
      s.time.now ≤ x.heardAt + announceWindow x.data ∧ x.data.steps < 255)) ∧
    (1 ≠ wPtp.fld Fld.REF_PTP_CFG_DOMAIN_NUM ∧ true ≠ wPtp.flag Fld.REF_PTP_CFG_TRANSPORT) ∧
    (wPtp.ref.ptp.syncs ≥ 16 ∧ wPtp.ref.ptp.samples.length ≥ 16) :=
  ⟨by decide, ⟨rfl, _, _, rfl, rfl, by decide⟩, by decide, by decide⟩

theorem witness_OutputsRealignAndPulse :
    (wVd.present Reg.REF_REALIGN = true ∧ wVd.ref.realign = none) ∧
    (∃ r, wRealign.ref.realign = some r ∧ wRealign.ht ≥ r.s) ∧
    ((wPulse 1000000000).isVd = true ∧ (wPulse 1000000000).ref.pulsesOn = true ∧ (wPulse 1000000000).ref.pps.en = true ∧
      (wPulse 1000000000).ref.realign = none ∧
      gridAtOrBefore secF (wPulse 1000000000).ref.pps.phase (wPulse 1000000000).ht = some (1000000000 * 65536) ∧
      (wPulse 1000000000).ref.pps.last = some 0) ∧
    (gridAtOrBefore secF (wPulse 999999999).ref.pps.phase (wPulse 999999999).ht = some 0 ∧
      (wPulse 999999999).ref.pps.last = some 0) ∧
    ((wPulse 100).ref.clk10.en = true ∧ 0 % tenMhz = (wPulse 100).ref.clk10.phase % tenMhz ∧ 0 + tenMhz ≤ (wPulse 100).ht) ∧
    (wMark.markDue wMark.ref.mark0 false false 0 0 = some 1 ∧ wMark.markDue wMark.ref.mark1 false false 0 0 = some 1) :=
  ⟨by decide, ⟨_, rfl, by decide⟩, by decide, by decide, by decide, by decide⟩

/-! ### Steps, phases and launch by time -/

def State.cadWith (s : State) (f : CadSt → CadSt) : State := { s with cad := f s.cad }
/-- A LOCKED unit at boundary 6 of steps of 100 µs, with the outcome of its cutoff. -/
def wDue (o : CutOutcome) : State := { ((((wLan.servoAt .locked).runAt 5).atNs 600000).cadWith fun c => { c with
  k := 1, cuts := [⟨6, o, true⟩], grant := 6 }) with flt := { wVd.flt with examined := some 6 } }
def wDec (k : DecKind) (seq : Nat) (m : W) : Decision := ⟨seq, 0, k, m, 0, 0, 0, 0, 0⟩
/-- 256 ns before boundary 6, holding decisions. -/
def wCut (ds : List Decision) (g : W) : State := (((wLan.servoAt .locked).runAt 5).atNs 599744).cadWith fun c => { c with
  decs := ds, grant := g }
/-- The issuer at the vote instant of boundary 1. -/
def wIssuer (s : State) : State := s.cadWith fun c => { c with root := { c.root with issuer := true } }
def wVote : State := ((wIssuer { wRoot with evq := wLan.evq }).runAt 0).atNs 91136
def wRx : State := ((wLan.runAt 5).upPort 0).upPort 1
/-- A root that has heard the other for 64 heartbeats, with its ISSUE_INIT. -/
def wInit (o : Bool) : State := wRoot.cadWith fun c => { c with root := { c.root with lockedHbs := 64, otherInit := some o } }
def wRootIdle : State := wIssuer wRoot
def wArmReady : State := { wLan.runAt 5 with
  img := { live := some wSet, next := some wSet, nxState := .loaded }, time := { wLan.time with cls := 1 } }

theorem witness_RatioSpreadsFreewheelBoundariesEvenly : 63 ≤ 63 ∧
    ((List.range 64).filter fun i => freewheel (7 + BitVec.ofNat 64 i) 63).length = 63 := by decide

theorem witness_BoundariesCountOrHold :
    ((wDue .fire).awake = true ∧ (wDue .fire).cad.st = .running ∧ 6 = (wDue .fire).cad.sc + 1 ∧
      ((wDue .fire).boundaryNs 6).toNat ≤ (wDue .fire).htNs.toNat ∧ (wDue .fire).cutFor 6 = some .fire ∧
      (wDue .fire).flt.examined = some 6 ∧ (wDue .fire).localHold 6 = none ∧ (wDue .fire).held .phase 6 = none ∧
      (wDue .fire).held .ratio 6 = none) ∧
    ((wDue (.hold 2)).cutFor 6 = some (.hold 2) ∧ (wDue .stop).cutFor 6 = some .stop ∧
      ((wDue .fire).cadWith fun c => { c with quiesce := true }).localHold 6 = some 5) := by decide

theorem witness_CutoffsDecideAndVotesGrant :
    ((wCut [wDec .stop 1 6] 6).nextBoundary = some (6, 600000) ∧ (600000 : W).toNat ≤ (wCut [] 6).htNs.toNat + 256 ∧
      (wCut [] 6).cutTaken 6 = false ∧ ((wCut [wDec .stop 1 6] 6).held .stop 6).isSome = true) ∧
    ((wCut [] 6).held .stop 6 = none ∧ ((wCut [] 6).cadWith fun c => { c with conflicts := [6] }).cad.conflicts.contains 6 = true) ∧
    ((wCut [wDec .hold 1 6] 6).cad.conflicts.contains 6 = false ∧ ((wCut [wDec .hold 1 6] 6).held .hold 6).isSome = true) ∧
    ((wCut [] 5).held .hold 6 = none ∧ (wCut [] 5).cad.grant.toNat < (6 : W).toNat) ∧
    ((wCut [] 6).cad.conflicts.contains 6 = false ∧ (6 : W).toNat ≤ (wCut [] 6).cad.grant.toNat ∧
      (wCut [] 6).behindSeq = false ∧ (wCut [] 6).phaseMismatch 6 = false) ∧
    ((wRx.nextBoundary = some (6, 600000) ∧ wRx.htNs.toNat + 256 < (600000 : W).toNat) ∧
      (wDue .stop).nextBoundary = some (6, 600000) ∧ CutOutcome.stop ≠ .fire ∧
      (600000 : W).toNat ≤ (wDue .stop).htNs.toNat + 256) ∧
    (∃ p, wVote.projDecided = some p ∧ 1 = p.sc + 1 ∧ wVote.voteNow (p.ns 1) = true ∧
      wVote.voteNow 0 = false ∧ wVote.tooSlow (if freewheel 1 p.k then p.wsc else p.wsc + 1) p.desc.holdDist = false ∧ p.desc.nSteps = 0) ∧
    (wVote.isRoot = true ∧ wVote.awake = true ∧ wVote.coreHeld 2 = false ∧ (wIssuer wRoot).coreHeld 2 = true ∧ wVote.cad.root.issuer = true ∧ wVote.cad.root.noGrant = false ∧
      wVote.cad.root.stopCmd = false ∧ wVote.cad.root.ratioDue = none ∧ wVote.cad.root.holdCmd = false ∧
      wVote.cad.root.endCmd = false) :=
  ⟨by decide, by decide, by decide, by decide, by decide, by decide, ⟨_, rfl, by decide⟩, by decide⟩

/-- The issuer at the vote instant of boundary 1 with a phase of one step, the successor's number, and its commands. -/
def wVoteP (succ : Nat) (f : RootSt → RootSt) : State := (wVote.cadWith fun c => { c with root := f c.root }) |> fun s =>
  { s with img := { s.img with live := some { wSet with desc := { wSet.desc with nSteps := 1, successor := succ } } } }
/-- The issuer with a START that the agent has commanded, at its vote instant. -/
def wVoteStart (resume : Bool) : State := ((wIssuer { wRoot with evq := wLan.evq }).atNs 91136).cadWith fun c => { c with
  st := if resume then .held else .idle, root := { c.root with cmd := some ⟨resume, 1, 100000, 0, 0, 0, 0⟩ } }

/-- A unit of class H that has signalled for the next arming decision. -/
def armedFor (s : State) : State := { s with
  time := { s.time with cls := 1 }, cad := { s.cad with armSpk := s.cad.root.armCount + 1 } }

theorem witness_VotesByTheRows :
    (∃ p, (wVoteP 255 id).projDecided = some p ∧ (wVoteP 255 id).voteNow (p.ns 1) = true ∧ p.desc.nSteps ≠ 0 ∧
      p.wsc = p.base + BitVec.ofNat 64 p.desc.nSteps - 1 ∧ p.desc.successor = 255 ∧ (wVoteP 255 id).cad.root.stopCmd = false ∧
      (wVoteP 255 id).cad.root.holdCmd = false ∧ (wVoteP 255 id).tooSlow 1 p.desc.holdDist = false) ∧
    (∃ p, (wVoteP 3 id).projDecided = some p ∧ (wVoteP 3 id).voteNow (p.ns 1) = true ∧
      p.wsc = p.base + BitVec.ofNat 64 p.desc.nSteps - 1 ∧ p.desc.successor ≠ 255 ∧ (wVoteP 3 id).armComplete = false ∧
      (armedFor (wVoteP 3 id)).armComplete = true) ∧
    ((wVoteP 3 fun r => { r with stopCmd := true }).cad.root.stopCmd = true ∧
      (wVoteP 3 fun r => { r with holdCmd := true }).cad.root.holdCmd = true) ∧
    (∃ p d, (wVote.cadWith fun c => { c with root := { c.root with ratioDue := some (9, 0) } }).projDecided = some p ∧
      (wVote.cadWith fun c => { c with root := { c.root with ratioDue := some (9, 0) } }).ratioDec 1 (p.ns 1) = some d ∧
      d.ratio = 9) ∧
    (∀ r : Bool, (wVoteStart r).projDecided = none ∧ (wVoteStart r).notRunning = true ∧
      (∃ c, (wVoteStart r).cad.root.cmd = some c ∧ c.resume = r ∧ (wVoteStart r).voteNow c.ns = true ∧ (wVoteStart r).voteNow 0 = false) ∧
      (wVoteStart r).isRoot = true ∧ (wVoteStart r).awake = true ∧ (wVoteStart r).coreHeld 2 = false ∧
      (armedFor (wVoteStart r)).armComplete = true ∧
      (wVoteStart r).tooSlow 0 0 = false) :=
  ⟨⟨_, rfl, by decide⟩, ⟨_, rfl, by decide⟩, by decide, ⟨_, _, rfl, rfl, rfl⟩,
   fun r => by cases r <;> exact ⟨by decide, by decide, ⟨_, rfl, by decide⟩, by decide⟩⟩

theorem witness_DecisionsAreTakenAndCommanded :
    (wRx.awake = true ∧ wRx.carriesOs 0 = true ∧ wRx.nextBoundary = some (6, 600000) ∧
      wRx.htNs.toNat + 256 < (600000 : W).toNat ∧ wRx.cutTaken 6 = false ∧ (wDec .hold 1 6).epoch = wRx.cad.epoch ∧ wRx.past (wDec .hold 1 6) = false ∧
      (wRx.cad.decs ++ wRx.cad.decRep.map (·.1) ++ wRx.cad.lastDec.toList).find? (fun e => e.seq == 1 && e.epoch == 0) = none) ∧
    (wRx.past (wDec .hold 1 5) = true ∧ serialHigher 8 255 0 = false) ∧
    (∃ s, s = (wRx.cadWith fun c => { c with decs := [wDec .hold 1 6], lastDec := some (wDec .hold 1 6) }) ∧
      (s.cad.decs ++ s.cad.decRep.map (·.1) ++ s.cad.lastDec.toList).find? (fun e => e.seq == 1 && e.epoch == 0) = some (wDec .hold 1 6) ∧
      wDec .hold 1 6 ≠ wDec .stop 1 7 ∧ s.past (wDec .stop 1 7) = false) ∧
    ((∀ o, (wInit o).isRoot = true ∧ (wInit o).awake = true ∧ (wInit o).cad.root.initDone = false ∧
      (wInit o).cad.root.otherInit = some o ∧ (wInit o).cad.root.lockedHbs ≥ 64) ∧
      true ≠ ((wInit true).preg Reg.CAD_ROOT_CFG).getLsbD 0 ∧ false = ((wInit false).preg Reg.CAD_ROOT_CFG).getLsbD 0) ∧
    (∃ s, s = { wRootIdle with regs := [(Reg.CAD_ROOT_TARGET_NS, 10000000)] } ∧ s.present Reg.CAD_ROOT_CMD = true ∧
      s.cad.root.issuer = true ∧ s.cad.st = .idle ∧ s.htNs.toNat ≤ s.voteNs (s.reg Reg.CAD_ROOT_TARGET_NS) ∧
      s.lVoteNs ≤ (s.reg Reg.CAD_ROOT_TARGET_NS).toNat) ∧
    (wRoot.present Reg.CAD_ROOT_CMD = true ∧ wRoot.cad.root.issuer = false ∧ wRoot.cad.st ≠ .running) ∧
    (∃ s, s = { wRootIdle.cadWith fun c => { c with st := .held } with regs := [(Reg.CAD_ROOT_TARGET_NS, 10000000)] } ∧
      s.cad.st = .held ∧ s.htNs.toNat ≤ s.voteNs (s.reg Reg.CAD_ROOT_TARGET_NS)) :=
  ⟨by decide, by decide, ⟨_, rfl, by decide⟩, by decide, ⟨_, rfl, by decide⟩, by decide, ⟨_, rfl, by decide⟩⟩

theorem witness_ArmingFollowsReadiness :
    (wArmReady.awake = true ∧ wArmReady.ready = true ∧ wArmReady.time.cls ≠ 0 ∧
      wArmReady.cad.armSpk ≠ wArmReady.cad.armNo + 1 ∧ wArmReady.cad.st = .running) ∧
    (wVd.time.cls = 0 ∧ wVd.awake = true ∧ wVd.cad.st ≠ .held) ∧
    ((wVd.cadWith fun c => { c with st := .held }).present Reg.CAD_CMD = true ∧ wVd.present Reg.CAD_CMD = true ∧ (wArmReady.cadWith fun c => { c with decs := [wDec .phase 1 6] }).cad.decs.any (fun d => arming d.kind) = true ∧
      (wArmReady.cad.decs.any fun d => arming d.kind) = false ∧ (wVd.cadWith fun c => { c with st := .held }).cad.st = .held) ∧
    (∃ s, s = wArmReady.cadWith (fun c => { c with st := .held, rearmed := true }) ∧ s.ready = true ∧ s.cad.st ≠ .running ∧
      s.cad.armSpk ≠ s.cad.armNo + 1) :=
  ⟨by decide, by decide, by decide, _, rfl, by decide⟩

/-! ### Sprockets -/

/-- A translation entry: a kind, a sprocket, every right, ownership. -/
def wEntry (kind p : Nat) : W := BitVec.ofNat 64 (p + kind * 2 ^ 32 + 0x7C * 2 ^ 32)
/-- Context 0 is ACTIVE, and its identifier 1 names sprocket 3, LIVE with value 10. -/
def wSpk (kind : Nat) : State := { wLan with
  spk := { info := [(3, { st := .live })], vals := [(3, 10)], ctxs := [(0, { st := .active })] },
  fab := { ram := Memory.writeBytes [] 8 (leBytes 8 (wEntry kind 3).toNat) } }
def wWait (dl : W) : Wait := ⟨.core 0, 0, 1, 3, 20, dl, 7, false, false, 0⟩
def State.spkWith (s : State) (f : SpkSt → SpkSt) : State := { s with spk := f s.spk }
def wFill : State := { wVsu with
  spk := { info := [(3, { st := .live })] }, fab := { mem := [(5, .xlat ⟨2, .vsuPort 1, 0, 1, 0, 0, 7, 0⟩)] } }
/-- Context 0 owns sprocket 3. -/
def wCtx (c : CtxState) : State := wLan.spkWith fun k => { k with
  info := [(3, { st := .live })], vals := [(3, 10)], ctxs := [(0, { st := c, saveBase := 0x100000 })],
  waits := [wWait (BitVec.allOnes 64)] }
def wMeta (m : SpkMeta) : State := wLan.spkWith fun k => { k with info := [(0, m)] }

theorem witness_SignalAddsAndReleasesReached :
    (wSpk 1).LocalOp 0 0 1 0 3 ∧ (wSpk 1).holdsRejected = false ∧ 0 < (1 : W).toNat ∧ (0xFFFFFFFF : W).toNat < 2 ^ 32 := by
  unfold State.LocalOp State.CoreActive
  decide

theorem witness_IncrementsCommute : [(3, 1), (4, 2)].Perm [(4, 2), (3, 1)] := by decide

theorem witness_WaitsAndFillsComplete :
    ((wSpk 1).LocalOp 3 0 1 1 3 ∧ ((wSpk 1).entryOf 0 1).getLsbD 39 = false ∧ reached ((wSpk 1).spkVal 3) 10 = true ∧
      reached ((wSpk 1).spkVal 3) 11 = false ∧ (0 : W).toNat ≤ (wSpk 1).htNs.toNat ∧ (wSpk 1).htNs.toNat < (1 : W).toNat ∧
      ((wSpk 1).spk.waits.filter fun w => w.src == .core 3).length < 256) ∧
    (((wSpk 1).spkWith fun k => { k with waits := [wWait 0] }).spk.waits = [wWait 0] ∧ (wWait 0).src = .core 0 ∧
      (wWait 0).deadline ≠ BitVec.allOnes 64 ∧ (wWait 0).deadline.toNat ≤ (wSpk 1).htNs.toNat) ∧
    (wFill.isVsu = true ∧ wFill.fab.mem = [(5, .xlat ⟨2, .vsuPort 1, 0, 1, 0, 0, 7, 0⟩)] ∧ wFill.fab.memQ = [] ∧
      xKind (wEntry 1 3) = 1 ∧ xRight (wEntry 1 3) 2 = true ∧ xPhys (wEntry 1 3) < 16384 ∧
      (wFill.meta (xPhys (wEntry 1 3))).st = .live) := by
  unfold State.LocalOp State.CoreActive
  decide

theorem witness_WaitFindsNoRoom : ∃ s : State,
    s = ((wSpk 1).spkWith fun k => { k with waits := List.replicate 256 (wWait (BitVec.allOnes 64)) }) ∧
    256 ≤ (s.spk.waits.filter fun w => w.src == .core 0).length ∧ s.LocalOp 0 0 1 1 3 ∧ reached (s.spkVal 3) 11 = false :=
  ⟨_, rfl, by
    show 256 ≤ ((List.replicate 256 (wWait (BitVec.allOnes 64))).filter fun w => w.src == .core 0).length
    rw [List.filter_replicate_of_pos (by decide)]
    simp, by
    unfold State.LocalOp State.CoreActive
    decide, by decide⟩

theorem witness_ReadsAndInactiveContextsComplete :
    ((wSpk 1).LocalOp 0 0 1 2 3 ∧ (wSpk 1).LocalOp 0 0 1 3 3 ∧ (wSpk 1).LocalOp 0 0 1 4 3 ∧
      reachedIn (((wSpk 1).entryOf 0 1).getLsbD 39) ((wSpk 1).spkVal 3) 11 = false ∧ (wSpk 1).notifyFull 0 = false) ∧
    (∃ n, n ∈ ((wSpk 1).spkWith fun k => { k with notifs := [⟨0, 1, 7, 20, 3, false, false⟩] }).spk.notifs ∧ n.ctx = 0 ∧
      n.id = 1 ∧ n.tag = 7) ∧
    ((wSpk 2).CoreActive 0 0 ∧ xKind ((wSpk 2).entryOf 0 1) = 2 ∧ xKind ((wSpk 3).entryOf 0 1) = 3 ∧ (wSpk 3).CoreActive 0 0 ∧
      1 < 4096) ∧
    (∀ n, n ∈ (wSpk 1).spk.notifs → ¬ (n.ctx = 0 ∧ n.id = 1 ∧ n.tag = 7)) ∧
    ((wCtx .free).isVd = true ∧ (wCtx .free).awake = true ∧ ((wCtx .free).ctx 0).st ≠ .active ∧
      ((wCtx .saved).ctx 0).st = .saved ∧ ((wCtx .reset).ctx 0).st = .reset) := by
  unfold State.LocalOp State.CoreActive
  exact ⟨by decide, ⟨_, List.mem_singleton.2 rfl, by decide⟩, by decide, by decide, by decide⟩

theorem witness_ContextsMoveAndReturn :
    ((wCtx .active).awake = true ∧ (wCtx .active).isFore = false ∧ 0 = (wCtx .active).selCtx ∧
      0 < (wCtx .active).nCtx ∧ (wCtx .active).cad.st ≠ .running ∧ ((wCtx .active).runAt 5).cad.st = .running ∧
      (wCtx .active).isVd = true ∧ ((wCtx .active).ctx 0).st = .active ∧ (wCtx .active).spk.job = none) ∧
    (((wCtx .saved).ctx 0).st = .saved ∧
      areaOk (Memory.readBytes (wCtx .saved).fab.ram (((wCtx .saved).ctx 0).saveBase.toNat % 2 ^ 40) saveLen) = false) ∧
    ((wCtx .active).owned 0 ≠ [] ∧ ((wCtx .free).ctx 0).st = .free ∧ ((wCtx .reset).ctx 0).st = .reset) := by decide

/-- A save area of one owned sprocket, before its CRC is put in: identifier 1 names sprocket 3 with value 10. -/
def wArea0 : List Byte :=
  leBytes 4 0x534B5053 ++ leBytes 2 1 ++ leBytes 2 0 ++ leBytes 4 1 ++ List.replicate 52 0 ++
  leBytes 8 0 ++ leBytes 8 (wEntry 1 3).toNat ++ List.replicate 32752 0 ++
  (leBytes 2 1 ++ leBytes 2 3 ++ leBytes 1 2 ++ [0, 0, 0] ++ leBytes 8 10) ++ List.replicate 98224 0
def wArea : List Byte := overlay wArea0 56 (leBytes 8 (crc64 (overlay wArea0 56 (leBytes 8 0))))
def wRestore : State := { (wCtx .saved).spkWith (fun k => { k with info := [(3, { st := .saved })] }) with
  fab := { ram := Memory.writeBytes [] 0x100000 wArea } }

theorem wArea0_length : wArea0.length = saveLen := by
  simp only [wArea0, List.length_append, leBytes_length, List.length_replicate, List.length_cons, List.length_nil, saveLen]
theorem wArea_length : wArea.length = saveLen := by
  rw [wArea, overlay_length _ _ _ (by rw [wArea0_length]; simp [saveLen]), wArea0_length]

theorem witness_RestoreOfGoodArea :
    wRestore.awake = true ∧ wRestore.isVd = true ∧ 0 = wRestore.selCtx ∧ 0 < wRestore.nCtx ∧
    (wRestore.ctx 0).st = .saved ∧ wRestore.spk.job = none ∧
    wArea = Memory.readBytes wRestore.fab.ram ((wRestore.ctx 0).saveBase.toNat % 2 ^ 40) saveLen ∧
    areaOk wArea = true := by
  have h56 : (56 : Nat) ≤ wArea0.length := by rw [wArea0_length]; simp [saveLen]
  have hov : overlay wArea 56 (leBytes 8 0) = overlay wArea0 56 (leBytes 8 0) :=
    overlay_overlay _ _ _ _ h56 (by simp)
  have hf : fieldAt wArea 56 8 = crc64 (overlay wArea0 56 (leBytes 8 0)) := by
    have h := fieldAt_overlay wArea0 56 (leBytes 8 (crc64 (overlay wArea0 56 (leBytes 8 0)))) h56
    rw [leBytes_length, leNat_leBytes _ _ (crc64_lt _)] at h
    exact h
  refine ⟨by decide, by decide, by decide, by decide, by decide, rfl, ?_, ?_⟩
  · have h := Memory.readBytes_writeBytes [] 0x100000 wArea
    rw [wArea_length] at h
    exact h.symm
  · have h0 : fieldAt wArea 0 4 = 0x534B5053 := by decide
    have h4 : fieldAt wArea 4 2 = 1 := by decide
    simp [areaOk, h0, h4, hf, hov, wArea_length]

theorem witness_RestorePlan : wRestore.areaPlan 0 wArea = some [(3, true, 10)] := by decide +kernel

theorem witness_PhysicalSprocketCommands :
    ((wMeta {}).awake = true ∧ (wMeta {}).isFore = false ∧ 0 = (wMeta {}).selPhys ∧ 0 < (wMeta {}).nSpk) ∧
    (((wMeta {}).meta 0).st == .free) = true ∧
    (((wMeta { st := .saved }).meta 0).st == .saved && ((wMeta { st := .saved }).meta 0).shares == 0 &&
      !(wMeta { st := .saved }).waitedOn 0) = true ∧
    ((wMeta { st := .ownerLost }).meta 0).st = .ownerLost ∧ ((wMeta { shares := 255 }).meta 0).shares < 256 ∧
    ¬ ((wMeta { shares := 256 }).meta 0).shares < 256 ∧ 0 < ((wMeta { shares := 1 }).meta 0).shares ∧
    (((wMeta { st := .live }).meta 0).st == .live && ((wMeta { st := .live }).meta 0).shares == 0 &&
      !((wMeta { st := .live }).spk.waits.any fun w => w.phys == 0)) = true ∧
    (wMeta {}).cad.st = .idle ∧ ((wMeta {}).runAt 5).cad.st ≠ .idle := by decide

/-! ### Images -/

/-- The first bytes of an image: each number after so many zeros, in its width. -/
def wTile (l : List (Nat × Nat × Nat)) : List Byte :=
  l.flatMap fun x => List.replicate x.1 0 ++ leBytes x.2.1 x.2.2
/-- The section of logical die 0 in an image of one phase of 100 slots in 100 µs, that idles on both outputs: N_PHASES,
DIR_OFF, DIR_COUNT; STEP_NS, TABLE_SLOTS, HOLD_DIST; the directory entry; SEC_MAGIC and the phase's offset; COMP_SPK, COMP_INC,
counts, OUT_INDEX, RUNS. -/
def wDieTile (spk : Nat) : List Byte := wTile
  [(0x18, 1, 1), (7, 8, 0x180), (0, 4, 1),
   (0xD4, 4, 100000), (0, 2, 100), (1, 1, 4),
   (0x78, 4, 0xFFFF0303), (4, 8, 0x200), (0, 8, 0x200),
   (0x68, 4, 0x4B565345), (0x3C, 8, 0xC0),
   (0x78, 2, spk), (2, 4, 1), (8, 2, 2), (2, 4, 2), (0x2C, 4, 1),
   (0x38, 8, 4161635), (0, 8, 4161635)]
def wImg (b : List Byte) : Img := { id := 5, tiles := [(0, b)] }
def State.imgWith (s : State) (f : ImgSt → ImgSt) : State := { s with img := f s.img }
def wDieSt : State := { (wVsu.runAt 5) with spk := { info := [(3, { st := .live })] } }
/-- A successor's set to be loaded from a committed image. -/
def wNext (spk : Nat) : State := wDieSt.imgWith fun i => { i with
  live := some { wSet with desc := { wSet.desc with successor := 0 } }, committed := some (wImg (wDieTile spk)) }
def wRecheck (spk : Nat) : State := (wNext spk).imgWith fun i => { i with
  next := some ((wImg (wDieTile spk)).phaseSet 0x200 0), nxState := .failed, nxRoute := true }
def wShadow (b : List Byte) : State := wVsu.imgWith fun i => { i with shadow := some (wImg b), shState := .checking }
def wZero : List Byte := List.replicate tileBytes 0
def wBcast (x : ImgSt) : State := { wVd.upPort 0 with img := x }
def wBroad : State := { wRoot.upPort 40 with
  regs := [(Reg.IMG_LOAD_LEN, 3585)], nvs := { words := (shippedWords.set 3 0xEC3).set 18 (BitVec.allOnes 64) } }

theorem witness_ShadowsAreCommandedAndChecked :
    (wVd.awake = true ∧ wVd.isVd = true ∧ wVd.img.lock = false ∧ wVd.img.shState ≠ .receiving) ∧
    (wVd.imgWith fun i => { i with committed := some { id := 0 } }).img.committed = some { id := 0 } ∧ wVd.img.committed = none ∧
    (wVsu.isVd = false ∧ wVsu.awake = true ∧ (wVd.imgWith fun i => { i with lock := true }).img.lock = true) := by decide

theorem witness_ShadowChecks :
    ((wShadow (wDieTile 3)).awake = true ∧ (wShadow (wDieTile 3)).isDome = false ∧
      (wShadow (wDieTile 3)).img.shadow = some (wImg (wDieTile 3)) ∧ (wShadow (wDieTile 3)).img.shState = .checking) ∧
    ((wShadow (wDieTile 3)).shadowFail (wImg (wDieTile 3))).1 = none ∧
    ((wShadow wZero).shadowFail (wImg wZero)).1 = some { code := 8 } := by
  refine ⟨⟨by decide, by decide, rfl, rfl⟩, by decide +kernel, by decide +kernel⟩

theorem witness_ImagesAreBroadcastAndKept :
    ((wBcast {}).awake = true ∧ (wBcast {}).portUp 0 = true) ∧
    ((wBcast { shadow := some { id := 0 }, lock := true }).img.shadow = some { id := 0 } ∧ ({ id := 0 } : Img).id ≠ 5 ∧
      (wBcast { shadow := some { id := 0 }, lock := true }).img.lock = true) ∧
    ((wImg wZero).id = 5 ∧ (wImg wZero).tiles.has 0 = true ∧ (wBcast {}).img.shadow = none ∧ (wBcast {}).img.lock = false) ∧
    (((wBcast {}).img.params.get 5 []).has 0 = false ∧
      ((wBcast { params := [(5, [(0, wZero)])] }).img.params.get 5 []).has 0 = true) ∧
    (wBroad.isRoot = true ∧ wBroad.awake = true ∧ wBroad.portUp 40 = true ∧ wBroad.portFixed 40 = true ∧
      (wBroad.port 40).q.length = 4 ∧ wBroad.portUp 41 = false) := by decide +kernel

theorem ne_next (n : Nat) : n ≠ n + 1 := by omega
theorem witness_TileAndItsCrc : wZero.length = tileBytes ∧ crc64 wZero ≠ crc64 wZero + 1 :=
  ⟨List.length_replicate, ne_next _⟩

theorem witness_NextSetLoadsOrFails :
    (wVd.coreHeld 2 = true ∧ (wNext 3).awake = true ∧ (wNext 3).coreHeld 2 = false ∧ (wNext 3).img.nxState = .none ∧ (wNext 3).cad.st = .running ∧
      (∃ l, (wNext 3).img.live = some l ∧ l.desc.successor < 16) ∧
      (wNext 3).img.committed = some (wImg (wDieTile 3))) ∧
    (wNext 3).ownEnt (wImg wZero) = none ∧
    (∃ e, (wNext 3).ownEnt (wImg (wDieTile 3)) = some e ∧ 0 < (wImg (wDieTile 3)).nPhases ∧
      (wImg (wDieTile 3)).phOff e.secOff 0 ≠ 0 ∧
      (wNext 3).setFail (wImg (wDieTile 3)) e ((wImg (wDieTile 3)).phaseSet e.secOff 0) false = none ∧
      (wNext 4).setFail (wImg (wDieTile 4)) e ((wImg (wDieTile 4)).phaseSet e.secOff 0) false =
        some { code := 0x18, off := 0xC0 }) :=
  ⟨⟨by decide, by decide, by decide, by decide, by decide, ⟨_, rfl, by decide⟩, rfl⟩, by decide +kernel,
   ⟨_, rfl, by decide +kernel, by decide +kernel, by decide +kernel, by decide +kernel⟩⟩

theorem witness_FailedSetIsCheckedAgain :
    (∃ ps e, (wRecheck 3).awake = true ∧ (wRecheck 3).img.next = some ps ∧ (wRecheck 3).img.nxState = .failed ∧
      (wRecheck 3).img.nxRoute = true ∧ (wRecheck 3).img.nxSrc = false ∧
      (wRecheck 3).img.committed = some (wImg (wDieTile 3)) ∧ (wRecheck 3).ownEnt (wImg (wDieTile 3)) = some e ∧
      (wRecheck 3).setFail (wImg (wDieTile 3)) e ps false = none ∧
      (wRecheck 4).setFail (wImg (wDieTile 4)) e ((wImg (wDieTile 4)).phaseSet 0x200 0) false ≠ none) ∧
    (∃ s, s = ((wRecheck 4).imgWith fun i => { i with nxState := .loaded }) ∧ s.img.nxState = .loaded ∧ s.img.nxSrc = false) :=
  ⟨⟨_, _, by decide, rfl, rfl, rfl, rfl, rfl, rfl, by decide +kernel, by decide +kernel⟩, _, rfl, rfl, rfl⟩

/-! ### Links, slots and side requests -/

def State.portWith (s : State) (p : Nat) (f : PortSt → PortSt) : State := s.setPort p (f (s.port p))
def wPort (f : PortSt → PortSt) : State := (wLan.upPort 40).portWith 40 f
/-- Flits: a scheduled one, a side request and its damaged copy. -/
def wSched : Flit := mkFlit (.sched 6 0 7 16 0 0) 0 0 false (List.replicate 224 1) 0
def wSideF : Flit := mkFlit (.sideReq 2 5 0 0 16 7) 2 0 true [] 0
def wGood (f : Flit) : Flit := { f with fcrc := flitCrc f }
def wPeer : TrainInfo := { senderKind := 0, sender := 7, role := 2, level := 3, part := 0x0401, rev := 1, grade := 0 }
/-- DNO 7 is reached by port 40, and side operations are enabled. -/
def wHall : State := { wLan.upPort 40 with
  regs := [(Reg.MEM_CTRL, BitVec.ofNat 64 (2 ^ Fld.MEM_CTRL_SIDE_EN.lo + 1000 * 2 ^ Fld.MEM_CTRL_TIMEOUT_US.lo))],
  fab := { (wLan.upPort 40).fab with dnoAct := [(0, 1), (7, 0x402)] } }
def State.fabWith (s : State) (f : FabSt → FabSt) : State := { s with fab := f s.fab }

/-- A VSU that runs from its host die, with its port 0 down. -/
def wVsuTrain : State := { wVsu with sb := { wVsu.sb with ucRun := true }, regs := [(Reg.XF_PORT_CFG, 2)] }

theorem witness_LinkStatesFollowTraining :
    (wLan.isVd = true ∧ wLan.awake = true ∧ 40 < wLan.nPorts ∧ (wLan.port 40).st = .down ∧ wLan.peerLevel 40 ≠ 0 ∧
      (({ wLan with regs := [(Reg.XF_PORT_CFG + 8 * 40, 2)] } : State).reg (Reg.XF_PORT_CFG + 8 * 40)).getLsbD 1 = true) ∧
    (wVsuTrain.isVd = false ∧ wVsuTrain.awake = true ∧ (wVsuTrain.port 0).st = .down ∧ wVsuTrain.sb.ucRun = true ∧
      (wVsuTrain.reg (Reg.XF_PORT_CFG + 8 * 0)).getLsbD 1 = true ∧ wVsuTrain.peerLevel 0 ≠ 0) ∧
    ((wPort fun x => { x with st := .training }).port 40).st = .training ∧ (wLan.port 40).st ≠ .training ∧
    ((wPort fun x => { x with st := .training }).atNow 5000000).time.now -
      (((wPort fun x => { x with st := .training }).atNow 5000000).port 40).sinceAt ≥ 5 * msX ∧
    ((wPort fun x => { x with unRun := [0, 0, 8, 0] }).carriesOs 40 = true ∧
      2 ∉ ((wPort fun x => { x with unRun := [0, 0, 8, 0] }).port 40).retrainLanes ∧
      8 ≤ ((wPort fun x => { x with unRun := [0, 0, 8, 0] }).port 40).unRun.getD 2 0 ∧
      ((wPort fun x => { x with unRun := [0, 0, 8, 0] }).port 40).unRun.getD 1 0 < 8) ∧
    (∃ s, s = (wPort fun x => { x with unAt := [List.replicate 9 0, [], [], []] }) ∧
      s.fld (Fld.at Fld.XF_PORT_CFG_UNCORR_LIMIT 40) <
        (((s.port 40).unAt.getD 0 []).filter fun t => decide (s.time.now - t < msX)).length) ∧
    (∃ s, s = (wPort fun x => { x with unRun := [0, 0, 8, 0], txq := [wSched] }) ∧ (s.port 40).st = .up ∧
      (s.port 40).txq.filter isSched = [wSched]) ∧
    (∃ s, s = (wPort fun x => { x with st := .retrain, retrainLanes := [0], lane0Swap := true }) ∧ (s.port 40).st = .retrain ∧
      0 ∈ (s.port 40).retrainLanes ∧ (s.tdcWith fun t => { t with swap := { port := 40, step := 3 } }).tdc.swap.port = 40) ∧
    (∃ s, s = (wPort fun x => { x with st := .retrain, fails := 2 }).atNow 2000000 ∧ (s.port 40).st = .retrain ∧
      s.time.now - (s.port 40).sinceAt ≥ 2 * msX ∧ 2 ≤ (s.port 40).fails) ∧
    (∃ s, s = (wPort fun x => { x with st := .isolated }) ∧ s.mustIsolate 40 = false ∧ (s.port 40).st = .isolated) ∧
    (∃ s, s = { wLan with ident := { wLan.ident with dno := 1024 } } ∧ s.mustIsolate 31 = true ∧ 31 < s.nPorts) :=
  ⟨by decide, by decide, by decide, by decide, by decide, by decide, ⟨_, rfl, by decide⟩, ⟨_, rfl, by decide⟩,
   ⟨_, rfl, by decide⟩, ⟨_, rfl, by decide⟩, ⟨_, rfl, by decide⟩, ⟨_, rfl, by decide⟩⟩

theorem witness_FramesLeaveAndArrive :
    ((wPort id).awake = true ∧ 40 < (wPort id).nPorts ∧ ((wPort id).port 40).st = .up ∧ (wPort id).flitsOn 40 = true ∧
      (wPort fun x => { x with lane0Swap := true }).flitsOn 40 = false ∧
      ((wPort id).port 40).txq = [] ∧ ((wPort id).port 40).osq = [] ∧ ((wPort id).port 40).crdLevel = none ∧
      ((wPort id).port 40).ackOf = ((wPort id).port 40).ackTx) ∧
    ((wPort fun x => { x with txq := [wSched] }).port 40).txq = wSched :: [] ∧
    ((wPort fun x => { x with owedCr := [0, 1, 0, 0] }).port 40).crdLevel ≠ none ∧
    ((wPort fun x => { x with osq := [.train wPeer] }).port 40).osq = .train wPeer :: [] := by decide

theorem wGood_fcrc (f : Flit) : (wGood f).fcrc = flitCrc (wGood f) := rfl
theorem witness_BadFlit (f : Flit) : ({ f with fcrc := flitCrc f + 1 } : Flit).fcrc ≠ flitCrc { f with fcrc := flitCrc f + 1 } :=
  (ne_next (flitCrc f)).symm

theorem witness_GoodFlits :
    (wGood wSched).fcrc = flitCrc (wGood wSched) ∧ (wGood wSideF).fcrc = flitCrc (wGood wSideF) ∧
    (wGood wSched).lseq % 4096 = ((wPort id).port 40).rxNext ∧ isSched (wGood wSched) = true ∧ (wGood wSched).resent = false ∧
    isSched (wGood wSideF) = false ∧ schedSignal (wGood wSideF) = false ∧ (wPort id).fab.passAt = none ∧
    ((wPort id).port 40).rxMiss.contains 4000 = false ∧ 2048 ≤ (4000 + 4096 - ((wPort id).port 40).rxNext) % 4096 ∧
    ((wPort id).port 40).sideHold = [] ∧ ((wPort id).port 40).rxMiss = [] ∧ (wPort id).isVd = true ∧
    (∃ s, s = (wPort fun x => { x with rxNext := 1, rxMiss := [0] }) ∧ (s.port 40).rxMiss = [0] ∧
      lseqLe 1 0 = false ∧ (((s.port 40).rxNext + 1) % 4096 + 4096 - 0) % 4096 ≤ 1024) ∧
    ((7 % 4096 + 4096 - ((wPort id).port 40).rxNext) % 4096 = 7 ∧ 0 < 7 ∧ 7 < 2048) := by
  refine ⟨wGood_fcrc _, wGood_fcrc _, by decide, by decide, by decide, by decide, by decide, by decide, by decide, by decide,
    by decide, by decide, by decide, ⟨_, rfl, by decide⟩, by decide⟩

theorem witness_FramesAsBytes :
    (∃ g, flitOf (flitBytes wSideF) = some g ∧ g.body = wSideF.body) ∧ (0x0E ≠ 0x0F ∧ 0x0E ≠ 0x33 ∧ 0x0E ≠ 0x55) ∧
    osOf (List.replicate 256 0) = none ∧ fcrcOk (flitBytes wSideF) = false := by
  refine ⟨⟨_, rfl, ?_⟩, by decide, ?_, ?_⟩ <;> decide +kernel

theorem witness_WireFormsRoundTrip :
    OSet.wf (.delayReq 3 65535 16383) = true ∧ OSet.wf (.credit [64, 0, 128, 65535] 4095) = true ∧
    OSet.wf (.retryReq [(0, 4095)]) = true ∧ OSet.wf (.refetchFail 65535 32767 65535 1048575 3) = true ∧
    OSet.wf (.decision ⟨65535, 255, .stop, 1, 255, 0, 0, 0, 255⟩ none) = true ∧ Flit.wf wSideF = true ∧
    Cell.wf ⟨15, 15, 65535, 2 ^ 80 - 1⟩ = true ∧ 0x0F < 256 ∧ (zeros 256).length = 256 := by decide +kernel

theorem witness_RetryAndCredits :
    ((wPort fun x => { x with replay := [⟨9, true, 3, some wSched⟩] }).port 40).replay.find? (fun e => e.lseq == 9) =
      some ⟨9, true, 3, some wSched⟩ ∧
    ((wPort fun x => { x with replay := [⟨9, false, 0, some wSideF⟩] }).port 40).replay.find? (fun e => e.lseq == 9) =
      some ⟨9, false, 0, some wSideF⟩ ∧
    (((wPort id).port 40).resendSched ++ ((wPort id).port 40).resendSide).any (fun g => g.lseq == 9) = false ∧
    ((wPort id).port 40).credits.length = 4 ∧ ((wPort id).port 40).zeroAt.length = 4 ∧
    (∀ l, l < 4 → ((wPort id).port 40).credits.getD l 0 ≤ bufOf l) ∧
    (∃ s, s = (wPort fun x => { x with zeroAt := [none, some 0, none, none] }).atNow 5000000 ∧
      s.carriesOs 40 = true ∧ (s.port 40).st = .up ∧ (s.port 40).zeroAt.getD 1 none = some 0 ∧ Nat.testBit (s.port 40).sat 1 = false ∧
      s.time.now - 0 ≥ s.fld Fld.XF_CTRL_SAT_US * usX) :=
  ⟨by decide, by decide, by decide, by decide, by decide, by decide, ⟨_, rfl, by decide⟩⟩

/-- A LOCKED unit in step 6, whose tile 1 was sent from row 5 of memory, and which has RETRY slots left on port 40. -/
def wRefetch : State := (((wPort id).runAt 6).fabWith fun f => { f with
    origin := [(1, 80, [(15, 5, 0)])], passAt := some 600000 }).imgWith fun i => { i with
  live := some { wSet with desc := { wSet.desc with stepNs := 256 }, outs := List.replicate 40 [] ++ [[⟨1000, 127, 2, 0⟩]] } }

theorem witness_RefetchIsAnswered :
    wRefetch.fab.origin.find? (fun e => e.1 == 2) = none ∧ wRefetch.rereadFlit 104 5 = none ∧
    (wRefetch.isVd = true ∧ wRefetch.cad.st = .running ∧ wRefetch.wsc16 = 6 ∧
      wRefetch.fab.origin.find? (fun e => e.1 == 1) = some (1, 80, [(15, 5, 0)]) ∧
      (∃ d, wRefetch.rereadFlit 80 5 = some d ∧ (wRefetch.refetchFlits 1 0x8000 [(15, 0, d)]).length = 1)) ∧
    (wRefetch.port 40).peerKind = 0 :=
  ⟨by decide, by decide, ⟨by decide, by decide, by decide, by decide, ⟨_, rfl, rfl⟩⟩, by decide⟩

theorem witness_RefetchHasRetrySlots : 1 ≤ wRefetch.retryLeft 40 := by decide +kernel

/-- A spire whose table forwards port 40 to port 41, in the first slot, with one flit received. -/
def wRun1 : Run := ⟨100, 40, 1, 0⟩
def wSlot : State := ((((({ wLan with ident := { role := .spire } } : State).upPort 40).upPort 41).runAt 6).atNs 700000).fabWith (fun f => { f with
    passAt := some 700000 }) |>.imgWith (fun i => { i with
    live := some { wSet with desc := { wSet.desc with tableSlots := 100 }, outs := List.replicate 41 [] ++ [[wRun1]] } })
  |>.portWith 40 fun x => { x with rx := [{ lseq := 0, flit := some wSched }] }
/-- Side flits and a resend that wait on port 40, and a scheduled SIGNAL that waits for the flits before it. -/
def wSideOut : State := wPort fun x => { x with q := [[], [], [(none, wSideF)], []] }
def wResend : State := wPort fun x => { x with resendSide := [wSideF] }
def wSigWait (n : Nat) : State := { wPort (fun x => { x with rx := [{ lseq := 0, flit := some wSched, pend := 1 }], sigWait := [(n, 3, 5)] }) with
  spk := { info := [(3, { st := .live })] } }

theorem witness_SlotsRunTheTable :
    (∃ ps r, wSlot.isVd = true ∧ wSlot.awake = true ∧ wSlot.fab.passAt = some 700000 ∧ wSlot.img.live = some ps ∧ ps.cmbs = [] ∧
      ps.outs = List.replicate 41 [] ++ [[r]] ∧ r.action = 1 ∧ r.source = 40 ∧ r.len = ps.desc.tableSlots ∧ 0 < r.len ∧
      wSlot.halfRate 41 = false ∧ wSlot.halfRate 40 = false ∧ wSlot.fab.slot < slotsIn ps.desc.stepNs ∧
      wSlot.slotDue 700000 wSlot.fab.slot = true ∧ wSlot.fab.asm = [] ∧ wSlot.stg.writes = [] ∧ wSlot.stg.accs = [] ∧ wSlot.flitsOn (wSlot.physPort 41) = true ∧ wSlot.fab.dieWait = [] ∧
      ((wSlot.port (wSlot.physPort 40)).rx[(wSlot.port (wSlot.physPort 40)).unitIdx]?).bind (·.flit) = some wSched) ∧
    (wResend.fab.passAt = none ∧ wResend.fab.dieWait = [] ∧ wResend.flitsOn 40 = true ∧ (wResend.port 40).resendSide = wSideF :: []) ∧
    ((afterLevel (wSideOut.port 40).lastLvl).find? (fun l => !((wSideOut.port 40).q.getD l []).isEmpty &&
      decide (0 < (wSideOut.port 40).credits.getD l 0)) = some 2 ∧ (wSideOut.port 40).q.getD 2 [] = (none, wSideF) :: []) ∧
    (((wSigWait 1).port 40).sigWait = (1, 3, 5) :: [] ∧ (wSigWait 1).unitConsumed 40 0 = false ∧
      (∀ i, i < 0 → (wSigWait 0).unitConsumed 40 i = true) ∧ (wSigWait 0).diePortOf 40 = false ∧
      ((wSigWait 0).meta 3).st = .live ∧ (wSigWait 0).holdsRejected = false) ∧
    wLan.cad.st ≠ .running ∧ (wLan.runAt 5).cad.st = .running :=
  ⟨⟨_, _, by decide, by decide, rfl, rfl, rfl, rfl, by decide⟩, by decide⟩

/-- Requests of DNO 7: a READ of 16 bytes, and one for an address of this unit that an aperture shows. -/
def wReq : SideReq := ⟨0, 5, 0x100000, 1, 7, 16, []⟩
def wFence : State := wHall.fabWith fun f => { f with fences := [⟨7, 16, 5, 2, 0⟩] }
def wOutReq : State := wHall.fabWith fun f => { f with side := [⟨5, 1, 0, 0, [], 0, 0, .bar2Write, 0⟩] }
/-- The first aperture of BAR2 shows the unit's own memory from its first byte on. -/
def wBar2 : State := { wHall with regs := wHall.regs ++ [(Reg.MEM_APERTURE, 1)] }

theorem witness_SideRequestsAreServed :
    wReq.dno ≠ wHall.srcDno ∧ wHall.exit (wHall.route wHall.srcDno wReq.dno (subDie wReq.sub)) = .port 40 ∧
    (wHall.isVd = true ∧ wHall.awake = true ∧ wHall.portUp 40 = true ∧ hallUnit wReq.addr = wHall.ident.dno ∧
      wReq.dno ≠ wHall.ident.dno ∧ entKind (wHall.dnoEnt wHall.ident.dno) ≠ 3 ∧ wHall.flag Fld.MEM_CTRL_SIDE_EN = true) ∧
    (∃ s, s = ({ wHall with regs := [(Reg.MEM_CTRL, 0)] } : State) ∧ s.flag Fld.MEM_CTRL_SIDE_EN = false ∧ entKind (s.dnoEnt 0) ≠ 3) ∧
    (8 * (wReq.len8 + 1) = 16 ∧ wReq.addr % 2 ^ 40 % 8 = 0 ∧ wReq.addr % 2 ^ 40 % 4096 + 16 ≤ 4096 ∧ wReq.addr % 2 ^ 40 < memEnd) ∧
    (crc64 [] ≠ 1 ∧ 3 % 2 ^ 40 < 16384 ∧ (({ wHall with spk := { info := [(3, { st := .live })] } } : State).meta 3).st = .live) ∧
    wFence.fab.fences = ⟨7, 16, 5, 2, 0⟩ :: [] :=
  ⟨by decide, by decide, by decide, ⟨_, rfl, by decide⟩, by decide⟩

theorem witness_SideRequestsComplete :
    (wOutReq.awake = true ∧ wOutReq.fab.side.find? (fun x => x.tag == 5) = some ⟨5, 1, 0, 0, [], 0, 0, .bar2Write, 0⟩ ∧
      wOutReq.fab.sideWait = [] ∧ wOutReq.time.now - 0 < wOutReq.fld Fld.MEM_CTRL_TIMEOUT_US * usX ∧
      (wOutReq.atNow 1000000).time.now - 0 ≥ (wOutReq.atNow 1000000).fld Fld.MEM_CTRL_TIMEOUT_US * usX) ∧
    (wBar2.hasBar2 = true ∧ 64 + 8 ≤ 2 ^ 36 ∧ (∀ e, e ∈ wBar2.fab.bar2 → e.1 < wBar2.fab.bar2No) ∧ bar2Aligned 64 8 = true ∧
      wBar2.aperture 64 = some 64 ∧ wBar2.route wBar2.srcDno (hallUnit 64) none = .loc ∧ wBar2.fab.side.length < 4096 ∧ wBar2.pairHeld (hallUnit 64) = false ∧
      (∀ w, w ∈ wBar2.fab.side → w.op ≠ 1) ∧
      64 % 2 ^ 40 < memEnd) ∧
    (bar2Aligned 65 8 = false ∧ wHall.aperture 64 = none ∧ 64 % 4096 + 8 ≤ 4096 ∧ wHall.hasBar2 = true) := by decide

/-- A remote SIGNAL outstanding to DNO 7. -/
def wOutSig : State := wHall.fabWith fun f => { f with sigOut := [⟨7, 16, ⟨3, 5, 1, 0⟩, 0, 0, 0⟩] }
def wRec : SigRec := ⟨3, 5, 1, 0⟩
def wSpkHall : State := { wHall with spk := { info := [(3, { st := .live })] } }
def wUc : State := { wVsu with sb := { wVsu.sb with ucRun := true } }

theorem witness_SignalRecordsAreJudgedOnce :
    (wHall.awake = true ∧ wHall.portUp 40 = true ∧ wHall.diePortOf 40 = false ∧ wRec.seq ≠ 0 ∧
      serialHigher 32 wRec.seq (wHall.fab.judge.get (7 * 32 + 16) {}).last = true ∧
      serialHigher 32 wRec.seq ((wHall.fabWith fun f => { f with judge := [(7 * 32 + 16, ⟨1, 1, 1, []⟩)] }).fab.judge.get (7 * 32 + 16) {}).last = false ∧
      (wHall.atNs 5000000).staleSig wRec.sentUs = true) ∧
    (wSpkHall.staleSig wRec.sentUs = false ∧ wSpkHall.isFore = false ∧ wRec.phys < wSpkHall.nSpk ∧
      (wSpkHall.meta wRec.phys).st = .live ∧ wSpkHall.holdsRejected = false ∧
      serialHigher 32 wRec.seq (wSpkHall.fab.judge.get (7 * 32 + 16) {}).applied = true ∧ wHall.nakOf wRec.phys ≠ 0) ∧
    ((wOutSig.fab.sigOut.find? (fun o => o.isTo 7 16 && o.record.seq == 1)).isSome = true ∧ (7, 16, 1) ∉ wOutSig.fab.sigActed ∧
      (7, 16, 1) ∈ (wOutSig.fabWith fun f => { f with sigActed := [(7, 16, 1)] }).fab.sigActed) ∧
    (∃ o, o ∈ (wOutSig.atNow 4000000).fab.sigOut ∧ (wOutSig.atNow 4000000).time.now - o.firstAt ≥ 4 * msX) ∧
    (wVsu.isVd = false ∧ wVsu.awake = true ∧ 3 < wVsu.hostQueues ∧ (wVsu.fab.stq.get 3 []).length < 32 ∧
      wVsu.fab.stMsg.length < 32 ∧ (wVsu.upPort 0).portUp 0 = true ∧ wVsu.stxReady 3 = true ∧ wVsu.stxReady 16 = false ∧
      wVsu.stxSready = true ∧ wVsu.sideBuf < 32 ∧ wVsu.signalWaits 7 = false ∧ (wVsu.fabWith fun f => { f with stMsg := List.replicate 32 [] }).stxSready = false ∧
      wVsu.spkReady 3 = true ∧ wVsu.spkReady 4 = false) ∧
    ((wVsu.fabWith fun f => { f with mem := [(5, .imageWrite)] }).fab.mem.find? (fun e => e.1 == 5) = some (5, .imageWrite) ∧
      wVsu.fab.memQ = []) :=
  ⟨by decide, by decide, by decide, ⟨_, List.mem_singleton.2 rfl, by decide⟩, by decide, by decide⟩

theorem witness_LogReadsReturnAndClear :
    (wVd.reach .bar0 Reg.EVQ_STATUS = true ∧ wVd.reach .bar0 (Reg.XF_PORT_ERR + 8 * 3) = true ∧
      wVd.reach .belfry Reg.XF_REJECT_LOG = false) := by decide

/-! ### Combiner, tile array, faults -/

/-- SUM_EXACT of two taps of FP32 in cell 0, whose result is FP32; its window is slots 0 to 9. -/
def wSum : CmbInstr := { opcode := 1, mode := 1, fmtA := 0, fmtR := 0, cell0 := 0, ncell := 1, start := 0, stop := 9, v := true, sr := false, opnd := 3 }
/-- An FP32 payload whose first elements are given. -/
def wFp (l : List Nat) : List Byte := l.flatMap (leBytes 4) ++ List.replicate (224 - 4 * l.length) 0
/-- The sum's run with one flit of each contributor: 1 and 2, 2^60 and -2^60. -/
def wSumRun : CellRun := { instr := 0, places := [⟨0, 0, some (wFp [0x3F800000, 0x5D800000]), 0, none⟩, ⟨1, 2, some (wFp [0x40000000, 0xDD800000]), 0, none⟩] }
def wSumSet : PhaseSet := { wSet with cmbs := [wSum] }
def wSumSt : State := { wLan with img := { live := some wSumSet }, cmb := { runs := [wSumRun], results := [] } }

theorem witness_ExactSums : [Frame.of .zero, {}].Perm [{}, Frame.of .zero] := List.Perm.swap _ _ _

theorem witness_ReductionAppendsItsResult :
    wSumSt.awake = true ∧ wSumSt.clk.cmbCur ≠ 7 ∧ wSumSt.img.live = some wSumSet ∧ wSumSet.cmbs[0]? = some wSum ∧
    wSumSt.cmb.runs.find? (fun x => x.instr == 0 && !x.done) = some wSumRun ∧ wSumSt.badInput wSumSet wSum wSumRun = none ∧
    wSumSt.waitsFor wSumSet 0 wSum = false ∧ wSum.famR = true ∧ wSum.opcode = 1 ∧ wSum.mode = 1 ∧ wSum.fmtR ≠ 14 ∧
    wSum.sr = false ∧ (readyCount (wSumSt.streams wSumSet wSum wSumRun)).2 = true := by decide +kernel

def wTil : TilInstr := { opcode := 1, m := 128, n := 128, k := 128, fmt := 1, start := 0, lat := 600, opnd := 0 }
def wTilSt : State := (wSlot.imgWith fun i => { i with live := some { wSet with tils := [wTil] } }).fabWith fun f => { f with slot := 1 }

theorem witness_SeedsAndTileArray :
    (wLan.isFore = false ∧ wLan.cad.st ≠ .running ∧ (wLan.runAt 5).cad.st = .running) ∧
    (∃ s, s = ({ wLan with cmb := { randNext := some 7 } } : State) ∧ s.cmb.randNext = some 7 ∧ wLan.cmb.randNext = none) ∧
    (∃ s, s = ({ ident := { kind := .u1 } } : State) ∧ s.isFore = true) ∧
    (wTilSt.isVd = true ∧ wTilSt.awake = true ∧ wTilSt.fab.passAt = some 700000 ∧ (∃ ps, wTilSt.img.live = some ps ∧
      ps.tils[0]? = some wTil ∧ wTilSt.tilPass (max 1 ps.desc.tableSlots) 0 wTil.start = some 0) ∧ wTilSt.tilBusy = none ∧
      wTilSt.clk.tilCur ≠ 7 ∧ wTil.opcode ≠ 0) ∧
    (∃ s ps c, s = (wTilSt.imgWith fun i => { i with live := some { wSet with cmbs := [{ wSum with opcode := 0x29 }] } }) ∧
      s.img.live = some ps ∧ ps.cmbs[0]? = some c ∧ c.opcode = 0x29 ∧ c.start < s.fab.slot ∧ s.tilBusy = none ∧
      s.clk.tilCur ≠ 7 ∧ s.fab.passAt = some 700000) ∧
    (∃ s, s = ({ wTilSt with regs := [(Reg.TIL_CTRL, 0)] } : State) ∧ s.flag Fld.TIL_CTRL_AUTO_RETIRE = false) ∧
    (wLan.til.retired ++ (foldOf (wLan.preg Reg.TIL_FOLD)).filter fun r => !wLan.til.retired.contains r).length ≤ 2 ∧
    (∃ s, s = ({ wLan with til := { retired := [1, 2] }, nvs := { words := shippedWords.set 20 0x103 } } : State) ∧
      2 < (s.til.retired ++ (foldOf (s.preg Reg.TIL_FOLD)).filter fun r => !s.til.retired.contains r).length) :=
  ⟨by decide, ⟨_, rfl, rfl, rfl⟩, ⟨_, rfl, rfl⟩,
   ⟨by decide, by decide, rfl, ⟨_, rfl, by decide +kernel⟩, by decide, by decide, by decide⟩,
   ⟨_, _, _, rfl, rfl, rfl, rfl, by decide⟩,
   ⟨_, rfl, by decide⟩, by decide, ⟨_, rfl, by decide⟩⟩

def State.fltWith (s : State) (f : FltSt → FltSt) : State := { s with flt := f s.flt }
def wDie (d : Nat) (x : DieSt) : State := wLan.fltWith fun f => { f with dies := [(d, x)] }
/-- An image whose directory holds one die. -/
def wDirTile (unit : Nat) : List Byte := wTile [(0x18, 1, 1), (7, 8, 0x180), (0, 4, 1), (0x154, 4, 0xFFFF0303), (0, 2, unit)]
def State.linkWith (s : State) (d : Nat) (f : SbLink → SbLink) : State := s.setLink d (f (s.sbLink d))
/-- One step before a swap point: die port 2 DOUBTED and approved, its spare, die port 14, staged. -/
def wSwapPt (ns : Nat) : State := (((({ wLan with regs := [(Reg.FLT_CFG, BitVec.ofNat 64 (2 ^ Fld.FLT_CFG_LIVE_SWAP.lo))] } : State).runAt 5).atNs ns).imgWith
  fun i => { i with live := some { wSet with desc := { wSet.desc with ckptEvery := 1 } }, committed := some (wImg (wDirTile 2)) }).fltWith fun f => { f with
  dies := [(2, { judge := { st := .doubted }, approved := true }), (14, { staged := true, stageFor := some 2 })] }
def wSpare : State := wVsu.cadWith fun c => { c with st := .held, spare := some (false, 0) }
def wJoin : Message := ⟨3, 0, 3, 0, .join 8 800000 8 0 0 63 1 0 17⟩

theorem witness_DetectorRoundJudgesPeers :
    (wLan.isVd = true ∧ wLan.awake = true ∧ wLan.coreHeld 3 = false ∧ wVd.coreHeld 3 = true ∧ wLan.htNs.toNat / 65536 = wLan.flt.round ∧
      (wLan.atNs 65536).htNs.toNat / 65536 ≠ (wLan.atNs 65536).flt.round ∧ wLan.isDome = true ∧ (wLan.imgWith fun i => { i with committed := some (wImg (wDirTile 3)) }).judgedDie 3 = true ∧
      (wPort fun x => { x with peerRole := 1 }).vdPeerPort 40 = true ∧ (wPort id).portIsolated 40 = false) := by decide +kernel
theorem witness_DetectorRound_noneStaged (d : Nat) : (wLan.die d).staged = false := rfl

theorem witness_DiesAreCommandedAndStaged :
    (wLan.isDome = true ∧ wLan.awake = true ∧ wLan.present Reg.FLT_CMD = true ∧ wLan.coreHeld 3 = false ∧ (wLan.die 3).judge.st = .alive ∧ ((wDie 3 { judge := { st := .suspect } }).die 3).judge.st = .suspect ∧
      ((wDie 3 { judge := { st := .fenced } }).die 3).judge.st = .fenced ∧ (wDie 3 { judge := { st := .fenced } }).dieIsolated 3 = false ∧
      wLan.cad.st ≠ .running ∧ (wLan.runAt 5).cad.st = .running ∧ (wLan.peerJ 40).st = .alive ∧ wVsu.isVd = false) ∧
    (((wDie 14 { staging := true }).die 14).staging = true ∧
      (∃ s, s = (wDie 14 { staging := true, idPart := some 0x03010000 }).upPort 28 ∧ s.coreHeld 3 = false ∧
        s.portUp (s.diePort 14) = true ∧ s.spareLocked 14 = false ∧
        (s.linkWith 14 fun l => { l with hb := 2 * 8 + Servo.code .locked }).spareLocked 14 = true)) ∧
    ((wSwapPt 500000).isDome = true ∧ (wSwapPt 500000).awake = true ∧ (wSwapPt 500000).workSwapPoint = true ∧
      (wSwapPt 500000).flag Fld.FLT_CFG_LIVE_SWAP = true ∧ (wSwapPt 500000).stagedFor ((wSwapPt 500000).logicalOf 2) = some 14 ∧
      (wSwapPt 500000).htNs.toNat + 20000 ≤ ((wSwapPt 500000).boundaryNs ((wSwapPt 500000).cad.sc + 1)).toNat ∧
      ((wSwapPt 590000).boundaryNs ((wSwapPt 590000).cad.sc + 1)).toNat < (wSwapPt 590000).htNs.toNat + 20000) ∧
    (wSpare.isVd = false ∧ wSpare.awake = true ∧ wSpare.cad.st = .held ∧ wSpare.cad.spare.isSome = true ∧
      wJoin.body = .join 8 800000 8 0 0 63 1 0 17 ∧ 17 < 2 ^ 14) :=
  ⟨by decide, ⟨by decide, ⟨_, rfl, by decide⟩⟩, by decide, by decide⟩
theorem witness_SwapIsWanted : (wSwapPt 500000).swapWanted = [2] := by
  unfold State.swapWanted
  rw [show List.filter _ (upto 16) = [2] from by decide +kernel]
  exact List.mergeSort_singleton _

def wVerdict : Verdict := ⟨1, 7, 3, 0, 0⟩
theorem witness_VerdictsFenceOnceEverywhere :
    (∃ s, s = wIssuer wRoot ∧ s.isRoot = true ∧ s.awake = true ∧ s.cad.root.issuer = true ∧ ((0x3007 : W).toNat >>> 12) % 8 = 3 ∧
      s.present Reg.FLT_VERDICT_TX = true ∧ wRoot.cad.root.issuer = false) ∧
    ((wPort id).isVd = true ∧ (wPort id).awake = true ∧ (wPort id).portUp 40 = true ∧ wVerdict.dno < 4096 ∧
      (wPort id).coreHeld 3 = false ∧ ((wVd.upPort 40).portUp 40 = true ∧ (wVd.upPort 40).coreHeld 3 = true) ∧
      (wPort id).flt.vSeen.find? (fun x => x.v.vseq == wVerdict.vseq && x.v.epoch == wVerdict.epoch) = none ∧ wVerdict.state = 3) ∧
    (∀ (ports : List Nat) (void : Bool), ∃ s, s = (wPort id).fltWith (fun f => { f with
        vSeen := [⟨wVerdict, ports, false, none, void⟩], vRx := some wVerdict }) ∧ s.coreHeld 3 = false ∧
      s.flt.vSeen.find? (fun x => x.v.vseq == 1 && x.v.epoch == 0) = some ⟨wVerdict, ports, false, none, void⟩ ∧
      { wVerdict with dno := 8 } ≠ wVerdict ∧ (wVerdict.dno % 4096, wVerdict.state == 3) ∉ s.flt.fenceP ∧
      (wVerdict.dno % 4096, wVerdict.state == 3) ∈ (s.fltWith fun f => { f with fenceP := [(7, true)] }).flt.fenceP) ∧
    (((wPort fun x => { x with st := .isolated }).port 40).st = .isolated ∧ (wPort id).mustIsolate 40 = false) ∧
    (wPort fun x => { x with peerId := 7, peerRole := 1 }).port 40 = { (wPort id).port 40 with peerId := 7, peerRole := 1 } ∧
    ((wPort id).runAt 5).cad.st = .running ∧ (wPort id).cad.st ≠ .running :=
  ⟨⟨_, rfl, by decide⟩, by decide, fun _ _ => ⟨_, rfl, show (wPort id).coreHeld 3 = false by decide, rfl, by decide,
    show _ ∉ ([] : List (Nat × Bool)) by decide, show _ ∈ [(7, true)] by decide⟩, by decide, by decide, by decide, by decide⟩

theorem witness_GuaranteedOperationsAnswer :
    (wVd.belfryOn = true ∧ wVd.pathUp .belfry = true ∧ wholeRead (rd .belfry) = true ∧ (rd .belfry).path = .belfry ∧
      wVd.reach .belfry Reg.BEL_HT_NS = true ∧ wVd.reach .belfry Reg.BEL_HT_FRAC = true ∧ wVd.reach .belfry Reg.BEL_SC = true ∧
      wVd.reach .belfry Reg.BEL_WSC = true ∧ wVd.reach .belfry Reg.BEL_SUMMARY = true ∧
      wVd.reach .belfry Reg.BEL_EVT_SEL = true ∧ (∀ k, k < 4 → wVd.reach .belfry (Reg.BEL_EVT_REC + 8 * k) = true) ∧
      wVd.isVd = true ∧ wVd.reach .belfry Reg.BEL_NVS_ADDR = true ∧ wVd.reach .belfry Reg.BEL_NVS_DATA = true ∧
      wVd.reach .belfry Reg.BEL_NVS_WEAR = true ∧ wVd.fab.sideWait = []) ∧
    ((5 : W).getLsbD 63 = false ∧ wVd.cad.sc.toNat < (0x8000000000000005 : W).toNat % 2 ^ 63 ∧
      (0x8000000000000005 : W).getLsbD 63 = true ∧ (0x8000000000000005 : W).toNat % 2 ^ 63 ≤ (wVd.runAt 5).cad.sc.toNat) ∧
    (40 < wVd.nPorts ∧ (2 ^ 40 : W).getLsbD 40 = true ∧ (wVd.port 40).st ≠ .isolated ∧ (2 ^ 40 : W).getLsbD 41 = false) := by decide

def wCell (kind payload : Nat) : Cell := ⟨kind, 0, 0, payload⟩
def wUcode : State := { wVsu with sb := { wVsu.sb with ucOpen := true, ucLen8 := 1, ucBuf := [(0, List.replicate 8 1)] } }
def wRelay : State := { wVd with sb := { wVd.sb with relayAt := some 0 } }

theorem witness_SidebandCarriesCells :
    (wVd.hasSb 3 = true ∧ ((wVd.linkWith 3 fun l => { l with out := [wCell 1 0] }).sbLink 3).out = wCell 1 0 :: [] ∧
      (wCell 1 0).kind ≠ 0 ∧ wVd.htNs.toNat % 1024 = 0 ∧ (wVd.sbLink 3).txNs ≠ some wVd.htNs ∧ (wVd.sbLink 3).out = [] ∧
      (wVd.sbLink 3).ucSeg = none ∧ ((wVd.linkWith 3 fun l => { l with ucSeg := some 0 }).sbLink 3).ucSeg = some 0 ∧
      0 ≤ wVd.ucodeLen8 ∧ wVd.ucodeLen8 < wVd.ucodeLen8 + 1 ∧ Nat.testBit (wCell 0 0).hb 8 = false ∧
      Nat.testBit ((wVd.linkWith 3 fun l => { l with hb := 256 }).sbLink 3).hb 8 = true ∧
      ((wVd.linkWith 3 fun l => { l with ucWait := some 4 }).sbLink 3).ucWait = some 4 ∧
      ((wVd.linkWith 3 fun l => { l with txNs := some 0 }).sbLink 3).txNs = some wVd.htNs ∧
      (wVd.atNs 5).htNs.toNat % 1024 ≠ 0) ∧
    (cellOf 0 = none ∧ cellOf (cellBits (wCell 0 0)) = some (wCell 0 0) ∧ cellOf (cellBits (wCell 1 0x1000)) = some (wCell 1 0x1000) ∧
      cellOf (cellBits (wCell 2 0x1000)) = some (wCell 2 0x1000) ∧
      (wCell 0 0).kind = 0 ∧ wVd.isVd = true ∧ (wVd.die 3).idPart = none ∧ (wVd.sbLink 3).reading = false) ∧
    (wVsu.isVd = false ∧ wVsu.belfryOn = true ∧ cellAddr 0x2000 = none ∧ cellAddr 0x1000 = some Reg.BEL_HT_NS ∧
      wVsu.reach .sideband Reg.BEL_HT_NS = true ∧ cellAddr 0 = some 0 ∧ wVsu.reach .sideband 0 = true ∧ 0 < 0x2400000) ∧
    (wUcode.canUcode = true ∧ wUcode.sb.ucOpen = true ∧ wUcode.ucodeGood 1 (crc32c (List.replicate 8 1)) = true ∧
      wUcode.ucodeGood 2 0 = false ∧ wVsu.canUcode = true ∧ wVsu.sb.ucOpen = false) ∧
    (wVd.isDome = true ∧ ({ wVd with flt := { dies := [(3, { idPart := some 0x03010000 })] } } : State).peerLevel (2 * 3) = 3) ∧
    (wVd.sb.relayAt = none ∧ 1 ≤ ((0x103 : W).toNat >>> 8) % 16 ∧ ((0x103 : W).toNat >>> 8) % 16 ≤ 7 ∧
      ((0x803 : W).toNat >>> 8) % 16 > 7) ∧
    (wRelay.sb.relayAt = some 0 ∧ (wRelay.atNow 10000).time.now - 0 ≥ 10 * usX ∧
      (wRelay.atNow 9999).time.now - 0 < 10 * usX) := by decide +kernel

/-! ### Clocks, energy, events, the lantern, updates, heartbeats -/

def State.clkWith (s : State) (f : ClkSt → ClkSt) : State := { s with clk := f s.clk }
def State.evqWith (s : State) (f : EvqSt → EvqSt) : State := { s with evq := f s.evq }
def State.nrgWith (s : State) (f : NrgSt → NrgSt) : State := { s with nrg := f s.nrg }
def State.fwuWith (s : State) (f : FwuSt → FwuSt) : State := { s with fwu := f s.fwu }
def State.regsAs (s : State) (l : Tab W) : State := { s with regs := l }
/-- The first HT wake is armed for 5 ns. -/
def wWake : State := ((wVd.regsAs [(Reg.CLK_CMP_CFG, 1), (Reg.CLK_WAKE_HT, 0x8000000000000005)]).atNs 9).clkWith fun c => { c with
  cmpFilt := [(0, { level := true })] }

theorem witness_RegionsComparatorsAndStandby :
    (wVsu.isVsu = true ∧ wVsu.awake = true ∧ (wVsu.clkWith fun c => { c with hostOk := false }).clk.hostOk = false) ∧
    (wVd.isVd = true ∧ wVd.present Reg.CLK_REGION = true ∧ (7 : W).toNat % 8 = 7 ∧ wVd.clk.cmbCur ≠ 7 ∧ ((7 : W).toNat >>> 4) % 8 = wVd.clk.tilCur ∧
      codeValid wVd.clk.tilCur = true ∧ (wVd.runAt 5).cad.st = .running ∧ wVd.cad.st = .idle ∧ wVd.clk.stopping = false) ∧
    ((wVd.clkWith fun c => { c with stopping := true }).clk.stopping = true ∧ wVd.clk.pendCmb = none ∧ wVd.clk.pendTil = none) ∧
    (wWake.belfryOn = true ∧ (wVd.cmpSense ⟨0, none⟩).cmpFires 0 = false ∧ (wWake.cmpSense ⟨0, none⟩).cmpFires 0 = true ∧ 4 < 8 ∧
      (wWake.reg Reg.CLK_CMP_CFG).getLsbD (8 + 0) = false ∧ ((wVd.regsAs [(Reg.CLK_CMP_CFG, 0x10010)]).cmpSense ⟨4, some 100⟩).cmpFires 4 = true ∧
      ((wVd.regsAs [(Reg.CLK_CMP_CFG, 0x20020)]).cmpSense ⟨5, some 1200⟩).cmpFires 5 = true ∧
      (wWake.pending = [] ∧ wWake.time.servo ≠ .coarse ∧ wWake.til.run = none ∧ wWake.pwr.mainAt = none ∧
        wWake.pwr.modEnAt = none ∧ wWake.pwr.perstAt = none)) ∧
    (wVd.pwr.power = .on ∧ wVd.clk.standby = false ∧ (wVd.clkWith fun c => { c with standby := true }).clk.standby = true) := by
  decide

def wPlan : State := ((wLan.runAt 5).atNs 1024000).nrgWith fun n => { n with sumNj := 300000000 }
/-- A DOME whose one input is port 40. -/
def wSend : State := ((wPort id).atNs 500000).refWith fun r => { r with sel := ⟨some 40, none⟩ }
def wRel : State := ((wIssuer wRoot).atNs 256000).nrgWith fun n => { n with relayK := 9 }

theorem witness_LedgerPlansAndAggregates :
    (∃ s, s = ((wLan.nrgWith fun n => { n with kinds := [(0, .work), (5000, .freewheel)] })) ∧
      (s.atNs 2000).kindAt ((s.atNs 2000).htNs.toNat - 500) = .work ∧
      (s.atNs 6000).kindAt ((s.atNs 6000).htNs.toNat - 500) = .freewheel ∧ wLan.kindAt (wLan.htNs.toNat - 500) = .neither) ∧
    (wLan.isVd = true ∧ wLan.belfryOn = true ∧ wLan.htNs.toNat / 1024000 = wLan.nrg.period ∧
      wPlan.htNs.toNat / 1024000 ≠ wPlan.nrg.period) ∧
    (∃ l, wPlan.awake = true ∧ wPlan.coreHeld 2 = false ∧ wPlan.cad.st = .running ∧ wPlan.img.live = some l ∧
      wPlan.costNow.nMeas + wPlan.nrg.bounds.get wPlan.cad.phase 0 < 4096 ∧
      (fitRatio (l.eWork * 5 / 4) (l.eFw * 5 / 4) wPlan.stepNs 0 = none)) ∧
    fitRatio 100 0 100000 800 = some 14 ∧
    (wSend.awake = true ∧ wSend.isRoot = false ∧ wSend.cad.root.issuer = false ∧ wSend.inputPorts = [40] ∧
      wSend.sendOffset ≤ wSend.htNs.toNat % 1024000 ∧ wSend.nrg.sentPer ≠ some (wSend.htNs.toNat / 1024000) ∧
      wSend.portUp 40 = true ∧ wSend.coreHeld 3 = false ∧ (wVd.upPort 40).portUp 40 = true ∧ (wVd.upPort 40).coreHeld 3 = true) ∧
    (∃ s, s = wRoot.atNs 500000 ∧ s.isRoot = true ∧ s.awake = true ∧ s.cad.root.issuer = false ∧
      s.sendOffset ≤ s.htNs.toNat % 1024000 ∧ s.nrg.sentPer ≠ some (s.htNs.toNat / 1024000)) ∧
    (wRel.isRoot = true ∧ wRel.awake = true ∧ wRel.cad.root.issuer = true ∧ 256000 ≤ wRel.htNs.toNat % 1024000 ∧
      wRel.nrg.hallDone ≠ some (wRel.htNs.toNat / 1024000) ∧ max wRel.aggK wRel.nrg.relayK ≠ wRel.ratioAhead ∧
      max wRel.aggK 0 = wRel.ratioAhead) :=
  ⟨⟨_, rfl, by decide⟩, by decide, ⟨_, by decide, by decide, by decide, rfl, by decide, by decide⟩, by decide, by decide,
   ⟨_, rfl, by decide⟩, by decide⟩

theorem witness_EventsAreCountedOnceAndKept :
    (Fld.XF_STATUS_RETRAIN.lo + Fld.XF_STATUS_RETRAIN.w ≤ 64 ∧ 0 < Fld.XF_STATUS_RETRAIN.w ∧
      Fld.XF_STATUS_RETRAIN.reg / 0x200000 ≠ 15 ∧
      ∀ id, id ∈ wVd.routes (Fld.XF_STATUS_RETRAIN.code / 256) → wVd.hqFull id = false) ∧
    (∃ s, s = wVd.regsAs [(Reg.EVQ_ROUTE + 8 * (Fld.XF_STATUS_RETRAIN.code / 256), 2)] ∧
      (s.reg (Reg.EVQ_ROUTE + 8 * (Fld.XF_STATUS_RETRAIN.code / 256))).getLsbD 1 = true ∧
      (s.reg (Reg.EVQ_ROUTE + 8 * (Fld.XF_STATUS_RETRAIN.code / 256))).getLsbD 0 = false ∧ (s.coreQ 1).count < coreQSize) :=
  ⟨by decide, _, rfl, by decide⟩

def wRecE : EvtRec := ⟨0x0301, false, 1, 0, 0, 0⟩
def wQ : State := wVd.evqWith fun e => { e with coreQ := [(1, ⟨5, 2, false⟩)], hostQ := [(0, ⟨5, 2, false⟩)], defer := [(.core 1, wRecE)] }
/-- Core 2's watchdog runs, for 4 ms. -/
def wWdg : State := (wLan.regsAs [(Reg.EVQ_WDG + 8 * 2, 0x104)])
def wMsg : Message := ⟨3, 0, 0, 0, .ledger 1 9⟩
/-- A message is held, and source 47 is enabled at core 0. -/
def wHeld : State := ((wPort id).evqWith fun e => { e with held := [(40, wMsg)], filt := [(175, { level := true })] }).regsAs [(Reg.EVQ_CORE_CTRL, 0), (Reg.EVQ_SRC_CFG + 8 * 15, 0x100)]

theorem witness_QueuesAndCoresAreServed :
    (wQ.present (Reg.EVQ_CORE_Q + 8 * 1) = true ∧ ((wQ.coreQ 1).head - 4).toNat ≤ coreQSize ∧
      coreQSize < ((wQ.coreQ 1).head - 6).toNat ∧ wQ.present (Reg.EVQ_HQ_IDX + 32 * 0) = true ∧
      ((wQ.hostQ 0).head - 5).toNat ≤ wQ.hqSize 0 ∧ wQ.hqSize 0 < ((wQ.hostQ 0).head - 6).toNat ∧
      wQ.reach .bar0 Reg.EVQ_MAILBOX = true ∧ wQ.reach .lantern Reg.EVQ_MAILBOX = true ∧ wVsu.reach .bar0 Reg.EVQ_MAILBOX = false ∧
      wAon.pathUp .bar0 = true ∧ wAon.reach .bar0 Reg.EVQ_MAILBOX = false) ∧
    ((∀ e, e ∈ wVd.evq.defer → wVd.canPlace e.1 = false) ∧ wQ.evq.defer = (.core 1, wRecE) :: [] ∧
      wQ.canPlace (.core 1) = true) ∧
    (wWdg.wdgRuns 2 = true ∧ (wWdg.core 2).wdgAt + wWdg.wdgTimeout 2 / 2 ≤ (wWdg.atNow 4000000).time.now ∧
      wWdg.time.now < (wWdg.core 2).wdgAt + wWdg.wdgTimeout 2 / 2 ∧
      (wWdg.core 2).wdgAt + wWdg.wdgTimeout 2 ≤ (wWdg.atNow 4000000).time.now ∧ wWdg.present (Reg.EVQ_WDG + 8 * 2) = true) ∧
    (wHeld.awake = true ∧ wHeld.belfryOn = true ∧ wHeld.pwr.power = .on ∧ wHeld.portUp 40 = true ∧ wHeld.isVd = true ∧ wHeld.msgForMe wMsg = true ∧
      (wHeld.core 0).inReset = false ∧ wHeld.corePending 0 = true ∧ (wHeld.reg (Reg.EVQ_CORE_CTRL + 8 * 0)).getLsbD 32 = false ∧
      wHeld.sharedPend 47 = true ∧ wHeld.sharedTarget 47 = 0 ∧ wHeld.evq.held = [(40, ⟨3, 0, 0, 0, .ledger 1 9⟩)] ∧
      wLan.corePending 1 = false) ∧
    (wVsu.upPort 0 |>.portUp 0) = true ∧ (wVsu.upPort 0).msgForMe ⟨0, 9, 0, 0, .other 0⟩ = false ∧
    (∃ s, s = ((wPort id).evqWith fun e => { e with held := [(40, wMsg)], filt := [(175, { level := true })] }).regsAs [(Reg.EVQ_SRC_CFG + 8 * 15, 0x100),
        (Reg.EVQ_CORE_CTRL, BitVec.ofNat 64 (2 ^ 32))] ∧ s.corePending 0 = true ∧
      (s.reg (Reg.EVQ_CORE_CTRL + 8 * 0)).getLsbD 32 = true) :=
  ⟨by decide, by decide, by decide, by decide, by decide, by decide, _, rfl, by decide⟩

def wNvs (l : List NvsWr) (w : Tab Nat) : State := { wVd with nvs := { wVd.nvs with queue := l, wear := w } }
theorem witness_PersistentWordsKeepTheirWear :
    (wVd.isVd = true ∧ wVd.present Reg.NVS_DATA = true ∧ 100 < 4096 ∧ wVd.wear 100 < 10000000 ∧ 10000000 ≤ (wNvs [] [(100, 10000000)]).wear 100) ∧
    ((wNvs [⟨100, 7, false⟩] []).nvs.queue = ⟨100, 7, false⟩ :: [] ∧ (wNvs [] []).wear 100 < 10000000 ∧
      (wNvs [] []).nvsWord 100 ≠ 7) := by decide

def wFwu (f : FwuSt → FwuSt) : State := wLan.fwuWith f
theorem witness_SlotsAreStagedAndBooted :
    (wLan.mainRuns = true ∧ wLan.fwu.fw ≠ .ready ∧ wLan.fwu.fw ≠ .go ∧ (wFwu fun x => { x with fw := .go }).fwu.fw = .go ∧
      (wFwu fun x => { x with staging := some (0, 64) }).fwu.staging = some (0, 64)) ∧
    ((wLan.slot wLan.inactive).st ≠ .valid ∧ wLan.flag Fld.FWU_CFG_MODE = false ∧ wLan.worn 17 = false ∧
      (wFwu fun x => { x with slotB := { st := .valid } }).flag Fld.FWU_CFG_MODE = false ∧
      ((wFwu fun x => { x with slotB := { st := .valid } }).slot (wFwu fun x => { x with slotB := { st := .valid } }).inactive).st = .valid) ∧
    (wVd.isVd = true ∧ wVd.awake = true ∧ wVd.pwr.power = .on ∧ wVd.pwr.aonRstN = true ∧ (wVd.core 0).inReset = true ∧
      wVd.slotGood wVd.bootActive = true ∧ wVd.evq.wait3 = [] ∧
      (wVd.evqWith fun e => { e with wait3 := [.ledger 40 9] }).slotGood 0 = true ∧
      (∃ s, s = wVd.fwuWith (fun x => { x with slotA := {}, slotB := x.slotA }) ∧ s.slotGood s.bootActive = false ∧
        s.slotGood s.inactive = true ∧ s.worn 17 = false) ∧ (wLan.core 0).inReset = false ∧ wLan.evq.wait3 = [] ∧ (∃ s, s = wVd.fwuWith (fun x => { x with slotA := {} }) ∧
        s.slotGood s.bootActive = false ∧ s.slotGood s.inactive = false)) ∧
    (∃ s, s = ({ wVd with pwr := { wVd.pwr with recovery := true } } : State) ∧ s.present Reg.FWU_RCV_CTRL = true ∧
      s.pwr.recovery = true ∧ (0 : W).getLsbD 42 = false ∧ (0 : W).getLsbD 43 = false) :=
  ⟨by decide, by decide, ⟨by decide, by decide, by decide, by decide, by decide, by decide, rfl, by decide,
    ⟨_, rfl, by decide⟩, by decide, rfl, _, rfl, by decide⟩, _, rfl, by decide⟩

def wAct : State := (wIssuer ({ wRoot with evq := wLan.evq })).fwuWith fun x => { x with fw := .ready, manifest := 7, actNs := 20000000, otherFw := some (7, true, false) }
def wReady : State := (wSend.atNs 1000000).fwuWith fun x => { x with fw := .ready, manifest := 7 }
theorem witness_ActivationsGoOrAbort :
    (wLan.mainRuns = true ∧ wLan.fwu.fw ≠ .go ∧ (wLan.runAt 5).cad.st ≠ .idle) ∧
    (wReady.isVd = true ∧ wReady.awake = true ∧ wReady.fwu.manifest ≠ 0 ∧ wReady.isRoot = false ∧ wReady.cad.root.issuer = false ∧
      wReady.fwu.sentPer ≠ some (wReady.htNs.toNat / 1024000) ∧ wReady.inputPorts = [40] ∧
      wReady.sendOffset + 512000 ≤ wReady.htNs.toNat % 1024000 ∧ wReady.portUp 40 = true) ∧
    (wAct.fwIssuer = true ∧ wAct.fwAgg = (true, false) ∧ wAct.fwu.otherFw = some (wAct.fwu.manifest, true, false) ∧
      wAct.fwu.seen.contains (3, wAct.fwu.manifest) = false ∧ wAct.fwu.fw = .ready ∧
      (wAct.fwuWith fun x => { x with fw := .fail }).fwAgg.2 = true ∧
      (wAct.fwuWith fun x => { x with otherFw := none }).fwu.otherFw = none ∧
      (wAct.atNs 10000000).fwu.actNs.toNat ≤ (wAct.atNs 10000000).htNs.toNat + 10000000 ∧
      wAct.htNs.toNat + 10000000 < wAct.fwu.actNs.toNat) ∧
    (wReady.coreHeld 3 = false ∧ wReady.fwu.seen.contains (2, 7) = false ∧ wReady.fwu.seen.contains (3, 7) = false ∧
      (wReady.fwuWith fun x => { x with seen := [(2, 7), (3, 7)] }).fwu.seen.contains (3, 7) = true) ∧
    ((wFwu fun x => { x with fw := .go, actNs := 5 }).htNs.toNat < 5 ∧
      ((wFwu fun x => { x with fw := .go, actNs := 5 }).atNs 5).fwu.actNs.toNat ≤ ((wFwu fun x => { x with fw := .go, actNs := 5 }).atNs 5).htNs.toNat ∧
      (wFwu fun x => { x with fw := .go, actNs := 5 }).worn 17 = false) := by decide +kernel

def wDom (m : Bool) (g : W) : DomRec := ⟨0, 2, 0, 1, 7, true, false, m, false, 0, 0, 0, g, 4⟩
def wHb (valid : Bool) (g : W) : Heartbeat :=
  ⟨valid, false, false, false, false, 9, 0, 7, 3, 0, 0, ⟨wDom true g, wDom false 0⟩, ⟨0, 0, 0, false, 0, 0, 0⟩, ⟨0, 0, 0, 0⟩, none, none⟩
def wHbSt : State := (wPort id).runAt 5

theorem witness_HeartbeatsCarryTimeAndReports :
    (wHbSt.awake = true ∧ wHbSt.carriesOs 40 = true ∧ wHbSt.isRoot = false ∧ wHbSt.cad.st = .running ∧ wHbSt.portFixed 40 = true ∧
      ({ wHbSt with ident := { role := .spire } } : State).portFixed 40 = false) ∧
    ((wHbSt.port 40).hbTick ≠ some (wHbSt.htNs.toNat / 1024) ∧ (wHbSt.port 40).txq = [] ∧ (wHbSt.port 40).lastOs = none ∧
      wHbSt.stamps (256 + 40) = true ∧ wHbSt.tdc.fifo.length < 4096 ∧ wHbSt.tdc.cdRun = none ∧
      ((wHbSt.portWith 40 fun x => { x with hbTick := some 0 }).port 40).hbTick = some (wHbSt.htNs.toNat / 1024)) ∧
    ((wHbSt.portWith 40 fun x => { x with lastOs := some 0 }).port 40).lastOs = some 0 ∧
    wHbSt.time.now - 0 < 256 * nsX ∧
    (wHbSt.ensureCut = wHbSt ∧ (wHb true 9).d0 = none ∧ (wHb true 9).d1 = none ∧ (wHb false 9).timeValid = false ∧
      (wHb true 9).timeValid = true ∧ ((wHb true 9).doms.get .A).mark = true ∧ ((wHb true 9).doms.get .B).mark = false ∧
      (∀ d, ((wHb true 9).doms.get d).epoch = wHbSt.cad.epoch)) :=
  ⟨by decide, by decide, by decide, by decide, by decide, by decide, by decide, by decide, by decide, by decide, by decide,
   fun d => by cases d <;> decide⟩

/-! ### Registers, invariants, resets, supplies -/

theorem witness_DomePortsAreAllFixed : wVd.isDome = true ∧ wVd.reach .bar0 Reg.HT_PORT_FIXED = true := by decide

theorem witness_RegisterWritesFollowAccessCodes :
    pathAddr .port 0x1300000 = none ∧
    (∃ a, pathAddr .bar0 0x1FFFFF8 = some a ∧ hostPage? a = none ∧ wVd.reach .bar0 a = false) ∧
    (∃ r, pathAddr .bar0 Reg.XF_STATUS = some Reg.XF_STATUS ∧ Reg.XF_STATUS % 8 = 0 ∧ wVd.reach .bar0 Reg.XF_STATUS = true ∧
      regRow? Reg.XF_STATUS = some r ∧ r.rwp = 0) ∧
    (wVd.reach .lantern Reg.NRG_CTRL = true ∧ 850 < Fld.NRG_CTRL_BUDGET_W.of 900) :=
  ⟨by decide, ⟨_, rfl, by decide⟩, ⟨_, by decide, by decide, by decide, rfl, by decide⟩, by decide⟩

theorem witness_StepKeeps : Memory.wf wVd.fab.ram = true ∧ regsWf wVd.ident.kind wVd.regs = true ∧ step wVd = .next wVd.clockEdge ∧
    regsWf wVsu.ident.kind wVsu.regs = true := ⟨rfl, rfl, rfl, rfl⟩
theorem witness_BoundedAtReset : Bounded wVd :=
  ⟨rfl, rfl, by decide, by decide, by decide, by decide, by decide, fun _ _ h => nomatch h⟩

theorem witness_ResetsKeepWhatTheirTableNames :
    wVd.nvs.queue = [] ∧ wVsu.isVd = false ∧ wVsu.pwr.vsuRstN = true ∧
    wVsu.time.servo ≠ .locked ∧
    (∃ s, s = ({ wVd with pwr := { wVd.pwr with aonRstN := false } } : State) ∧ s.pwr.aonRstN = false ∧ s.pwr.power ≠ .off ∧
      s.ident.dno < 1024 ∧ ({ s with ident := { s.ident with dno := 1024 } } : State).isDome = true) :=
  ⟨rfl, rfl, rfl, by decide, _, rfl, by decide⟩

theorem witness_SuppliesAndContacts :
    (wOff.isVd = true ∧ wOff.pwr.mainAt = none ∧ wOff.isDome = true ∧ wOff.ident.dno < 1024 ∧ wAon.pwr.mainAt = none ∧
      wVd.pwr.modEn = true ∧ ({ wAon with pwr := { wAon.pwr with modEn := true } } : State).pwr.modEn = true ∧ wOff.pwr.power = .off ∧ wOff.pwr.hwShutdown = false ∧ wVd.pwr.power ≠ .off ∧ wAon.pwr.power = .aon ∧
      wAon.pwr.hwShutdown = false ∧ wVd.pwr.power = .on ∧ wVd.isVd = true ∧ wVsu.isVd = false) ∧
    (∃ v, wVd.i2cReg 0 = some v) ∧ wVd.i2cReg 0xFF = none ∧ (0x48 = 0x48 + wVd.pwr.i2cAddr % 8 ∧ 0x49 ≠ 0x48 + wVd.pwr.i2cAddr % 8) ∧ wVd.cad.st = .idle ∧ (wVd.runAt 5).cad.st ≠ .idle ∧
    (∃ s, s = ({ wAon with pwr := { wAon.pwr with mainAt := some 5 } } : State) ∧ s.isVd = true ∧ s.pwr.power = .aon ∧ s.pending = [] ∧ s.belfryOn = true ∧
      s.pwr.mainAt = some 5 ∧ s.pwr.modEnAt = none ∧ s.pwr.perstAt = none) ∧
    (∃ s, s = ({ wVd with pwr := { wVd.pwr with modEnAt := some 0 } }.atNow 1000 : State) ∧ s.pending = [] ∧
      s.belfryOn = true ∧ s.pwr.perstAt = none ∧ s.pwr.mainAt = none ∧ s.pwr.power = .on ∧ s.pwr.modEn = true ∧
      0 + 1000 * nsX ≤ s.clockEdge.time.now ∧ s.clockEdge.pwr.power = .aon) ∧
    (∃ s, s = ({ wAon with pwr := { wAon.pwr with modEnAt := some 0 } }.atNow 1000 : State) ∧ s.pending = [] ∧
      s.belfryOn = true ∧ s.pwr.modEn = false ∧ s.pwr.hwShutdown = false ∧ s.clockEdge.pwr.modEn = true ∧ s.pwr.power = .aon ∧
      s.clockEdge.time.now < max s.pwr.enAt 0 + 20 * msX) ∧
    (∃ s, s = ({ wVd with pwr := { wVd.pwr with perstAt := some 0 } } : State) ∧ s.pending = [] ∧ s.belfryOn = true ∧
      s.time.servo ≠ .coarse ∧ s.til.run = none ∧ s.pwr.modEnAt = none ∧ s.pwr.mainAt = none ∧
      s.clockEdge.time.now < 0 + 1000 * nsX ∧ s.clockEdge.pwr = s.pwr) :=
  ⟨by decide, ⟨_, rfl⟩, rfl, by decide, rfl, by decide, ⟨_, rfl, by decide⟩, ⟨_, rfl, by decide⟩, ⟨_, rfl, by decide⟩, _, rfl, by decide⟩

/-! ### Worked examples of the manual -/

/-- One cycle in tick 250 at depth 5 (after R18): a stretch of 175,921,860,444, a period of 140,913,410,215,772. -/
theorem test_stretch : stretch 5 (triOf 250) = 175921860444 ∧ period 5 (250 * 32) = 140913410215772 := by decide +kernel

/-- The freewheel positions at ratio 10 (after R126). -/
theorem test_freewheel_ten :
    (List.range 64).filter (fun i => freewheel (BitVec.ofNat 64 i) 10) = [6, 12, 19, 25, 31, 38, 44, 51, 57, 63] := by decide

/-- The check value of the CRC-32C of frames (R209). -/
theorem test_crc32c : crc32c ((List.range 9).map fun i => BitVec.ofNat 8 (0x31 + i)) = 0xE3069283 := by decide +kernel

/-- The worked header of "The exchange fabric" (R208): flit 15 of tile 300 of die 1,657 in step 5,000,000 of phase 2. -/
theorem test_header : leBytes 16 (flitHeader (mkFlit (.sched 0x4B40 300 0x067 9 0x967 2) 0 15 false [] 0)) =
    [0x01, 0x0F, 0, 0, 0x40, 0x4B, 0x2C, 0x01, 0x70, 0x06, 0xE9, 0x2C, 0x21, 0, 0, 0] := by decide +kernel

/-- "A reduction worked through": 2^30, 1, -2^30 and 2^-8 sum exactly to 1 + 2^-8; with 3 × 2^-10 the FP32 and BF16 results. -/
def exTerms : List Val := [0x4E80, 0x3F80, 0xCE80, 0x3B80].map fun x => elemDecode 2 x
def exSum : Frame := (exTerms.map Frame.of).foldl Frame.add {}
def exAll : Frame := exSum.add (Frame.of (.fin false ⟨3, -10⟩))
theorem test_exact_sum : exSum = Frame.of (.fin false ⟨257, -8⟩) := by decide +kernel
theorem test_exact_rounds : (elemEncode 0 false .even exAll.val).1 = 0x3F80E000 ∧
    (elemEncode 2 false .even exAll.val).1 = 0x3F81 := by decide +kernel
/-- The FIXED sum of the same terms is +0. -/
theorem test_fixed_sum : bits32 (fixedSum 4 (exTerms.map to32)) = 0 := by decide +kernel

/-- The DOME's XS block of the same example: header 0x03F8, window 128 of element 0 and 257 of element 5. -/
def exBlock : List Byte := (xsBytes 0 (Frame.of (.fin false ⟨1, -1⟩) :: List.replicate 4 ({} : Frame) ++ [exSum] ++ List.replicate 26 ({} : Frame))).1
theorem test_xs_block : exBlock.take 10 = [0xF8, 0x03, 0x80, 0, 0, 0, 0, 0, 0, 0] ∧
    (exBlock.drop 42).take 8 = [0x01, 0x01, 0, 0, 0, 0, 0, 0] := by decide +kernel

/-- The MXFP8 block of "Formats" (R268): scale 0x79, elements 0x7A and 0x4D of 5.0 and 0.1. -/
theorem test_mx_block : (mxEncode 8 (List.replicate 32 .even) (.fin false ⟨5, 0⟩ :: elemDecode 0 0x3DCCCCCD :: List.replicate 30 .zero)).1 = 0x79 ∧
    (mxEncode 8 (List.replicate 32 .even) (.fin false ⟨5, 0⟩ :: elemDecode 0 0x3DCCCCCD :: List.replicate 30 .zero)).2.1.take 2 = [0x7A, 0x4D] := by
  decide +kernel

/-- The counter block of a stochastic rounding (after R341), and the value that it rounds up from 0x2000 on. -/
theorem test_counter : leBytes 16 (({ wVd with cad := { wVd.cad with wsc := 5000000, phase := 2 } } : State).counter 0 12 9 2) =
    [0x40, 0x4B, 0x4C, 0, 0, 0, 0, 0, 0x02, 0x0C, 0, 0x09, 0, 0x20, 0, 0] := by decide +kernel
theorem test_stochastic : (elemEncode 2 false (.word 0x1FFF) (elemDecode 0 0x3F80E000)).1 = 0x3F80 ∧
    (elemEncode 2 false (.word 0x2000) (elemDecode 0 0x3F80E000)).1 = 0x3F81 := by decide +kernel

/-- "An odd shape worked through": the nominal latency and the rows of A, B and C. -/
def exTil : TilInstr := { opcode := 1, m := 200, n := 300, k := 333, fmt := 2, start := 0, lat := 2216, opnd := 0 }
theorem test_odd_shape : exTil.nominal = 2214 ∧ matRows 2 (200 * 333) = 595 ∧ matRows 2 (333 * 300) = 892 ∧
    matRows 0 (200 * 300) = 1072 := by decide

/-- "A plan worked through": the smallest ratio that fits is 21. -/
theorem test_plan : fitRatio 47500 21250 50000 798720 = some 21 := by decide +kernel

/-- A status event's code is 256 × block + bit (R408): SPK_UNREACHABLE is 0x0501. -/
theorem test_event_code : Fld.SPK_STATUS_UNREACHABLE.code = 0x0501 := by decide

/-- The FIPS 197 and FIPS 180-4 examples that the manual's AES-128 and SHA-384 are named by. -/
theorem test_aes : aes128 (List.range 16) ((List.range 16).map fun i => 17 * i) =
    [0x69, 0xC4, 0xE0, 0xD8, 0x6A, 0x7B, 0x04, 0x30, 0xD8, 0xCD, 0xB7, 0x80, 0x70, 0xB4, 0xC5, 0x5A] := by decide +kernel
theorem test_sha : (sha384 [0x61, 0x62, 0x63]).take 4 = [0xCB, 0x00, 0x75, 0x3F] := by decide +kernel

end Sys2Proof.Machine

/-! ### Ill-formed commands, one for each check -/

namespace Sys2Proof

theorem test_wf_ranges : fits 4 16 = false ∧ fitsInt 8 128 = false ∧ fitsInt 8 (-129) = false ∧ portWf 64 = false ∧
    laneWf 4 = false ∧ idWf 16384 = false ∧ chWf 326 = false ∧ rangesWf [] = false ∧ rangesWf [(4096, 0)] = false ∧
    refetchWf 65536 0 0 0 = false ∧ bar2Wf 0 0 = false ∧ bar2Wf (2 ^ 36 - 1) 2 = false := by decide
theorem test_wf_records :
    Decision.wf ⟨65536, 0, .stop, 1, 0, 0, 0, 0, 0⟩ = false ∧ DomRec.wf ⟨0, 16, 0, 0, 0, true, false, false, false, 0, 0, 0, 0, 0⟩ = false ∧
    ResRec.wf ⟨0, 4, 0, false, 0, 0, 0⟩ = false ∧ RotRec.wf ⟨5, 0, 0, 0⟩ = false ∧ FlitBody.wf (.signal 0 16 15 0 16) = false ∧
    Flit.wf ⟨false, false, 0, 16, 0, 0, .bcast 0 0 0, List.replicate 224 0, 0, 0, 0, 0⟩ = false ∧
    RxFrame.wf (.flit ⟨false, false, 0, 0, 0, 0, .bcast 0 0 0, [], 0, 0, 0, 0⟩) = false ∧
    TrainInfo.wf ⟨2, 0, 0, 0, 0, 0, 0, none, none⟩ = false ∧ SpkSrc.wf (.core 4) = false ∧ spkWf .hostPage 256 0 = false ∧
    SideReq.wf ⟨0, 4096, 0, 0, 0, 0, []⟩ = false ∧ SigRec.wf ⟨65536, 0, 0, 0⟩ = false ∧ MsgBody.wf (.ledger 0 256) = false ∧
    Message.wf ⟨4, 0, 0, 0, .other 0⟩ = false ∧ Verdict.wf ⟨0, 0, 1, 0, 0⟩ = false ∧ Cell.wf ⟨16, 0, 0, 0⟩ = false ∧
    WtrSel.wf (.ref 4) = false := by decide
theorem test_wf_commands :
    Instr.wf (.htLoadApply 4) = false ∧ Instr.wf (.tdcStamp 0 0 0) = false ∧ Instr.wf (.delayReqRx 0 0 65536 0 0) = false ∧
    Instr.wf (.stepMarkPulse 2) = false ∧ Instr.wf (.spkSignal ⟨.hostPage, 0, 0⟩ 0 0 (2 ^ 32)) = false ∧
    Instr.wf (.bcastTileRx 0 0 0 0 [] 0) = false ∧ Instr.wf (.refetchFailRx 0 0 0 0 0 4) = false ∧
    Instr.wf (.creditRx 0 [] 0) = false ∧ Instr.wf (.creditSaturation 0 4) = false ∧
    Instr.wf (.sideWrite 0 ⟨1, 0, 0, 0, 0, 0, []⟩ [] 0) = false ∧ Instr.wf (.signalFlitRx 0 0 0 0 []) = false ∧
    Instr.wf (.spareStaged 16) = false ∧ Instr.wf (.evtTail 64 ⟨.bar0, 8, 0⟩) = false ∧ Instr.wf (.sbRdReq ⟨2, 0, 0, 0⟩) = false ∧
    Instr.wf (.ucodeSegment 0 []) = false ∧ Instr.wf (.comparatorFire ⟨8, none⟩) = false ∧ Instr.wf (.wdgKick 4 0) = false ∧
    Instr.wf (.hqTailWrite 64 0) = false ∧ Instr.wf .voteInstant = true := by decide

end Sys2Proof
end

section
/-! PROOFS. Reads of the log and count registers. -/

namespace Sys2Proof.Machine

/-! ### Reads as their path carries them (R487, R489) -/

theorem State.readVia_of_carries {s : State} {v : ReadVia} (h : s.Carries v) (done : State → State) :
    s.readVia v done = done s := by
  obtain ⟨hup, hwhole⟩ := h
  simp [State.readVia, hup, hwhole]

theorem State.readVia_of_part {s : State} {v : ReadVia} (hup : s.pathUp v.path = true) (hpart : wholeRead v = false)
    (done : State → State) : s.readVia v done = { s with out := s.out ++ [.abort v.path] } := by
  simp [State.readVia, hup, hpart]

theorem State.readVia_of_down {s : State} {v : ReadVia} (hdown : s.pathUp v.path = false) (done : State → State) :
    s.readVia v done = { s with out := s.out ++ [.failed v.path] } := by
  simp [State.readVia, hdown]

/-- A read command fails without effect wherever its register answers through `State.readVia`. -/
theorem otherReadsFail_of_readVia {c : ReadVia → Instr} (done : ReadVia → State → State)
    (hc : ∀ s v, exec (c v) s = .next (s.readVia v (done v))) : OtherReadsFail c := by
  intro s v
  exact ⟨fun hup hpart => by rw [hc, State.readVia_of_part hup hpart], fun hdown => by rw [hc, State.readVia_of_down hdown]⟩

/-! ### Reads that clear -/

/-- A read that reaches its register returns the value, and takes the register's RC fields away and nothing else. -/
theorem State.takeRead_of_reach {s : State} {p : Path} {a : Nat} (h : s.reach p a = true) :
    OnlyRegs [a] { s with out := s.out ++ [.readData p (s.readReg p a)] } (s.takeRead p a) ∧
    (s.takeRead p a).reg a = s.reg a &&& ~~~ rcMask a := by
  have ht : s.takeRead p a =
      (s.emit (.readData p (s.readReg p a))).setReg a (s.reg a &&& ~~~ rcMask a) := by
    simp only [State.takeRead, h, if_true]
    rfl
  rw [ht]
  exact ⟨⟨rfl, fun b hb => State.reg_setReg_ne _ _ _ _ (by simpa using hb)⟩, State.reg_setReg_self _ _ _⟩

theorem State.takeRead_of_not_reach {s : State} {p : Path} {a : Nat} (h : s.reach p a = false) :
    s.takeRead p a = { s with out := s.out ++ [.readData p 0] } := by
  simp [State.takeRead, h]

/-- What a command says that reads a register and clears its RC fields. -/
theorem readClear_reads {c : ReadVia → Instr} {a : Nat} (hc : ∀ s v, exec (c v) s = .next (s.readClear v a)) :
    OtherReadsFail c ∧ ∀ (s : State) (v : ReadVia), s.Carries v →
      (s.reach v.path a = true → ∃ t, exec (c v) s = .next t ∧
        OnlyRegs [a] { s with out := s.out ++ [.readData v.path (s.readReg v.path a)] } t ∧
        t.reg a = s.reg a &&& ~~~ rcMask a) ∧
      (s.reach v.path a = false → exec (c v) s = .next { s with out := s.out ++ [.readData v.path 0] }) := by
  refine ⟨otherReadsFail_of_readVia (fun v t => t.takeRead v.path a) hc, fun s v hv => ?_⟩
  rw [hc, State.readClear, State.readVia_of_carries hv]
  exact ⟨fun h => ⟨_, rfl, State.takeRead_of_reach h⟩, fun h => by rw [State.takeRead_of_not_reach h]⟩

/-- Settles O36: each of the fourteen commands is a read that clears of its own register. -/
theorem logReadsReturnAndClear : Obligations.LogReadsReturnAndClear := by
  unfold Obligations.LogReadsReturnAndClear
  intro n c a h
  have hc : ∀ s v, exec (c v) s = .next (s.readClear v a) := by
    simp only [Prod.mk.injEq] at h
    rcases h with ⟨rfl, rfl⟩ | ⟨rfl, rfl⟩ | ⟨rfl, rfl⟩ | ⟨rfl, rfl⟩ | ⟨rfl, rfl⟩ | ⟨rfl, rfl⟩ | ⟨rfl, rfl⟩ | ⟨rfl, rfl⟩ |
      ⟨rfl, rfl⟩ | ⟨rfl, rfl⟩ | ⟨rfl, rfl⟩ | ⟨rfl, rfl⟩ | ⟨rfl, rfl⟩ | ⟨rfl, rfl⟩ <;> exact fun _ _ => rfl
  exact readClear_reads hc

end Sys2Proof.Machine
end

section
/-! PROOFS. Stamps: what an event on a channel of the TDC changes, timeouts, and the rings (R36 to R52). -/

namespace Sys2Proof.Machine

/-! ### Counting fields -/

theorem Fld.of_lt (f : Fld) (v : W) : f.of v < 2 ^ f.w := Nat.mod_lt _ (Nat.two_pow_pos _)

theorem State.fld_le (s : State) (f : Fld) : s.fld f ≤ 2 ^ f.w - 1 := by
  have h := Fld.of_lt f (s.reg f.reg)
  unfold State.fld
  omega

/-- A count in a register adds and saturates. -/
theorem State.fld_addCount_self (s : State) (f : Fld) (n : Nat) (h : f.lo + f.w ≤ 64) :
    (s.addCount f n).fld f = min (s.fld f + n) (2 ^ f.w - 1) := by
  have hpos := Nat.two_pow_pos f.w
  have hset : (s.addCount f n).fld f = min (s.fld f + n) (2 ^ f.w - 1) % 2 ^ f.w := State.fld_setFld_self s f _ h
  rw [hset, Nat.mod_eq_of_lt (by omega)]

theorem State.reg_addCount_ne (s : State) (f : Fld) (n a : Nat) (h : a ≠ f.reg) : (s.addCount f n).reg a = s.reg a :=
  State.reg_setReg_ne s f.reg a _ h

theorem State.addCount_onlyRegs (s : State) (f : Fld) (n : Nat) : OnlyRegs [f.reg] s (s.addCount f n) :=
  ⟨rfl, fun a ha => State.reg_addCount_ne s f n a (by simpa using ha)⟩

/-! ### The record of a stamped event (R45, R49) -/

theorem State.fifoPut_of_room {s : State} (h : s.tdc.fifo.length < 4096) (r : BitVec 64) :
    s.fifoPut r = { s with tdc := { s.tdc with fifo := s.tdc.fifo ++ [r] } } := by
  simp [State.fifoPut, h]

theorem State.fifoPut_of_full {s : State} (h : 4096 ≤ s.tdc.fifo.length) (r : BitVec 64) :
    s.fifoPut r = s.addCount Fld.TDC_FIFO_STATUS_OVERFLOW 1 := by
  simp [State.fifoPut, Nat.not_lt.2 h]

/-- A stamp that a code-density run does not take is recorded. -/
theorem State.stampOut_of_recorded {s : State} {ch : Nat} (h : ch ≠ 324 ∨ s.tdc.cdRun = none) (kind stamp : Nat) :
    s.stampOut ch kind stamp = s.fifoPut (fifoRec stamp ch kind (bit (!s.tdc.ringLock))) := by
  unfold State.stampOut
  rcases h with h | h
  · split <;> simp [h]
  · simp [h]

/-- A stamp of the crystal channel in a code-density run is binned. -/
theorem State.stampOut_of_binned {s : State} {n : Nat} (h : s.tdc.cdRun = some (n + 1)) (kind stamp : Nat) :
    s.stampOut 324 kind stamp = { s with tdc := { s.tdc with
      cdRun := some n, hist := s.tdc.hist.set (stamp % 256) (min (2 ^ 32 - 1) (s.tdc.hist.get (stamp % 256) 0 + 1)) } } := by
  unfold State.stampOut
  simp [h]

/-! ### An event on a channel (R37, R44, R47) -/

theorem State.stamps_of_armed {s : State} {ch : Nat} (h : s.armedCh ch = true) (hd : s.tdc.deadTill.get ch 0 ≤ s.time.now) :
    s.stamps ch = true := by simp [State.stamps, h, hd]

theorem State.stamps_of_not_armed {s : State} {ch : Nat} (h : s.armedCh ch = false) : s.stamps ch = false := by
  simp [State.stamps, h]

theorem State.stamps_of_dead {s : State} {ch : Nat} (h : s.time.now < s.tdc.deadTill.get ch 0) : s.stamps ch = false := by
  simp [State.stamps, Nat.not_le.2 h]

theorem State.armed_of_stamps {s : State} {ch : Nat} (h : s.stamps ch = true) : s.armedCh ch = true := by
  simp only [State.stamps, Bool.and_eq_true] at h
  exact h.1

/-- The unit as an event that is stamped leaves it, its record apart: the dead time begins, and the timeout of a reference
channel again. -/
def State.dead (s : State) (ch : Nat) : State :=
  { s with tdc := { s.tdc with
      deadTill := s.tdc.deadTill.set ch (s.time.now + deadTime),
      waitFrom := if refChannel ch then s.tdc.waitFrom.set ch s.tdc.coarse else s.tdc.waitFrom } }

theorem State.tdcTake_of_not_armed {s : State} {ch : Nat} (h : s.armedCh ch = false) (kind stamp : Nat) :
    s.tdcTake ch kind stamp = s := by
  simp [State.tdcTake, h]

theorem State.tdcTake_of_dead {s : State} {ch : Nat} (ha : s.armedCh ch = true) (h : s.stamps ch = false) (kind stamp : Nat) :
    s.tdcTake ch kind stamp = s.addCount Fld.TDC_STATUS_MISSED 1 := by
  simp [State.tdcTake, ha, h]

theorem State.tdcTake_of_stamps {s : State} {ch : Nat} (h : s.stamps ch = true) (kind stamp : Nat) :
    s.tdcTake ch kind stamp = (s.dead ch).stampOut ch kind stamp := by
  simp only [State.tdcTake, State.armed_of_stamps h, h, Bool.not_true, Bool.false_eq_true, if_false]
  rfl

/-- `t` is `s` but for what an event on a TDC channel may change: dead times and timeouts, a code-density run, the records
held, and the counts of events missed and records lost. -/
def OnlyStamp (s t : State) : Prop :=
  t = { s with
    regs := t.regs,
    tdc := { s.tdc with
      deadTill := t.tdc.deadTill, waitFrom := t.tdc.waitFrom, cdRun := t.tdc.cdRun, hist := t.tdc.hist,
      fifo := t.tdc.fifo } } ∧
  ∀ a, a ≠ Reg.TDC_STATUS → a ≠ Reg.TDC_FIFO_STATUS → t.reg a = s.reg a

theorem fifoPut_onlyStamp (s : State) (r : BitVec 64) : OnlyStamp s (s.fifoPut r) := by
  by_cases h : s.tdc.fifo.length < 4096
  · rw [State.fifoPut_of_room h]
    exact ⟨rfl, fun _ _ _ => rfl⟩
  · rw [State.fifoPut_of_full (Nat.not_lt.1 h)]
    exact ⟨rfl, fun a _ ha => State.reg_addCount_ne s _ 1 a ha⟩

theorem stampOut_onlyStamp (s : State) (ch kind stamp : Nat) : OnlyStamp s (s.stampOut ch kind stamp) := by
  by_cases h : ch ≠ 324 ∨ s.tdc.cdRun = none
  · rw [State.stampOut_of_recorded h]
    exact fifoPut_onlyStamp s _
  · obtain ⟨rfl, n, hn⟩ : ch = 324 ∧ ∃ n, s.tdc.cdRun = some n := by
      simpa [Option.ne_none_iff_exists', not_or] using h
    cases n with
    | zero =>
      have hs : s.stampOut 324 kind stamp = s := by simp [State.stampOut, hn]
      rw [hs]
      exact ⟨rfl, fun _ _ _ => rfl⟩
    | succ n =>
      rw [State.stampOut_of_binned hn]
      exact ⟨rfl, fun _ _ _ => rfl⟩

/-- Once for all, what an event on a channel changes. -/
theorem tdcTake_onlyStamp (s : State) (ch kind stamp : Nat) : OnlyStamp s (s.tdcTake ch kind stamp) := by
  by_cases ha : s.armedCh ch = true
  · by_cases hs : s.stamps ch = true
    · obtain ⟨heq, hreg⟩ := stampOut_onlyStamp (s.dead ch) ch kind stamp
      rw [State.tdcTake_of_stamps hs]
      exact ⟨by rw [heq]; rfl, hreg⟩
    · rw [State.tdcTake_of_dead ha (by simpa using hs)]
      exact ⟨rfl, fun a h _ => State.reg_addCount_ne s _ 1 a h⟩
  · rw [State.tdcTake_of_not_armed (by simpa using ha)]
    exact ⟨rfl, fun _ _ _ => rfl⟩

/-! ### TDC_STAMP -/

/-- The unit with its loopback markers and its round trips counted anew. -/
def State.counted (s : State) (a b : Nat) (l : List Trip) : State :=
  { s with tdc := { s.tdc with lbLeft := a, lbTxLeft := b, trips := l } }

/-- A marker of a loopback run, and the end of a wait for DELAY_RESP, change those counts alone. -/
theorem State.respCame_lbCount (s : State) (ch kind : Nat) :
    ∃ a b l, (s.lbCount ch kind).respCame ch kind = s.counted a b l := by
  have hlb : ∃ a b, s.lbCount ch kind = { s with tdc := { s.tdc with lbLeft := a, lbTxLeft := b } } := by
    unfold State.lbCount
    split
    · exact ⟨_, _, rfl⟩
    · exact ⟨_, _, rfl⟩
  obtain ⟨a, b, hab⟩ := hlb
  refine ⟨a, b, ((s.lbCount ch kind).respCame ch kind).tdc.trips, ?_⟩
  rw [hab]
  unfold State.respCame
  split
  · split <;> rfl
  · rfl

/-- Only an event that is stamped counts as a marker or as an answer. -/
theorem State.respCame_lbCount_of_not_stamps {s : State} {ch : Nat} (h : s.stamps ch = false) (kind : Nat) :
    (s.lbCount ch kind).respCame ch kind = s := by
  simp [State.lbCount, State.respCame, h]

/-- The record of a stamp (R39, R63). -/
theorem fifoRec_rawStamp (s : State) (ch kind delta : Nat) :
    fifoRec (rawStamp s.tdc.coarse delta) ch kind (bit (!s.tdc.ringLock)) =
      fifoRec ((s.tdc.coarse % 2 ^ 40) * 256 + (256 - max 1 (min 256 ((delta + 255) / 256))) % 256) ch kind
        (if s.tdc.ringLock then 0 else 1) := by
  cases s.tdc.ringLock <;> rfl

theorem State.doTdcStamp_of_kindOk {s : State} {ch kind : Nat} (h : s.kindOk ch kind = true) (delta : Nat) :
    s.doTdcStamp ch kind delta = ((s.lbCount ch kind).respCame ch kind).tdcTake ch kind (rawStamp s.tdc.coarse delta) := by
  simp [State.doTdcStamp, h]

/-- An event of a kind that its channel does not take, or on a channel that takes none. -/
theorem doTdcStamp_of_refused {s : State} {ch kind : Nat} (h : s.kindOk ch kind = false ∨ s.armedCh ch = false) (delta : Nat) :
    s.doTdcStamp ch kind delta = s := by
  by_cases hk : s.kindOk ch kind = true
  · have ha : s.armedCh ch = false := h.resolve_left (by simp [hk])
    rw [State.doTdcStamp_of_kindOk hk, State.respCame_lbCount_of_not_stamps (State.stamps_of_not_armed ha),
      State.tdcTake_of_not_armed ha]
  · simp [State.doTdcStamp, hk]

theorem doTdcStamp_of_dead {s : State} {ch kind : Nat} (hk : s.kindOk ch kind = true) (ha : s.armedCh ch = true)
    (h : s.time.now < s.tdc.deadTill.get ch 0) (delta : Nat) :
    s.doTdcStamp ch kind delta = s.addCount Fld.TDC_STATUS_MISSED 1 := by
  have hs := State.stamps_of_dead h
  rw [State.doTdcStamp_of_kindOk hk, State.respCame_lbCount_of_not_stamps hs, State.tdcTake_of_dead ha hs]

/-- A stamped event, in the unit that has counted it. -/
theorem doTdcStamp_of_stamps {s : State} {ch kind : Nat} (hk : s.kindOk ch kind = true) (hs : s.stamps ch = true)
    (delta : Nat) : ∃ a b l, s.doTdcStamp ch kind delta =
      ((s.counted a b l).dead ch).stampOut ch kind (rawStamp s.tdc.coarse delta) := by
  obtain ⟨a, b, l, hu⟩ := State.respCame_lbCount s ch kind
  have hu' : (s.counted a b l).stamps ch = true := hs
  exact ⟨a, b, l, by rw [State.doTdcStamp_of_kindOk hk, hu, State.tdcTake_of_stamps hu']⟩

/-- A stamped event that is recorded, or lost where 4,096 records are held. -/
theorem doTdcStamp_recorded {s : State} {ch kind : Nat} (hk : s.kindOk ch kind = true) (hs : s.stamps ch = true)
    (hcd : ch ≠ 324 ∨ s.tdc.cdRun = none) (delta : Nat) :
    (s.doTdcStamp ch kind delta).tdc.deadTill.get ch 0 = s.time.now + 160 * 2 ^ 48 ∧
    (s.tdc.fifo.length < 4096 → s.doTdcStamp ch kind delta = { s with tdc := (s.doTdcStamp ch kind delta).tdc } ∧
      (s.doTdcStamp ch kind delta).tdc.fifo = s.tdc.fifo ++
        [fifoRec (rawStamp s.tdc.coarse delta) ch kind (bit (!s.tdc.ringLock))]) ∧
    (s.tdc.fifo.length ≥ 4096 → (s.doTdcStamp ch kind delta).tdc.fifo = s.tdc.fifo ∧
      (s.doTdcStamp ch kind delta).fld Fld.TDC_FIFO_STATUS_OVERFLOW =
        min (s.fld Fld.TDC_FIFO_STATUS_OVERFLOW + 1) (2 ^ Fld.TDC_FIFO_STATUS_OVERFLOW.w - 1) ∧
      OnlyRegs [Reg.TDC_FIFO_STATUS] { s with tdc := (s.doTdcStamp ch kind delta).tdc } (s.doTdcStamp ch kind delta)) := by
  obtain ⟨a, b, l, ht⟩ := doTdcStamp_of_stamps hk hs delta
  have hcd' : ch ≠ 324 ∨ ((s.counted a b l).dead ch).tdc.cdRun = none := hcd
  rw [ht, State.stampOut_of_recorded hcd']
  by_cases hroom : s.tdc.fifo.length < 4096
  · have hroom' : ((s.counted a b l).dead ch).tdc.fifo.length < 4096 := hroom
    rw [State.fifoPut_of_room hroom']
    exact ⟨Tab.get_set_self _ _ _ _, fun _ => ⟨rfl, rfl⟩, fun h => absurd hroom (Nat.not_lt.2 h)⟩
  · have hfull : 4096 ≤ ((s.counted a b l).dead ch).tdc.fifo.length := Nat.not_lt.1 hroom
    rw [State.fifoPut_of_full hfull]
    refine ⟨Tab.get_set_self _ _ _ _, fun h => absurd h hroom, fun _ => ⟨rfl, ?_, rfl, ?_⟩⟩
    · exact State.fld_addCount_self _ Fld.TDC_FIFO_STATUS_OVERFLOW 1 (by decide)
    · exact (State.addCount_onlyRegs _ Fld.TDC_FIFO_STATUS_OVERFLOW 1).2

/-- A stamped event of the crystal channel in a code-density run. -/
theorem doTdcStamp_binned {s : State} {kind n : Nat} (hk : s.kindOk 324 kind = true) (hs : s.stamps 324 = true)
    (hcd : s.tdc.cdRun = some (n + 1)) (delta : Nat) :
    s.doTdcStamp 324 kind delta = { s with tdc := (s.doTdcStamp 324 kind delta).tdc } ∧
    (s.doTdcStamp 324 kind delta).tdc.cdRun = some n ∧ (s.doTdcStamp 324 kind delta).tdc.fifo = s.tdc.fifo := by
  obtain ⟨a, b, l, ht⟩ := doTdcStamp_of_stamps hk hs delta
  have hcd' : ((s.counted a b l).dead 324).tdc.cdRun = some (n + 1) := hcd
  rw [ht, State.stampOut_of_binned hcd']
  exact ⟨rfl, rfl, rfl⟩

/-! ### TDC_TIMEOUT, TDC_LOCK_FELL (R38, R44, R48, R52) -/

theorem doTdcTimeout_of_refChannel {s : State} {ch : Nat} (href : refChannel ch = true) (hw : s.tdc.waitFrom.has ch = true)
    (hout : s.tdc.coarse - s.tdc.waitFrom.get ch 0 ≥ 2 ^ s.fld Fld.TDC_CTRL_TIMEOUT_EXP) :
    s.doTdcTimeout ch =
      ({ s with tdc := { s.tdc with waitFrom := s.tdc.waitFrom.set ch s.tdc.coarse } } : State).timeoutRec ch 3 := by
  simp [State.doTdcTimeout, State.timedOut, href, hw, hout]

theorem doTdcTimeout_of_lostTrip {s : State} {ch : Nat} {x : Trip} (href : refChannel ch = false)
    (hlost : s.lostTrip ch = some x) :
    s.doTdcTimeout ch = ({ s with tdc := { s.tdc with trips := s.tdc.trips.erase x } } : State).timeoutRec ch 2 := by
  simp [State.doTdcTimeout, href, hlost]

theorem State.timeoutRec_of_room {s : State} (h : s.tdc.fifo.length < 4096) (ch kind : Nat) :
    s.timeoutRec ch kind = { s with
      free := s.free + 1,
      tdc := { s.tdc with fifo := s.tdc.fifo ++ [fifoRec (Config.timeoutStamp s.free) ch kind 2] } } :=
  State.fifoPut_of_room (s := { s with free := s.free + 1 }) h _

theorem doTdcLockFell_of_ringLock {s : State} (h : s.tdc.ringLock = true) :
    s.doTdcLockFell = ({ s with tdc := { s.tdc with
      ringLock := false, fifo := s.tdc.fifo.map fun r => if s.converting r then fineInvalid r else r } } : State).raise
        Fld.TDC_STATUS_LOCK_FELL := by
  simp [State.doTdcLockFell, h]

/-- A status bit after its event has been raised. -/
theorem State.flag_raise (s : State) (f : Fld) (h : f.lo + f.w ≤ 64) (hw : 0 < f.w) (hq : f.reg ≠ Reg.EVQ_STATUS) :
    (s.raise f).flag f = true := by
  simp [State.flag, raise_fld s f h hw hq]

/-- Settles O8: an event goes to the record, to the count of those missed or to the bins by the three rules of
`State.tdcTake`; the timeouts and the rings by one equation each. -/
theorem stampsJoinFifoAndTimeoutsShow : Obligations.StampsJoinFifoAndTimeoutsShow := by
  unfold Obligations.StampsJoinFifoAndTimeoutsShow
  refine ⟨fun s ch kind delta => ⟨fun h => ?refused, fun hk ha => ⟨fun h => ?dead, fun hd hcd => ?recorded,
    fun hd hch n hn => ?binned⟩⟩, fun s ch href hw hout hroom => ?reference, fun s ch x href hlost hroom => ?answer,
    fun s h => ?fell, fun s => rfl⟩
  case refused => exact congrArg Host.Outcome.next (doTdcStamp_of_refused h delta)
  case dead => exact congrArg Host.Outcome.next (doTdcStamp_of_dead hk ha h delta)
  case recorded =>
    rw [← fifoRec_rawStamp]
    exact ⟨_, rfl, doTdcStamp_recorded hk (State.stamps_of_armed ha hd) hcd delta⟩
  case binned =>
    subst hch
    exact ⟨_, rfl, doTdcStamp_binned hk (State.stamps_of_armed ha hd) hn delta⟩
  case reference =>
    refine congrArg Host.Outcome.next ((doTdcTimeout_of_refChannel href hw hout).trans ?_)
    exact State.timeoutRec_of_room (by exact hroom) ch 3
  case answer =>
    refine congrArg Host.Outcome.next ((doTdcTimeout_of_lostTrip href hlost).trans ?_)
    exact State.timeoutRec_of_room (by exact hroom) ch 2
  case fell =>
    refine ⟨_, rfl, ?_⟩
    rw [doTdcLockFell_of_ringLock h]
    exact ⟨State.flag_raise _ _ (by decide) (by decide) (by decide), raise_onlyEvents _ _⟩

end Sys2Proof.Machine
end

section
/-! PROOFS. The accuracy class, and the frames of the operations on ports, delay entries and the class. -/

namespace Sys2Proof.Machine

/-! ### Frames -/

theorem OnlyRegs.onlyEvents {rs : List Nat} {s t : State} (h : OnlyRegs rs s t) : OnlyEvents rs s t :=
  ⟨by rw [h.1], fun a ha _ => h.2 a ha⟩

/-- `t` is `s` but for its ports, and for what recording events of the registers in `rs` changes. -/
def OnlyPorts (rs : List Nat) (s t : State) : Prop :=
  OnlyEvents rs { s with fab := { s.fab with ports := t.fab.ports } } t

/-- `t` is `s` but for its class, its TDC and its ports, and for what recording events of the registers in `rs` changes. -/
def OnlyLanes (rs : List Nat) (s t : State) : Prop :=
  OnlyEvents rs { s with
    time := { s.time with cls := t.time.cls }, tdc := t.tdc, fab := { s.fab with ports := t.fab.ports } } t

section

variable {rs rs' : List Nat} {s t u : State}

theorem OnlyEvents.onlyPorts (h : OnlyEvents rs s t) : OnlyPorts rs s t := ⟨by rw [h.1], h.2⟩

theorem OnlyPorts.onlyLanes (h : OnlyPorts rs s t) : OnlyLanes rs s t := ⟨by rw [h.1], h.2⟩

theorem OnlyEvents.onlyLanes (h : OnlyEvents rs s t) : OnlyLanes rs s t := h.onlyPorts.onlyLanes

theorem OnlyPorts.trans (h : OnlyPorts rs s t) (k : OnlyPorts rs t u) : OnlyPorts rs s u := by
  obtain ⟨heq, hreg⟩ := h
  obtain ⟨keq, kreg⟩ := k
  refine ⟨?_, fun a ha hq => (kreg a ha hq).trans (hreg a ha hq)⟩
  rw [keq, heq]

theorem OnlyLanes.trans (h : OnlyLanes rs s t) (k : OnlyLanes rs t u) : OnlyLanes rs s u := by
  obtain ⟨heq, hreg⟩ := h
  obtain ⟨keq, kreg⟩ := k
  have hid : t.ident = s.ident := by rw [heq]
  refine ⟨?_, fun a ha hq => ?_⟩
  · rw [keq, heq]
  · exact (kreg a ha hq).trans (hreg a ha hq)

theorem OnlyPorts.mono (h : OnlyPorts rs s t) (hs : ∀ a ∈ rs, a ∈ rs') : OnlyPorts rs' s t := OnlyEvents.mono h hs

theorem OnlyLanes.mono (h : OnlyLanes rs s t) (hs : ∀ a ∈ rs, a ∈ rs') : OnlyLanes rs' s t := OnlyEvents.mono h hs

/-- What such a change leaves alone. -/
theorem OnlyLanes.reg_eq (h : OnlyLanes rs s t) {a : Nat} (ha : a ∉ rs) (hq : a ≠ Reg.EVQ_STATUS) : t.reg a = s.reg a :=
  h.2 a ha hq

theorem OnlyPorts.reg_eq (h : OnlyPorts rs s t) {a : Nat} (ha : a ∉ rs) (hq : a ≠ Reg.EVQ_STATUS) : t.reg a = s.reg a :=
  h.2 a ha hq

/-- Where the ports stay as they are, the frame names the class and the TDC alone. -/
theorem OnlyLanes.onlyEvents_of_ports (h : OnlyLanes rs s t) (hp : t.fab.ports = s.fab.ports) {x : TdcSt}
    (htdc : t.tdc = x) : OnlyEvents rs { s with time := { s.time with cls := t.time.cls }, tdc := x } t := by
  unfold OnlyLanes at h
  rwa [hp, htdc] at h

end

theorem setPort_onlyPorts (s : State) (p : Nat) (x : PortSt) : OnlyPorts [] s (s.setPort p x) := ⟨rfl, fun _ _ _ => rfl⟩

theorem tdc_onlyLanes (s : State) (x : TdcSt) : OnlyLanes [] s { s with tdc := x } := ⟨rfl, fun _ _ _ => rfl⟩

theorem addCount_onlyPorts (s : State) (f : Fld) (n : Nat) : OnlyPorts [f.reg] s (s.addCount f n) :=
  (State.addCount_onlyRegs s f n).onlyEvents.onlyPorts

theorem setBit_onlyLanes (s : State) (f : Fld) : OnlyLanes [f.reg] s (s.setBit f) := (setReg_onlyEvents s f.reg _).onlyLanes

/-! ### The class (R23, R35) -/

/-- Taking up the class sets it, and a fall from 1 raises HT_CLASS_DROP. -/
theorem reclass_onlyEvents (s : State) :
    OnlyEvents [Reg.HT_STATUS] { s with time := { s.time with cls := s.classNow } } s.reclass := by
  unfold State.reclass
  dsimp only
  split
  · exact raise_onlyEvents _ Fld.HT_STATUS_CLASS_DROP
  · exact ⟨rfl, fun _ _ _ => rfl⟩

section

variable (s : State)

@[simp] theorem State.reclass_time : s.reclass.time = { s.time with cls := s.classNow } := (reclass_onlyEvents s).time_eq
@[simp] theorem State.reclass_tdc : s.reclass.tdc = s.tdc := (reclass_onlyEvents s).tdc_eq
@[simp] theorem State.reclass_ref : s.reclass.ref = s.ref := (reclass_onlyEvents s).ref_eq
@[simp] theorem State.reclass_ident : s.reclass.ident = s.ident := (reclass_onlyEvents s).ident_eq
@[simp] theorem State.reclass_cad : s.reclass.cad = s.cad := (reclass_onlyEvents s).cad_eq
@[simp] theorem State.reclass_clk : s.reclass.clk = s.clk := (reclass_onlyEvents s).clk_eq
@[simp] theorem State.reclass_ports : s.reclass.fab.ports = s.fab.ports := (reclass_onlyEvents s).ports_eq
@[simp] theorem State.reclass_port (p : Nat) : s.reclass.port p = s.port p := by simp [State.port]
@[simp] theorem State.reclass_delayEnt (l : Nat) : s.reclass.delayEnt l = s.delayEnt l := by simp [State.delayEnt]

theorem State.reg_reclass {a : Nat} (ha : a ≠ Reg.HT_STATUS) (hq : a ≠ Reg.EVQ_STATUS) : s.reclass.reg a = s.reg a :=
  (reclass_onlyEvents s).2 a (by simpa using ha) hq

theorem State.flag_reclass (f : Fld) (ha : f.reg ≠ Reg.HT_STATUS) (hq : f.reg ≠ Reg.EVQ_STATUS) :
    s.reclass.flag f = s.flag f := by
  simp only [State.flag, State.fld, s.reg_reclass ha hq]

theorem reclass_onlyLanes : OnlyLanes [Reg.HT_STATUS] s s.reclass := by
  obtain ⟨heq, hreg⟩ := reclass_onlyEvents s
  exact ⟨by rw [heq], hreg⟩

theorem OnlyLanes.reclass {s u : State} {rs : List Nat} (h : OnlyLanes rs s u) (hs : Reg.HT_STATUS ∈ rs) :
    OnlyLanes rs s u.reclass := h.trans ((reclass_onlyLanes u).mono (by simpa using hs))

/-- A change of the TDC and of registers alone, after which the unit takes up its class. -/
theorem OnlyLanes.reclass_onlyEvents {s u : State} {rs : List Nat} (h : OnlyLanes rs s u) (hs : Reg.HT_STATUS ∈ rs)
    (hp : u.fab.ports = s.fab.ports) {x : TdcSt} (htdc : u.tdc = x) :
    OnlyEvents rs { s with time := { s.time with cls := u.reclass.time.cls }, tdc := x } u.reclass :=
  (h.reclass hs).onlyEvents_of_ports ((State.reclass_ports u).trans hp) ((State.reclass_tdc u).trans htdc)

/-- A status bit that is set without an event. -/
theorem State.flag_setBit (f : Fld) (h : f.lo + f.w ≤ 64) (hw : 0 < f.w) : (s.setBit f).flag f = true := by
  have h1 : (s.setBit f).fld f = 1 % 2 ^ f.w := State.fld_setFld_self s f 1 h
  simp [State.flag, h1, Nat.mod_eq_of_lt (Nat.one_lt_two_pow (by omega : f.w ≠ 0))]

end

/-- A field of a word that has been written under a mask that holds the field. -/
theorem Fld.of_masked (f : Fld) (m r v : W) (hm : ∀ i < f.w, m.getLsbD (f.lo + i) = true) :
    f.of ((r &&& ~~~ m) ||| (v &&& m)) = f.of v := by
  apply Nat.eq_of_testBit_eq
  intro i
  simp only [Fld.of, Nat.testBit_mod_two_pow, Nat.testBit_shiftRight]
  by_cases hi : i < f.w
  · have e1 : ∀ x : W, x.toNat.testBit (f.lo + i) = x.getLsbD (f.lo + i) := fun x => rfl
    rw [e1, e1]
    simp [hm i hi]
  · simp [hi]

theorem State.fld_putMasked (s : State) (f : Fld) (m v : W)
    (hm : ∀ i < f.w, m.getLsbD (f.lo + i) = true) : (s.putMasked f.reg m v).fld f = f.of v := by
  simp [State.fld, State.putMasked, Fld.of_masked f m _ v hm]

end Sys2Proof.Machine
end

section
/-! PROOFS. Reads of the stamp FIFO and of the anchor slots, and calibration runs (R41, R45, R49, R50, R63). -/

namespace Sys2Proof.Machine

/-! ### One value for each path -/

@[simp] theorem PerPath.get_set_self {α : Type} (x : PerPath α) (p : Path) (v : α) : (x.set p v).get p = v := by
  cases p <;> rfl

theorem PerPath.get_set_ne {α : Type} (x : PerPath α) {p q : Path} (v : α) (h : q ≠ p) : (x.set p v).get q = x.get q := by
  cases p <;> cases q <;> first | rfl | exact absurd rfl h

/-! ### Reads (R45, R63) -/

theorem doTdcFifoRead_of_reach {s : State} {v : ReadVia} (hv : s.Carries v) (h : s.reach v.path Reg.TDC_FIFO = true) :
    s.doTdcFifoRead v = { s with
      tdc := { s.tdc with fifo := s.tdc.fifo.tail }, out := s.out ++ [.readData v.path (s.tdc.fifo.headD 0)] } := by
  simp [State.doTdcFifoRead, State.readVia_of_carries hv, h]

theorem doTdcFifoRead_of_not_reach {s : State} {v : ReadVia} (hv : s.Carries v)
    (h : s.reach v.path Reg.TDC_FIFO = false) :
    s.doTdcFifoRead v = { s with out := s.out ++ [.readData v.path 0] } := by
  simp [State.doTdcFifoRead, State.readVia_of_carries hv, h]

/-- The latches of a path after a read of the count of an anchor slot. -/
def State.anchorLatched (s : State) (p : Path) (k : Nat) : PerPath (Tab (W × BitVec 16)) :=
  s.tdc.anchorLatch.set p ((s.tdc.anchorLatch.get p).set k ((anchorAt s k).ns, (anchorAt s k).frac))

theorem doTdcAnchorRead_of_reach {s : State} {k : Nat} {v : ReadVia} (hk : k < 4) (hv : s.Carries v)
    (h : s.reach v.path (Reg.TDC_ANCHOR_CNT + 8 * k) = true) :
    s.doTdcAnchorRead k v = { s with
      tdc := { s.tdc with anchorLatch := s.anchorLatched v.path k },
      out := s.out ++ [.readData v.path (BitVec.ofNat 64 ((anchorAt s k).cnt % 2 ^ 40))] } := by
  simp only [State.doTdcAnchorRead, State.readVia_of_carries hv, hk, h, decide_true, Bool.and_self, if_true]
  rfl

theorem doTdcAnchorRead_of_not_reach {s : State} {k : Nat} {v : ReadVia} (hv : s.Carries v)
    (h : s.reach v.path (Reg.TDC_ANCHOR_CNT + 8 * k) = false) :
    s.doTdcAnchorRead k v = { s with out := s.out ++ [.readData v.path 0] } := by
  simp [State.doTdcAnchorRead, State.readVia_of_carries hv, h]

/-- A read of the count of a slot latches that slot for the path, and no other slot and path. -/
theorem anchorSeen_of_anchorLatched {s t : State} {p : Path} {k : Nat}
    (ht : t.tdc = { s.tdc with anchorLatch := s.anchorLatched p k }) :
    anchorSeen t p k = ((anchorAt s k).ns, (anchorAt s k).frac) ∧ (∀ j, j ≠ k → anchorSeen t p j = anchorSeen s p j) ∧
    ∀ q, q ≠ p → t.tdc.anchorLatch.get q = s.tdc.anchorLatch.get q := by
  have hat : ∀ j, anchorAt t j = anchorAt s j := fun j => by simp only [anchorAt, ht]
  refine ⟨?_, fun j hj => ?_, fun q hq => ?_⟩
  · simp [anchorSeen, ht, State.anchorLatched]
  · simp only [anchorSeen, hat, ht, State.anchorLatched, PerPath.get_set_self]
    exact Tab.get_set_ne _ _ _ _ _ hj
  · rw [ht]
    exact PerPath.get_set_ne _ _ hq

/-! ### Calibration runs (R49, R50) -/

theorem calCtrl_onlyRegs (s : State) (v : W) : OnlyRegs [Reg.TDC_CAL_CTRL] s (s.calCtrl v) :=
  ⟨rfl, fun a ha => State.reg_setReg_ne _ _ _ _ (by simpa using ha)⟩

theorem fld_calCtrl_cdLog2 (s : State) (v : W) :
    (s.calCtrl v).fld Fld.TDC_CAL_CTRL_CD_LOG2 = v.toNat / 2 % 32 := by
  have h := State.fld_putMasked s Fld.TDC_CAL_CTRL_CD_LOG2 0xFF003E v (by decide)
  simpa [State.calCtrl, Fld.of, Fld.TDC_CAL_CTRL_CD_LOG2, Reg.TDC_CAL_CTRL, Nat.shiftRight_eq_div_pow] using h

theorem fld_calCtrl_lbLane (s : State) (v : W) :
    (s.calCtrl v).fld Fld.TDC_CAL_CTRL_LB_LANE = v.toNat / 65536 % 256 := by
  have h := State.fld_putMasked s Fld.TDC_CAL_CTRL_LB_LANE 0xFF003E v (by decide)
  simpa [State.calCtrl, Fld.of, Fld.TDC_CAL_CTRL_LB_LANE, Reg.TDC_CAL_CTRL, Nat.shiftRight_eq_div_pow] using h

/-- START of a code-density run alone. -/
theorem doCdStart_alone {s : State} {v : W} (hp : s.present Reg.TDC_CAL_CTRL = true) (hv : v.getLsbD 6 = false) :
    (s.doCdStart v).tdc = { s.tdc with cdRun := some (2 ^ (v.toNat / 2 % 32)), hist := [] } ∧
    OnlyRegs [Reg.TDC_CAL_CTRL] { s with tdc := (s.doCdStart v).tdc } (s.doCdStart v) := by
  have ht : s.doCdStart v = (s.calCtrl v).cdGo := by
    simp only [State.doCdStart, State.calWrite, hp, hv, if_true, Bool.false_eq_true, if_false]
  rw [ht]
  refine ⟨?_, rfl, (calCtrl_onlyRegs s v).2⟩
  rw [State.cdGo, fld_calCtrl_cdLog2]
  rfl

/-- START of a loopback run alone, on a lane that the unit has, with none under way. -/
theorem doLbStart_alone {s : State} {v : W} (hp : s.present Reg.TDC_CAL_CTRL = true) (hnone : s.tdc.lbLane = none)
    (hv : v.getLsbD 0 = false) (hl : v.toNat / 65536 % 256 < s.nLanes) :
    (s.doLbStart v).tdc = { s.tdc with lbLane := some (v.toNat / 65536 % 256), lbLeft := 4096, lbTxLeft := 4096 } ∧
    OnlyEvents [Reg.TDC_CAL_CTRL, Reg.HT_STATUS]
      { s with tdc := (s.doLbStart v).tdc, time := { s.time with cls := (s.doLbStart v).time.cls } } (s.doLbStart v) := by
  have hnone' : (s.calCtrl v).tdc.lbLane = none := hnone
  have hl' : v.toNat / 65536 % 256 < (s.calCtrl v).nLanes := hl
  have ht : s.doLbStart v = ({ s.calCtrl v with tdc := { (s.calCtrl v).tdc with
      lbLane := some (v.toNat / 65536 % 256), lbLeft := lbMarkers, lbTxLeft := lbMarkers } } : State).reclass := by
    simp only [State.doLbStart, State.calWrite, State.lbGo, hp, hv, fld_calCtrl_lbLane, hnone', hl', if_true,
      Bool.false_eq_true, if_false, Option.isSome_none, decide_true, Bool.not_true, Bool.or_false]
  rw [ht]
  refine ⟨by rw [State.reclass_tdc]; rfl, OnlyLanes.reclass_onlyEvents ?frame (by decide) ?ports ?tdc⟩
  case frame =>
    exact ((calCtrl_onlyRegs s v).onlyEvents.onlyLanes.mono (by simp)).trans ((tdc_onlyLanes _ _).mono (by simp))
  case ports => rfl
  case tdc => exact (State.reclass_tdc _).symm

theorem doCdDone_of_run {s : State} (h : s.tdc.cdRun = some 0) :
    s.doCdDone = ({ s with tdc := { s.tdc with cdRun := none, cdRuns := s.tdc.cdRuns + 1 } } : State).setBit
      Fld.TDC_CAL_STATUS_CD_DONE := by
  simp [State.doCdDone, h]

theorem doLbDone_of_run {s : State} {l : Nat} (h : s.tdc.lbLane = some l) (hl : s.tdc.lbLeft = 0)
    (htx : s.tdc.lbTxLeft = 0) :
    s.doLbDone = (({ s with tdc := { s.tdc with lbLane := none } } : State).setBit Fld.TDC_CAL_STATUS_LB_DONE).reclass := by
  simp [State.doLbDone, h, hl, htx]

/-- The end of a loopback run. -/
theorem doLbDone_ends {s : State} {l : Nat} (h : s.tdc.lbLane = some l) (hl : s.tdc.lbLeft = 0)
    (htx : s.tdc.lbTxLeft = 0) : s.doLbDone.flag Fld.TDC_CAL_STATUS_LB_DONE = true ∧
    OnlyEvents [Reg.TDC_CAL_STATUS, Reg.HT_STATUS]
      { s with tdc := { s.tdc with lbLane := none }, time := { s.time with cls := s.doLbDone.time.cls } } s.doLbDone := by
  rw [doLbDone_of_run h hl htx]
  constructor
  · rw [State.flag_reclass _ _ (by decide) (by decide)]
    exact State.flag_setBit _ _ (by decide) (by decide)
  · refine OnlyLanes.reclass_onlyEvents ?frame (by decide) ?ports ?tdc
    case frame =>
      exact ((tdc_onlyLanes s _).mono (by simp)).trans ((setBit_onlyLanes _ Fld.TDC_CAL_STATUS_LB_DONE).mono (by decide))
    case ports => rfl
    case tdc => rfl

/-- Settles O9: reads by the rules of their path, calibration runs by what starts and what ends one. -/
theorem fifoPopsAndCalibrationRuns : Obligations.FifoPopsAndCalibrationRuns := by
  unfold Obligations.FifoPopsAndCalibrationRuns
  refine ⟨⟨otherReadsFail_of_readVia _ fun _ _ => rfl, fun k _ => otherReadsFail_of_readVia _ fun _ _ => rfl,
    fun s v p hv hp => ?fifo, fun s k v p hk hv hp => ?anchor⟩, fun s v hpres hv => ⟨_, rfl, doCdStart_alone hpres hv⟩,
    fun s h => ?cdDone, fun s v hpres hnone hv hl => ⟨_, rfl, doLbStart_alone hpres hnone hv hl⟩,
    fun s l h hl htx => ⟨_, rfl, doLbDone_ends h hl htx⟩⟩
  case fifo =>
    subst hp
    exact ⟨fun h => congrArg Host.Outcome.next (doTdcFifoRead_of_reach hv h),
      fun h => congrArg Host.Outcome.next (doTdcFifoRead_of_not_reach hv h)⟩
  case anchor =>
    subst hp
    refine ⟨fun h => ⟨_, congrArg Host.Outcome.next (doTdcAnchorRead_of_reach hk hv h), rfl,
      anchorSeen_of_anchorLatched rfl⟩, fun h => congrArg Host.Outcome.next (doTdcAnchorRead_of_not_reach hv h)⟩
  case cdDone =>
    refine ⟨_, congrArg Host.Outcome.next (doCdDone_of_run h), State.flag_setBit _ _ (by decide) (by decide), rfl, rfl, rfl, ?_⟩
    exact fun a ha => State.reg_setReg_ne _ _ _ _ fun h => ha (by simp [h, Fld.TDC_CAL_STATUS_CD_DONE, Reg.TDC_CAL_STATUS])

end Sys2Proof.Machine
end

section
/-! PROOFS. Round trips, their batches and the ages of delay entries (R51 to R61, R211, R214, R496). -/

namespace Sys2Proof.Machine

/-! ### What an event on a channel leaves alone -/

section

variable (s : State) (ch kind stamp : Nat)

theorem State.tdcTake_tdc : (s.tdcTake ch kind stamp).tdc = { s.tdc with
    deadTill := (s.tdcTake ch kind stamp).tdc.deadTill, waitFrom := (s.tdcTake ch kind stamp).tdc.waitFrom,
    cdRun := (s.tdcTake ch kind stamp).tdc.cdRun, hist := (s.tdcTake ch kind stamp).tdc.hist,
    fifo := (s.tdcTake ch kind stamp).tdc.fifo } := congrArg State.tdc (tdcTake_onlyStamp s ch kind stamp).1

@[simp] theorem State.tdcTake_anchors : (s.tdcTake ch kind stamp).tdc.anchors = s.tdc.anchors := by rw [State.tdcTake_tdc]
@[simp] theorem State.tdcTake_trips : (s.tdcTake ch kind stamp).tdc.trips = s.tdc.trips := by rw [State.tdcTake_tdc]
@[simp] theorem State.tdcTake_delays : (s.tdcTake ch kind stamp).tdc.delays = s.tdc.delays := by rw [State.tdcTake_tdc]
@[simp] theorem State.tdcTake_firstRt : (s.tdcTake ch kind stamp).tdc.firstRt = s.tdc.firstRt := by rw [State.tdcTake_tdc]
@[simp] theorem State.tdcTake_reqSeq : (s.tdcTake ch kind stamp).tdc.reqSeq = s.tdc.reqSeq := by rw [State.tdcTake_tdc]
@[simp] theorem State.tdcTake_rspDue : (s.tdcTake ch kind stamp).tdc.rspDue = s.tdc.rspDue := by rw [State.tdcTake_tdc]
@[simp] theorem State.tdcTake_resQ : (s.tdcTake ch kind stamp).tdc.resQ = s.tdc.resQ := by rw [State.tdcTake_tdc]

theorem State.tdcTake_state : s.tdcTake ch kind stamp =
    { s with regs := (s.tdcTake ch kind stamp).regs, tdc := (s.tdcTake ch kind stamp).tdc } := by
  have h := (tdcTake_onlyStamp s ch kind stamp).1
  exact h.trans (by rw [State.tdcTake_tdc])

@[simp] theorem State.tdcTake_ident : (s.tdcTake ch kind stamp).ident = s.ident := by rw [State.tdcTake_state]
@[simp] theorem State.tdcTake_time : (s.tdcTake ch kind stamp).time = s.time := by rw [State.tdcTake_state]
@[simp] theorem State.tdcTake_ref : (s.tdcTake ch kind stamp).ref = s.ref := by rw [State.tdcTake_state]
@[simp] theorem State.tdcTake_nvs : (s.tdcTake ch kind stamp).nvs = s.nvs := by rw [State.tdcTake_state]

@[simp] theorem State.dlSent_tdc (p : Nat) : (s.dlSent p).tdc = s.tdc := rfl

end

/-! ### DELAY_REQ and DELAY_RESP out (R51, R211, R214) -/

/-- The round trip that a DELAY_REQ of a port begins. -/
def State.newTrip (s : State) (p l : Nat) (t0 : Int) : Trip :=
  { port := p, reqLane := l, seq := s.tdc.reqSeq.get p 0, t1 := t0,
    rspLane := if s.asymSrc p = 2 then s.tdc.reqSeq.get p 0 % 4 else l, waitFrom := some s.tdc.coarse }

theorem doDelayReqSend_of_due {s : State} {p l : Nat} {t1 : BitVec 48} {t0 : Int} (hdue : s.reqDue p l = true)
    (ht : s.stampHtFine t1 = some t0) {u : State} (hu : u = (s.tdcTake (txChannel p) 1 t1.toNat).dlSent p) :
    s.doDelayReqSend p l t1 = { u with
      tdc := { u.tdc with
        reqSeq := u.tdc.reqSeq.set p ((s.tdc.reqSeq.get p 0 + 1) % 65536),
        reqAt := u.tdc.reqAt.set (laneOf p l) (s.port p).hbSeq,
        trips := u.tdc.trips ++ [s.newTrip p l t0] },
      out := u.out ++ [.oset p (.delayReq l (s.tdc.reqSeq.get p 0) s.senderWord)] } := by
  subst hu
  simp only [State.doDelayReqSend, hdue, ht, if_true]
  rfl

/-- The residence that an answer queues for the next heartbeat. -/
def State.newResid (s : State) (p : Nat) (r : RespDue) (t0 : Int) : ResRec :=
  { seq := r.seq, reqLane := r.reqLane, rspLane := r.rspLane, valid := true, residence := t0 - r.t2,
    rtMean := s.runMean (laneOf p r.rspLane), asym := s.aMed p }

theorem doDelayRespSend_of_due {s : State} {p : Nat} {r : RespDue} {rest : List RespDue} {t3 : BitVec 48} {t0 : Int}
    (hr : s.tdc.rspDue = r :: rest) (hp : r.port = p) (hl : s.rtLane p r.rspLane = true) (hd : s.dlDue p = true)
    (hs : s.stamps (txChannel p) = true) (hw : s.time.now - r.since ≥ 128 * nsX) (ht : s.stampHtFine t3 = some t0)
    {u : State} (hu : u = (s.tdcTake (txChannel p) 2 t3.toNat).dlSent p) :
    s.doDelayRespSend p t3 = { u with
      tdc := { u.tdc with rspDue := rest, resQ := u.tdc.resQ.set p (u.tdc.resQ.get p [] ++ [s.newResid p r t0]) },
      out := u.out ++ [.oset p (.delayResp r.rspLane r.seq s.senderWord)] } := by
  have hfind : s.tdc.rspDue.find? (fun r => r.port == p) = some r := by simp [hr, hp]
  have herase : u.tdc.rspDue.erase r = rest := by
    rw [hu, State.dlSent_tdc, State.tdcTake_rspDue, hr, List.erase_cons_head]
  subst hu
  simp only [State.doDelayRespSend, hfind, hl, hd, hs, hw, ht, decide_true, Bool.and_self, if_true, herase]
  rfl

/-! ### DELAY_REQ and DELAY_RESP in (R51, R52) -/

/-- The answer that is owed for a DELAY_REQ. -/
def State.newDue (s : State) (p l q who : Nat) (t0 : Int) : RespDue :=
  { port := p, reqLane := l, rspLane := if s.asymSrc p = 2 then s.tdc.rspTurn.get p 0 else l, seq := q, sender := who,
    t2 := t0, since := s.time.now }

theorem doDelayReqRx_of_stamps {s : State} {p l q who : Nat} {t2 : BitVec 48} {t0 : Int} (hl : s.rtLane p l = true)
    (hs : s.stamps (laneOf p l) = true) (ht : s.stampHtFine t2 = some t0) {u : State}
    (hu : u = s.tdcTake (laneOf p l) 1 t2.toNat) :
    s.doDelayReqRx p l q who t2 = { u with tdc := { u.tdc with
      rspTurn := if s.asymSrc p == 2 then u.tdc.rspTurn.set p ((s.tdc.rspTurn.get p 0 + 1) % 4) else u.tdc.rspTurn,
      rspDue := u.tdc.rspDue ++ [s.newDue p l q who t0] } } := by
  subst hu
  simp only [State.doDelayReqRx, hl, hs, ht, if_true, State.newDue, beq_iff_eq]

/-- A single round trip whose four parts are known joins its lane's batch and is gone. -/
theorem closeTrips_one {s : State} {x : Trip} {t4 r : Int} (hx : s.tdc.trips = [x]) (h4 : x.t4 = some t4)
    (hr : x.resid = some r) (hb : (s.delayEnt (laneOf x.port x.rspLane)).batch < 256) :
    s.closeTrips = { s with tdc := { s.tdc with
      trips := [],
      firstRt := if s.tdc.firstRt.has x.port then s.tdc.firstRt else s.tdc.firstRt.set x.port ((t4 - x.t1) - r),
      delays := s.tdc.delays.set (laneOf x.port x.rspLane) { s.delayEnt (laneOf x.port x.rspLane) with
        batch := (s.delayEnt (laneOf x.port x.rspLane)).batch + 1,
        sum := (s.delayEnt (laneOf x.port x.rspLane)).sum + ((t4 - x.t1) - r) } } } := by
  simp only [State.closeTrips, hx, List.foldl_cons, List.foldl_nil, h4, hr, hb, if_true, List.erase_cons_head]

/-- The arrival of the answer to the one round trip under way, whose residence is known. -/
theorem doDelayRespRx_of_trip {s : State} {p l : Nat} {x : Trip} {res t0 : Int} {t4 : BitVec 48}
    (hl : s.rtLane p l = true) (hs : s.stamps (laneOf p l) = true) (hx : s.tdc.trips = [x]) (hp : x.port = p)
    (h4 : x.t4 = none) (hr : x.resid = some res) (ht : s.stampHtFine t4 = some t0)
    (hb : (s.delayEnt (laneOf p l)).batch < 256) {u : State} (hu : u = s.tdcTake (laneOf p l) 2 t4.toNat) :
    s.doDelayRespRx p l x.seq t4 = { u with tdc := { u.tdc with
      trips := [],
      firstRt := if u.tdc.firstRt.has p then u.tdc.firstRt else u.tdc.firstRt.set p ((t0 - x.t1) - res),
      delays := u.tdc.delays.set (laneOf p l) { s.delayEnt (laneOf p l) with
        batch := (s.delayEnt (laneOf p l)).batch + 1,
        sum := (s.delayEnt (laneOf p l)).sum + ((t0 - x.t1) - res) } } } := by
  have hent : ∀ k, u.delayEnt k = s.delayEnt k := fun k => by rw [hu, State.delayEnt, State.tdcTake_delays]; rfl
  have htrips : u.tdc.trips = [x] := by rw [hu, State.tdcTake_trips, hx]
  have hclose := closeTrips_one (s := { u with tdc := { u.tdc with
      trips := [{ x with t4 := some t0, rspLane := l, waitFrom := none }] } }) rfl rfl hr
    (by subst hp; rw [← hent] at hb; exact hb)
  subst hp
  simp only [State.doDelayRespRx, hl, hs, ht, if_true, ← hu, htrips, List.map_cons, List.map_nil, beq_self_eq_true, h4,
    Option.isNone_none, Bool.and_self, ← hent]
  exact hclose

/-! ### Batches (R53, R59, R60, R496) -/

/-- Our own mean of a full batch of a lane. -/
def State.ourMean (s : State) (k : Nat) : Int := Fl.rneDivInt (s.delayEnt k).sum 256

/-- The unit once the mean of a lane's batch is taken and a new batch begins. -/
def State.batched (s : State) (k : Nat) : State :=
  { s with tdc := { s.tdc with
      rtMean := s.tdc.rtMean.set k (s.ourMean k),
      delays := s.tdc.delays.set k { s.delayEnt k with batch := 0, sum := 0 } } }

/-- The mean of both ends, as it is accepted. -/
def State.bothMean (s : State) (k : Nat) : Int := Fl.rneDivInt (s.ourMean k + s.tdc.peerMean.get k 0) 2

def State.meanAccepted (s : State) (k : Nat) : State :=
  { s.batched k with tdc := { (s.batched k).tdc with rtAcc := (s.batched k).tdc.rtAcc.set k (s.bothMean k) } }

/-- The unit with an accepted delay of a lane: in use at once, or in the shadow table. -/
def State.calibrated (s : State) (k : Nat) (d : Int) : State :=
  { s.meanAccepted k with tdc := { (s.meanAccepted k).tdc with
      delays := (s.meanAccepted k).tdc.delays.set k { delay := d, commitAt := some s.time.now, state := 1 } } }

def State.shadowed (s : State) (k : Nat) (d : Int) : State :=
  { s.meanAccepted k with tdc := { (s.meanAccepted k).tdc with shadow := s.tdc.shadow.set k d } }

/-- What makes the command of a lane with answers on the same lane take place. -/
def State.BatchFull (s : State) (p l : Nat) : Prop :=
  p < s.nPorts ∧ l < 4 ∧ (s.delayEnt (laneOf p l)).batch = 256 ∧ s.tdc.peerMean.has (laneOf p l) = true ∧
    s.rtKnown p l = true

section

variable {s : State} {p l : Nat}

theorem doBatchComplete_of_full (h : s.BatchFull p l) : s.doBatchComplete p l l =
    (if (s.ourMean (laneOf p l) - s.tdc.peerMean.get (laneOf p l) 0).natAbs > 1048 then
      (s.batched (laneOf p l)).raise Fld.TDC_STATUS_RT_MISMATCH
    else if (s.delayEnt (laneOf p l)).state = 0 then
      (s.calibrated (laneOf p l) ((s.batched (laneOf p l)).delayFrom p l (s.bothMean (laneOf p l)))).reclass
    else s.shadowed (laneOf p l) ((s.batched (laneOf p l)).delayFrom p l (s.bothMean (laneOf p l)))) := by
  obtain ⟨hp, hl, hb, hm, hk⟩ := h
  simp only [State.doBatchComplete, hp, hl, hb, hm, hk, decide_true, beq_self_eq_true, Bool.true_or, Bool.and_self, if_true]
  rfl

/-- On a port without lane swap the delay is half the mean and the lane's asymmetry. -/
theorem batched_delayFrom (h : s.asymSrc p ≠ 2) (k : Nat) (m : Int) :
    (s.batched k).delayFrom p l m = m.tdiv 2 + s.aLane p l := by
  have h' : (s.batched k).asymSrc p ≠ 2 := h
  simp only [State.delayFrom, h', if_false, Bool.false_and, decide_false, Bool.false_eq_true]
  rfl

/-- Means that differ by more than 16 ps. -/
theorem doBatchComplete_mismatch (h : s.BatchFull p l)
    (hd : (s.ourMean (laneOf p l) - s.tdc.peerMean.get (laneOf p l) 0).natAbs > 1048) :
    s.doBatchComplete p l l = (s.batched (laneOf p l)).raise Fld.TDC_STATUS_RT_MISMATCH := by
  rw [doBatchComplete_of_full h, if_pos hd]

/-- Means that agree, on a lane that is calibrated. -/
theorem doBatchComplete_shadow (h : s.BatchFull p l) (ha : s.asymSrc p ≠ 2)
    (hd : (s.ourMean (laneOf p l) - s.tdc.peerMean.get (laneOf p l) 0).natAbs ≤ 1048)
    (hst : (s.delayEnt (laneOf p l)).state ≠ 0) :
    s.doBatchComplete p l l = s.shadowed (laneOf p l) ((s.bothMean (laneOf p l)).tdiv 2 + s.aLane p l) := by
  rw [doBatchComplete_of_full h, if_neg (Nat.not_lt.2 hd), if_neg hst, batched_delayFrom ha]

/-- Means that agree, on a lane that is not calibrated. -/
theorem doBatchComplete_calibrates (h : s.BatchFull p l) (ha : s.asymSrc p ≠ 2)
    (hd : (s.ourMean (laneOf p l) - s.tdc.peerMean.get (laneOf p l) 0).natAbs ≤ 1048)
    (hst : (s.delayEnt (laneOf p l)).state = 0) :
    s.doBatchComplete p l l = (s.calibrated (laneOf p l) ((s.bothMean (laneOf p l)).tdiv 2 + s.aLane p l)).reclass := by
  rw [doBatchComplete_of_full h, if_neg (Nat.not_lt.2 hd), if_pos hst, batched_delayFrom ha]

@[simp] theorem batched_delayEnt_self (k : Nat) :
    (s.batched k).delayEnt k = { s.delayEnt k with batch := 0, sum := 0 } := Tab.get_set_self _ _ _ _

@[simp] theorem shadowed_delayEnt_self (k : Nat) (d : Int) :
    (s.shadowed k d).delayEnt k = { s.delayEnt k with batch := 0, sum := 0 } := Tab.get_set_self _ _ _ _

@[simp] theorem calibrated_delayEnt_self (k : Nat) (d : Int) :
    (s.calibrated k d).delayEnt k = { delay := d, commitAt := some s.time.now, state := 1 } := Tab.get_set_self _ _ _ _

/-- Every outcome of a full batch keeps our own mean and begins a new batch, and none moves hall time. -/
theorem doBatchComplete_always (h : s.BatchFull p l) : ((s.doBatchComplete p l l).delayEnt (laneOf p l)).batch = 0 ∧
    (s.doBatchComplete p l l).time.htx = s.time.htx ∧
    (s.doBatchComplete p l l).tdc.rtMean.get (laneOf p l) 0 = s.ourMean (laneOf p l) := by
  have hmean : ∀ k, (s.batched k).tdc.rtMean.get k 0 = s.ourMean k := fun k => Tab.get_set_self _ _ _ _
  rw [doBatchComplete_of_full h]
  split
  · refine ⟨?_, by rw [State.raise_time]; rfl, by rw [State.raise_tdc]; exact hmean _⟩
    rw [State.delayEnt, State.raise_tdc]
    exact congrArg DelayEnt.batch (batched_delayEnt_self _)
  · split
    · refine ⟨by simp, by rw [State.reclass_time]; rfl, by rw [State.reclass_tdc]; exact hmean _⟩
    · exact ⟨by simp, rfl, hmean _⟩

end

/-! ### Ages (R61) -/

theorem doDelayEntryStale_of_old {s : State} {l t0 : Nat} (hc : (s.delayEnt l).commitAt = some t0)
    (hst : (s.delayEnt l).state = 1) (ho : (s.time.now - t0) / msX > 10000) :
    s.doDelayEntryStale l = ({ s with tdc := { s.tdc with
      delays := s.tdc.delays.set l { s.delayEnt l with state := 2 } } } : State).reclass := by
  simp [State.doDelayEntryStale, hc, hst, ho]

theorem doDelayEntryStale_ages {s : State} {l t0 : Nat} (hc : (s.delayEnt l).commitAt = some t0)
    (hst : (s.delayEnt l).state = 1) (ho : (s.time.now - t0) / msX > 10000) :
    (s.doDelayEntryStale l).delayEnt l = { s.delayEnt l with state := 2 } ∧
    OnlyEvents [Reg.HT_STATUS] { s with
      time := { s.time with cls := (s.doDelayEntryStale l).time.cls }, tdc := (s.doDelayEntryStale l).tdc }
      (s.doDelayEntryStale l) := by
  rw [doDelayEntryStale_of_old hc hst ho]
  refine ⟨?_, OnlyLanes.reclass_onlyEvents ?frame (by decide) ?ports ?tdc⟩
  · rw [State.reclass_delayEnt]
    exact Tab.get_set_self _ _ _ _
  case frame => exact (tdc_onlyLanes s _).mono (by simp)
  case ports => rfl
  case tdc => exact (State.reclass_tdc _).symm

/-! ### The obligation -/

/-- The three outcomes of a full batch on a lane whose answers come on the same lane. -/
theorem doBatchComplete_outcomes {s : State} {p l : Nat} (h : s.BatchFull p l) {t : State} (ht : t = s.doBatchComplete p l l) :
    (t.delayEnt (laneOf p l)).batch = 0 ∧ t.time.htx = s.time.htx ∧
     t.tdc.rtMean.get (laneOf p l) 0 = s.ourMean (laneOf p l) ∧
     ((s.ourMean (laneOf p l) - s.tdc.peerMean.get (laneOf p l) 0).natAbs > 1048 →
       t.flag Fld.TDC_STATUS_RT_MISMATCH = true ∧ t.tdc.shadow = s.tdc.shadow ∧
       (t.delayEnt (laneOf p l)).delay = (s.delayEnt (laneOf p l)).delay ∧
       OnlyEvents [Reg.TDC_STATUS] { s with tdc := t.tdc } t) ∧
     ((s.ourMean (laneOf p l) - s.tdc.peerMean.get (laneOf p l) 0).natAbs ≤ 1048 → s.asymSrc p ≠ 2 →
       (s.delayEnt (laneOf p l)).state ≠ 0 → t = { s with tdc := t.tdc } ∧
       (t.delayEnt (laneOf p l)).delay = (s.delayEnt (laneOf p l)).delay ∧
       t.tdc.shadow.get (laneOf p l) 0 = (s.bothMean (laneOf p l)).tdiv 2 + s.aLane p l) ∧
     ((s.ourMean (laneOf p l) - s.tdc.peerMean.get (laneOf p l) 0).natAbs ≤ 1048 → s.asymSrc p ≠ 2 →
       (s.delayEnt (laneOf p l)).state = 0 → (t.delayEnt (laneOf p l)).state = 1 ∧
       (t.delayEnt (laneOf p l)).delay = (s.bothMean (laneOf p l)).tdiv 2 + s.aLane p l ∧
       OnlyEvents [Reg.HT_STATUS] { s with time := { s.time with cls := t.time.cls }, tdc := t.tdc } t) := by
  obtain ⟨hbatch, htx, hmean⟩ := doBatchComplete_always h
  subst ht
  refine ⟨hbatch, htx, hmean, fun hd => ?mismatch, fun hd ha hst => ?shadow, fun hd ha hst => ?first⟩
  case mismatch =>
    rw [doBatchComplete_mismatch h hd, State.delayEnt, State.raise_tdc]
    exact ⟨State.flag_raise _ _ (by decide) (by decide) (by decide), rfl,
      (congrArg DelayEnt.delay (batched_delayEnt_self (s := s) _)).trans rfl, raise_onlyEvents _ _⟩
  case shadow =>
    rw [doBatchComplete_shadow h ha hd hst, shadowed_delayEnt_self]
    exact ⟨rfl, rfl, Tab.get_set_self _ _ _ _⟩
  case first =>
    rw [doBatchComplete_calibrates h ha hd hst, State.reclass_delayEnt, calibrated_delayEnt_self]
    refine ⟨rfl, rfl, OnlyLanes.reclass_onlyEvents ?frame (by decide) ?ports ?tdc⟩
    case frame => exact (tdc_onlyLanes s _).mono (by simp)
    case ports => rfl
    case tdc => exact (State.reclass_tdc _).symm

/-- Settles O10: each command of a round trip by its one equation, a full batch by its three outcomes. -/
theorem roundTripsCommitAsBatches : Obligations.RoundTripsCommitAsBatches := by
  unfold Obligations.RoundTripsCommitAsBatches
  refine ⟨⟨fun s p l t1 t0 hdue ht => ?request, fun s p l q who t2 t0 hl hs ht => ?owed,
    fun s p r rest t3 t0 hr hp hl hd hs hw ht => ?answer, fun s p l x res t0 t4 hl hs hx hp h4 hr ht hb => ?closed,
    fun s p l => ?dropped⟩, fun s p l hp hl hb hm hk => ?batch, fun s l t0 hc hst ho => ?stale⟩
  case request =>
    refine ⟨_, congrArg Host.Outcome.next (doDelayReqSend_of_due hdue ht rfl), ⟨_, rfl, rfl⟩, ?_, s.newTrip p l t0, ?_,
      rfl, rfl, rfl, rfl, rfl, rfl, rfl⟩
    · exact Tab.get_set_self _ _ _ _
    · simp
  case owed =>
    refine ⟨_, congrArg Host.Outcome.next (doDelayReqRx_of_stamps hl hs ht rfl), ⟨_, rfl, rfl⟩, s.newDue p l q who t0, ?_,
      rfl, rfl, rfl, rfl, rfl, rfl⟩
    simp
  case answer =>
    refine ⟨_, congrArg Host.Outcome.next (doDelayRespSend_of_due hr hp hl hd hs hw ht rfl), ⟨_, rfl, rfl⟩,
      s.newResid p r t0, ?_, rfl, rfl, rfl, rfl, rfl⟩
    simp
  case closed =>
    exact ⟨_, congrArg Host.Outcome.next (doDelayRespRx_of_trip hl hs hx hp h4 hr ht hb rfl), ⟨_, rfl, rfl⟩,
      Tab.get_set_self _ _ _ _⟩
  case dropped =>
    refine ⟨_, rfl, rfl, fun x => ?_⟩
    simp only [State.doRoundTripDrop, List.mem_filter, Bool.not_eq_true', ← Bool.not_eq_true]
    refine and_congr_right fun _ => not_congr ?_
    simp [and_assoc]
  case batch =>
    refine ⟨_, rfl, ?_⟩
    obtain ⟨hbatch, htx, hmean, hrest⟩ := doBatchComplete_outcomes (s := s) ⟨hp, hl, hb, hm, hk⟩ rfl
    rw [hmean]
    exact ⟨hbatch, htx, rfl, hrest⟩
  case stale => exact ⟨_, rfl, doDelayEntryStale_ages hc hst ho⟩

end Sys2Proof.Machine
end

section
/-! PROOFS. Ports whose lanes retrain: delay entries that are dropped, flits that are dropped, and lanes that are lost (R60,
R218, R219). -/

namespace Sys2Proof.Machine

/-! ### Tables -/

/-- A table of mapped values. -/
theorem Tab.get_mapVal {α β : Type} (g : α → β) (t : Tab α) (k : Nat) (d : α) :
    Tab.get (t.map fun e => (e.1, g e.2)) k (g d) = g (t.get k d) := by
  induction t with
  | nil => rfl
  | cons e r ih =>
    simp only [List.map_cons, Tab.get]
    split
    · rfl
    · exact ih

theorem OnlyPorts.tdc_eq {rs : List Nat} {s t : State} (h : OnlyPorts rs s t) : t.tdc = s.tdc := by rw [h.1]
theorem OnlyPorts.time_eq {rs : List Nat} {s t : State} (h : OnlyPorts rs s t) : t.time = s.time := by rw [h.1]

/-! ### A delay entry is dropped (R25, R60) -/

section

variable (s : State) (l : Nat)

@[simp] theorem State.dropEntry_ports : (s.dropEntry l).fab.ports = s.fab.ports := State.reclass_ports _
@[simp] theorem State.dropEntry_port (p : Nat) : (s.dropEntry l).port p = s.port p := State.reclass_port _ p
@[simp] theorem State.dropEntry_swap : (s.dropEntry l).tdc.swap = s.tdc.swap :=
  (congrArg TdcSt.swap (State.reclass_tdc _)).trans rfl
@[simp] theorem State.dropEntry_delays : (s.dropEntry l).tdc.delays = s.tdc.delays.del l :=
  (congrArg TdcSt.delays (State.reclass_tdc _)).trans rfl

theorem dropEntry_onlyLanes : OnlyLanes [Reg.HT_STATUS] s (s.dropEntry l) :=
  OnlyLanes.reclass ((tdc_onlyLanes s _).mono (by simp)) (by simp)

@[simp] theorem State.dropEntry_delayEnt_self : (s.dropEntry l).delayEnt l = {} := by
  rw [State.delayEnt, State.dropEntry_delays, Tab.get_del_self]

end

/-! ### Lane 0 of a port in a lane swap (R57) -/

section

variable (s : State) (p : Nat) (sw : Bool)

theorem swapRetrain_onlyLanes : OnlyLanes [Reg.HT_STATUS] s (s.swapRetrain p sw) :=
  (dropEntry_onlyLanes s _).trans ((setPort_onlyPorts _ p _).onlyLanes.mono (by simp))

@[simp] theorem State.swapRetrain_swap : (s.swapRetrain p sw).tdc.swap = s.tdc.swap := State.dropEntry_swap s _

@[simp] theorem State.swapRetrain_delayEnt : (s.swapRetrain p sw).delayEnt (laneOf p 0) = {} :=
  State.dropEntry_delayEnt_self s _

@[simp] theorem State.swapRetrain_lane0Swap : ((s.swapRetrain p sw).port p).lane0Swap = sw := by simp [State.swapRetrain]

theorem State.mem_swapRetrain_retrainLanes : 0 ∈ ((s.swapRetrain p sw).port p).retrainLanes := by
  by_cases h : 0 ∈ (s.port p).retrainLanes <;> simp [State.swapRetrain, h]

theorem State.not_mem_swapTrained_retrainLanes : 0 ∉ ((s.swapTrained p).port p).retrainLanes := by simp [State.swapTrained]

theorem swapTrained_onlyPorts : OnlyPorts [] s (s.swapTrained p) := setPort_onlyPorts s p _

end

/-! ### Scheduled flits that never leave (R219, R253, R254) -/

/-- A port whose slot units for scheduled flits that never left count one consumer more. -/
def PortSt.unleft (fs : List Flit) (x : PortSt) : PortSt :=
  { x with rx := x.rx.map fun u =>
      if u.flit.any (fun g => isSched g && fs.any fun f => flitKey f == flitKey g && f.fidx == g.fidx)
      then { u with pend := u.pend + 1 } else u }

/-- Flits that never left change what is received on a port in nothing but its slot units. -/
theorem State.notLeft_port (s : State) (fs : List Flit) (q : Nat) :
    ({ (s.notLeft fs).port q with rx := [] } : PortSt) = { s.port q with rx := [] } := by
  have hget : (s.notLeft fs).port q = (s.port q).unleft fs := Tab.get_mapVal (PortSt.unleft fs) s.fab.ports q {}
  rw [hget]
  rfl

theorem notLeft_onlyPorts (s : State) (fs : List Flit) : OnlyPorts [] s (s.notLeft fs) := ⟨rfl, fun _ _ _ => rfl⟩

/-- The scheduled flits due on a port. -/
def State.dueOn (s : State) (p : Nat) : List Flit := (s.port p).txq.filter isSched

/-- The port once those are dropped. -/
def State.undue (s : State) (p : Nat) : PortSt :=
  { s.port p with
    txq := (s.port p).txq.filter fun f => !isSched f,
    replay := (s.port p).replay.filter fun r => !((s.dueOn p).any fun f => f.lseq == r.lseq) }

theorem dropDue_of_none {s : State} {p : Nat} (h : s.dueOn p = []) : s.dropDue p = s := by
  simp only [State.dueOn] at h
  simp [State.dropDue, h]

theorem dropDue_of_some {s : State} {p : Nat} (h : s.dueOn p ≠ []) : s.dropDue p =
    ((s.setPort p (s.undue p)).addCount (Fld.XF_PORT_ERR_HOLES.at p) (s.dueOn p).length).notLeft (s.dueOn p) := by
  simp only [State.dueOn] at h
  simp only [State.dropDue, List.isEmpty_iff, h, if_false]
  rfl

section

variable (s : State) (p : Nat)

theorem dropDue_onlyPorts : OnlyPorts [(Fld.XF_PORT_ERR_HOLES.at p).reg] s (s.dropDue p) := by
  by_cases h : s.dueOn p = []
  · rw [dropDue_of_none h]
    exact (OnlyEvents.refl _ s).onlyPorts
  · rw [dropDue_of_some h]
    exact (((setPort_onlyPorts s p _).mono (by simp)).trans (addCount_onlyPorts _ _ _)).trans
      ((notLeft_onlyPorts _ _).mono (by simp))

theorem State.dropDue_port_ne {q : Nat} (hq : q ≠ p) :
    ({ (s.dropDue p).port q with rx := [] } : PortSt) = { s.port q with rx := [] } := by
  by_cases h : s.dueOn p = []
  · rw [dropDue_of_none h]
  · rw [dropDue_of_some h, State.notLeft_port]
    exact congrArg (fun x : PortSt => ({ x with rx := [] } : PortSt)) (State.port_setPort_ne s p q _ hq)

/-- The port keeps all but the flits due, their places in the replay buffer, and marks on its slot units. -/
theorem State.dropDue_port_self : ∃ rep, ({ (s.dropDue p).port p with rx := [] } : PortSt) =
    { s.port p with txq := (s.port p).txq.filter fun f => !isSched f, replay := rep, rx := [] } := by
  by_cases h : s.dueOn p = []
  · have hall : ((s.port p).txq.filter fun f => !isSched f) = (s.port p).txq := by
      simpa [State.dueOn, List.filter_eq_self] using h
    rw [dropDue_of_none h, hall]
    exact ⟨_, rfl⟩
  · rw [dropDue_of_some h, State.notLeft_port]
    exact ⟨_, congrArg (fun x : PortSt => ({ x with rx := [] } : PortSt)) (State.port_setPort_self s p _)⟩

/-- Those flits are counted in HOLES. -/
theorem State.fld_dropDue_holes : (s.dropDue p).fld (Fld.XF_PORT_ERR_HOLES.at p) =
    min (s.fld (Fld.XF_PORT_ERR_HOLES.at p) + (s.dueOn p).length) (2 ^ (Fld.XF_PORT_ERR_HOLES.at p).w - 1) := by
  by_cases h : s.dueOn p = []
  · rw [dropDue_of_none h, h]
    exact (Nat.min_eq_left (State.fld_le s _)).symm
  · rw [dropDue_of_some h]
    exact State.fld_addCount_self _ _ _ (by simp [Fld.at, Fld.XF_PORT_ERR_HOLES])

end

/-! ### A lane is lost (R218) -/

/-- A port when one of its lanes has been lost. -/
def State.lostPort (s : State) (p lane : Nat) : PortSt :=
  let x := s.port p
  { x with
    st := .retrain, sinceAt := if x.st == .up then s.time.now else x.sinceAt, fails := if x.st == .up then 0 else x.fails,
    retrains := if x.st == .up then min 65535 (x.retrains + 1) else x.retrains,
    retrainLanes := if x.retrainLanes.contains lane then x.retrainLanes else lane :: x.retrainLanes,
    locked := x.locked &&& (15 - 2 ^ lane) }

/-- The unit in which a lane of a port is lost and its delay entry gone. -/
def State.laneGone (s : State) (p lane : Nat) : State := (s.setPort p (s.lostPort p lane)).dropEntry (laneOf p lane)

theorem laneLost_of_up {s : State} {p : Nat} (h : (s.port p).st = .up) (lane : Nat) :
    s.laneLost p lane = ((s.laneGone p lane).dropDue p).raise Fld.XF_STATUS_RETRAIN := by
  simp only [State.laneLost, State.laneGone, State.lostPort, h, beq_self_eq_true, if_true]

theorem laneLost_of_not_up {s : State} {p : Nat} (h : (s.port p).st ≠ .up) (lane : Nat) :
    s.laneLost p lane = s.laneGone p lane := by
  have h' : ((s.port p).st == PState.up) = false := by simpa using h
  simp only [State.laneLost, State.laneGone, State.lostPort, h', Bool.false_eq_true, if_false]

section

variable (s : State) (p lane : Nat)

@[simp] theorem State.laneGone_port_self : (s.laneGone p lane).port p = s.lostPort p lane := by
  rw [State.laneGone, State.dropEntry_port, State.port_setPort_self]

theorem State.laneGone_port_ne {q : Nat} (hq : q ≠ p) : (s.laneGone p lane).port q = s.port q := by
  rw [State.laneGone, State.dropEntry_port, State.port_setPort_ne _ _ _ _ hq]

/-- From the unit without its lane on, only ports and counts change. -/
theorem laneLost_onlyPorts :
    OnlyPorts [Reg.XF_STATUS, (Fld.XF_PORT_ERR_HOLES.at p).reg] (s.laneGone p lane) (s.laneLost p lane) := by
  by_cases h : (s.port p).st = .up
  · rw [laneLost_of_up h]
    exact ((dropDue_onlyPorts _ p).mono (by simp)).trans
      ((raise_onlyEvents _ Fld.XF_STATUS_RETRAIN).onlyPorts.mono (by simp [Fld.XF_STATUS_RETRAIN, Reg.XF_STATUS]))
  · rw [laneLost_of_not_up h]
    exact (OnlyEvents.refl _ _).onlyPorts

theorem laneLost_onlyLanes :
    OnlyLanes [Reg.HT_STATUS, Reg.XF_STATUS, (Fld.XF_PORT_ERR_HOLES.at p).reg] s (s.laneLost p lane) :=
  (((setPort_onlyPorts s p _).onlyLanes.mono (by simp)).trans ((dropEntry_onlyLanes _ _).mono (by simp))).trans
    ((laneLost_onlyPorts s p lane).onlyLanes.mono fun _ h => List.mem_cons_of_mem _ h)

@[simp] theorem State.laneLost_swap : (s.laneLost p lane).tdc.swap = s.tdc.swap := by
  rw [(laneLost_onlyPorts s p lane).tdc_eq]
  exact State.dropEntry_swap _ _

/-- The port whose lane is lost: of an UP port the scheduled flits due are gone. -/
theorem State.laneLost_port_self : ∃ rep, ({ (s.laneLost p lane).port p with rx := [] } : PortSt) =
    { s.lostPort p lane with
      txq := if (s.port p).st = .up then (s.port p).txq.filter fun f => !isSched f else (s.port p).txq,
      replay := rep, rx := [] } := by
  by_cases h : (s.port p).st = .up
  · obtain ⟨rep, hrep⟩ := State.dropDue_port_self (s.laneGone p lane) p
    refine ⟨rep, ?_⟩
    rw [laneLost_of_up h, State.port, State.raise_ports, if_pos h]
    rw [State.laneGone_port_self] at hrep
    exact hrep
  · rw [laneLost_of_not_up h, State.laneGone_port_self, if_neg h]
    exact ⟨_, rfl⟩

theorem State.laneLost_port_ne {q : Nat} (hq : q ≠ p) :
    ({ (s.laneLost p lane).port q with rx := [] } : PortSt) = { s.port q with rx := [] } := by
  by_cases h : (s.port p).st = .up
  · rw [laneLost_of_up h, State.port, State.raise_ports]
    exact (State.dropDue_port_ne _ p hq).trans (by rw [State.laneGone_port_ne s p lane hq])
  · rw [laneLost_of_not_up h, State.laneGone_port_ne s p lane hq]

@[simp] theorem State.laneLost_lane0Swap : ((s.laneLost p lane).port p).lane0Swap = (s.port p).lane0Swap := by
  obtain ⟨rep, h⟩ := State.laneLost_port_self s p lane
  exact (congrArg PortSt.lane0Swap h).trans rfl

end

end Sys2Proof.Machine
end

section
/-! PROOFS. The lane swap (R57): its start, its steps in order, and its failures. -/

namespace Sys2Proof.Machine

/-- The unit with the lane swap at another step. -/
def State.atStep (s : State) (n : Nat) : State := { s with tdc := { s.tdc with swap := { s.tdc.swap with step := n } } }

/-- The lane swap that a write of START begins. -/
def State.newSwap (s : State) (p : Nat) : SwapSt :=
  { port := p, step := 1, startAt := s.time.now, rt00 := s.tdc.rtAcc.get (laneOf p 0) 0 }

theorem doLaneSwapStart_begins {s : State} {v : W} (hp : s.present Reg.TDC_SWAP_CTRL = true) (h0 : s.tdc.swap.step = 0)
    (hv : v.toNat % 64 < s.nPorts) :
    (s.doLaneSwapStart v).tdc = { s.tdc with swap := s.newSwap (v.toNat % 64) } ∧
    OnlyEvents [Reg.TDC_SWAP_CTRL, Reg.HT_STATUS] { s with
      time := { s.time with cls := (s.doLaneSwapStart v).time.cls }, tdc := (s.doLaneSwapStart v).tdc }
      (s.doLaneSwapStart v) := by
  have ht : s.doLaneSwapStart v = ({ s.putMasked Reg.TDC_SWAP_CTRL 0x3F v with
      tdc := { s.tdc with swap := s.newSwap (v.toNat % 64) } } : State).reclass := by
    simp only [State.doLaneSwapStart, hp, h0, hv, if_true, bne_self_eq_false, decide_true, Bool.not_true, Bool.or_self,
      Bool.false_eq_true, if_false]
    rfl
  rw [ht]
  refine ⟨State.reclass_tdc _, OnlyLanes.reclass_onlyEvents ?frame (by decide) ?ports ?tdc⟩
  case frame =>
    exact ((setReg_onlyEvents s Reg.TDC_SWAP_CTRL _).onlyLanes.mono (by simp)).trans ((tdc_onlyLanes _ _).mono (by simp))
  case ports => rfl
  case tdc => exact (State.reclass_tdc _).symm

/-! ### Steps that end well -/

section

variable {s : State}

theorem doLaneSwapStepEnd_one (h : s.tdc.swap.step = 1) : s.doLaneSwapStepEnd true = s.atStep 2 := by
  simp [State.doLaneSwapStepEnd, State.atStep, h]

theorem doLaneSwapStepEnd_two (h : s.tdc.swap.step = 2) (hc : s.tdc.swap.cntN ≥ 4096) :
    s.doLaneSwapStepEnd true = (s.atStep 3).swapRetrain s.tdc.swap.port true := by
  simp [State.doLaneSwapStepEnd, State.atStep, h, swapBeats, Nat.not_lt.2 hc]

theorem doLaneSwapStepEnd_three (h : s.tdc.swap.step = 3) :
    s.doLaneSwapStepEnd true = (s.atStep 4).swapTrained s.tdc.swap.port := by
  simp [State.doLaneSwapStepEnd, State.atStep, h]

theorem doLaneSwapStepEnd_four (h : s.tdc.swap.step = 4) (hc : s.tdc.swap.cntS ≥ 4096) :
    s.doLaneSwapStepEnd true = (s.atStep 5).swapRetrain s.tdc.swap.port false := by
  simp [State.doLaneSwapStepEnd, State.atStep, h, swapBeats, Nat.not_lt.2 hc]

/-- The unit when the last step has ended: no swap, and the asymmetry of the port set by it. -/
def State.swapOver (s : State) : State :=
  { s with tdc := { s.tdc with swap := {}, asymSet := s.tdc.asymSet.set s.tdc.swap.port true } }

/-- The unit with lane 0 locked again and the asymmetry measured. -/
def State.asymWritten (s : State) : State :=
  ((s.swapOver.swapTrained s.tdc.swap.port).setReg (Reg.TDC_PORT_ASYM + 8 * s.tdc.swap.port)
    (BitVec.ofNat 64 (satBits 32 s.tdc.swap.a0))).setBit Fld.TDC_SWAP_STATUS_DONE

theorem doLaneSwapStepEnd_five (h : s.tdc.swap.step = 5) : s.doLaneSwapStepEnd true = s.asymWritten.reclass := by
  simp [State.doLaneSwapStepEnd, State.asymWritten, State.swapOver, h]

end

theorem atStep_onlyLanes (s : State) (n : Nat) : OnlyLanes [] s (s.atStep n) := tdc_onlyLanes s _

/-- A step that ends with lane 0 of the port to be retrained. -/
theorem atStep_swapRetrain (s : State) (n : Nat) (sw : Bool) {t : State}
    (ht : t = (s.atStep n).swapRetrain s.tdc.swap.port sw) :
    t.tdc.swap = { s.tdc.swap with step := n } ∧ (t.port s.tdc.swap.port).lane0Swap = sw ∧
    0 ∈ (t.port s.tdc.swap.port).retrainLanes ∧ (t.delayEnt (laneOf s.tdc.swap.port 0)).state = 0 ∧
    OnlyEvents [Reg.HT_STATUS] { s with
      time := { s.time with cls := t.time.cls }, tdc := t.tdc, fab := { s.fab with ports := t.fab.ports } } t := by
  subst ht
  refine ⟨State.swapRetrain_swap _ _ _, State.swapRetrain_lane0Swap _ _ _, State.mem_swapRetrain_retrainLanes _ _ _, ?_, ?_⟩
  · rw [State.swapRetrain_delayEnt]
  · exact ((atStep_onlyLanes s n).mono (by simp)).trans (swapRetrain_onlyLanes _ _ _)

/-- The last step: the asymmetry and DONE are written. -/
theorem asymWritten_reclass {s : State} (hp : s.tdc.swap.port < 64) {t : State} (ht : t = s.asymWritten.reclass) :
    t.tdc.swap.step = 0 ∧
    t.reg (Reg.TDC_PORT_ASYM + 8 * s.tdc.swap.port) = BitVec.ofNat 64 (satBits 32 s.tdc.swap.a0) ∧
    t.flag Fld.TDC_SWAP_STATUS_DONE = true ∧
    OnlyEvents [Reg.TDC_SWAP_STATUS, Reg.TDC_PORT_ASYM + 8 * s.tdc.swap.port, Reg.HT_STATUS] { s with
      time := { s.time with cls := t.time.cls }, tdc := t.tdc, fab := { s.fab with ports := t.fab.ports } } t := by
  subst ht
  refine ⟨by rw [State.reclass_tdc]; rfl, ?_, ?_, OnlyLanes.reclass ?_ (by simp)⟩
  · rw [State.reg_reclass _ (by simp only [Reg.TDC_PORT_ASYM, Reg.HT_STATUS]; omega)
      (by simp only [Reg.TDC_PORT_ASYM, Reg.EVQ_STATUS]; omega)]
    refine (State.reg_setReg_ne _ _ _ _ ?_).trans (State.reg_setReg_self _ _ _)
    simp only [Reg.TDC_PORT_ASYM, Fld.TDC_SWAP_STATUS_DONE]
    omega
  · rw [State.flag_reclass _ _ (by decide) (by decide)]
    exact State.flag_setBit _ _ (by decide) (by decide)
  · have hover : OnlyLanes [] s s.swapOver := tdc_onlyLanes s _
    refine (((hover.trans (swapTrained_onlyPorts _ _).onlyLanes).mono (by simp)).trans
      ((setReg_onlyEvents _ _ _).onlyLanes.mono (by simp))).trans ((setBit_onlyLanes _ _).mono ?_)
    simp [Fld.TDC_SWAP_STATUS_DONE, Reg.TDC_SWAP_STATUS]

/-! ### Steps that fail -/

section

variable (s : State) (p n : Nat)

@[simp] theorem State.swapUndo_swap : (s.swapUndo p n).tdc.swap = s.tdc.swap := by
  unfold State.swapUndo
  dsimp only
  split
  · rw [State.laneLost_swap]
    rfl
  · rfl

@[simp] theorem State.swapUndo_lane0Swap : ((s.swapUndo p n).port p).lane0Swap = false := by
  unfold State.swapUndo
  dsimp only
  split
  · rw [State.laneLost_lane0Swap, State.port_setPort_self]
  · rw [State.port_setPort_self]

theorem swapUndo_onlyLanes :
    OnlyLanes [Reg.HT_STATUS, Reg.XF_STATUS, (Fld.XF_PORT_ERR_HOLES.at p).reg] s (s.swapUndo p n) := by
  unfold State.swapUndo
  dsimp only
  have hset : OnlyLanes [Reg.HT_STATUS, Reg.XF_STATUS, (Fld.XF_PORT_ERR_HOLES.at p).reg] s
      (s.setPort p { s.port p with lane0Swap := false }) := (setPort_onlyPorts s p _).onlyLanes.mono (by simp)
  split
  · exact hset.trans (laneLost_onlyLanes _ _ _)
  · exact hset

/-- A swap that fails ends, with FAILED set and lane 0 in normal orientation. -/
theorem swapFail_ends {t : State} (ht : t = s.swapFail) :
    t.tdc.swap = {} ∧ t.flag Fld.TDC_SWAP_STATUS_FAILED = true ∧ (t.port s.tdc.swap.port).lane0Swap = false ∧
    OnlyEvents [Reg.TDC_SWAP_STATUS, Reg.HT_STATUS, Reg.XF_STATUS, (Fld.XF_PORT_ERR_HOLES.at s.tdc.swap.port).reg] { s with
      time := { s.time with cls := t.time.cls }, tdc := t.tdc, fab := { s.fab with ports := t.fab.ports } } t := by
  subst ht
  unfold State.swapFail
  dsimp only
  refine ⟨?_, ?_, ?_, OnlyLanes.reclass ?_ (by simp)⟩
  · rw [State.reclass_tdc, State.setBit_tdc, State.swapUndo_swap]
  · rw [State.flag_reclass _ _ (by decide) (by decide)]
    exact State.flag_setBit _ _ (by decide) (by decide)
  · rw [State.reclass_port]
    exact State.swapUndo_lane0Swap _ _ _
  · refine (((tdc_onlyLanes s _).mono (by simp)).trans ((swapUndo_onlyLanes _ _ _).mono fun _ h =>
      List.mem_cons_of_mem _ h)).trans ((setBit_onlyLanes _ _).mono ?_)
    simp [Fld.TDC_SWAP_STATUS_FAILED, Reg.TDC_SWAP_STATUS]

end

theorem doLaneSwapStepEnd_false {s : State} (h : 1 ≤ s.tdc.swap.step) : s.doLaneSwapStepEnd false = s.swapFail := by
  simp [State.doLaneSwapStepEnd, Nat.one_le_iff_ne_zero.1 h]

theorem doLaneSwapTimeout_of_late {s : State} (h : 1 ≤ s.tdc.swap.step)
    (ht : s.time.now - s.tdc.swap.startAt > 200 * msX) : s.doLaneSwapTimeout = s.swapFail := by
  simp [State.doLaneSwapTimeout, Nat.one_le_iff_ne_zero.1 h, ht]

/-- Settles O11: one equation for the end of each step, and one failure for a step that fails and for the whole. -/
theorem laneSwapMeasuresAsymmetry : Obligations.LaneSwapMeasuresAsymmetry := by
  unfold Obligations.LaneSwapMeasuresAsymmetry
  refine ⟨fun s v hp h0 hv => ⟨_, rfl, doLaneSwapStart_begins hp h0 hv⟩, fun s hport => ⟨fun h => ?one, fun h hc => ?two,
    fun h => ?three, fun h hc => ?four, fun h => ?five, fun h => ?fails, fun h hlate => ?late⟩⟩
  case one => exact congrArg Host.Outcome.next (doLaneSwapStepEnd_one h)
  case two => exact ⟨_, rfl, atStep_swapRetrain s 3 true (doLaneSwapStepEnd_two h hc)⟩
  case three =>
    refine ⟨_, congrArg Host.Outcome.next (doLaneSwapStepEnd_three h), rfl, ?_⟩
    exact State.not_mem_swapTrained_retrainLanes _ _
  case four => exact ⟨_, rfl, atStep_swapRetrain s 5 false (doLaneSwapStepEnd_four h hc)⟩
  case five => exact ⟨_, rfl, asymWritten_reclass hport (doLaneSwapStepEnd_five h)⟩
  case fails => exact ⟨_, rfl, swapFail_ends s (doLaneSwapStepEnd_false h)⟩
  case late => exact ⟨_, rfl, swapFail_ends s (doLaneSwapTimeout_of_late h hlate)⟩

end Sys2Proof.Machine
end

section
/-! PROOFS. The roots: what a change of source or of role may change (R22, R83 to R91), and the external references (R80,
R81). -/

namespace Sys2Proof.Machine

/-! ### Status bits beside one another -/

/-- An event leaves the other fields of its status register alone. -/
theorem State.fld_raise_ne (s : State) (f g : Fld) (hr : f.reg = g.reg) (hq : f.reg ≠ Reg.EVQ_STATUS) (hf : f.lo + f.w ≤ 64)
    (hd : g.lo + g.w ≤ f.lo ∨ f.lo + f.w ≤ g.lo) : (s.raise g).fld f = s.fld f := by
  have hrec : (s.raise g).reg f.reg = (s.setBit g).reg f.reg :=
    (record_onlyEvents (s.setBit g) _ _ _ []).2 f.reg (by simp) hq
  have hbit : (s.setBit g).reg f.reg = g.put (s.reg f.reg) 1 := by
    rw [hr]
    exact State.reg_setReg_self _ _ _
  simp only [State.fld, hrec, hbit]
  exact Fld.of_put_ne g f _ 1 hf hd

theorem State.fld_reclass (s : State) (f : Fld) (ha : f.reg ≠ Reg.HT_STATUS) (hq : f.reg ≠ Reg.EVQ_STATUS) :
    s.reclass.fld f = s.fld f := by simp only [State.fld, s.reg_reclass ha hq]

/-! ### What a root's persistent words decide -/

theorem State.isRoot_congr {s t : State} (hi : t.ident = s.ident) (hn : t.nvs = s.nvs) : t.isRoot = s.isRoot := by
  simp only [State.isRoot, State.isSpire, State.isVd, State.rwpWord, State.nvsWord, hi, hn]

theorem State.preg_congr {s t : State} {a : Nat} (hi : t.ident = s.ident) (hn : t.nvs = s.nvs) (ha : t.reg a = s.reg a) :
    t.preg a = s.preg a := by
  have hv : t.isVd = s.isVd := by simp only [State.isVd, hi]
  have hw : ∀ w, t.rwpWord w = s.rwpWord w := fun w => by simp only [State.rwpWord, State.nvsWord, hn]
  unfold State.preg
  simp only [hv, hw, ha]

theorem State.refUse_congr {s t : State} {n : Nat} (hi : t.ident = s.ident) (hn : t.nvs = s.nvs)
    (hc : t.reg (Reg.REF_IN_CFG + 8 * n) = s.reg (Reg.REF_IN_CFG + 8 * n))
    (ht : t.reg (Reg.TDC_REF_CFG + 8 * n) = s.reg (Reg.TDC_REF_CFG + 8 * n)) : t.refUse n = s.refUse n := by
  simp only [State.refUse, State.isRoot_congr hi hn, State.preg_congr hi hn hc, ht]

theorem State.isRoot_of_refUse {s : State} {n : Nat} (h : s.refUse n = true) : s.isRoot = true := by
  simp only [State.refUse, Bool.and_eq_true] at h
  exact h.1.1

/-! ### Changes of a root's source and role -/

/-- `t` is the root `s` after changes of its source and its split: its lead, its inputs and its reference stay, HT does not
move, and of REF_STATUS no bit but TANDEM_SPLIT changes. -/
structure RootSettled (s t : State) : Prop where
  frame : OnlyEvents [Reg.REF_STATUS, Reg.HT_STATUS] { s with ref := t.ref, time := t.time } t
  leader : t.ref.leader = s.ref.leader
  worseAt : t.ref.worseAt = s.ref.worseAt
  refs : t.ref.refs = s.ref.refs
  selRef : t.ref.selRef = s.ref.selRef
  htx : t.time.htx = s.time.htx
  status : ∀ f : Fld, f.reg = Reg.REF_STATUS → f.lo + f.w ≤ 64 → (f.lo + f.w ≤ 18 ∨ 19 ≤ f.lo) → t.fld f = s.fld f

/-- The frame of a root's changes joins. -/
theorem rootFrame_trans {rs : List Nat} {s t u : State} (h : OnlyEvents rs { s with ref := t.ref, time := t.time } t)
    (k : OnlyEvents rs { t with ref := u.ref, time := u.time } u) : OnlyEvents rs { s with ref := u.ref, time := u.time } u := by
  obtain ⟨heq, hreg⟩ := h
  obtain ⟨keq, kreg⟩ := k
  refine ⟨?_, fun a ha hq => (kreg a ha hq).trans (hreg a ha hq)⟩
  rw [keq, heq]

namespace RootSettled

variable {s t u : State}

protected theorem refl (s : State) : RootSettled s s :=
  ⟨OnlyEvents.refl _ s, rfl, rfl, rfl, rfl, rfl, fun _ _ _ _ => rfl⟩

protected theorem trans (h : RootSettled s t) (k : RootSettled t u) : RootSettled s u where
  frame := rootFrame_trans h.frame k.frame
  leader := k.leader.trans h.leader
  worseAt := k.worseAt.trans h.worseAt
  refs := k.refs.trans h.refs
  selRef := k.selRef.trans h.selRef
  htx := k.htx.trans h.htx
  status f hr hf hd := (k.status f hr hf hd).trans (h.status f hr hf hd)

/-- A change of the root's own parts alone. -/
theorem of_parts (s : State) (x : RefSt) (y : TimeSt) (hl : x.leader = s.ref.leader) (hw : x.worseAt = s.ref.worseAt)
    (hr : x.refs = s.ref.refs) (hs : x.selRef = s.ref.selRef) (hh : y.htx = s.time.htx) :
    RootSettled s { s with ref := x, time := y } :=
  ⟨⟨rfl, fun _ _ _ => rfl⟩, hl, hw, hr, hs, hh, fun _ _ _ _ => rfl⟩

theorem raise_split (s : State) : RootSettled s (s.raise Fld.REF_STATUS_TANDEM_SPLIT) where
  frame := by
    rw [State.raise_ref, State.raise_time]
    exact (raise_onlyEvents s _).mono (by simp [Fld.REF_STATUS_TANDEM_SPLIT, Reg.REF_STATUS])
  leader := by rw [State.raise_ref]
  worseAt := by rw [State.raise_ref]
  refs := by rw [State.raise_ref]
  selRef := by rw [State.raise_ref]
  htx := by rw [State.raise_time]
  status f hr hf hd := State.fld_raise_ne s f _ hr (by rw [hr]; decide) hf hd.symm

theorem reclass (s : State) : RootSettled s s.reclass where
  frame := by
    obtain ⟨heq, hreg⟩ := reclass_onlyEvents s
    rw [State.reclass_ref, State.reclass_time]
    exact ⟨heq, fun a ha => hreg a (by simp only [List.mem_cons, not_or] at ha ⊢; exact ha.2)⟩
  leader := by rw [State.reclass_ref]
  worseAt := by rw [State.reclass_ref]
  refs := by rw [State.reclass_ref]
  selRef := by rw [State.reclass_ref]
  htx := by rw [State.reclass_time]
  status f hr _ _ := State.fld_reclass s f (by rw [hr]; decide) (by rw [hr]; decide)

theorem enterHoldover (s : State) : RootSettled s s.enterHoldover := by
  refine RootSettled.trans ?_ (reclass _)
  exact of_parts s _ _ rfl rfl rfl rfl rfl

theorem enterLocked (s : State) : RootSettled s s.enterLocked := by
  refine RootSettled.trans ?_ (reclass _)
  exact of_parts s s.ref _ rfl rfl rfl rfl rfl

end RootSettled

/-- A root that has taken up whether it is split (R86, R91). -/
def State.splitTaken (s : State) : State :=
  if !s.ref.leader && (s.ref.sel.get s.otherDom).isNone && !s.ref.split then
    { s with ref := { s.ref with split := true, splitRun := 0, splitDpll := false } }.raise Fld.REF_STATUS_TANDEM_SPLIT
  else if (s.ref.sel.get s.otherDom).isNone then { s with ref := { s.ref with splitRun := 0, splitDpll := false } }
  else s

/-- A root that has taken up whether it has a source (R22, R89). -/
def State.sourceTaken (s : State) : State :=
  match s.time.servo, s.ref.selRef.isSome || s.following with
  | .locked, false => s.enterHoldover
  | .locked, true => { s with ref := { s.ref with lockAt := some (s.ref.lockAt.getD s.time.now) } }
  | .holdover, true => { s.enterLocked with ref := { s.enterLocked.ref with lockAt := some s.enterLocked.time.now } }
  | _, _ => s

theorem settleRoot_eq (s : State) : s.settleRoot =
    if s.isRoot && (s.time.servo == .locked || s.time.servo == .holdover) then s.splitTaken.sourceTaken else s := rfl

theorem splitTaken_settled (s : State) : RootSettled s s.splitTaken := by
  unfold State.splitTaken
  split
  · refine RootSettled.trans ?_ (RootSettled.raise_split _)
    exact RootSettled.of_parts s _ s.time rfl rfl rfl rfl rfl
  · split
    · exact RootSettled.of_parts s _ s.time rfl rfl rfl rfl rfl
    · exact RootSettled.refl s

/-- A leader is not split. -/
theorem splitTaken_of_leader {s : State} (h : s.ref.leader = true) :
    ∃ a b, s.splitTaken = { s with ref := { s.ref with splitRun := a, splitDpll := b } } := by
  rw [State.splitTaken, if_neg (by simp [h])]
  split
  · exact ⟨_, _, rfl⟩
  · exact ⟨s.ref.splitRun, s.ref.splitDpll, rfl⟩

theorem sourceTaken_settled (s : State) : RootSettled s s.sourceTaken := by
  unfold State.sourceTaken
  split
  · exact RootSettled.enterHoldover s
  · exact RootSettled.of_parts s _ s.time rfl rfl rfl rfl rfl
  · refine (RootSettled.enterLocked s).trans ?_
    exact RootSettled.of_parts _ _ s.enterLocked.time rfl rfl rfl rfl rfl
  · exact RootSettled.refl s

theorem settleRoot_settled (s : State) : RootSettled s s.settleRoot := by
  rw [settleRoot_eq]
  split
  · exact (splitTaken_settled s).trans (sourceTaken_settled _)
  · exact RootSettled.refl s

theorem settleRoot_of_freerun {s : State} (h : s.time.servo = .freerun) : s.settleRoot = s := by
  simp [settleRoot_eq, h]

/-- A leader in LOCKED without a reference holds over. -/
theorem settleRoot_holdover {s : State} (hr : s.isRoot = true) (hs : s.time.servo = .locked) (hl : s.ref.leader = true)
    (hn : s.ref.selRef = none) : ∃ a b, s.settleRoot =
      ({ s with ref := { s.ref with splitRun := a, splitDpll := b } } : State).enterHoldover := by
  obtain ⟨a, b, hab⟩ := splitTaken_of_leader hl
  refine ⟨a, b, ?_⟩
  simp [settleRoot_eq, hr, hs, hab, State.sourceTaken, hn, State.following, hl]

/-- A leader in LOCKED with a reference stays there. -/
theorem settleRoot_locked {s : State} (hr : s.isRoot = true) (hs : s.time.servo = .locked) (hl : s.ref.leader = true)
    (hn : s.ref.selRef ≠ none) : s.settleRoot.time = s.time ∧ s.settleRoot.clk = s.clk := by
  obtain ⟨a, b, hab⟩ := splitTaken_of_leader hl
  obtain ⟨n, hsel⟩ := Option.ne_none_iff_exists'.1 hn
  simp [settleRoot_eq, hr, hs, hab, State.sourceTaken, hsel]

end Sys2Proof.Machine
end

section
/-! PROOFS. Edges and losses of external references, and the tandem of the roots (R80 to R88). -/

namespace Sys2Proof.Machine

/-! ### What an event on a channel leaves of the references -/

section

variable (s : State) (ch kind stamp n : Nat)

theorem State.stampHt_tdcTake (st : BitVec 48) : (s.tdcTake ch kind stamp).stampHt st = s.stampHt st := by
  simp only [State.stampHt, State.tdcTake_anchors]

theorem State.preg_tdcTake {a : Nat} (h1 : a ≠ Reg.TDC_STATUS) (h2 : a ≠ Reg.TDC_FIFO_STATUS) :
    (s.tdcTake ch kind stamp).preg a = s.preg a :=
  State.preg_congr (State.tdcTake_ident ..) (State.tdcTake_nvs ..) ((tdcTake_onlyStamp s ch kind stamp).2 a h1 h2)

theorem State.refP_tdcTake : (s.tdcTake ch kind stamp).refP n = s.refP n := by
  simp only [State.refP]
  rw [State.preg_tdcTake _ _ _ _ (by simp only [Reg.REF_IN_CFG, Reg.TDC_STATUS]; omega)
    (by simp only [Reg.REF_IN_CFG, Reg.TDC_FIFO_STATUS]; omega)]

theorem State.refDelay_tdcTake : (s.tdcTake ch kind stamp).refDelay n = s.refDelay n := by
  simp only [State.refDelay]
  rw [State.preg_tdcTake _ _ _ _ (by simp only [Reg.REF_IN_DELAY, Reg.TDC_STATUS]; omega)
    (by simp only [Reg.REF_IN_DELAY, Reg.TDC_FIFO_STATUS]; omega)]

end

/-! ### The best reference (R69, R70) -/

/-- Without a qualified input there is no best one. -/
theorem State.bestRef_eq_none {s : State} (h : ∀ m < 4, s.refQualified m = false) : s.bestRef = none := by
  have hnil : (upto 4).filter s.refQualified = [] := by
    simpa [upto, List.filter_eq_nil_iff] using h
  rw [State.bestRef, hnil]
  rfl

/-! ### Edges (R45, R80, R81) -/

theorem doRefEdge_of_use {s : State} {n : Nat} {stamp : BitVec 48} (hn : n < 4) (hu : s.refUse n = true)
    (hs : s.stamps (320 + n) = true) :
    s.doRefEdge n stamp = (s.tdcTake (320 + n) 3 stamp.toNat).refEdge n stamp := by
  simp [State.doRefEdge, hn, hu, hs]

theorem doRefEdge_of_not_use {s : State} {n : Nat} {stamp : BitVec 48} (hn : n < 4) (hu : s.refUse n = false) :
    s.doRefEdge n stamp = s.tdcTake (320 + n) 3 stamp.toNat := by
  simp [State.doRefEdge, hn, hu]

/-- An input after an edge of error `err` at `t0`, stamped and valid. -/
def RefIn.afterEdge (r : RefIn) (err t0 : Int) : RefIn :=
  let run := if r.state = 3 then 1 else min 16 (r.run + 1)
  { r with state := if run ≥ 16 || r.state = 2 then 2 else 1, run, err, lastHt := some t0, applied := 0 }

/-- A root without a selected reference takes the best qualified one. -/
def State.refTaken (s : State) : State :=
  if s.ref.selRef.isNone && s.bestRef.isSome then
    { s with ref := { s.ref with selRef := s.bestRef } }.raise Fld.REF_STATUS_SWITCHED
  else s

/-- The reference loop at an edge of an input: only the selected one steers. -/
def State.refSteered (s : State) (n p : Nat) (err : Int) : State :=
  if s.ref.selRef = some n && !s.following && !s.coreHeld 1 &&
    (s.time.servo == .acquire || s.time.servo == .locked || s.time.servo == .holdover)
  then s.refSteer p err else s

/-- The error of an edge at `t0` against the grid of an input. -/
def State.errAt (s : State) (n : Nat) (t0 : Int) : Int := edgeErr (s.refP n) (t0 - s.refDelay n)

theorem refEdge_of_valid {s : State} {n : Nat} {stamp : BitVec 48} {t0 : Int} (hst : s.stampHt stamp = some t0)
    (hv : ((s.carryOffset t0).refIn n).validEdge (s.refP n) (s.errAt n t0) = true) :
    s.refEdge n stamp = (((({ s.carryOffset t0 with ref := { (s.carryOffset t0).ref with
      refs := (s.carryOffset t0).ref.refs.set n (((s.carryOffset t0).refIn n).afterEdge (s.errAt n t0) t0) } } :
        State).refTaken).refSteered n (s.refP n) (s.errAt n t0)).settleRoot).wtrRefresh := by
  have hv' : ((s.carryOffset t0).refIn n).validEdge ((s.carryOffset t0).refP n)
      (edgeErr ((s.carryOffset t0).refP n) (t0 - (s.carryOffset t0).refDelay n)) = true := hv
  simp only [State.refEdge, hst, hv', if_true]
  rfl

theorem refEdge_of_invalid {s : State} {n : Nat} {stamp : BitVec 48} {t0 : Int} (hst : s.stampHt stamp = some t0)
    (hv : ((s.carryOffset t0).refIn n).validEdge (s.refP n) (s.errAt n t0) = false) :
    s.refEdge n stamp = { s.carryOffset t0 with ref := { (s.carryOffset t0).ref with
      refs := (s.carryOffset t0).ref.refs.set n { (s.carryOffset t0).refIn n with run := 0 } } } := by
  have hv' : ((s.carryOffset t0).refIn n).validEdge ((s.carryOffset t0).refP n)
      (edgeErr ((s.carryOffset t0).refP n) (t0 - (s.carryOffset t0).refDelay n)) = false := hv
  simp only [State.refEdge, hst, hv', Bool.false_eq_true, if_false]

/-- The first edge of the only input that a root in FREERUN has heard of. -/
theorem refEdge_first {s : State} {n : Nat} {stamp : BitVec 48} {t0 : Int} (hst : s.stampHt stamp = some t0)
    (hr : s.ref.refs = []) (hsel : s.ref.selRef = none) (hserv : s.time.servo = .freerun) :
    s.refEdge n stamp = ({ s with ref := { s.ref with
      refs := [(n, RefIn.afterEdge {} (s.errAt n t0) t0)], rootOffAt := t0 } } : State).wtrRefresh := by
  have hcarry : s.carryOffset t0 = { s with ref := { s.ref with refs := [], rootOffAt := t0 } } := by
    simp only [State.carryOffset, hr, List.map_nil]
  have hin : (s.carryOffset t0).refIn n = {} := by rw [hcarry]; rfl
  have hset : ({ s.carryOffset t0 with ref := { (s.carryOffset t0).ref with
      refs := (s.carryOffset t0).ref.refs.set n (((s.carryOffset t0).refIn n).afterEdge (s.errAt n t0) t0) } } : State) =
      { s with ref := { s.ref with refs := [(n, RefIn.afterEdge {} (s.errAt n t0) t0)], rootOffAt := t0 } } := by
    rw [hin, hcarry]
    rfl
  rw [refEdge_of_valid hst (by rw [hin]; rfl), hset]
  generalize hu : ({ s with ref := { s.ref with
    refs := [(n, RefIn.afterEdge {} (s.errAt n t0) t0)], rootOffAt := t0 } } : State) = u
  have hbest : u.bestRef = none := by
    refine State.bestRef_eq_none fun m _ => ?_
    have hstate : (u.refIn m).state ≠ 2 := by
      subst hu
      simp only [State.refIn, Tab.get]
      split <;> simp [RefIn.afterEdge]
    simp [State.refQualified, hstate]
  have hsel' : u.ref.selRef = none := by subst hu; exact hsel
  have hserv' : u.time.servo = .freerun := by subst hu; exact hserv
  have htaken : u.refTaken = u := by simp [State.refTaken, hbest]
  have hsteer : u.refSteered n (s.refP n) (s.errAt n t0) = u := by simp [State.refSteered, hsel']
  rw [htaken, hsteer, settleRoot_of_freerun hserv']

/-- An edge off its prediction, of the only input heard of. -/
theorem refEdge_invalid {s : State} {n : Nat} {stamp : BitVec 48} {t0 : Int} {r : RefIn} (hst : s.stampHt stamp = some t0)
    (hr : s.ref.refs = [(n, r)]) (hoff : s.ref.rootOff = 0) (happ : r.applied = 0) (hlast : r.lastHt ≠ none)
    (herr : (edgeErr (s.refP n) (s.errAt n t0 - r.err)).natAbs > 6553600) :
    s.refEdge n stamp = { s with ref := { s.ref with refs := [(n, { r with run := 0 })], rootOffAt := t0 } } := by
  have hcarry : s.carryOffset t0 = { s with ref := { s.ref with rootOffAt := t0 } } := by
    simp [State.carryOffset, hr, hoff]
  have hin : (s.carryOffset t0).refIn n = r := by simp [hcarry, State.refIn, hr, Tab.get]
  have hvalid : r.validEdge (s.refP n) (s.errAt n t0) = false := by
    obtain ⟨x, hx⟩ := Option.ne_none_iff_exists'.1 hlast
    simp [RefIn.validEdge, hx, happ, ns100, herr]
  rw [refEdge_of_invalid hst (by rw [hin]; exact hvalid), hin, hcarry]
  simp [hr, Tab.set]

/-! ### Losses (R22, R81) -/

/-- A change of the references with an event of REF_STATUS. -/
theorem rootFrame_raise (s : State) (x : RefSt) (f : Fld) (hf : f.reg = Reg.REF_STATUS) {t : State}
    (ht : t = ({ s with ref := x } : State).raise f) :
    OnlyEvents [Reg.REF_STATUS, Reg.HT_STATUS] { s with ref := t.ref, time := t.time } t := by
  subst ht
  rw [State.raise_ref, State.raise_time]
  exact (raise_onlyEvents ({ s with ref := x } : State) f).mono (by simp [hf])

theorem wtrRefresh_frame (s : State) : OnlyEvents [Reg.REF_STATUS, Reg.HT_STATUS]
    { s with ref := s.wtrRefresh.ref, time := s.wtrRefresh.time } s.wtrRefresh := ⟨rfl, fun _ _ _ => rfl⟩

theorem State.refUse_raise (s : State) (f : Fld) (hf : f.reg = Reg.REF_STATUS) {n : Nat} (hn : n < 4) :
    (s.raise f).refUse n = s.refUse n := by
  have hreg : ∀ a, a ≠ Reg.REF_STATUS → a ≠ Reg.EVQ_STATUS → (s.raise f).reg a = s.reg a := fun a ha hq =>
    (raise_onlyEvents s f).2 a (by simpa [hf] using ha) hq
  refine State.refUse_congr (State.raise_ident s f) (State.raise_nvs s f) (hreg _ ?_ ?_) (hreg _ ?_ ?_) <;>
    simp only [Reg.REF_IN_CFG, Reg.TDC_REF_CFG, Reg.REF_STATUS, Reg.EVQ_STATUS] <;> omega

/-- The unit whose input has lost its edges. -/
def State.refGone (s : State) (n : Nat) : State :=
  ({ s with ref := { s.ref with
      refs := s.ref.refs.set n { s.refIn n with state := 3, run := 0 } } } : State).raise Fld.REF_STATUS_REF_LOST

/-- The unit that turns from an input to the best that is left. -/
def State.leaveRef (s : State) (n : Nat) : State :=
  ({ s with ref := { s.ref with selRef := s.bestRef, lostRef := some n } } : State).raise Fld.REF_STATUS_SWITCHED

/-- The unit that has lost its selected reference. -/
def State.sourceGone (s : State) (n : Nat) : State := (s.refGone n).leaveRef n

section

variable {s : State} {n : Nat}

theorem refGone_ref : (s.refGone n).ref =
    { s.ref with refs := s.ref.refs.set n { s.refIn n with state := 3, run := 0 } } := State.raise_ref _ _

/-- The grid instant of an input's last valid edge, or the one at which its count began. -/
def State.lastInstant (s : State) (n : Nat) : Int :=
  match (s.refIn n).lastHt with
  | some t => Fl.rneDivInt (t - s.refDelay n) (s.refP n : Int).toNat
  | none => ((s.refIn n).since - s.refDelay n) / (s.refP n : Int)

/-- Three grid instants have gone by without a valid edge of an input in use. -/
def State.edgesOver (s : State) (n : Nat) : Bool :=
  decide (n < 4) && s.refUse n && ((s.refIn n).state == 1 || (s.refIn n).state == 2) &&
    decide ((s.ht : Int) - s.refDelay n ≥ (s.lastInstant n + 3) * s.refP n + (s.refP n : Int) / 2)

theorem doRefLoss_eq (s : State) (n : Nat) : s.doRefLoss n = if s.edgesOver n then
    (if (s.refGone n).ref.selRef = some n then s.sourceGone n else s.refGone n).settleRoot.wtrRefresh else s := rfl

/-- Three grid instants without a valid edge of the selected reference. -/
theorem doRefLoss_of_selected {t0 : Int} (hn : n < 4) (hu : s.refUse n = true)
    (hst : (s.refIn n).state = 1 ∨ (s.refIn n).state = 2) (hlast : (s.refIn n).lastHt = some t0)
    (hsel : s.ref.selRef = some n)
    (hdue : (s.ht : Int) - s.refDelay n ≥
      (Fl.rneDivInt (t0 - s.refDelay n) (s.refP n) + 3) * s.refP n + (s.refP n : Int) / 2) :
    s.doRefLoss n = (s.sourceGone n).settleRoot.wtrRefresh := by
  have hsel' : (s.refGone n).ref.selRef = some n := by rw [refGone_ref]; exact hsel
  have hk : s.lastInstant n = Fl.rneDivInt (t0 - s.refDelay n) (s.refP n) := by
    rw [State.lastInstant, hlast, Int.toNat_natCast]
  have hover : s.edgesOver n = true := by
    simp only [State.edgesOver, hk, Bool.and_eq_true, Bool.or_eq_true, beq_iff_eq, decide_eq_true_eq]
    exact ⟨⟨⟨hn, hu⟩, hst⟩, hdue⟩
  rw [doRefLoss_eq, if_pos hover, if_pos hsel']

/-- With no other qualified input, the unit has no reference left. -/
theorem sourceGone_selRef (hoth : ∀ m, m ≠ n → s.refQualified m = false) : (s.sourceGone n).ref.selRef = none := by
  rw [State.sourceGone, State.leaveRef, State.raise_ref]
  refine State.bestRef_eq_none fun m hm => ?_
  by_cases hmn : m = n
  · subst hmn
    simp [State.refQualified, State.refIn, refGone_ref]
  · have hq := hoth m hmn
    have hin : (s.refGone n).refIn m = s.refIn m := by
      rw [State.refIn, refGone_ref]
      exact Tab.get_set_ne _ _ _ _ _ hmn
    have huse : (s.refGone n).refUse m = s.refUse m := State.refUse_raise _ _ rfl hm
    rw [State.refQualified, hin, huse]
    exact hq

theorem sourceGone_ref : (s.sourceGone n).ref = { s.ref with
    refs := s.ref.refs.set n { s.refIn n with state := 3, run := 0 }
    selRef := (s.refGone n).bestRef, lostRef := some n } := by
  rw [State.sourceGone, State.leaveRef, State.raise_ref, refGone_ref]

theorem sourceGone_time : (s.sourceGone n).time = s.time := by
  rw [State.sourceGone, State.leaveRef, State.raise_time]
  exact State.raise_time _ _

theorem sourceGone_isRoot : (s.sourceGone n).isRoot = s.isRoot :=
  (State.isRoot_congr (State.raise_ident _ _) (State.raise_nvs _ _)).trans
    ((State.isRoot_congr (s := s.refGone n) rfl rfl).trans (State.isRoot_congr (State.raise_ident _ _) (State.raise_nvs _ _)))

theorem State.fld_leaveRef_lost (s : State) (n : Nat) :
    (s.leaveRef n).fld Fld.REF_STATUS_REF_LOST = s.fld Fld.REF_STATUS_REF_LOST :=
  State.fld_raise_ne _ _ _ rfl (by decide) (by decide) (by decide)

theorem sourceGone_lost : (s.sourceGone n).fld Fld.REF_STATUS_REF_LOST = 1 := by
  rw [State.sourceGone, State.fld_leaveRef_lost]
  exact raise_fld _ _ (by decide) (by decide) (by decide)

theorem sourceGone_frame : OnlyEvents [Reg.REF_STATUS, Reg.HT_STATUS]
    { s with ref := (s.sourceGone n).ref, time := (s.sourceGone n).time } (s.sourceGone n) :=
  rootFrame_trans (rootFrame_raise s _ Fld.REF_STATUS_REF_LOST rfl rfl) (rootFrame_raise _ _ Fld.REF_STATUS_SWITCHED rfl rfl)

end

theorem State.enterHoldover_servo (s : State) : s.enterHoldover.time.servo = .holdover := by
  simp [State.enterHoldover, State.steerTo]

theorem State.enterHoldover_holdQual (s : State) : s.enterHoldover.ref.holdQual = s.ref.qualified := by
  simp [State.enterHoldover, State.steerTo]

/-- A leading root that settles without a reference, and restarts its wait to restore. -/
theorem settleRoot_wtrRefresh_holdover {u t : State} (hr : u.isRoot = true) (hserv : u.time.servo = .locked)
    (hlead : u.ref.leader = true) (hsel : u.ref.selRef = none) (ht : t = u.settleRoot.wtrRefresh) :
    t.ref.refs = u.ref.refs ∧ t.ref.selRef = none ∧ t.time.servo = .holdover ∧ t.time.htx = u.time.htx ∧
    t.fld Fld.REF_STATUS_REF_LOST = u.fld Fld.REF_STATUS_REF_LOST ∧ t.ref.holdQual = u.ref.qualified ∧
    OnlyEvents [Reg.REF_STATUS, Reg.HT_STATUS] { u with ref := t.ref, time := t.time } t := by
  obtain ⟨a, b, hold⟩ := settleRoot_holdover hr hserv hlead hsel
  have hset := settleRoot_settled u
  have hservo : u.settleRoot.time.servo = .holdover := by rw [hold]; exact State.enterHoldover_servo _
  have hqual : u.settleRoot.ref.holdQual = u.ref.qualified := by rw [hold]; exact State.enterHoldover_holdQual _
  generalize u.settleRoot = v at hset hservo hqual ht
  subst ht
  exact ⟨hset.refs, hset.selRef.trans hsel, hservo, hset.htx, hset.status _ rfl (by decide) (by decide), hqual,
    rootFrame_trans hset.frame (wtrRefresh_frame v)⟩

/-- The leading root without its reference. -/
theorem sourceGone_holds {s : State} {n : Nat} (hr : s.isRoot = true) (hserv : s.time.servo = .locked)
    (hlead : s.ref.leader = true) (hoth : ∀ m, m ≠ n → s.refQualified m = false) {t : State}
    (ht : t = (s.sourceGone n).settleRoot.wtrRefresh) :
    (t.refIn n).state = 3 ∧ (t.refIn n).run = 0 ∧ t.ref.selRef = none ∧ t.time.servo = .holdover ∧
    t.time.htx = s.time.htx ∧ t.flag Fld.REF_STATUS_REF_LOST = true ∧ t.ref.holdQual = s.ref.qualified ∧
    OnlyEvents [Reg.REF_STATUS, Reg.HT_STATUS] { s with ref := t.ref, time := t.time } t := by
  have hr' := (sourceGone_isRoot (s := s) (n := n)).trans hr
  have hselRef := sourceGone_selRef hoth
  have href := sourceGone_ref (s := s) (n := n)
  have htime := sourceGone_time (s := s) (n := n)
  have hlost := sourceGone_lost (s := s) (n := n)
  have hframe := sourceGone_frame (s := s) (n := n)
  generalize s.sourceGone n = u at hr' hselRef href htime hlost hframe ht
  obtain ⟨hrefs, hsel, hservo, hhtx, hlost', hqual, hframe'⟩ := settleRoot_wtrRefresh_holdover hr' (by rw [htime, hserv])
    (by rw [href]; exact hlead) hselRef ht
  have hin : t.refIn n = { s.refIn n with state := 3, run := 0 } := by
    rw [State.refIn, hrefs, href]
    exact Tab.get_set_self _ _ _ _
  refine ⟨by rw [hin], by rw [hin], hsel, hservo, by rw [hhtx, htime], by simp [State.flag, hlost', hlost],
    by rw [hqual, href], rootFrame_trans hframe hframe'⟩

/-! ### The tandem (R83 to R88) -/

theorem doLeaderYield_of_due {s : State} {t0 : Nat} (hw : s.ref.worseAt = some t0) (hc : s.clearlyWorse = true)
    (ht : s.time.now - t0 ≥ s.wtrTime) : s.doLeaderYield = (({ s with ref := { s.ref with
      leader := false, worseAt := none, split := false, sawLead := false, yielded := true } } : State).raise
        Fld.REF_STATUS_ROLE_CHANGE).settleRoot := by
  simp [State.doLeaderYield, hw, hc, ht]

/-- A leader that yields. -/
theorem doLeaderYield_yields {s : State} {t0 : Nat} (hw : s.ref.worseAt = some t0) (hc : s.clearlyWorse = true)
    (ht : s.time.now - t0 ≥ s.wtrTime) {t : State} (heq : t = s.doLeaderYield) :
    t.ref.leader = false ∧ t.ref.worseAt = none ∧ t.flag Fld.REF_STATUS_ROLE_CHANGE = true ∧ t.time.htx = s.time.htx ∧
    OnlyEvents [Reg.REF_STATUS, Reg.HT_STATUS] { s with ref := t.ref, time := t.time } t := by
  rw [doLeaderYield_of_due hw hc ht] at heq
  generalize hx : ({ s.ref with leader := false, worseAt := none, split := false, sawLead := false, yielded := true } : RefSt) = x
    at heq
  generalize hu : ({ s with ref := x } : State).raise Fld.REF_STATUS_ROLE_CHANGE = u at heq
  have href : u.ref = x := by rw [← hu, State.raise_ref]
  have htime : u.time = s.time := by rw [← hu, State.raise_time]
  have hset := settleRoot_settled u
  have hflag : u.settleRoot.fld Fld.REF_STATUS_ROLE_CHANGE = 1 := by
    rw [hset.status _ rfl (by decide) (by decide), ← hu]
    exact raise_fld _ _ (by decide) (by decide) (by decide)
  subst heq
  refine ⟨?_, ?_, by simp [State.flag, hflag], hset.htx.trans (congrArg TimeSt.htx htime), ?_⟩
  · rw [hset.leader, href, ← hx]
  · rw [hset.worseAt, href, ← hx]
  · exact rootFrame_trans (rootFrame_raise s x _ rfl hu.symm) hset.frame

/-! ### A root that reaches LOCKED with LEADER_INIT (R22, R83, R382) -/

/-- Aligning the crossings changes the clock and takes a free value alone. -/
theorem State.alignCrossings_eq (s : State) : ∃ c f, s.alignCrossings = { s with clk := c, free := f } ∧ c.aligned = true := by
  unfold State.alignCrossings
  split
  next h => exact ⟨s.clk, s.free, rfl, h⟩
  next =>
    split
    · exact ⟨_, _, rfl, rfl⟩
    · exact ⟨_, s.free, rfl, rfl⟩

/-- The root that takes the lead as it locks. -/
def State.leads (s : State) : State :=
  ({ s with ref := { s.ref with leader := true } } : State).raise Fld.REF_STATUS_ROLE_CHANGE

theorem doServoLock_of_leaderInit {s : State} (hr : s.isRoot = true) (hserv : s.time.servo = .acquire)
    (hrun : s.time.run50 ≥ 4096) (hinit : (s.preg Reg.REF_ROOT_CFG).getLsbD 1 = true) (hlead : s.ref.leader = false) :
    s.doServoLock = s.enterLocked.alignCrossings.leads.settleRoot := by
  obtain ⟨c, f, hal, -⟩ := s.enterLocked.alignCrossings_eq
  have hid : s.enterLocked.alignCrossings.ident = s.ident := by rw [hal]; exact State.reclass_ident _
  have hnv : s.enterLocked.alignCrossings.nvs = s.nvs := by rw [hal]; exact (reclass_onlyEvents _).nvs_eq
  have hreg : s.enterLocked.alignCrossings.reg Reg.REF_ROOT_CFG = s.reg Reg.REF_ROOT_CFG := by
    rw [hal]
    exact State.reg_reclass _ (by decide) (by decide)
  have hlead' : s.enterLocked.alignCrossings.ref.leader = false := by
    rw [hal]
    exact (congrArg RefSt.leader (State.reclass_ref _)).trans hlead
  have hcond : (s.enterLocked.alignCrossings.isRoot &&
      (s.enterLocked.alignCrossings.preg Reg.REF_ROOT_CFG).getLsbD 1 && !s.enterLocked.alignCrossings.ref.leader) = true := by
    rw [State.isRoot_congr hid hnv, State.preg_congr hid hnv hreg, hr, hinit, hlead']
    rfl
  have hcal : s.inputsCalibrated = true := by simp [State.inputsCalibrated, hr]
  simp only [State.doServoLock, hserv, hrun, hcal, beq_self_eq_true, decide_true, Bool.and_self, if_true]
  exact congrArg State.settleRoot (if_pos hcond)

/-- What the lock of a root with LEADER_INIT and a reference makes of it. -/
theorem doServoLock_leads {s : State} (hr : s.isRoot = true) (hserv : s.time.servo = .acquire) (hrun : s.time.run50 ≥ 4096)
    (hinit : (s.preg Reg.REF_ROOT_CFG).getLsbD 1 = true) (hlead : s.ref.leader = false) (hsel : s.ref.selRef ≠ none)
    {t : State} (ht : t = s.doServoLock) :
    t.time.servo = .locked ∧ t.ref.leader = true ∧ t.clk.aligned = true ∧ t.time.htx = s.time.htx ∧
    t.flag Fld.REF_STATUS_ROLE_CHANGE = true ∧
    OnlyEvents [Reg.REF_STATUS, Reg.HT_STATUS] { s with ref := t.ref, time := t.time, clk := t.clk, free := t.free } t := by
  rw [doServoLock_of_leaderInit hr hserv hrun hinit hlead] at ht
  obtain ⟨c, f, hal, halc⟩ := s.enterLocked.alignCrossings_eq
  rw [hal] at ht
  have hlock := RootSettled.enterLocked s
  have hltime : s.enterLocked.time.servo = .locked := by simp [State.enterLocked]
  generalize hu : ({ s.enterLocked with clk := c, free := f } : State).leads = u at ht
  have hutime : u.time = s.enterLocked.time := by rw [← hu]; exact State.raise_time _ _
  have huref : u.ref = { s.enterLocked.ref with leader := true } := by rw [← hu]; exact State.raise_ref _ _
  have huclk : u.clk = c := by rw [← hu]; exact State.raise_clk _ _
  have huroot : u.isRoot = true := by
    rw [← hr]
    refine State.isRoot_congr ?_ ?_
    · rw [← hu]
      exact (State.raise_ident _ _).trans (State.reclass_ident _)
    · rw [← hu]
      exact (State.raise_nvs _ _).trans (reclass_onlyEvents _).nvs_eq
  have hulead : u.ref.leader = true := by rw [huref]
  have huserv : u.time.servo = .locked := (congrArg TimeSt.servo hutime).trans hltime
  have husel : u.ref.selRef ≠ none := by
    rw [huref]
    exact fun h => hsel (hlock.selRef.symm.trans h)
  have hset := settleRoot_settled u
  obtain ⟨htime, hclk⟩ := settleRoot_locked huroot huserv hulead husel
  have hflag : u.settleRoot.fld Fld.REF_STATUS_ROLE_CHANGE = 1 := by
    rw [hset.status _ rfl (by decide) (by decide), ← hu]
    exact raise_fld _ _ (by decide) (by decide) (by decide)
  subst ht
  refine ⟨by rw [htime, huserv], by rw [hset.leader, hulead], by rw [hclk, huclk, halc], ?_, by simp [State.flag, hflag], ?_⟩
  · rw [htime, hutime, hlock.htx]
  · have hframe := rootFrame_trans (rootFrame_raise ({ s.enterLocked with clk := c, free := f } : State) _
      Fld.REF_STATUS_ROLE_CHANGE rfl hu.symm) hset.frame
    have hl := hlock.frame.1
    refine ⟨?_, fun a ha hq => (hframe.2 a ha hq).trans (hlock.frame.2 a ha hq)⟩
    rw [hframe.1, hl]

/-- Settles O13: edges and losses by the input's own record, and the roots by what `State.settleRoot` keeps. -/
theorem referencesQualifyAndRootsFollow : Obligations.ReferencesQualifyAndRootsFollow := by
  unfold Obligations.ReferencesQualifyAndRootsFollow
  refine ⟨⟨fun s n stamp t0 hn hu hs hst hr hsel hserv => ?first,
    fun s n stamp t0 r hn hu hs hst hr hoff happ hlast herr => ?invalid,
    fun s n stamp hn hu => congrArg Host.Outcome.next (doRefEdge_of_not_use hn hu),
    fun s n t0 hn hu hst hlast hsel hserv hlead hoth hdue => ⟨_, rfl, sourceGone_holds (State.isRoot_of_refUse hu) hserv hlead
      hoth (doRefLoss_of_selected hn hu hst hlast hsel hdue)⟩⟩,
    fun s t0 hw hc ht => ⟨_, rfl, doLeaderYield_yields hw hc ht rfl⟩, fun s hsp hf hrun => ?join, fun s hr hm => ?qualify,
    fun s hr hserv hrun hinit hlead hsel => ⟨_, rfl, doServoLock_leads hr hserv hrun hinit hlead hsel rfl⟩⟩
  case first =>
    have hstep := (doRefEdge_of_use hn hu hs).trans (refEdge_first (n := n) ((State.stampHt_tdcTake ..).trans hst)
      (by rw [State.tdcTake_ref, hr]) (by rw [State.tdcTake_ref, hsel]) (by rw [State.tdcTake_time, hserv]))
    have herr : (s.tdcTake (320 + n) 3 stamp.toNat).errAt n t0 = s.errAt n t0 := by
      rw [State.errAt, State.refP_tdcTake, State.refDelay_tdcTake]
      rfl
    rw [herr] at hstep
    refine ⟨_, congrArg Host.Outcome.next hstep, ⟨_, rfl, rfl⟩, ?_⟩
    have hin : ∀ u : State, u.ref.refs = [(n, RefIn.afterEdge {} (s.errAt n t0) t0)] →
        u.refIn n = RefIn.afterEdge {} (s.errAt n t0) t0 := fun u h => by simp [State.refIn, h, Tab.get]
    rw [hin _ rfl]
    exact ⟨rfl, rfl, rfl, rfl, (congrArg RefSt.selRef (State.tdcTake_ref ..)).trans hsel⟩
  case invalid =>
    have hstep := (doRefEdge_of_use hn hu hs).trans (refEdge_invalid (n := n) ((State.stampHt_tdcTake ..).trans hst)
      (by rw [State.tdcTake_ref, hr]) (by rw [State.tdcTake_ref, hoff]) happ hlast
      (by rw [State.errAt, State.refP_tdcTake, State.refDelay_tdcTake]; exact herr))
    rw [State.tdcTake_ref] at hstep
    exact ⟨_, congrArg Host.Outcome.next hstep, _, rfl, rfl⟩
  case join => exact congrArg Host.Outcome.next (by simp [State.doTandemJoin, hsp, hf, hrun])
  case qualify => exact congrArg Host.Outcome.next (by simp [State.doHoldoverQualify, hr, hm])

end Sys2Proof.Machine
end

section
/-! PROOFS. Link states: training, its end, retraining, isolation and the end of a link (R60, R218, R220). -/

namespace Sys2Proof.Machine

/-- A table holds nothing under a key that has been removed. -/
theorem Tab.has_del_self {α : Type} (t : Tab α) (k : Nat) : (t.del k).has k = false := by
  simp [Tab.has, Tab.del]

/-- Nor under one that it did not hold. -/
theorem Tab.has_del_of_has {α : Type} {t : Tab α} {k : Nat} (j : Nat) (h : t.has k = false) : (t.del j).has k = false := by
  simp only [Tab.has, Tab.del, List.any_eq_false, List.mem_filter] at h ⊢
  exact fun e he => h e he.1

/-! ### Training begins (R218) -/

/-- The entries of a list of lanes are dropped. -/
def State.dropEntries (s : State) (ls : List Nat) : State := ls.foldl State.dropEntry s

section

variable (s : State) (ls : List Nat)

theorem dropEntries_onlyLanes : OnlyLanes [Reg.HT_STATUS] s (s.dropEntries ls) := by
  induction ls generalizing s with
  | nil => exact (OnlyEvents.refl _ s).onlyLanes
  | cons l ls ih => exact (dropEntry_onlyLanes s l).trans (ih (s.dropEntry l))

@[simp] theorem State.dropEntries_ports : (s.dropEntries ls).fab.ports = s.fab.ports := by
  induction ls generalizing s with
  | nil => rfl
  | cons l ls ih => exact (ih (s.dropEntry l)).trans (s.dropEntry_ports l)

theorem State.dropEntries_has_of_has {l : Nat} (h : s.tdc.delays.has l = false) :
    (s.dropEntries ls).tdc.delays.has l = false := by
  induction ls generalizing s with
  | nil => exact h
  | cons k ls ih => exact ih (s.dropEntry k) (by rw [State.dropEntry_delays]; exact Tab.has_del_of_has k h)

theorem State.dropEntries_has_of_mem {l : Nat} (h : l ∈ ls) : (s.dropEntries ls).tdc.delays.has l = false := by
  induction ls generalizing s with
  | nil => simp at h
  | cons k ls ih =>
    rcases List.mem_cons.1 h with rfl | h
    · exact State.dropEntries_has_of_has _ ls (by rw [State.dropEntry_delays]; exact Tab.has_del_self _ _)
    · exact ih (s.dropEntry k) h

end

/-- A port that enters TRAINING with `peer`. -/
def State.trainingPort (s : State) (p : Nat) (peer : TrainInfo) : PortSt :=
  { s.port p with
    st := .training, sinceAt := s.time.now, level := s.peerLevel p, rate := if s.peerLevel p = 3 then 2 else 1, locked := 0,
    fails := 0, peerId := peer.sender, peerKind := peer.senderKind, peerRole := peer.role, peerPart := peer.part,
    peerRev := peer.rev, peerGrade := peer.grade, osq := [.train (s.trainOf p none)] }

/-- The unit whose port enters TRAINING, before it takes up what TRAIN brings. -/
def State.training (s : State) (p : Nat) (peer : TrainInfo) : State :=
  (s.dropEntries ((upto 4).map (laneOf p))).setPort p (s.trainingPort p peer)

theorem trainPort_eq (s : State) (p : Nat) (peer : TrainInfo) : s.trainPort p peer = (s.training p peer).takeTrain peer := rfl

section

variable (s : State) (p : Nat) (peer : TrainInfo)

theorem training_onlyLanes : OnlyLanes [Reg.HT_STATUS] s (s.training p peer) :=
  (dropEntries_onlyLanes s _).trans ((setPort_onlyPorts _ p _).onlyLanes.mono (by simp))

theorem State.training_port_self : (s.training p peer).port p = s.trainingPort p peer := State.port_setPort_self _ _ _

theorem State.training_port_ne {q : Nat} (hq : q ≠ p) : (s.training p peer).port q = s.port q :=
  (State.port_setPort_ne _ _ _ _ hq).trans (by simp [State.port])

theorem State.training_has {i : Nat} (hi : i < 4) : (s.training p peer).tdc.delays.has (laneOf p i) = false :=
  State.dropEntries_has_of_mem s _ (List.mem_map_of_mem (List.mem_range.2 hi))

/-- TRAIN changes the unit's HDN and cadence alone, and not its kind. -/
theorem takeTrain_frame : s.takeTrain peer = { s with ident := (s.takeTrain peer).ident, cad := (s.takeTrain peer).cad } ∧
    (s.takeTrain peer).ident.kind = s.ident.kind := by
  unfold State.takeTrain
  cases hv : s.isVd <;> cases peer.hdn <;> cases peer.run <;> exact ⟨rfl, rfl⟩

theorem takeTrain_of_isVd (h : s.isVd = true) : s.takeTrain peer = s := by
  unfold State.takeTrain
  cases peer.hdn <;> cases peer.run <;> simp [h]

theorem takeTrain_cad_of_run_none (h : peer.run = none) : (s.takeTrain peer).cad = s.cad := by
  simp only [State.takeTrain, h]
  cases peer.hdn with
  | none => rfl
  | some hdn => cases hv : s.isVd <;> rfl

theorem takeTrain_ident_of_hdn (hv : s.isVd = false) (h : peer.run = none) {hdn : Nat} (hh : peer.hdn = some hdn) :
    (s.takeTrain peer).ident = { s.ident with hdn := hdn % 16384 } := by
  simp [State.takeTrain, h, hh, hv]

end

/-- What entering TRAINING does. -/
theorem trainPort_spec (s : State) (p : Nat) (peer : TrainInfo) {t : State} (ht : t = s.trainPort p peer) :
    t.port p = s.trainingPort p peer ∧ (∀ q, q ≠ p → t.port q = s.port q) ∧
    (∀ i, i < 4 → t.tdc.delays.has (laneOf p i) = false) ∧
    (s.isVd = true → t.ident = s.ident ∧ t.cad = s.cad) ∧
    (s.isVd = false → peer.run = none → t.cad = s.cad ∧
      ∀ h, peer.hdn = some h → t.ident = { s.ident with hdn := h % 16384 }) ∧
    OnlyEvents [Reg.HT_STATUS] { s with
      fab := { s.fab with ports := t.fab.ports }, tdc := t.tdc, time := { s.time with cls := t.time.cls },
      ident := t.ident, cad := t.cad } t := by
  have hself := s.training_port_self p peer
  have hne := fun q (hq : q ≠ p) => s.training_port_ne p peer hq
  have hhas := fun i (hi : i < 4) => s.training_has p peer hi
  have hframe := training_onlyLanes s p peer
  rw [trainPort_eq] at ht
  generalize s.training p peer = u at hself hne hhas hframe ht
  have hid : u.ident = s.ident := by rw [hframe.1]
  have hcad : u.cad = s.cad := by rw [hframe.1]
  have hvd : u.isVd = s.isVd := by rw [State.isVd, hid, State.isVd]
  obtain ⟨heq, hkind⟩ := takeTrain_frame u peer
  rw [← ht] at heq hkind
  have hports : t.fab.ports = u.fab.ports := by rw [heq]
  have htdc : t.tdc = u.tdc := by rw [heq]
  have htime : t.time = u.time := by rw [heq]
  have hregs : t.regs = u.regs := by rw [heq]
  refine ⟨?_, fun q hq => ?_, fun i hi => ?_, fun hv => ?_, fun hv hr => ⟨?_, fun hdn hh => ?_⟩, ?_, fun a ha hq => ?_⟩
  · rw [State.port, hports]
    exact hself
  · rw [State.port, hports]
    exact hne q hq
  · rw [htdc]
    exact hhas i hi
  · rw [ht, takeTrain_of_isVd u peer (hvd.trans hv)]
    exact ⟨hid, hcad⟩
  · rw [ht, takeTrain_cad_of_run_none u peer hr, hcad]
  · rw [ht, takeTrain_ident_of_hdn u peer (hvd.trans hv) hr hh, hid]
  · rw [heq, hframe.1]
  · have hu := hframe.2 a ha hq
    simp only [State.reg, hregs, hkind, hid] at hu ⊢
    exact hu

theorem doPortTrainStart_of_ready {s : State} {p : Nat} {peer : TrainInfo} (ha : s.awake = true) (hp : p < s.nPorts)
    (hv : s.isVsu = true → s.sb.ucRun = true) : s.doPortTrainStart p peer =
      if (s.port p).st == .up && !s.isVd then s.takeTrain peer
      else if (s.port p).st != .down || (s.reg (Reg.XF_PORT_CFG + 8 * p)).getLsbD 1 == false then s
      else if s.peerLevel p = 0 then s
      else s.trainPort p peer := by
  have hvsu : (s.isVsu && !s.sb.ucRun) = false := by
    cases h : s.isVsu
    · rfl
    · simp [hv h]
  simp [State.doPortTrainStart, ha, hp, hvsu]

/-! ### Links come up and end (R218, R219) -/

/-- A port whose link comes up. -/
def State.linkedPort (s : State) (p : Nat) : PortSt :=
  { (s.port p).fresh s.time.now with
    lseqTx := 0, rxNext := 0, ackTx := 4095, rxMiss := [], replay := [], credits := (upto 4).map bufOf,
    owedCr := [0, 0, 0, 0], zeroAt := [none, none, none, none], sat := 0, lastLvl := 1, hbTick := some s.beatNo }

theorem doLinkUp_of_training {s : State} {p : Nat} (h : (s.port p).st = .training) :
    s.doLinkUp p = (s.setPort p (s.linkedPort p)).reclass := by
  simp [State.doLinkUp, h, State.linkedPort]

/-- The unit in which a port's link has ended and the port is DOWN. -/
def State.linkEnded (s : State) (p : Nat) : State :=
  ((({ s with tdc := { s.tdc with firstRt := s.tdc.firstRt.del p } } : State).setPort p
    { (s.port p).cutLink with st := .down, sinceAt := s.time.now }).emptyQueues p false).reclass

theorem portDown_of_training {s : State} {p : Nat} (h : (s.port p).st = .training) : s.portDown p = s.linkEnded p := by
  simp only [State.portDown, h]
  rfl

theorem portDown_of_retrain {s : State} {p : Nat} (h : (s.port p).st = .retrain) :
    s.portDown p = (s.linkEnded p).raise Fld.XF_STATUS_LINK_DOWN := by
  simp only [State.portDown, h]
  rfl

theorem doTrainTimeout_of_due {s : State} {p : Nat} (h : (s.port p).st = .training)
    (hd : s.time.now - (s.port p).sinceAt ≥ 5 * msX) : s.doTrainTimeout p = s.linkEnded p := by
  rw [← portDown_of_training h]
  simp [State.doTrainTimeout, h, hd]

theorem doRetrainTimeout_of_due {s : State} {p : Nat} (h : (s.port p).st = .retrain)
    (hd : s.time.now - (s.port p).sinceAt ≥ 2 * msX) : s.doRetrainTimeout p =
      if (s.port p).fails + 1 ≥ 3 then s.portDown p
      else s.setPort p { s.port p with fails := (s.port p).fails + 1, sinceAt := s.time.now } := by
  simp [State.doRetrainTimeout, h, hd]

theorem not_training_unchanged {s : State} {p : Nat} (h : (s.port p).st ≠ .training) :
    s.doLinkUp p = s ∧ s.doTrainTimeout p = s := by
  simp [State.doLinkUp, State.doTrainTimeout, h]

/-! ### The class does not hear of a port's queues (R22, R23) -/

section

variable {s : State} {p : Nat} {x y : PortSt}

theorem State.classNow_setPort_congr (hst : x.st = y.st) (hl : x.retrainLanes = y.retrainLanes) :
    (s.setPort p x).classNow = (s.setPort p y).classNow := by
  have hcarry : ∀ l, (s.setPort p x).laneCarries l = (s.setPort p y).laneCarries l := by
    intro l
    by_cases h : lanePort l = p
    · subst h
      simp [State.laneCarries, hst, hl]
    · simp [State.laneCarries, State.port_setPort_ne _ _ _ _ h]
  have hstale : (s.setPort p x).stale = (s.setPort p y).stale := by
    simp only [State.stale, hcarry]
    rfl
  simp only [State.classNow, hstale]
  rfl

/-- The class is taken up alike, with the same event, where the ports differ in nothing that it depends on. -/
theorem reclass_onlyPorts_of_classNow {s u : State} (hu : u = { s with fab := { s.fab with ports := u.fab.ports } })
    (hc : u.classNow = s.classNow) : OnlyPorts [] s.reclass u.reclass := by
  have hregs : ∀ a, a ≠ Reg.EVQ_STATUS → u.reclass.reg a = s.reclass.reg a := by
    intro a hq
    have hreg : ∀ v : State, ∀ f, (v.raise f).reg a = (v.setBit f).reg a := fun v f =>
      (record_onlyEvents (v.setBit f) _ _ _ []).2 a (by simp) hq
    have hcls : u.time = s.time := by rw [hu]
    simp only [State.reclass, hc, hcls]
    split
    · rw [hreg, hreg, hu]
      rfl
    · rw [hu]
      rfl
  have hs := (reclass_onlyEvents s).1
  have ht := (reclass_onlyEvents u).1
  refine ⟨?_, fun a _ hq => hregs a hq⟩
  rw [ht, hs, hc, hu]

theorem dropEntry_setPort_onlyPorts (l : Nat) (hst : x.st = y.st) (hl : x.retrainLanes = y.retrainLanes) :
    OnlyPorts [] ((s.setPort p x).dropEntry l) ((s.setPort p y).dropEntry l) := by
  refine reclass_onlyPorts_of_classNow rfl ?_
  exact (State.classNow_setPort_congr (s := { s with tdc := _ }) hst hl).symm

end

/-! ### A lane fails (R218) -/

theorem doPortRetrain_of_failed {s : State} {p lane : Nat} (hl : lane < 4) (hc : s.carriesOs p = true)
    (hm : lane ∉ (s.port p).retrainLanes) (hf : 8 ≤ (s.port p).unRun.getD lane 0 ∨
      s.fld (Fld.at Fld.XF_PORT_CFG_UNCORR_LIMIT p) <
        (((s.port p).unAt.getD lane []).filter fun t => decide (s.time.now - t < msX)).length) :
    s.doPortRetrain p lane = s.laneLost p lane := by
  have hfail : s.laneFailed p lane = true := by
    simp only [State.laneFailed, Bool.or_eq_true, decide_eq_true_eq]
    exact hf
  simp [State.doPortRetrain, hc, hl, hm, hfail]

theorem doPortRetrain_of_not_failed {s : State} {p lane : Nat} (hu : (s.port p).unRun.getD lane 0 < 8)
    (hn : (((s.port p).unAt.getD lane []).filter fun t => decide (s.time.now - t < msX)).length ≤
      s.fld (Fld.at Fld.XF_PORT_CFG_UNCORR_LIMIT p)) : s.doPortRetrain p lane = s := by
  have hfail : s.laneFailed p lane = false := by
    simp only [State.laneFailed, Bool.or_eq_false_iff, decide_eq_false_iff_not]
    exact ⟨Nat.not_le.2 hu, Nat.not_lt.2 hn⟩
  simp [State.doPortRetrain, hfail]

section

variable (s : State) (p lane : Nat)

/-- The unit without the lane, and the same unit with the port as it is once the lane is lost, take up the same class. -/
theorem laneGone_onlyPorts : OnlyPorts [] ((s.setPort p ((s.laneLost p lane).port p)).dropEntry (laneOf p lane))
    (s.laneGone p lane) := by
  obtain ⟨rep, h⟩ := State.laneLost_port_self s p lane
  exact dropEntry_setPort_onlyPorts _ ((congrArg PortSt.st h).trans rfl) ((congrArg PortSt.retrainLanes h).trans rfl)

theorem laneLost_onlyPorts_of_setPort : OnlyPorts [Reg.XF_STATUS, (Fld.XF_PORT_ERR_HOLES.at p).reg]
    ((s.setPort p ((s.laneLost p lane).port p)).dropEntry (laneOf p lane)) (s.laneLost p lane) :=
  ((laneGone_onlyPorts s p lane).mono (by simp)).trans (laneLost_onlyPorts s p lane)

end

/-- HOLES of a port stands apart from the status registers. -/
theorem holes_reg_ne {p : Nat} (hp : p < 64) {a : Nat} (ha : a < 0xE01400 ∨ 0xE01600 ≤ a) :
    (Fld.XF_PORT_ERR_HOLES.at p).reg ≠ a := by
  simp only [Fld.at, Fld.XF_PORT_ERR_HOLES]
  omega

theorem State.nPorts_le (s : State) : s.nPorts ≤ 64 := by
  unfold State.nPorts
  cases s.ident.kind <;> decide

/-- The events of an UP port that loses a lane: the flits due are counted in HOLES, and RETRAIN is raised. -/
theorem laneLost_counts {s : State} {p : Nat} (lane : Nat) (hp : p < s.nPorts) (hup : (s.port p).st = .up) :
    (s.laneLost p lane).flag Fld.XF_STATUS_RETRAIN = true ∧
    (s.laneLost p lane).fld (Fld.XF_PORT_ERR_HOLES.at p) =
      min (s.fld (Fld.XF_PORT_ERR_HOLES.at p) + ((s.port p).txq.filter isSched).length)
        (2 ^ (Fld.XF_PORT_ERR_HOLES.at p).w - 1) := by
  have hp64 : p < 64 := Nat.lt_of_lt_of_le hp s.nPorts_le
  rw [laneLost_of_up hup]
  have hdue : (s.laneGone p lane).dueOn p = (s.port p).txq.filter isSched := by
    rw [State.dueOn, State.laneGone_port_self]
    rfl
  have hfld : (s.laneGone p lane).fld (Fld.XF_PORT_ERR_HOLES.at p) = s.fld (Fld.XF_PORT_ERR_HOLES.at p) :=
    State.fld_reclass _ _ (holes_reg_ne hp64 (by decide)) (holes_reg_ne hp64 (by decide))
  refine ⟨?_, ?_⟩
  · exact State.flag_raise _ _ (by decide) (by decide) (by decide)
  · rw [← hdue, ← hfld, ← State.fld_dropDue_holes, State.fld, State.fld]
    exact congrArg _ ((raise_onlyEvents _ _).2 _
      (fun h => holes_reg_ne hp64 (a := Reg.XF_STATUS) (by decide) (List.mem_singleton.1 h)) (holes_reg_ne hp64 (by decide)))

/-- What the loss of a lane does. -/
theorem laneLost_spec {s : State} {p lane : Nat} (hl : lane ∉ (s.port p).retrainLanes) (hp : p < s.nPorts) {t : State}
    (ht : t = s.laneLost p lane) :
    (t.port p).st = .retrain ∧ (t.port p).retrainLanes = lane :: (s.port p).retrainLanes ∧
    (t.port p).locked = (s.port p).locked &&& (15 - 2 ^ lane) ∧
    ((s.port p).st = .up →
      (t.port p).retrains = min 65535 ((s.port p).retrains + 1) ∧ t.flag Fld.XF_STATUS_RETRAIN = true) ∧
    ((s.port p).st = .up → (t.port p).txq = (s.port p).txq.filter (fun f => !isSched f) ∧
      ∀ c, c = Fld.XF_PORT_ERR_HOLES.at p →
        t.fld c = min (s.fld c + ((s.port p).txq.filter isSched).length) (2 ^ c.w - 1)) ∧
    ((s.port p).st = .retrain → (t.port p).txq = (s.port p).txq) ∧
    (∀ q, q ≠ p → ({ t.port q with rx := [] } : PortSt) = { s.port q with rx := [] }) ∧
    ∃ u, u = (s.setPort p (t.port p)).dropEntry (laneOf p lane) ∧
      OnlyEvents [Reg.XF_STATUS, (Fld.XF_PORT_ERR_HOLES.at p).reg]
        { u with fab := { u.fab with ports := t.fab.ports } } t := by
  subst ht
  have hcount := fun hup => laneLost_counts lane hp hup
  obtain ⟨rep, h⟩ := State.laneLost_port_self s p lane
  have hlanes : (s.lostPort p lane).retrainLanes = lane :: (s.port p).retrainLanes := by simp [State.lostPort, hl]
  have htxq : ((s.laneLost p lane).port p).txq =
      if (s.port p).st = .up then (s.port p).txq.filter fun f => !isSched f else (s.port p).txq :=
    (congrArg PortSt.txq h).trans rfl
  refine ⟨(congrArg PortSt.st h).trans rfl, ((congrArg PortSt.retrainLanes h).trans rfl).trans hlanes,
    (congrArg PortSt.locked h).trans rfl, fun hup => ⟨?_, (hcount hup).1⟩, fun hup => ⟨?_, fun c hc => ?_⟩, fun hre => ?_,
    fun q hq => State.laneLost_port_ne s p lane hq, ⟨_, rfl, laneLost_onlyPorts_of_setPort s p lane⟩⟩
  · have hretrains : (s.lostPort p lane).retrains = min 65535 ((s.port p).retrains + 1) := by simp [State.lostPort, hup]
    exact ((congrArg PortSt.retrains h).trans rfl).trans hretrains
  · rw [htxq, if_pos hup]
  · rw [hc]
    exact (hcount hup).2
  · rw [htxq, hre, if_neg (by decide)]

/-! ### Lanes are locked again (R57, R218) -/

/-- A port whose lanes are locked again: lane 0 goes on where a lane swap holds it. -/
def State.relockedPort (s : State) (p : Nat) (stay : Bool) : PortSt :=
  let y := (s.port p).fresh s.time.now
  if stay then { y with retrainLanes := [0], locked := 14 } else { y with retrainLanes := [] }

/-- Does a lane swap hold lane 0 of a port (R57). -/
def State.swapHolds (s : State) (p : Nat) : Bool :=
  (s.tdc.swap.port == p && (s.tdc.swap.step == 3 || s.tdc.swap.step == 5) || s.tdc.peerSwap.get p 0 == 3 ||
    s.tdc.peerSwap.get p 0 == 5) && (s.port p).retrainLanes.contains 0

theorem doRetrainDone_of_retrain {s : State} {p : Nat} (h : (s.port p).st = .retrain) :
    s.doRetrainDone p = (s.setPort p (s.relockedPort p (s.swapHolds p))).reclass := by
  simp only [State.doRetrainDone, h, beq_self_eq_true, if_true]
  rfl

theorem swapHolds_iff (s : State) (p : Nat) : s.swapHolds p = true ↔ 0 ∈ (s.port p).retrainLanes ∧
    ((s.tdc.swap.port = p ∧ (s.tdc.swap.step = 3 ∨ s.tdc.swap.step = 5)) ∨
      s.tdc.peerSwap.get p 0 = 3 ∨ s.tdc.peerSwap.get p 0 = 5) := by
  simp only [State.swapHolds, Bool.and_eq_true, Bool.or_eq_true, beq_iff_eq, List.contains_iff_mem]
  tauto

/-- What the lock does to the port: both ways it is UP with its receive side and its replay as they were. -/
theorem relockedPort_spec (s : State) (p : Nat) (stay : Bool) {y : PortSt} (hy : y = s.relockedPort p stay) :
    y.st = .up ∧ y.fails = 0 ∧ y.upAt = s.time.now ∧ y.rx = (s.port p).rx ∧ y.replay = (s.port p).replay ∧
    (stay = true → y.retrainLanes = [0]) ∧ (stay = false → y.retrainLanes = [] ∧ y.locked = 15) := by
  subst hy
  cases stay
  · exact ⟨rfl, rfl, rfl, rfl, rfl, fun h => absurd h (by decide), fun _ => ⟨rfl, rfl⟩⟩
  · exact ⟨rfl, rfl, rfl, rfl, rfl, fun _ => rfl, fun h => absurd h (by decide)⟩

/-! ### ISOLATE is cleared (R220) -/

theorem unisolate_of_isolated {s : State} {p : Nat} (hm : s.mustIsolate p = false) (h : (s.port p).st = .isolated) :
    s.unisolate p = (s.setReg (Reg.XF_PORT_CFG + 8 * p) (s.reg (Reg.XF_PORT_CFG + 8 * p) &&& ~~~1)).setPort p
      { s.port p with st := .down, sinceAt := s.time.now } := by
  simp [State.unisolate, hm, h]

/-- Settles O30: each event of a port by what its own operation makes of the port, and the loss of a lane by
`laneLost_spec`. -/
theorem linkStatesFollowTraining : Obligations.LinkStatesFollowTraining := by
  unfold Obligations.LinkStatesFollowTraining
  rintro s p _ rfl
  refine ⟨fun peer ha hp hv => ⟨fun hst hen hlvl => ?start, fun hvd hno => congrArg Host.Outcome.next ?noStart⟩,
    fun hst => ?up, fun hst => ?other, fun hst hdue => congrArg Host.Outcome.next (doTrainTimeout_of_due hst hdue),
    fun lane hl hc hm => ⟨fun hf => ?lost, fun hu hn => congrArg Host.Outcome.next (doPortRetrain_of_not_failed hu hn)⟩,
    fun swap hswap hst => ?relock, fun hst hdue => ⟨fun hf => congrArg Host.Outcome.next ?again, fun hf => ?down⟩,
    fun hp => ⟨fun hm => congrArg Host.Outcome.next ?kept, fun hm hst => ?clear⟩⟩
  case start =>
    have hstep : s.doPortTrainStart p peer = s.trainPort p peer := by
      simp [doPortTrainStart_of_ready ha hp hv, hst, hen, hlvl]
    obtain ⟨hself, hne, hhas, hvd, hhdn, hframe⟩ := trainPort_spec s p peer hstep
    refine ⟨_, rfl, ?_, ?_, ?_, ?_, ?_, ?_, hne, hhas, hvd, hhdn, hframe⟩ <;> exact (congrArg _ hself).trans rfl
  case noStart =>
    have hstop : ((s.port p).st != .down || (s.reg (Reg.XF_PORT_CFG + 8 * p)).getLsbD 1 == false) = true := by
      rw [Bool.or_eq_true, bne_iff_ne, beq_iff_eq]
      exact hno
    refine (doPortTrainStart_of_ready ha hp hv).trans ?_
    rw [hvd, hstop, if_pos rfl, Bool.not_true, Bool.and_false, if_neg Bool.false_ne_true]
  case up =>
    have hport : ((s.setPort p (s.linkedPort p)).reclass).port p = s.linkedPort p := by simp
    refine ⟨_, congrArg Host.Outcome.next (doLinkUp_of_training hst), ?_⟩
    rw [hport]
    exact ⟨rfl, rfl, rfl, rfl, rfl, rfl, rfl, rfl⟩
  case other =>
    obtain ⟨hup, htime⟩ := not_training_unchanged hst
    exact ⟨congrArg Host.Outcome.next hup, congrArg Host.Outcome.next htime⟩
  case lost =>
    have hp : p < s.nPorts := by
      rw [State.carriesOs, Bool.and_eq_true, decide_eq_true_eq] at hc
      exact hc.1
    exact ⟨_, rfl, laneLost_spec hm hp (doPortRetrain_of_failed hl hc hm hf)⟩
  case relock =>
    have hport : ((s.setPort p (s.relockedPort p (s.swapHolds p))).reclass).port p = s.relockedPort p (s.swapHolds p) := by
      simp
    have hiff : swap ↔ s.swapHolds p = true := hswap.trans (swapHolds_iff s p).symm
    obtain ⟨hup, hfails, hat, hrx, hrep, hstay, hgo⟩ := relockedPort_spec s p (s.swapHolds p) rfl
    refine ⟨_, congrArg Host.Outcome.next (doRetrainDone_of_retrain hst), ?_⟩
    rw [hport]
    exact ⟨rfl, hup, hfails, hat, hrx, hrep, fun h => hstay (hiff.1 h),
      fun h => hgo (Bool.eq_false_iff.2 fun hs => h (hiff.2 hs))⟩
  case again => exact (doRetrainTimeout_of_due hst hdue).trans (if_neg (by omega))
  case down =>
    have hstep : s.doRetrainTimeout p = (s.linkEnded p).raise Fld.XF_STATUS_LINK_DOWN := by
      rw [doRetrainTimeout_of_due hst hdue, if_pos (by omega), portDown_of_retrain hst]
    refine ⟨_, congrArg Host.Outcome.next hstep, ?_⟩
    change ((s.linkEnded p).raise Fld.XF_STATUS_LINK_DOWN).flag Fld.XF_STATUS_LINK_DOWN = true ∧
      OnlyEvents [Reg.XF_STATUS] (s.linkEnded p) _
    generalize s.linkEnded p = u
    exact ⟨State.flag_raise _ _ (by decide) (by decide) (by decide), raise_onlyEvents _ _⟩
  case kept => simp [State.doPortUnisolate, State.unisolate, hm]
  case clear =>
    have hstep : s.doPortUnisolate p = (s.setReg (Reg.XF_PORT_CFG + 8 * p)
        (s.reg (Reg.XF_PORT_CFG + 8 * p) &&& ~~~1)).setPort p { s.port p with st := .down, sinceAt := s.time.now } :=
      (if_pos hp).trans (unisolate_of_isolated hm hst)
    refine ⟨_, congrArg Host.Outcome.next hstep, ?_, State.reg_setReg_self _ _ _, ?_, fun a ha => ?_⟩
    · rw [State.port_setPort_self]
    · rw [State.port_setPort_self]
      rfl
    · exact State.reg_setReg_ne _ _ _ _ (by simpa using ha)

end Sys2Proof.Machine
end

section
/-! PROOFS. Changes of source that have waited to restore, and narrowing (R70 to R72, R76, R78). -/

namespace Sys2Proof.Machine

/-! ### What waits to restore is not in use (R70, R71) -/

/-- A choice that would change the source in use. -/
def State.OffSource (s : State) : WtrSel → Prop
  | .input d p => s.ref.sel.get d ≠ some p
  | .domain d => d = s.activeDom.other ∧ s.isRoot = false
  | .ref n => s.ref.selRef ≠ some n

/-- The candidates for the place of `q` are others. -/
theorem ne_of_mem_candidates {f : Nat → WtrSel} {l : List Nat} {q : Nat} {c e : Nat → Bool} {x : WtrSel}
    (h : x ∈ (l.filter fun p => p != q && c p && e p).map f) : ∃ p, q ≠ p ∧ x = f p := by
  obtain ⟨p, hp, rfl⟩ := List.mem_map.1 h
  simp only [List.mem_filter, Bool.and_eq_true, bne_iff_ne] at hp
  exact ⟨p, hp.2.1.1.symm, rfl⟩

theorem offSource_of_mem_returning {s : State} {x : WtrSel} (h : x ∈ s.returning) : s.OffSource x := by
  simp only [State.returning, List.mem_append] at h
  rcases h with ((hA | hB) | hdom) | href
  · split at hA
    next q hq =>
      obtain ⟨p, hne, rfl⟩ := ne_of_mem_candidates hA
      simpa [State.OffSource, hq] using hne
    next => simp at hA
  · split at hB
    next q hq =>
      obtain ⟨p, hne, rfl⟩ := ne_of_mem_candidates hB
      simpa [State.OffSource, hq] using hne
    next => simp at hB
  · split at hdom
    next hcond =>
      obtain rfl := List.mem_singleton.1 hdom
      simp only [Bool.and_eq_true, Bool.not_eq_true'] at hcond
      exact ⟨rfl, hcond.1.1.1⟩
    next => simp at hdom
  · split at href
    next q hq =>
      obtain ⟨p, hne, rfl⟩ := ne_of_mem_candidates href
      simpa [State.OffSource, hq] using hne
    next => simp at href

theorem offSource_of_wtrDue {s : State} {x : WtrSel} (h : s.wtrDue x = true) : s.OffSource x := by
  simp only [State.wtrDue, Bool.and_eq_true, List.contains_iff_mem] at h
  exact offSource_of_mem_returning h.1

/-! ### The change that falls due (R70, R72) -/

/-- The unit whose sources have become `x`, with SWITCHED. -/
def State.switched (s : State) (x : RefSt) : State :=
  ({ s with ref := x } : State).raise Fld.REF_STATUS_SWITCHED

/-- The unit once a choice that has waited to restore is made, before the tandem and the timers settle. -/
def State.restoreTo (s : State) : WtrSel → State
  | .input d p => s.setInput d (some p) (s.srcErr d (s.ref.sel.get d))
  | .domain d => s.setActive d s.activeErr
  | .ref n => s.switched { s.ref with selRef := some n }

theorem doWtrExpiry_of_best {s : State} {x : WtrSel} (hdue : s.wtrDue x = true)
    (hbest : ∀ w, w ∈ s.ref.wtr → s.wtrDue w.sel = true → s.wtrBeats w.sel x = false) :
    s.doWtrExpiry x = (s.restoreTo x).settleRoot.wtrRefresh := by
  have hany : (s.ref.wtr.any fun w => s.wtrDue w.sel && s.wtrBeats w.sel x) = false := by
    simpa [List.any_eq_false] using hbest
  unfold State.doWtrExpiry
  rw [hdue, hany]
  cases x <;> rfl

/-- No choice beats a domain. -/
theorem wtrBeats_domain (s : State) (x : WtrSel) (d : Dom) : s.wtrBeats x (.domain d) = false := by
  cases x <;> rfl

theorem driveDom_of_not_root {s : State} (h : s.isRoot = false) : s.driveDom = s.ref.active := by
  simp [State.driveDom, State.following, State.activeDom, h]

/-- The bias takes up the difference of the means where the domain steers (R72). -/
theorem setInput_of_other {s : State} {d : Dom} {p q : Nat} (hroot : s.isRoot = false) (hq : s.ref.sel.get d = some q)
    (hpq : s.ref.sel.get d ≠ some p) (hsplit : s.ref.split = false) (e : Int) :
    s.setInput d (some p) e = (s.switched { s.ref with
      sel := s.ref.sel.set d (some p)
      bias := if d = s.ref.active then s.ref.bias + ((s.portTime d p).meanErr - e) else s.ref.bias
      lastIn := s.ref.lastIn.set d (some q) }).reclass := by
  rw [hq] at hpq
  rw [State.setInput, hq]
  simp only [if_neg hpq, driveDom_of_not_root hroot, hsplit, Option.isSome_some, Bool.not_false, Bool.and_true,
    decide_eq_true_eq, if_true, Option.isNone_some, Bool.false_eq_true, if_false]
  by_cases hd : d = s.ref.active
  · rw [if_pos hd, if_pos hd]
    rfl
  · rw [if_neg hd, if_neg hd, Int.add_zero]
    rfl

theorem setActive_of_other {s : State} {d : Dom} (h : s.ref.active ≠ d) (e : Option Int) : ∃ b : Int,
    s.setActive d e = (s.switched { s.ref with active := d, bias := b }).reclass := by
  unfold State.setActive
  rw [if_neg h]
  exact ⟨_, rfl⟩

theorem settleRoot_of_not_root {s : State} (h : s.isRoot = false) : s.settleRoot = s := by
  simp [settleRoot_eq, h]

section

variable (s : State) (x : RefSt)

theorem switched_reclass_ref : (s.switched x).reclass.ref = x := by
  rw [State.reclass_ref]
  exact State.raise_ref _ _

theorem switched_reclass_isRoot : (s.switched x).reclass.isRoot = s.isRoot := by
  refine State.isRoot_congr ?_ ?_
  · rw [State.reclass_ident]
    exact State.raise_ident _ _
  · rw [(reclass_onlyEvents _).nvs_eq]
    exact State.raise_nvs _ _

theorem switched_reclass_flag : (s.switched x).reclass.flag Fld.REF_STATUS_SWITCHED = true := by
  rw [State.flag_reclass _ _ (by decide) (by decide)]
  exact State.flag_raise _ _ (by decide) (by decide) (by decide)

/-- A change of source of a unit moves nothing of its time but the class. -/
theorem switched_reclass_frame {u : State} (hu : u = (s.switched x).reclass) : OnlyEvents [Reg.REF_STATUS, Reg.HT_STATUS]
    { s with ref := x, time := { s.time with cls := u.time.cls } } u := by
  obtain ⟨hseq, hsreg⟩ := raise_onlyEvents ({ s with ref := x } : State) Fld.REF_STATUS_SWITCHED
  obtain ⟨hueq, hureg⟩ := reclass_onlyEvents (s.switched x)
  rw [← hu] at hueq hureg
  have hs : s.switched x = ({ s with ref := x } : State).raise Fld.REF_STATUS_SWITCHED := rfl
  rw [← hs] at hseq hsreg
  refine ⟨?_, fun a ha hq => ?_⟩
  · rw [hueq, hseq]
  · simp only [List.mem_cons, not_or] at ha
    exact (hureg a (by simpa using ha.2.1) hq).trans (hsreg a (by simpa [Fld.REF_STATUS_SWITCHED, Reg.REF_STATUS] using ha.1) hq)

end

/-- What a unit that is no root keeps of a change of its sources to `x`, once its timers are set anew. -/
theorem switched_settled {s t : State} {x : RefSt} (hroot : s.isRoot = false)
    (ht : t = (s.switched x).reclass.settleRoot.wtrRefresh) :
    t.ref.sel = x.sel ∧ t.ref.active = x.active ∧ t.ref.bias = x.bias ∧ t.flag Fld.REF_STATUS_SWITCHED = true ∧
    OnlyEvents [Reg.REF_STATUS, Reg.HT_STATUS] { s with ref := t.ref, time := { s.time with cls := t.time.cls } } t := by
  rw [settleRoot_of_not_root ((switched_reclass_isRoot s x).trans hroot)] at ht
  have href := switched_reclass_ref s x
  have hflag := switched_reclass_flag s x
  obtain ⟨heq, hreg⟩ := switched_reclass_frame s x rfl
  generalize (s.switched x).reclass = u at ht href hflag heq hreg
  subst ht href
  refine ⟨rfl, rfl, rfl, hflag, ?_, hreg⟩
  rw [State.wtrRefresh, heq]

/-! ### A root's reference (R69, R70) -/

theorem splitTaken_sel (s : State) : s.splitTaken.ref.sel = s.ref.sel := by
  unfold State.splitTaken
  split
  · rw [State.raise_ref]
  · split <;> rfl

theorem sourceTaken_sel (s : State) : s.sourceTaken.ref.sel = s.ref.sel := by
  unfold State.sourceTaken
  split
  · simp [State.enterHoldover, State.steerTo]
  · rfl
  · simp [State.enterLocked]
  · rfl

theorem settleRoot_sel (s : State) : s.settleRoot.ref.sel = s.ref.sel := by
  rw [settleRoot_eq]
  split
  · rw [sourceTaken_sel, splitTaken_sel]
  · rfl

/-- A root that takes another reference. -/
theorem switched_root_settled {s t : State} {x : RefSt} (ht : t = (s.switched x).settleRoot.wtrRefresh) :
    t.ref.selRef = x.selRef ∧ t.ref.sel = x.sel ∧ t.time.htx = s.time.htx ∧ t.flag Fld.REF_STATUS_SWITCHED = true ∧
    OnlyEvents [Reg.REF_STATUS, Reg.HT_STATUS] { s with ref := t.ref, time := t.time } t := by
  have href : (s.switched x).ref = x := State.raise_ref _ _
  have htime : (s.switched x).time = s.time := State.raise_time _ _
  have hfld : (s.switched x).fld Fld.REF_STATUS_SWITCHED = 1 := raise_fld _ _ (by decide) (by decide) (by decide)
  have hframe := rootFrame_raise s x Fld.REF_STATUS_SWITCHED rfl (t := s.switched x) rfl
  generalize s.switched x = u at ht href htime hfld hframe
  have hset := settleRoot_settled u
  have hsel := settleRoot_sel u
  have hfld' : u.settleRoot.fld Fld.REF_STATUS_SWITCHED = 1 := (hset.status _ rfl (by decide) (by decide)).trans hfld
  have hall := rootFrame_trans hframe (rootFrame_trans hset.frame (wtrRefresh_frame u.settleRoot))
  rw [← ht] at hall
  refine ⟨?_, ?_, ?_, ?_, hall⟩
  · rw [ht, ← href]
    exact hset.selRef
  · rw [ht, ← href]
    exact hsel
  · rw [ht, ← htime]
    exact hset.htx
  · rw [ht]
    exact beq_iff_eq.2 hfld'

/-! ### Narrowing (R76, R78) -/

theorem doDpllNarrow_domain_of_run {s : State} (hf : s.ref.bwCur > s.fld Fld.REF_BW_FINAL)
    (hrun : s.ref.bwRun ≥ narrowBeats s.ref.bwCur)
    (hserv : s.time.servo = .acquire ∨ s.time.servo = .locked ∨ s.time.servo = .holdover) :
    s.doDpllNarrow .domain = { s with ref := { s.ref with bwCur := s.ref.bwCur - 1, bwRun := 0 } } := by
  have hserv' : (s.time.servo == .acquire || s.time.servo == .locked || s.time.servo == .holdover) = true := by
    simpa [or_assoc] using hserv
  simp only [State.doDpllNarrow, hf, hrun, hserv', decide_true, Bool.and_self, if_true]

theorem doDpllNarrow_domain_of_kept {s : State}
    (h : s.ref.bwCur ≤ s.fld Fld.REF_BW_FINAL ∨ s.time.servo = .bridge) : s.doDpllNarrow .domain = s := by
  rcases h with hf | hserv
  · simp [State.doDpllNarrow, Nat.not_lt.2 hf]
  · simp [State.doDpllNarrow, hserv]

theorem doDpllNarrow_reference_of_run {s : State} (hroot : s.isRoot = true)
    (hf : s.ref.bwRoot > s.fld Fld.REF_BW_ROOT_FINAL) (hrun : s.ref.bwRootRun ≥ rootNarrowNs s.ref.bwRoot) :
    s.doDpllNarrow .reference = { s with ref := { s.ref with bwRoot := s.ref.bwRoot - 1, bwRootRun := 0 } } := by
  simp only [State.doDpllNarrow, hroot, hf, hrun, decide_true, Bool.and_self, if_true]

theorem doDpllNarrow_reference_of_final {s : State} (hf : s.ref.bwRoot ≤ s.fld Fld.REF_BW_ROOT_FINAL) :
    s.doDpllNarrow .reference = s := by
  simp [State.doDpllNarrow, Nat.not_lt.2 hf]

/-- Settles O12: the choice that falls due is made, and is one that changes the source (`State.OffSource`); narrowing by one
equation for each loop and outcome. -/
theorem candidatesAreSelectedAndNarrowed : Obligations.CandidatesAreSelectedAndNarrowed := by
  unfold Obligations.CandidatesAreSelectedAndNarrowed
  refine ⟨⟨fun s d p q hroot hdue hbest hq hsplit => ?input, fun s d hroot hdue => ?domain,
    fun s n _ hdue hbest => ?reference⟩,
    fun s hf hrun hserv => congrArg Host.Outcome.next (doDpllNarrow_domain_of_run hf hrun hserv),
    fun s h => congrArg Host.Outcome.next (doDpllNarrow_domain_of_kept h),
    fun s hroot hf hrun => congrArg Host.Outcome.next (doDpllNarrow_reference_of_run hroot hf hrun),
    fun s hf => congrArg Host.Outcome.next (doDpllNarrow_reference_of_final hf)⟩
  case input =>
    have hstep := doWtrExpiry_of_best hdue hbest
    rw [State.restoreTo, setInput_of_other hroot hq (offSource_of_wtrDue hdue) hsplit, hq] at hstep
    obtain ⟨hsel, hact, hbias, hflag, hframe⟩ := switched_settled hroot hstep
    exact ⟨_, rfl, by rw [hsel, PerDom.get_set_self], by rw [hsel, PerDom.get_set_other], hact, hbias, hflag, hframe⟩
  case domain =>
    have hstep := doWtrExpiry_of_best hdue fun w _ _ => wtrBeats_domain s w.sel d
    obtain ⟨hd, -⟩ : d = s.activeDom.other ∧ s.isRoot = false := offSource_of_wtrDue hdue
    have hne : s.ref.active ≠ d := by
      rw [hd, State.activeDom, hroot, if_neg Bool.false_ne_true]
      cases s.ref.active <;> decide
    obtain ⟨b, hb⟩ := setActive_of_other hne s.activeErr
    rw [State.restoreTo, hb] at hstep
    obtain ⟨hsel, hact, -, hflag, hframe⟩ := switched_settled hroot hstep
    exact ⟨_, rfl, hact, hsel, hflag, hframe⟩
  case reference =>
    have hstep := doWtrExpiry_of_best hdue hbest
    rw [State.restoreTo] at hstep
    exact ⟨_, rfl, switched_root_settled hstep⟩

end Sys2Proof.Machine
end

section
/-! PROOFS. UTC at a root spire by PTP (R92, R93). -/

namespace Sys2Proof.Machine

/-! ### The messages that the client takes (R92) -/

/-- The client takes messages with this header: it runs, and they are of its domain and on its transport. -/
def State.PtpHears (s : State) (h : PtpHdr) : Prop :=
  s.isRoot = true ∧ s.flag Fld.REF_PTP_CFG_EN = true ∧ h.domain = s.fld Fld.REF_PTP_CFG_DOMAIN_NUM ∧
    h.ieee = s.flag Fld.REF_PTP_CFG_TRANSPORT

/-- The unit with its PTP client in another state. -/
def State.setPtp (s : State) (p : PtpSt) : State := { s with ref := { s.ref with ptp := p } }

theorem doPtpMessageRx_of_hears {s : State} {h : PtpHdr} (hh : s.PtpHears h) (b : PtpBody) :
    s.doPtpMessageRx ⟨h, b⟩ = s.setPtp (s.ref.ptp.take (s.ht : Int) s.time.now ⟨h, b⟩) := by
  obtain ⟨hroot, hen, hdom, htr⟩ := hh
  have hcond : (s.isRoot && s.flag Fld.REF_PTP_CFG_EN && h.domain == s.fld Fld.REF_PTP_CFG_DOMAIN_NUM &&
      h.ieee == s.flag Fld.REF_PTP_CFG_TRANSPORT) = true := by simp [hroot, hen, hdom, htr]
  exact if_pos hcond

theorem doPtpMessageRx_of_foreign {s : State} {m : PtpMsg} (h : m.hdr.domain ≠ s.fld Fld.REF_PTP_CFG_DOMAIN_NUM ∨
    m.hdr.ieee ≠ s.flag Fld.REF_PTP_CFG_TRANSPORT) : s.doPtpMessageRx m = s := by
  rcases h with h | h <;> simp [State.doPtpMessageRx, h]

/-! ### The choice of the master (R92) -/

/-- The first Announce of the only clock heard chooses no master yet. -/
theorem announce_first {p : PtpSt} (h : p.foreign = []) (src : Nat) (c : PtpClock) (now : Nat) :
    p.announce src c now = { p with
      foreign := [⟨src, c, now, none⟩], master := none, t1 := none, t3 := none, twoStep := none, state := 1 } := by
  have hbest : bestMaster [⟨src, c, now, none⟩] = none := by simp [bestMaster, PtpForeign.qualified]
  simp [PtpSt.announce, h, hbest]

/-- Its second Announce within the window makes it the master. -/
theorem announce_second {p : PtpSt} {x : PtpForeign} {c : PtpClock} {now : Nat} (h : p.foreign = [x])
    (hwin : now ≤ x.heardAt + announceWindow c) (hsteps : c.steps < 255) :
    (p.announce x.src c now).master = some x.src ∧ (p.announce x.src c now).utcOff = c.utcOffset ∧
    (p.announce x.src c now).samples = p.samples := by
  have hbest : bestMaster [⟨x.src, c, now, some x.heardAt⟩] = some ⟨x.src, c, now, some x.heardAt⟩ := by
    simp [bestMaster, PtpForeign.qualified, hsteps, hwin]
  have heq : p.announce x.src c now =
      if p.master = some x.src then { p with foreign := [⟨x.src, c, now, some x.heardAt⟩], utcOff := c.utcOffset }
      else { p with
        foreign := [⟨x.src, c, now, some x.heardAt⟩], master := some x.src, utcOff := c.utcOffset, t1 := none, t3 := none,
        twoStep := none, state := 2 } := by
    simp [PtpSt.announce, h, hbest]
  rw [heq]
  split
  next hm => exact ⟨hm, rfl, rfl⟩
  next => exact ⟨rfl, rfl, rfl⟩

/-! ### The exchange (R92, R93) -/

section

variable {p : PtpSt} {h : PtpHdr} (now : Int) (heard : Nat) (ts : Int)

theorem take_sync_oneStep (hm : p.master = some h.src) : p.take now heard ⟨h, .sync ts false⟩ =
    { p with t1 := some ts, t2 := now, twoStep := none, syncs := p.syncs + 1 } := by
  simp [PtpSt.take, hm]

theorem take_sync_twoStep (hm : p.master = some h.src) : p.take now heard ⟨h, .sync ts true⟩ =
    { p with twoStep := some (h.seq, now), syncs := p.syncs + 1 } := by
  simp [PtpSt.take, hm]

theorem take_followUp {t2 : Int} (hm : p.master = some h.src) (h2 : p.twoStep = some (h.seq, t2)) :
    p.take now heard ⟨h, .followUp ts⟩ = { p with t1 := some ts, t2 := t2, twoStep := none } := by
  simp [PtpSt.take, hm, h2]

/-- A Delay_Resp that answers the Delay_Req sent completes a sample; the last 16 are kept. -/
theorem take_delayResp {t1 t3 : Int} (hm : p.master = some h.src) (h1 : p.t1 = some t1) (h3 : p.t3 = some t3)
    (hseq : p.reqSeq = h.seq) : p.take now heard ⟨h, .delayResp ts⟩ =
      { p with t3 := none, state := 3, samples := ptpSample t1 p.t2 t3 ts p.utcOff :: p.samples.take 15 } := by
  simp [PtpSt.take, hm, h1, h3, hseq]

end

/-! ### REF_UTC_OFFSET (R93) -/

/-- The unit that has written an offset, in 2^-16 ns. -/
def State.utcWritten (s : State) (m : Int) : State :=
  (s.setReg Reg.REF_UTC_OFFSET_NS (BitVec.ofInt 64 (m / 65536))).setReg Reg.REF_UTC_OFFSET_FRAC (BitVec.ofInt 64 (m % 65536))

theorem utcWritten_regs (s : State) (m : Int) :
    (s.utcWritten m).reg Reg.REF_UTC_OFFSET_NS = BitVec.ofInt 64 (m / 65536) ∧
    (s.utcWritten m).reg Reg.REF_UTC_OFFSET_FRAC = BitVec.ofInt 64 (m % 65536) ∧
    OnlyRegs [Reg.REF_UTC_OFFSET_NS, Reg.REF_UTC_OFFSET_FRAC] s (s.utcWritten m) := by
  refine ⟨?_, State.reg_setReg_self _ _ _, rfl, fun a ha => ?_⟩
  · exact (State.reg_setReg_ne _ _ _ _ (by decide)).trans (State.reg_setReg_self _ _ _)
  · simp only [List.mem_cons, List.not_mem_nil, or_false, not_or] at ha
    exact (State.reg_setReg_ne _ _ _ _ ha.2).trans (State.reg_setReg_ne _ _ _ _ ha.1)

theorem doUtcOffsetUpdate_of_due {s : State} (hroot : s.isRoot = true) (hen : s.flag Fld.REF_PTP_CFG_EN = true)
    (hsync : s.ref.ptp.syncs ≥ 16) (hsamp : s.ref.ptp.samples.length ≥ 16) : s.doUtcOffsetUpdate =
      (s.setPtp { s.ref.ptp with syncs := 0 }).utcWritten (medianOf s.ref.ptp.samples) := by
  simp only [State.doUtcOffsetUpdate, hroot, hen, hsync, hsamp, decide_true, Bool.and_self, if_true]
  rfl

/-- Settles O14: a message that the client takes changes the client alone (`doPtpMessageRx_of_hears`), as the kind of message
has it; the median is one write of two registers. -/
theorem ptpMedianReachesUtcOffset : Obligations.PtpMedianReachesUtcOffset := by
  unfold Obligations.PtpMedianReachesUtcOffset
  refine ⟨fun s h hroot hen hdom htr => ?taken, fun s m hm => congrArg Host.Outcome.next (doPtpMessageRx_of_foreign hm),
    fun s hroot hen hsync hsamp => ?median⟩
  case taken =>
    have htake : ∀ {b : PtpBody} {p : PtpSt}, s.ref.ptp.take (s.ht : Int) s.time.now ⟨h, b⟩ = p →
        exec (.ptpMessageRx ⟨h, b⟩) s = .next (s.setPtp p) := fun hp =>
      congrArg Host.Outcome.next ((doPtpMessageRx_of_hears ⟨hroot, hen, hdom, htr⟩ _).trans (congrArg s.setPtp hp))
    refine ⟨fun c => ⟨fun hnone => ?first, fun x hx hsrc hwin hsteps => ?second⟩,
      fun ts hm => ⟨htake (take_sync_oneStep _ _ ts hm), htake (take_sync_twoStep _ _ ts hm)⟩,
      fun ts t2 hm h2 => htake (take_followUp _ _ ts hm h2), htake rfl, fun ts t1 t3 hm h1 h3 hseq => ?sample⟩
    case first => exact ⟨_, htake (announce_first hnone h.src c _), rfl, rfl, rfl⟩
    case second =>
      obtain ⟨hmaster, hutc, hsamples⟩ := announce_second hx hwin hsteps
      rw [hsrc] at hmaster hutc hsamples
      exact ⟨_, htake rfl, hmaster, hutc, hsamples, rfl⟩
    case sample => exact ⟨_, htake (take_delayResp _ _ ts hm h1 h3 hseq), rfl, rfl, rfl, rfl⟩
  case median =>
    obtain ⟨hns, hfrac, hframe⟩ := utcWritten_regs (s.setPtp { s.ref.ptp with syncs := 0 }) (medianOf s.ref.ptp.samples)
    exact ⟨_, congrArg Host.Outcome.next (doUtcOffsetUpdate_of_due hroot hen hsync hsamp), hns, hfrac, rfl, hframe⟩

end Sys2Proof.Machine
end

section
/-! PROOFS. REALIGN and the pulse outputs (R94, R95). -/

namespace Sys2Proof.Machine

/-! ### Grids (R94, R95) -/

/-- The first instant of a grid at or after `t` lies on the grid, less than a period after `t`. -/
theorem gridAtOrAfter_spec {period phase : Nat} (t : Nat) (hph : phase < period) :
    t ≤ gridAtOrAfter period phase t ∧ gridAtOrAfter period phase t < t + period ∧
    gridAtOrAfter period phase t % period = phase := by
  have hpos : 0 < period := by omega
  have hlt := Nat.mod_lt t hpos
  have hback := Nat.mod_lt (phase + period - t % period) hpos
  refine ⟨Nat.le_add_right _ _, Nat.add_lt_add_left hback t, ?_⟩
  have hsum : t + (phase + period - t % period) = phase + period * (t / period + 1) := by
    have := Nat.div_add_mod t period
    rw [Nat.mul_add, Nat.mul_one]
    omega
  rw [gridAtOrAfter, Nat.add_mod_mod, hsum, Nat.add_mul_mod_self_left, Nat.mod_eq_of_lt hph]

/-- The instant of a grid that follows the instant `l` lies one period on. -/
theorem gridAtOrAfter_succ {period phase l : Nat} (hph : phase < period) (hl : l % period = phase) :
    gridAtOrAfter period phase (l + 1) = l + period := by
  obtain ⟨hle, hlt, hmod⟩ := gridAtOrAfter_spec (l + 1) hph
  generalize gridAtOrAfter period phase (l + 1) = g at hle hlt hmod
  have hdvd : period ∣ g - l := (Nat.modEq_iff_dvd' (by omega)).1 (hl.trans hmod.symm)
  have := Nat.le_of_dvd (by omega) hdvd
  omega

theorem gridPhase_lt (offset delay : Int) : gridPhase offset delay < secF := by
  have hpos : (0 : Int) < (secF : Int) := by decide
  have h0 := Int.emod_nonneg (-offset - delay * 65536) hpos.ne'
  have h1 := Int.emod_lt_of_pos (-offset - delay * 65536) hpos
  unfold gridPhase
  omega

/-! ### REALIGN (R95) -/

/-- The settings that a REALIGN takes up, with `v` written: the outputs that it names and their new grids. -/
def State.newRealign (s : State) (v : W) : Realign :=
  let c := s.reg Reg.REF_OUT_CFG
  let ph := gridPhase s.utcOffset (signedOf 32 (c.toNat / 65536 % 2 ^ 32))
  { s := gridAtOrAfter secF ph (s.ht + secF), pps := v.getLsbD 1, clk := v.getLsbD 2, mark0 := v.getLsbD 3,
    mark1 := v.getLsbD 4, phase := ph, ppsEn := c.getLsbD 0, clkEn := c.getLsbD 1, m0En := c.getLsbD 2, m1En := c.getLsbD 3,
    m0Cfg := s.reg Reg.REF_MARK_CFG, m1Cfg := s.reg (Reg.REF_MARK_CFG + 8), clkMoved := false }

/-- The register as a write of GO leaves it. -/
def State.realignWritten (s : State) (v : W) : State := s.putMasked Reg.REF_REALIGN 0x1E v

theorem doRealignGo_of_idle {s : State} (hp : s.present Reg.REF_REALIGN = true) (hn : s.ref.realign = none) (v : W) :
    s.doRealignGo v = { s.realignWritten v with
      ref := { s.ref with realign := some ((s.realignWritten v).newRealign v) } } := by
  unfold State.doRealignGo
  rw [if_pos hp, hn]
  rfl

/-- S lies on the new grid, at least one second ahead and less than two. -/
theorem newRealign_s (s : State) (v : W) {r : Realign} (hr : r = s.newRealign v) :
    r.s ≥ s.ht + secF ∧ r.s < s.ht + 2 * secF ∧ r.s % secF = r.phase ∧ r.phase < secF := by
  subst hr
  have hph := gridPhase_lt s.utcOffset (signedOf 32 ((s.reg Reg.REF_OUT_CFG).toNat / 65536 % 2 ^ 32))
  obtain ⟨hle, hlt, hmod⟩ := gridAtOrAfter_spec (s.ht + secF) hph
  exact ⟨hle, by rw [Nat.two_mul, ← Nat.add_assoc]; exact hlt, hmod, hph⟩

/-- The outputs as they are from S on. -/
def State.realigned (s : State) (r : Realign) : RefSt :=
  let clk : OutSt :=
    if r.clkMoved then { s.ref.clk10 with en := r.clkEn, phase := r.phase }
    else { en := r.clkEn, phase := r.phase, cfg := 0, last := none }
  { s.ref with
    realign := none, pulsesOn := s.ref.pulsesOn || s.time.servo == Servo.locked,
    pps := if r.pps then { s.ref.pps with en := r.ppsEn, phase := r.phase } else s.ref.pps,
    clk10 := if r.clk then clk else s.ref.clk10,
    mark0 := if r.mark0 then s.ref.mark0.regrid r.m0En r.m0Cfg r.s else s.ref.mark0,
    mark1 := if r.mark1 then s.ref.mark1.regrid r.m1En r.m1Cfg r.s else s.ref.mark1 }

theorem doRealignDone_of_reached {s : State} {r : Realign} (hr : s.ref.realign = some r) (hs : s.ht ≥ r.s) :
    s.doRealignDone = ({ s with ref := s.realigned r } : State).raise Fld.REF_STATUS_REALIGN_DONE := by
  unfold State.doRealignDone
  rw [hr]
  exact if_neg (Nat.not_lt.2 hs)

/-- The outputs that a REALIGN names take their new settings at S, and the others keep theirs. -/
theorem realigned_spec (s : State) (r : Realign) {x : RefSt} (hx : x = s.realigned r) :
    x.realign = none ∧
    (r.pps = true → x.pps.en = r.ppsEn ∧ x.pps.phase = r.phase) ∧ (r.pps = false → x.pps = s.ref.pps) ∧
    (r.clk = true → x.clk10.en = r.clkEn ∧ x.clk10.phase = r.phase) ∧ (r.clk = false → x.clk10 = s.ref.clk10) ∧
    (r.mark0 = true → x.mark0.en = r.m0En ∧ x.mark0.cfg = r.m0Cfg) ∧ (r.mark0 = false → x.mark0 = s.ref.mark0) ∧
    (r.mark1 = true → x.mark1.en = r.m1En ∧ x.mark1.cfg = r.m1Cfg) ∧ (r.mark1 = false → x.mark1 = s.ref.mark1) := by
  subst hx
  have hclk : r.clk = true → (s.realigned r).clk10.en = r.clkEn ∧ (s.realigned r).clk10.phase = r.phase := by
    intro h
    simp only [State.realigned, h, if_true]
    split <;> exact ⟨rfl, rfl⟩
  refine ⟨rfl, fun h => ?_, fun h => ?_, hclk, fun h => ?_, fun h => ?_, fun h => ?_, fun h => ?_, fun h => ?_⟩ <;>
    simp [State.realigned, OutSt.regrid, h]

/-! ### Pulses (R94, R95) -/

/-- PPS_OUT is to rise for the instant `g` of its grid. -/
def State.ppsDue (s : State) (g : Nat) : Bool :=
  s.ref.pulsesOn && s.ref.pps.en && (match s.ref.pps.last with
    | some l => decide (l < g)
    | none => true) && !s.ppsWithheld g && s.isVd

/-- The unit after the last instant of the grid of PPS_OUT, if there has been one. -/
def State.ppsAt (s : State) : Option Nat → State
  | none => s
  | some g => if s.ppsDue g then { s with
      ref := { s.ref with pps := { s.ref.pps with last := some (g : Int) } }, out := s.out ++ [.pps (wholeNs g)] } else s

/-- The grid instant is generalised before its cases are taken: the kernel must not be led to compute with the period of one
second, in units of 2^-16 ns. -/
theorem doPpsPulse_eq (s : State) : s.doPpsPulse = s.ppsAt (gridAtOrBefore secF s.ref.pps.phase s.ht) := by
  have hfun : State.doPpsPulse = fun s => s.ppsAt (gridAtOrBefore secF s.ref.pps.phase s.ht) := by
    delta State.doPpsPulse
    funext s
    generalize gridAtOrBefore secF s.ref.pps.phase s.ht = o
    cases o <;> rfl
  exact congrFun hfun s

theorem doPpsPulse_of_grid {s : State} {g : Nat} (hg : gridAtOrBefore secF s.ref.pps.phase s.ht = some g) :
    s.doPpsPulse = s.ppsAt (some g) := (doPpsPulse_eq s).trans (congrArg s.ppsAt hg)

theorem ppsDue_of_after_last {s : State} {g : Nat} (hvd : s.isVd = true) (hon : s.ref.pulsesOn = true)
    (hen : s.ref.pps.en = true) (hn : s.ref.realign = none) (hl : ∀ l, s.ref.pps.last = some l → l < (g : Int)) :
    s.ppsDue g = true := by
  have hwith : s.ppsWithheld g = false := by
    unfold State.ppsWithheld
    rw [hn]
  unfold State.ppsDue
  rw [hvd, hon, hen, hwith]
  split
  next l hlast => simp [hl l hlast]
  next => rfl

/-- Once PPS_OUT has risen for an instant, it does not rise for it again. -/
theorem ppsDue_of_last {s : State} {g : Nat} (hl : s.ref.pps.last = some (g : Int)) : s.ppsDue g = false := by
  simp [State.ppsDue, hl]

/-- With no REALIGN under way the next edge comes one period after the last. -/
theorem clkNext_of_last {s : State} {l : Nat} (hn : s.ref.realign = none) (hl : s.ref.clk10.last = some (l : Int))
    (hgrid : l % tenMhz = s.ref.clk10.phase % tenMhz) : s.clkNext = (l + tenMhz, s.ref.clk10.phase, false) := by
  have hnext : gridAtOrAfter tenMhz (s.ref.clk10.phase % tenMhz) (l + 1) = l + tenMhz :=
    gridAtOrAfter_succ (Nat.mod_lt _ (by decide)) hgrid
  simp [State.clkNext, hn, hl, hnext]

theorem doClk10mEdge_of_due {s : State} {l : Nat} (hvd : s.isVd = true) (hon : s.ref.pulsesOn = true)
    (hen : s.ref.clk10.en = true) (hn : s.ref.realign = none) (hl : s.ref.clk10.last = some (l : Int))
    (hgrid : l % tenMhz = s.ref.clk10.phase % tenMhz) (hdue : l + tenMhz ≤ s.ht) : s.doClk10mEdge = { s with
      ref := { s.ref with clk10 := { s.ref.clk10 with last := some ((l + tenMhz : Nat) : Int) } },
      out := s.out ++ [.clk10 (wholeNs (l + tenMhz))] } := by
  simp only [State.doClk10mEdge, clkNext_of_last hn hl hgrid, hvd, hon, hen, hdue, decide_true, Bool.and_self, if_true,
    Bool.false_eq_true, if_false]

theorem doStepMarkPulse_of_due {s : State} {n m : Nat} (hvd : s.isVd = true) (hon : s.ref.pulsesOn = true)
    (hn : s.ref.realign = none) (h2 : n < 2)
    (hdue : s.markDue (if n = 0 then s.ref.mark0 else s.ref.mark1) false false 0 0 = some m) :
    s.doStepMarkPulse n = { s with
      ref := if n = 0 then { s.ref with mark0 := { s.ref.mark0 with last := some (m : Int) } }
        else { s.ref with mark1 := { s.ref.mark1 with last := some (m : Int) } },
      out := s.out ++ [.stepMark n s.htNs] } := by
  simp only [State.doStepMarkPulse, hn, hdue, hvd, hon, h2, decide_true, Bool.and_self, if_true]
  split <;> rfl

/-- Settles O15: S by the arithmetic of the grids, the outputs at S by `realigned_spec`, and one equation for each pulse. -/
theorem outputsRealignAndPulse : Obligations.OutputsRealignAndPulse := by
  unfold Obligations.OutputsRealignAndPulse
  refine ⟨⟨fun s v hp hn => ?go, fun s r hr hs => ?done⟩,
    fun s g hvd hon hen hn hg hl => congrArg Host.Outcome.next
      ((doPpsPulse_of_grid hg).trans (if_pos (ppsDue_of_after_last hvd hon hen hn hl))),
    fun s g hg hl => congrArg Host.Outcome.next
      ((doPpsPulse_of_grid hg).trans (if_neg (Bool.eq_false_iff.1 (ppsDue_of_last hl)))),
    fun s l hvd hon hen hn hl hgrid hdue => congrArg Host.Outcome.next (doClk10mEdge_of_due hvd hon hen hn hl hgrid hdue),
    fun s n m hvd hon hn h2 hdue => ?mark⟩
  case go =>
    refine ⟨_, _, congrArg Host.Outcome.next (doRealignGo_of_idle hp hn v), rfl, ⟨rfl, fun a ha => ?_⟩, rfl, rfl, rfl, rfl,
      newRealign_s (s.realignWritten v) v rfl⟩
    exact State.reg_setReg_ne _ _ _ _ (by simpa using ha)
  case done =>
    have href : (({ s with ref := s.realigned r } : State).raise Fld.REF_STATUS_REALIGN_DONE).ref = s.realigned r :=
      State.raise_ref _ _
    obtain ⟨hre, hpps, hpps', hclk, hclk', hm0, hm0', hm1, hm1'⟩ := realigned_spec s r href
    refine ⟨_, congrArg Host.Outcome.next (doRealignDone_of_reached hr hs), hre, hpps, hpps', hclk, hclk', hm0, hm0', hm1,
      hm1', State.flag_raise _ _ (by decide) (by decide) (by decide), ?_⟩
    rw [href]
    exact raise_onlyEvents _ _
  case mark =>
    exact ⟨_, congrArg Host.Outcome.next (doStepMarkPulse_of_due hvd hon hn h2 hdue), rfl, fun h0 => if_pos h0,
      fun h1 => if_neg (by omega)⟩

end Sys2Proof.Machine
end

section
/-! PROOFS. Freewheel boundaries (R126), and arming (R117, R194 to R197). -/

namespace Sys2Proof.Machine

/-! ### Freewheel boundaries (R126) -/

theorem freewheel_ofNat (m k : Nat) :
    freewheel (BitVec.ofNat 64 m) k = ((m % 64 + 1) * k / 64 != m % 64 * k / 64) := by
  have hmod : (BitVec.ofNat 64 m).toNat % 64 = m % 64 := by
    rw [BitVec.toNat_ofNat]
    exact Nat.mod_mod_of_dvd m (by decide)
  simp only [freewheel, hmod]

/-- A boundary and the 64th after it are of one kind. -/
theorem freewheel_add_64 (m k : Nat) : freewheel (BitVec.ofNat 64 (64 + m)) k = freewheel (BitVec.ofNat 64 m) k := by
  rw [freewheel_ofNat, freewheel_ofNat, Nat.add_mod_left]

/-- Up to 64 boundaries from a multiple of 64 on: as many are freewheel boundaries as the ratio has accrued. -/
theorem count_freewheel {k : Nat} (hk : k ≤ 63) {j : Nat} (hj : j ≤ 64) :
    Nat.count (fun m => freewheel (BitVec.ofNat 64 m) k = true) j = j * k / 64 := by
  induction j with
  | zero => simp
  | succ j ih =>
    have hmod : j % 64 = j := Nat.mod_eq_of_lt (by omega)
    have hacc : (j + 1) * k = j * k + k := Nat.succ_mul j k
    rw [Nat.count_succ, ih (by omega), freewheel_ofNat, hmod, hacc]
    simp only [bne_iff_ne]
    split <;> omega

/-- Of 64 consecutive boundaries as many are freewheel boundaries wherever they begin. -/
theorem count_freewheel_from (n k : Nat) : Nat.count (fun m => freewheel (BitVec.ofNat 64 (n + m)) k = true) 64 =
    Nat.count (fun m => freewheel (BitVec.ofNat 64 m) k = true) 64 := by
  have hlast := Nat.count_add (fun m => freewheel (BitVec.ofNat 64 m) k = true) n 64
  have hfirst := Nat.count_add (fun m => freewheel (BitVec.ofNat 64 m) k = true) 64 n
  simp only [freewheel_add_64] at hfirst
  rw [Nat.add_comm 64 n] at hfirst
  omega

/-- Settles O16: the ratio accrues k in the 64 boundaries from 0 on, and any other 64 in a row hold as many. -/
theorem ratioSpreadsFreewheelBoundariesEvenly : Obligations.RatioSpreadsFreewheelBoundariesEvenly := by
  unfold Obligations.RatioSpreadsFreewheelBoundariesEvenly
  intro n k hk
  have hadd : ∀ i, n + BitVec.ofNat 64 i = BitVec.ofNat 64 (n.toNat + i) := fun i => by simp [BitVec.ofNat_add]
  have hcount := (count_freewheel_from n.toNat k).trans (count_freewheel hk le_rfl)
  rw [Nat.count, List.countP_eq_length_filter] at hcount
  simpa only [hadd, Bool.decide_eq_true, Nat.mul_div_cancel_left k (by decide : 0 < 64)] using hcount

/-! ### Arming (R117, R194, R196, R197) -/

section

variable {s : State}

theorem doArmingSignal_of_due (ha : s.awake = true) (hr : s.ready = true) (hc : s.time.cls ≠ 0)
    (hs : s.cad.armSpk ≠ s.cad.armNo + 1) (hd : (s.cad.decs.any fun d => arming d.kind) = false) :
    s.doArmingSignal = { s with
      cad := { s.cad with
        armSpk := s.cad.armNo + 1, disarm := s.cad.disarm && !s.notRunning, missed := s.cad.missed && !s.notRunning },
      img := { s.img with lock := s.img.lock || s.img.nxSrc } } := by
  have hsig : s.signalled = false := by simpa [State.signalled] using hs
  simp [State.doArmingSignal, ha, hr, hc, hd, hsig]

/-- A unit that is not ready, is of class U, or holds an arming decision whose boundary is still to come. -/
theorem doArmingSignal_of_not_due
    (h : s.ready = false ∨ s.time.cls = 0 ∨ (s.cad.decs.any fun d => arming d.kind) = true) : s.doArmingSignal = s := by
  unfold State.doArmingSignal
  rcases h with h | h | h <;> simp [h]

/-- Has the unit signalled for an arming decision that has not passed (R117). -/
def State.armingOwed (s : State) : Bool :=
  s.signalled || (s.cad.armSpk == s.cad.armNo && s.cad.decs.any fun d => arming d.kind)

/-- A unit whose set is to be loaded again is ready no more. -/
theorem loseReady_of_unloaded (hn : s.img.nxState ≠ .loaded) :
    s.loseReady = { s with cad := { s.cad with lost := s.cad.lost || s.armingOwed } } := by
  have hr : s.ready = false := by simp [State.ready, hn]
  have hlose : s.loseReady = if s.armingOwed then { s with cad := { s.cad with lost := true } } else s := by
    simp only [State.loseReady, hr, Bool.not_false, Bool.true_and]
    rfl
  rw [hlose]
  cases s.armingOwed <;> simp

theorem rearmCad_of_held (hh : s.cad.st = .held) : s.rearmCad = { s with
    cad := { s.cad with
      rearmed := true, missed := false,
      lost := s.cad.lost || (!s.cad.disarm && !s.cad.missed && s.armingOwed) },
    img := { s.img with next := none, nxState := .none, nxSrc := false } } := by
  simp only [State.rearmCad, hh, beq_self_eq_true, if_true]
  cases hd : s.cad.disarm || s.cad.missed with
  | true =>
    have hkept : (!s.cad.disarm && !s.cad.missed) = false := by rw [← Bool.not_or, hd, Bool.not_true]
    simp [hkept]
  | false =>
    have hshown : (!s.cad.disarm && !s.cad.missed) = true := by rw [← Bool.not_or, hd, Bool.not_false]
    simp only [hshown, Bool.false_eq_true, if_false, Bool.true_and]
    exact loseReady_of_unloaded (by simp)

theorem rearmCad_of_not_held (hh : s.cad.st ≠ .held) : s.rearmCad = { s with cad := { s.cad with missed := false } } := by
  simp [State.rearmCad, hh]

theorem doRearm_of_present (hp : s.present Reg.CAD_CMD = true) : s.doRearm = s.rearmCad := by
  simp [State.doRearm, hp]

end

/-- Settles O20: an arming signal that is due by `doArmingSignal_of_due`, and REARM by `rearmCad_of_held`. -/
theorem armingFollowsReadiness : Obligations.ArmingFollowsReadiness := by
  unfold Obligations.ArmingFollowsReadiness
  refine ⟨fun s ha hr hc hs hd hst => congrArg Host.Outcome.next ?running,
    fun s ha hr hc hs hd hst => congrArg Host.Outcome.next ?resting,
    fun s h => congrArg Host.Outcome.next (doArmingSignal_of_not_due h),
    fun s hp hh => congrArg Host.Outcome.next ((doRearm_of_present hp).trans (rearmCad_of_held hh)),
    fun s hp hh => congrArg Host.Outcome.next ((doRearm_of_present hp).trans (rearmCad_of_not_held hh))⟩
  case running =>
    have hrun : s.notRunning = false := by simp [State.notRunning, hst]
    simp only [doArmingSignal_of_due ha hr hc hs hd, hrun, Bool.not_false, Bool.and_true]
  case resting =>
    have hrest : s.notRunning = true := by simpa [State.notRunning] using hst
    simp only [doArmingSignal_of_due ha hr hc hs hd, hrest, Bool.not_true, Bool.and_false]

end Sys2Proof.Machine
end

section
/-! PROOFS. A boundary at which a fence waits under a number that is no DNO (R233, R365). -/

namespace Sys2Proof.Machine

/-- A LOCKED DOME in steps of 100 µs at boundary 1, which its cutoff found to fire, with a route commit that waits and a fence
under 8192: a DNO has 12 bits, and where the DNO table's entry 8192 would lie stands XF_POD_ROUTE. -/
def strayFence : State := { State.reset with
  time := { State.reset.time with servo := .locked, htx := BitVec.ofNat 112 (100000 * 2 ^ 48) }
  cad := { State.reset.cad with st := .running, cuts := [⟨1, .fire, true⟩] }
  img := { State.reset.img with live := some {
    phase := 0, imageId := 1, compSpk := 0, compInc := 1, eWork := 40, eFw := 10,
    desc := ⟨100000, 1000, 255, 4, 0, 0, 0, false, []⟩, outs := [], sigs := [], cmbs := [], tils := [], keeps := [] } }
  fab := { State.reset.fab with routeP := true }
  flt := { State.reset.flt with examined := some 1, fenceP := [(8192, true)] } }

/-- The fence takes effect before the routes: the pod routes that come into force hold its bit, which no write of
XF_POD_ROUTE has put there. -/
theorem strayFence_podAct : strayFence.doBoundaryDue.fab.podAct = [(0, 0x10000000)] := by decide +kernel

theorem strayFence_tableOf : strayFence.tableOf Reg.XF_POD_ROUTE 32 = [] := by decide

/-- Refutes O17: in `strayFence` a fence rewrites XF_POD_ROUTE at the boundary at which the routes commit, so that the pod
routes in force are not those that were written. -/
theorem not_boundariesCountOrHold : ¬ Obligations.BoundariesCountOrHold := by
  unfold Obligations.BoundariesCountOrHold
  rintro ⟨hfires, -⟩
  obtain ⟨t, hexec, -, -, -, -, -, -, -, -, -, -, -, -, -, -, hroutes, -⟩ := hfires strayFence 1 (by decide) (by decide)
    (by decide) (by decide) (by decide) (by decide) (by decide) (by decide) (by decide)
  have ht : strayFence.doBoundaryDue = t := Host.Outcome.next.inj hexec
  have hpod : t.fab.podAct = [] := (hroutes (by decide)).trans strayFence_tableOf
  rw [← ht, strayFence_podAct] at hpod
  exact absurd hpod (by decide)

end Sys2Proof.Machine
end

section
/-! PROOFS. Decisions: what a unit that takes one changes, on which ports it goes out, and what the issuer sends (R111 to
R115, R123). -/

namespace Sys2Proof.Machine

/-! ### Taking a decision (R112 to R114, R123) -/

/-- `t` is `s` but for its cadence, apart from the issuer's part and the grant, and for what an event of CAD_STATUS changes. -/
def OnlyTaken (s t : State) : Prop :=
  OnlyEvents [Reg.CAD_STATUS] { s with cad := { t.cad with root := s.cad.root, grant := s.cad.grant } } t

theorem OnlyTaken.refl (s : State) : OnlyTaken s s := OnlyEvents.refl _ s

theorem OnlyTaken.trans {s t u : State} (h : OnlyTaken s t) (k : OnlyTaken t u) : OnlyTaken s u := by
  obtain ⟨heq, hreg⟩ := h
  obtain ⟨keq, kreg⟩ := k
  refine ⟨?_, fun a ha hq => (kreg a ha hq).trans (hreg a ha hq)⟩
  rw [keq, heq]

section

variable {s t : State}

theorem OnlyTaken.frame (h : OnlyTaken s t) : OnlyEvents [Reg.CAD_STATUS]
    { s with cad := { t.cad with root := s.cad.root, grant := s.cad.grant } } t := h

theorem OnlyTaken.root_eq (h : OnlyTaken s t) : t.cad.root = s.cad.root := by rw [h.frame.cad_eq]
theorem OnlyTaken.grant_eq (h : OnlyTaken s t) : t.cad.grant = s.cad.grant := by rw [h.frame.cad_eq]
theorem OnlyTaken.ident_eq (h : OnlyTaken s t) : t.ident = s.ident := h.frame.ident_eq
theorem OnlyTaken.nvs_eq (h : OnlyTaken s t) : t.nvs = s.nvs := h.frame.nvs_eq
theorem OnlyTaken.time_eq (h : OnlyTaken s t) : t.time = s.time := h.frame.time_eq
theorem OnlyTaken.ram_eq (h : OnlyTaken s t) : t.fab.ram = s.fab.ram := h.frame.ram_eq
theorem OnlyTaken.ports_eq (h : OnlyTaken s t) : t.fab.ports = s.fab.ports := h.frame.ports_eq

end

theorem raise_onlyTaken (s : State) {f : Fld} (hf : f.reg = Reg.CAD_STATUS) : OnlyTaken s (s.raise f) := by
  have h := raise_onlyEvents s f
  rw [hf] at h
  unfold OnlyTaken
  rwa [State.raise_cad]

section

variable (s : State) (d : Decision) (src : Option Nat)

@[simp] theorem State.adoptEpoch_self (q : Nat) : s.adoptEpoch s.cad.epoch q = s := by simp [State.adoptEpoch]

/-- An issuer that sees the epoch in which it issues stays one. -/
theorem adoptEpoch_onlyTaken {e : Nat} (he : e = s.cad.root.epoch) (q : Nat) : OnlyTaken s (s.adoptEpoch e q) := by
  unfold State.adoptEpoch
  split
  · exact OnlyTaken.refl s
  · have hroot : { s.cad.root with
        issuer := s.cad.root.issuer && !(s.cad.root.issuer && e != s.cad.root.epoch),
        relay := s.cad.root.relay || (s.cad.root.issuer && e != s.cad.root.epoch) } = s.cad.root := by simp [he]
    simp only [hroot]
    exact ⟨rfl, fun _ _ _ => rfl⟩

theorem passLost_onlyTaken : OnlyTaken s (s.passLost d) := by
  unfold State.passLost
  split <;> exact ⟨rfl, fun _ _ _ => rfl⟩

theorem accept_onlyTaken (he : d.epoch = s.cad.root.epoch) : OnlyTaken s (s.accept d src) :=
  ((adoptEpoch_onlyTaken s he d.seq).trans ⟨rfl, fun _ _ _ => rfl⟩).trans (passLost_onlyTaken _ d)

theorem planeConflict_onlyTaken (e : Decision) : OnlyTaken s (s.planeConflict e d) :=
  OnlyTaken.trans ⟨rfl, fun _ _ _ => rfl⟩ (raise_onlyTaken _ rfl)

/-- A decision is ignored, conflicts with a copy that the unit holds, or is accepted. -/
theorem takeDecision_cases : s.takeDecision d src = (s, false) ∨
    (∃ e, s.takeDecision d src = (s.planeConflict e d, false)) ∨ s.takeDecision d src = (s.accept d src, true) := by
  unfold State.takeDecision
  split
  · split
    · split
      · exact .inl rfl
      · exact .inr (.inl ⟨_, rfl⟩)
    · split
      · exact .inl rfl
      · exact .inr (.inr rfl)
  · exact .inl rfl

theorem takeDecision_onlyTaken (he : d.epoch = s.cad.root.epoch) : OnlyTaken s (s.takeDecision d src).1 := by
  rcases takeDecision_cases s d src with h | ⟨e, h⟩ | h <;> rw [h]
  · exact OnlyTaken.refl s
  · exact planeConflict_onlyTaken s d e
  · exact accept_onlyTaken s d src he

end

/-- The issuer takes what it sends. -/
theorem takePair_onlyTaken (s : State) {d0 : Decision} {d1 : Option Decision} (h0 : d0.epoch = s.cad.root.epoch)
    (h1 : ∀ d, d1 = some d → d.epoch = s.cad.root.epoch) (src : Option Nat) : OnlyTaken s (s.takePair d0 d1 src).1 := by
  have hfirst := takeDecision_onlyTaken s d0 src h0
  cases d1 with
  | none => exact hfirst
  | some d =>
    have hepoch : d.epoch = (s.takeDecision d0 src).1.cad.root.epoch :=
      (h1 d rfl).trans (congrArg RootSt.epoch hfirst.root_eq.symm)
    exact hfirst.trans (takeDecision_onlyTaken _ d src hepoch)

/-! ### Sending decisions (R108, R112) -/

theorem State.nodup_decPorts (s : State) (src : Option Nat) : (s.decPorts src).Nodup := List.nodup_range.filter _

theorem State.preg_portFixed {s : State} (hv : s.isVd = true) : s.preg Reg.HT_PORT_FIXED = s.rwpWord 18 >>> 0 := by
  have hword : nvsOf Reg.HT_PORT_FIXED = some (18, 0) := by decide
  simp only [State.preg, hword, hv, if_true]

theorem State.portFixed_congr {s t : State} (hi : t.ident = s.ident) (hn : t.nvs = s.nvs) (p : Nat) :
    t.portFixed p = s.portFixed p := by
  have hspire : t.isSpire = s.isSpire := by simp only [State.isSpire, State.isVd, hi]
  have hword : t.rwpWord 18 = s.rwpWord 18 := by simp only [State.rwpWord, State.nvsWord, hn]
  unfold State.portFixed
  rw [hspire]
  split
  · next hs =>
    have hv : s.isVd = true := (Bool.and_eq_true_iff.1 hs).1
    have hv' : t.isVd = true := (Bool.and_eq_true_iff.1 (hspire.trans hs)).1
    rw [State.preg_portFixed hv, State.preg_portFixed hv', hword]
  · rfl

/-- The ports on which decisions go out depend on what the unit is, on its role in the issue and on its ports. -/
theorem State.decPorts_congr {s t : State} (hi : t.ident = s.ident) (hn : t.nvs = s.nvs) (hr : t.cad.root = s.cad.root)
    (hp : t.fab.ports = s.fab.ports) (src : Option Nat) : t.decPorts src = s.decPorts src := by
  have hcount : t.nPorts = s.nPorts := by simp only [State.nPorts, hi]
  have hport : ∀ p, t.port p = s.port p := fun p => by simp only [State.port, hp]
  have hcarries : ∀ p, t.carriesOs p = s.carriesOs p := fun p => by simp only [State.carriesOs, hcount, hport]
  have hrelays : t.relays = s.relays := by simp only [State.relays, State.isVd, State.isRoot_congr hi hn, hi, hr]
  simp only [State.decPorts, hcount, hcarries, hrelays, State.portFixed_congr hi hn]

theorem OnlyTaken.decPorts_eq {s t : State} (h : OnlyTaken s t) (src : Option Nat) : t.decPorts src = s.decPorts src :=
  State.decPorts_congr h.ident_eq h.nvs_eq h.root_eq h.ports_eq src

section

variable (s : State) (d0 : Decision) (d1 : Option Decision)

theorem State.sendDecision_frame (ps : List Nat) : s.sendDecision ps d0 d1 =
    { s with fab := { s.fab with ports := (s.sendDecision ps d0 d1).fab.ports } } := by
  induction ps generalizing s with
  | nil => rfl
  | cons p ps ih => exact ih (s.queueOs p (.decision d0 d1))

/-- A decision stands behind what waited on each of the ports, and on no other. -/
theorem State.osq_sendDecision {ps : List Nat} (hn : ps.Nodup) (q : Nat) : ((s.sendDecision ps d0 d1).port q).osq =
    if q ∈ ps then (s.port q).osq ++ [.decision d0 d1] else (s.port q).osq := by
  induction ps generalizing s with
  | nil => simp [State.sendDecision]
  | cons p ps ih =>
    obtain ⟨hp, hps⟩ := List.nodup_cons.1 hn
    have hsend : s.sendDecision (p :: ps) d0 d1 = (s.queueOs p (.decision d0 d1)).sendDecision ps d0 d1 := rfl
    rw [hsend, ih _ hps]
    by_cases hq : q = p
    · subst hq
      simp [hp, State.queueOs]
    · simp [hq, State.queueOs, State.port_setPort_ne]

end

/-! ### What the issuer sends (R111, R112) -/

/-- The issuer `s` has sent decisions, and is `t`: they wait on its ports, SEQ counts them, and its grant stays. -/
structure Issued (s t : State) (d0 : Decision) (d1 : Option Decision) : Prop where
  root : ∃ n, t.cad.root = { s.cad.root with
    seq := (s.cad.root.seq + if d1.isSome then 2 else 1) % 65536, armCount := n }
  grant : t.cad.grant = s.cad.grant
  time : t.time = s.time
  ram : t.fab.ram = s.fab.ram
  sent : SentDecisions s t (s.stampDec d0 1) (d1.map fun d => s.stampDec d 2)

/-- The issuer with what it is about to send counted. -/
def State.counts (s : State) (d0 : Decision) (d1 : Option Decision) : State :=
  { s with cad := { s.cad with root := { s.cad.root with
      seq := (s.cad.root.seq + if d1.isSome then 2 else 1) % 65536,
      armCount := if d0.kind == .start then 1 else if arming d0.kind then s.cad.root.armCount + 1
        else s.cad.root.armCount } } }

/-- The issuer with what it sends taken by itself. -/
def State.takesOwn (s : State) (d0 : Decision) (d1 : Option Decision) : State :=
  ((s.counts d0 d1).takePair (s.stampDec d0 1) (d1.map fun d => s.stampDec d 2) none).1

theorem takesOwn_onlyTaken (s : State) (d0 : Decision) (d1 : Option Decision) :
    OnlyTaken (s.counts d0 d1) (s.takesOwn d0 d1) := by
  refine takePair_onlyTaken _ rfl (fun d hd => ?_) none
  obtain ⟨e, -, rfl⟩ := Option.map_eq_some_iff.1 hd
  rfl

theorem issue_eq (s : State) (d0 : Decision) (d1 : Option Decision) : s.issue d0 d1 =
    ({ s.takesOwn d0 d1 with cad := { (s.takesOwn d0 d1).cad with
        latency := 0, lastSeqRx := (s.counts d0 d1).cad.root.seq } } : State).sendDecision
      ((s.takesOwn d0 d1).decPorts none) (s.stampDec d0 1) (d1.map fun d => s.stampDec d 2) := rfl

theorem issue_issued (s : State) (d0 : Decision) (d1 : Option Decision) : Issued s (s.issue d0 d1) d0 d1 := by
  have htaken := takesOwn_onlyTaken s d0 d1
  have hports : (s.takesOwn d0 d1).decPorts none = s.decPorts none := htaken.decPorts_eq none
  have hframe := State.sendDecision_frame ({ s.takesOwn d0 d1 with cad := { (s.takesOwn d0 d1).cad with
    latency := 0, lastSeqRx := (s.counts d0 d1).cad.root.seq } } : State) (s.stampDec d0 1)
    (d1.map fun d => s.stampDec d 2) ((s.takesOwn d0 d1).decPorts none)
  rw [← issue_eq] at hframe
  have hroot : (s.issue d0 d1).cad.root = (s.counts d0 d1).cad.root := by
    rw [hframe]
    exact htaken.root_eq
  constructor
  case root => exact ⟨_, hroot⟩
  case grant => rw [hframe]; exact htaken.grant_eq
  case time => rw [hframe]; exact htaken.time_eq
  case ram => rw [hframe]; exact htaken.ram_eq
  case sent =>
    intro q
    have hq : (s.takesOwn d0 d1).port q = s.port q := by
      rw [State.port, htaken.ports_eq]
      rfl
    rw [issue_eq, State.osq_sendDecision _ _ _ (State.nodup_decPorts _ _), hports]
    exact congrArg (fun x : PortSt => if q ∈ s.decPorts none then x.osq ++ _ else x.osq) hq

theorem Issued.raise {s t : State} {d0 : Decision} {d1 : Option Decision} (h : Issued s t d0 d1) (f : Fld) :
    Issued s (t.raise f) d0 d1 where
  root := by rw [State.raise_cad]; exact h.root
  grant := by rw [State.raise_cad]; exact h.grant
  time := (State.raise_time t f).trans h.time
  ram := (State.raise_ram t f).trans h.ram
  sent q := by rw [State.port, State.raise_ports]; exact h.sent q

theorem issueHold_issued (s : State) (m : W) : Issued s (s.issueHold m) (bareDec .hold m) none :=
  (issue_issued s _ _).raise _

theorem State.flag_issueHold (s : State) (m : W) : (s.issueHold m).flag Fld.CAD_ROOT_STATUS_HOLD_SENT = true :=
  State.flag_raise _ _ (by decide) (by decide) (by decide)

end Sys2Proof.Machine
end

section
/-! PROOFS. Decisions that come to a unit (R112 to R116, R123). -/

namespace Sys2Proof.Machine

/-! ### A decision that comes (R112 to R116, R123) -/

/-- The decision that the unit holds under the SEQ and the epoch of another. -/
def State.copyOf (s : State) (d : Decision) : Option Decision :=
  (s.cad.decs ++ s.cad.decRep.map (·.1) ++ s.cad.lastDec.toList).find? fun e => e.seq == d.seq && e.epoch == d.epoch

section

variable {s : State} {d : Decision}

theorem State.epochOk_of_own (h : d.epoch = s.cad.epoch) : s.epochOk d = true := by simp [State.epochOk, h]

theorem State.epochOk_of_lower (hst : s.cad.st ≠ .idle) (hne : d.epoch ≠ s.cad.epoch)
    (hlow : serialHigher 8 d.epoch s.cad.epoch = false) : s.epochOk d = false := by
  simp [State.epochOk, hst, hne, hlow]

theorem takeDecision_of_new (he : s.epochOk d = true) (hc : s.copyOf d = none) (hp : s.past d = false)
    (src : Option Nat) : s.takeDecision d src = (s.accept d src, true) := by
  rw [State.copyOf] at hc
  simp only [State.takeDecision, he, hc, hp, if_true, Bool.false_eq_true, if_false]

theorem takeDecision_of_copy (hc : s.copyOf d = some d) (src : Option Nat) : s.takeDecision d src = (s, false) := by
  rw [State.copyOf] at hc
  simp only [State.takeDecision, hc, beq_self_eq_true, Bool.true_or, if_true, ite_self]

theorem takeDecision_of_past (hp : s.past d = true) (src : Option Nat) : s.takeDecision d src = (s, false) := by
  simp only [State.takeDecision, hp, Bool.or_true, if_true]
  split
  · split <;> rfl
  · rfl

theorem takeDecision_of_lower (he : s.epochOk d = false) (src : Option Nat) : s.takeDecision d src = (s, false) := by
  simp only [State.takeDecision, he, Bool.false_eq_true, if_false]

theorem takeDecision_of_conflict {e : Decision} (he : s.epochOk d = true) (hc : s.copyOf d = some e) (hne : e ≠ d)
    (hp : s.past d = false) (src : Option Nat) : s.takeDecision d src = (s.planeConflict e d, false) := by
  rw [State.copyOf] at hc
  simp only [State.takeDecision, he, hc, hp, beq_eq_false_iff_ne.2 hne, if_true, Bool.or_false, Bool.false_eq_true, if_false]

/-- A decision of the unit's epoch that is neither a START nor a RESUME joins what the unit holds. -/
theorem accept_of_own (he : d.epoch = s.cad.epoch) (hk : d.kind = .hold ∨ d.kind = .phase ∨ d.kind = .ratio ∨ d.kind = .stop)
    (src : Option Nat) : ∃ h l x, s.accept d src = { s with cad := { s.cad with
      decs := s.cad.decs ++ [d], lastDec := some d, armNo := if d.kind = .phase then s.cad.armNo + 1 else s.cad.armNo,
      decRep := s.cad.decRep ++ [(d, src)], heldReason := h, lost := l, disarm := x } } := by
  have hlost : ∀ u : State, ∃ l x, u.passLost d = { u with cad := { u.cad with lost := l, disarm := x } } := fun u => by
    unfold State.passLost
    split <;> exact ⟨_, _, rfl⟩
  unfold State.accept
  rw [he, State.adoptEpoch_self]
  obtain ⟨l, x, hlx⟩ := hlost { s with cad := { s.cad with
      decs := s.cad.decs ++ [d], lastDec := some d, armNo := if d.kind = .phase then s.cad.armNo + 1 else s.cad.armNo,
      decRep := s.cad.decRep ++ [(d, src)],
      heldReason := if d.kind == .stop && s.cad.st == .held then 7 else s.cad.heldReason } }
  refine ⟨_, l, x, Eq.trans ?_ hlx⟩
  rcases hk with hk | hk | hk | hk <;> simp [hk, holdWith, repWith, arming]

end

/-- The unit with the path delay of a decision noted. -/
def State.delayNoted (s : State) (dep : W) : State := { s with cad := { s.cad with latency := s.htNs.toNat - dep.toNat } }

/-- No cutoff is due that the unit has not taken. -/
theorem ensureCut_of_not_due {s : State}
    (h : ∀ m b, s.nextBoundary = some (m, b) → s.htNs.toNat + 256 < b.toNat ∧ s.cutTaken m = false) : s.ensureCut = s := by
  unfold State.ensureCut
  split
  · next m b hnext =>
    obtain ⟨hearly, hcut⟩ := h m b hnext
    have hdue : s.cutDue m b = s := by simp [State.cutDue, Nat.not_le.2 hearly]
    have hrec : s.cutRec m = none := by simpa [State.cutTaken] using hcut
    simp [hdue, State.cutFor, hrec]
  · rfl

/-- A DECISION alone at a port at which no cutoff is due. -/
theorem doDecisionRx_of_no_cut {s : State} {p : Nat} (ha : s.awake = true) (hc : s.carriesOs p = true)
    (hn : ∀ m b, s.nextBoundary = some (m, b) → s.htNs.toNat + 256 < b.toNat ∧ s.cutTaken m = false)
    (d : Decision) (dep : W) {u : State} {new : Bool}
    (ht : (s.delayNoted dep).takeDecision d (some p) = (u, new)) : s.doDecisionRx p ⟨d, dep⟩ none =
      if new then u.sendDecision (u.decPorts (some p)) d none else u := by
  have hcut : (s.delayNoted dep).ensureCut = s.delayNoted dep := ensureCut_of_not_due hn
  have hrx : s.doDecisionRx p ⟨d, dep⟩ none = (s.delayNoted dep).rxDecisions p d none := by
    simp only [State.doDecisionRx, ha, hc, Bool.and_self, if_true]
    rfl
  rw [hrx, State.rxDecisions, hcut]
  simp only [State.takePair, ht]

/-- What a new decision does at a unit that takes it. -/
theorem doDecisionRx_of_new {s : State} {p : Nat} {d : Decision} {dep : W}
    (he : d.epoch = s.cad.epoch) (hk : d.kind = .hold ∨ d.kind = .phase ∨ d.kind = .ratio ∨ d.kind = .stop)
    {t : State} (ht : t = ((s.delayNoted dep).accept d (some p)).sendDecision
      (((s.delayNoted dep).accept d (some p)).decPorts (some p)) d none) :
    t.cad.decs = s.cad.decs ++ [d] ∧ t.cad.lastDec = some d ∧ t.cad.conflicts = s.cad.conflicts ∧
    t.cad.armNo = (if d.kind = .phase then s.cad.armNo + 1 else s.cad.armNo) ∧
    t.cad.latency = s.htNs.toNat - dep.toNat ∧
    (∀ q, (t.port q).osq = if q ∈ s.decPorts (some p) then (s.port q).osq ++ [.decision d none] else (s.port q).osq) ∧
    t = { s with cad := t.cad, fab := { s.fab with ports := t.fab.ports } } := by
  obtain ⟨h, l, x, hacc⟩ := accept_of_own (s := s.delayNoted dep) he hk (some p)
  have hports : ((s.delayNoted dep).accept d (some p)).decPorts (some p) = s.decPorts (some p) := by
    rw [hacc]
    rfl
  have hport : ∀ q, ((s.delayNoted dep).accept d (some p)).port q = s.port q := fun q => by
    rw [hacc]
    rfl
  have hframe := State.sendDecision_frame ((s.delayNoted dep).accept d (some p)) d none (s.decPorts (some p))
  rw [hports] at ht
  rw [← ht, hacc] at hframe
  have hcad := congrArg State.cad hframe
  refine ⟨(congrArg CadSt.decs hcad :), (congrArg CadSt.lastDec hcad :), (congrArg CadSt.conflicts hcad :),
    (congrArg CadSt.armNo hcad :), (congrArg CadSt.latency hcad :), fun q => ?_, ?_⟩
  · rw [ht, State.osq_sendDecision _ _ _ (State.nodup_decPorts _ _), hport]
  · rw [hcad]
    exact hframe

/-- What a decision does that contradicts a copy that the unit holds. -/
theorem planeConflict_spec (s : State) (dep : W) (e d : Decision) {t : State}
    (ht : t = (s.delayNoted dep).planeConflict e d) :
    t.cad.conflicts = s.cad.conflicts ++ [e.target, d.target] ∧ t.cad.decs = s.cad.decs ∧
    t.flag Fld.CAD_STATUS_PLANE_CONFLICT = true ∧ OnlyEvents [Reg.CAD_STATUS] { s with cad := t.cad } t := by
  rw [State.planeConflict] at ht
  have hcad : t.cad = _ := ht ▸ State.raise_cad _ _
  refine ⟨(congrArg CadSt.conflicts hcad :), (congrArg CadSt.decs hcad :), ?_, ?_⟩
  · rw [ht]
    exact State.flag_raise _ _ (by decide) (by decide) (by decide)
  · rw [hcad, ht]
    exact raise_onlyEvents _ _

end Sys2Proof.Machine
end

section
/-! PROOFS. The issuer: how a root becomes it (R107, R108), and the agent's commands (R121, R124). -/

namespace Sys2Proof.Machine

/-! ### The start of the issue (R107, R108) -/

section

variable {s : State}

/-- The root with its role in the issue taken. -/
def State.roleTaken (s : State) (issues : Bool) : State :=
  { s with cad := { s.cad with root := { s.cad.root with issuer := issues, relay := !issues, epoch := 0, initDone := true } } }

theorem doIssuerInit_of_distinct {o : Bool} (hr : s.isRoot = true) (ha : s.awake = true) (hi : s.cad.root.initDone = false)
    (hl : s.cad.root.lockedHbs ≥ 64) (ho : s.cad.root.otherInit = some o) (hne : o ≠ (s.preg Reg.CAD_ROOT_CFG).getLsbD 0) :
    s.doIssuerInit = s.roleTaken !o := by
  have hmine : (s.preg Reg.CAD_ROOT_CFG).getLsbD 0 = !o := by
    cases o <;> simpa using hne
  have hclash : (o == !o) = false := by cases o <;> rfl
  simp only [State.doIssuerInit, State.roleTaken, hr, ha, hi, hl, ho, hmine, hclash, decide_true, Bool.not_false,
    Bool.and_self, if_true, Bool.false_eq_true, if_false]

theorem doIssuerInit_of_clash {o : Bool} (hr : s.isRoot = true) (ha : s.awake = true) (hi : s.cad.root.initDone = false)
    (hl : s.cad.root.lockedHbs ≥ 64) (ho : s.cad.root.otherInit = some o) (heq : o = (s.preg Reg.CAD_ROOT_CFG).getLsbD 0) :
    s.doIssuerInit = (s.roleTaken (decide (s.ident.dno < s.cad.root.otherDno))).raise Fld.CAD_ROOT_STATUS_INIT_CONFLICT := by
  simp only [State.doIssuerInit, State.roleTaken, hr, ha, hi, hl, ho, ← heq, decide_true, Bool.not_false, Bool.and_self,
    if_true, beq_self_eq_true]

theorem doIssuerInit_of_done (hi : s.cad.root.initDone = true) : s.doIssuerInit = s := by
  simp only [State.doIssuerInit, hi, Bool.not_true, Bool.and_false, Bool.false_and, Bool.false_eq_true, if_false]

end

/-! ### One command bit of CAD_ROOT_CMD -/

theorem getLsbD_of_low {v : W} {b i : Nat} (hv : v.toNat % 64 = 2 ^ b) (hi : i < 6) : v.getLsbD i = decide (b = i) := by
  have h := Nat.testBit_mod_two_pow v.toNat 6 i
  rw [show (2 : Nat) ^ 6 = 64 from rfl, hv, Nat.testBit_two_pow] at h
  simpa [hi, BitVec.getLsbD] using h.symm

/-- The command bits of a word that has one of them. -/
theorem cmdBits_of_low {v : W} {b : Nat} (hb : b < 6) (hv : v.toNat % 64 = 2 ^ b) :
    ((upto 6).filter fun i => v.getLsbD i) = [b] := by
  have hbits : ((upto 6).filter fun i => v.getLsbD i) = (upto 6).filter fun i => decide (b = i) :=
    List.filter_congr fun i hi => getLsbD_of_low hv (List.mem_range.1 hi)
  rw [hbits]
  exact (by decide : ∀ b < 6, ((upto 6).filter fun i => decide (b = i)) = [b]) b hb

theorem or_of_low {v : W} {b : Nat} (hb : b < 6) (hv : v.toNat % 64 = 2 ^ b) : v ||| BitVec.ofNat 64 (2 ^ b) = v := by
  refine BitVec.eq_of_getLsbD_eq fun i hi => ?_
  have hbit : (BitVec.ofNat 64 (2 ^ b)).getLsbD i = (decide (i < 64) && decide (b = i)) := by
    rw [BitVec.getLsbD_ofNat, Nat.testBit_two_pow]
  rw [BitVec.getLsbD_or, hbit]
  by_cases h : b = i
  · rw [← h, getLsbD_of_low hv hb]
    simp
  · simp [h]

/-- The unit with PHASE and K of CAD_ROOT_CMD as written. -/
def State.rootCmdPut (s : State) (v : W) : State := s.putMasked Reg.CAD_ROOT_CMD 0x3FF00 v

theorem rootCmdPut_onlyRegs (s : State) (v : W) : OnlyRegs [Reg.CAD_ROOT_CMD] s (s.rootCmdPut v) :=
  ⟨rfl, fun a ha => State.reg_setReg_ne s Reg.CAD_ROOT_CMD a _ (by simpa using ha)⟩

theorem writeRootCmd_of_low {s : State} {v : W} {b : Nat} (hp : s.present Reg.CAD_ROOT_CMD = true) (hb : b < 6)
    (hv : v.toNat % 64 = 2 ^ b) : s.writeRootCmd (v ||| BitVec.ofNat 64 (2 ^ b)) = (s.rootCmdPut v).rootCmdBit b := by
  rw [or_of_low hb hv]
  simp only [State.writeRootCmd, hp, if_true, cmdBits_of_low hb hv, List.foldl_cons, List.foldl_nil]
  rfl

/-! ### HOLD, STOP and END_PHASE (R107) -/

section

variable {s : State}

theorem rootCmdBit_hold (hi : s.cad.root.issuer = true) :
    s.rootCmdBit 2 = { s with cad := { s.cad with root := { s.cad.root with holdCmd := true } } } := if_pos hi

theorem rootCmdBit_stop (hi : s.cad.root.issuer = true) :
    s.rootCmdBit 3 = { s with cad := { s.cad with root := { s.cad.root with stopCmd := true } } } := if_pos hi

theorem rootCmdBit_endPhase (hi : s.cad.root.issuer = true) :
    s.rootCmdBit 4 = { s with cad := { s.cad with root := { s.cad.root with endCmd := true } } } := if_pos hi

end

/-! ### START and RESUME (R121) -/

section

variable {s : State} {resume : Bool}

/-- The cadence from which a command launches the run. -/
def launchesFrom (resume : Bool) : Cad := if resume then .held else .idle

theorem rootLaunch_eq (s : State) (resume : Bool) : s.rootLaunch resume =
    if s.cad.root.issuer && (s.cad.st == launchesFrom resume) &&
        decide (s.htNs.toNat ≤ s.voteNs (s.reg Reg.CAD_ROOT_TARGET_NS)) &&
        decide (s.lVoteNs ≤ (s.reg Reg.CAD_ROOT_TARGET_NS).toNat) then
      { s with cad := { s.cad with root := { s.cad.root with cmd := some (s.rootCmdOf resume) } } }
    else s.raise Fld.CAD_ROOT_STATUS_CMD_REFUSED := by
  cases resume <;> rfl

theorem rootLaunch_of_fits (hi : s.cad.root.issuer = true) (hst : s.cad.st = launchesFrom resume)
    (hv : s.htNs.toNat ≤ s.voteNs (s.reg Reg.CAD_ROOT_TARGET_NS)) (hl : s.lVoteNs ≤ (s.reg Reg.CAD_ROOT_TARGET_NS).toNat) :
    s.rootLaunch resume = { s with cad := { s.cad with root := { s.cad.root with cmd := some (s.rootCmdOf resume) } } } := by
  rw [rootLaunch_eq, if_pos (by simp [hi, hst, hv, hl])]

theorem rootLaunch_of_misfit (h : s.cad.root.issuer = false ∨ s.cad.st ≠ launchesFrom resume ∨
    s.voteNs (s.reg Reg.CAD_ROOT_TARGET_NS) < s.htNs.toNat) :
    s.rootLaunch resume = s.raise Fld.CAD_ROOT_STATUS_CMD_REFUSED := by
  rw [rootLaunch_eq, if_neg]
  rcases h with h | h | h <;> simp [h]

end

/-- What START or RESUME does by a write of its bit alone. -/
theorem rootLaunch_written {s : State} {v : W} {resume : Bool} {t : State}
    (ht : t = (s.rootCmdPut v).rootLaunch resume) :
    (s.cad.root.issuer = true → s.cad.st = launchesFrom resume →
      s.htNs.toNat ≤ s.voteNs (s.reg Reg.CAD_ROOT_TARGET_NS) → s.lVoteNs ≤ (s.reg Reg.CAD_ROOT_TARGET_NS).toNat →
      OnlyRegs [Reg.CAD_ROOT_CMD] { s with cad := t.cad } t ∧
      t.cad = { s.cad with root := { s.cad.root with cmd := some (t.rootCmdOf resume) } }) ∧
    (s.cad.root.issuer = false ∨ s.cad.st ≠ launchesFrom resume ∨ s.voteNs (s.reg Reg.CAD_ROOT_TARGET_NS) < s.htNs.toNat →
      t.cad = s.cad ∧ t.flag Fld.CAD_ROOT_STATUS_CMD_REFUSED = true ∧
      OnlyEvents [Reg.CAD_ROOT_CMD, Reg.CAD_ROOT_STATUS] s t) := by
  have hreg := (rootCmdPut_onlyRegs s v).2
  have htarget : (s.rootCmdPut v).reg Reg.CAD_ROOT_TARGET_NS = s.reg Reg.CAD_ROOT_TARGET_NS := hreg _ (by decide)
  have hcfg : (s.rootCmdPut v).reg Reg.CAD_ROOT_CFG = s.reg Reg.CAD_ROOT_CFG := hreg _ (by decide)
  have hl : (s.rootCmdPut v).lVoteNs = s.lVoteNs := congrArg (fun w => Fld.CAD_ROOT_CFG_L_VOTE.of w * 1000) hcfg
  have hvote : (s.rootCmdPut v).voteNs ((s.rootCmdPut v).reg Reg.CAD_ROOT_TARGET_NS) =
      s.voteNs (s.reg Reg.CAD_ROOT_TARGET_NS) := by simp only [State.voteNs, hl, htarget]
  constructor
  · intro hi hst hv hns
    rw [rootLaunch_of_fits (s := s.rootCmdPut v) hi hst (hv.trans_eq hvote.symm)
      ((hl.trans_le hns).trans_eq (congrArg BitVec.toNat htarget.symm))] at ht
    subst ht
    exact ⟨⟨rfl, hreg⟩, rfl⟩
  · intro hmis
    rw [rootLaunch_of_misfit (s := s.rootCmdPut v) (hmis.imp_right (Or.imp_right hvote.trans_lt))] at ht
    subst ht
    refine ⟨State.raise_cad _ _, State.flag_raise _ _ (by decide) (by decide) (by decide), ?_⟩
    exact ((rootCmdPut_onlyRegs s v).onlyEvents.mono (by simp)).trans ((raise_onlyEvents _ _).mono (by decide))

/-! ### TAKE_ISSUE (R124) -/

theorem takeDecision_epoch {s : State} {d : Decision} (h : d.epoch = s.cad.epoch) (src : Option Nat) :
    (s.takeDecision d src).1.cad.epoch = s.cad.epoch := by
  have hlost : ∀ u : State, (u.passLost d).cad.epoch = u.cad.epoch := fun u => by
    unfold State.passLost
    split <;> rfl
  rcases takeDecision_cases s d src with hc | ⟨e, hc⟩ | hc <;> rw [hc]
  · rw [State.planeConflict, State.raise_cad]
  · rw [State.accept, hlost, h, State.adoptEpoch_self]

theorem issue_epoch {s : State} (h : s.cad.root.epoch = s.cad.epoch) (d : Decision) :
    (s.issue d none).cad.epoch = s.cad.epoch := by
  rw [issue_eq, State.sendDecision_frame]
  exact takeDecision_epoch (s := s.counts d none) (d := s.stampDec d 1) h none

/-- The root as TAKE_ISSUE makes it, before it sends HOLD. -/
def State.nextIssuer (s : State) : State :=
  { s with cad := { s.cad with
      epoch := (s.cad.epoch + 1) % 256,
      root := { s.cad.root with
        issuer := true, relay := false, initDone := true, epoch := (s.cad.epoch + 1) % 256, seq := s.cad.lastSeqRx,
        noGrant := true, armCount := s.cad.armNo, cmd := none } } }

theorem takeIssue_of_rest {s : State} (h : s.cad.st ≠ .running) :
    s.takeIssue = (s.nextIssuer.issueHold (s.cad.sc + 1)).decidedAt (s.cad.sc + 1) true := by
  have hrest : s.notRunning = true := by simpa [State.notRunning] using h
  simp only [State.takeIssue, hrest, if_true]
  rfl

theorem takeIssue_spec {s : State} (h : s.cad.st ≠ .running) {t : State} (ht : t = s.takeIssue) :
    t.cad.root.issuer = true ∧ t.cad.root.relay = false ∧ t.cad.root.epoch = (s.cad.epoch + 1) % 256 ∧
    t.cad.epoch = (s.cad.epoch + 1) % 256 ∧ t.cad.root.noGrant = true ∧ t.cad.root.decided = s.cad.sc + 1 ∧
    t.cad.grant = s.cad.grant ∧ t.flag Fld.CAD_ROOT_STATUS_HOLD_SENT = true ∧ t.time = s.time ∧ t.fab.ram = s.fab.ram := by
  rw [takeIssue_of_rest h] at ht
  have hsent := issueHold_issued s.nextIssuer (s.cad.sc + 1)
  have hepoch : (s.nextIssuer.issueHold (s.cad.sc + 1)).cad.epoch = (s.cad.epoch + 1) % 256 := by
    rw [State.issueHold, State.raise_cad]
    exact issue_epoch (s := s.nextIssuer) rfl (bareDec .hold (s.cad.sc + 1))
  have hflag := State.flag_issueHold s.nextIssuer (s.cad.sc + 1)
  subst ht
  generalize s.nextIssuer.issueHold (s.cad.sc + 1) = u at hsent hepoch hflag ⊢
  obtain ⟨n, hroot⟩ := hsent.root
  exact ⟨(congrArg RootSt.issuer hroot :), (congrArg RootSt.relay hroot :), (congrArg RootSt.epoch hroot :), hepoch,
    (congrArg RootSt.noGrant hroot :), rfl, hsent.grant, hflag, hsent.time, hsent.ram⟩

/-- Settles O19: a decision that comes by the cases of `State.takeDecision`, the start of the issue by the two cases of
`State.doIssuerInit`, and each command by its one bit of CAD_ROOT_CMD. -/
theorem decisionsAreTakenAndCommanded : Obligations.DecisionsAreTakenAndCommanded := by
  unfold Obligations.DecisionsAreTakenAndCommanded
  refine ⟨fun s p d dep ha hc hn => ⟨fun he hcopy hpast hk => ?new, fun h => ?ignored, fun e he hcopy hne hpast => ?conflict⟩,
    fun s o hr ha hi hl ho => ⟨fun hne => ?distinct, fun heq => ?clash⟩, fun s hi => ?done, fun s v hp hv => ?start,
    fun s v hp hv => ?resume, fun s v hp hi => ⟨fun hv => ?hold, fun hv => ?stop, fun hv => ?endPhase⟩,
    fun s v hp hst hv => ?take⟩
  case new =>
    have htake := takeDecision_of_new (s := s.delayNoted dep) (State.epochOk_of_own he) hcopy hpast (some p)
    exact ⟨_, congrArg Host.Outcome.next (doDecisionRx_of_no_cut ha hc hn d dep htake), doDecisionRx_of_new he hk rfl⟩
  case ignored =>
    refine congrArg Host.Outcome.next (doDecisionRx_of_no_cut ha hc hn d dep (new := false) ?_)
    rcases h with hcopy | hpast | ⟨hst, hne, hlow⟩
    · exact takeDecision_of_copy (s := s.delayNoted dep) hcopy _
    · exact takeDecision_of_past (s := s.delayNoted dep) hpast _
    · exact takeDecision_of_lower (State.epochOk_of_lower (s := s.delayNoted dep) hst hne hlow) _
  case conflict =>
    have htake := takeDecision_of_conflict (s := s.delayNoted dep) (State.epochOk_of_own he) hcopy hne hpast (some p)
    refine ⟨_, congrArg Host.Outcome.next (doDecisionRx_of_no_cut ha hc hn d dep htake), ?_⟩
    exact planeConflict_spec s dep e d rfl
  case distinct =>
    have htaken := doIssuerInit_of_distinct hr ha hi hl ho hne
    rw [State.roleTaken, Bool.not_not] at htaken
    exact congrArg Host.Outcome.next htaken
  case clash =>
    refine ⟨_, congrArg Host.Outcome.next (doIssuerInit_of_clash hr ha hi hl ho heq), State.raise_cad _ _,
      State.flag_raise _ _ (by decide) (by decide) (by decide), ?_⟩
    rw [State.raise_cad]
    exact raise_onlyEvents _ _
  case done => exact congrArg Host.Outcome.next (doIssuerInit_of_done hi)
  case start =>
    obtain ⟨hfits, hmisfit⟩ := rootLaunch_written (s := s) (v := v) (resume := false) rfl
    refine ⟨_, congrArg Host.Outcome.next (writeRootCmd_of_low hp (b := 0) (by decide) hv), fun hi hst hvote hl => ?_, hmisfit⟩
    obtain ⟨hregs, hcad⟩ := hfits hi hst hvote hl
    exact ⟨hregs, _, hcad, rfl, hregs.2 _ (by decide), hregs.2 _ (by decide), hregs.2 _ (by decide), rfl, rfl⟩
  case resume =>
    obtain ⟨hfits, hmisfit⟩ := rootLaunch_written (s := s) (v := v) (resume := true) rfl
    refine ⟨_, congrArg Host.Outcome.next (writeRootCmd_of_low hp (b := 1) (by decide) hv), fun hi hst hvote hl => ?_, hmisfit⟩
    obtain ⟨hregs, hcad⟩ := hfits hi hst hvote hl
    exact ⟨hregs, _, hcad, rfl, hregs.2 _ (by decide), (congrArg CadSt.k hcad :)⟩
  case hold =>
    refine ⟨_, congrArg Host.Outcome.next (writeRootCmd_of_low hp (b := 2) (by decide) hv), ?_⟩
    rw [rootCmdBit_hold (s := s.rootCmdPut v) hi]
    exact ⟨rfl, (rootCmdPut_onlyRegs s v).2⟩
  case stop =>
    refine ⟨_, congrArg Host.Outcome.next (writeRootCmd_of_low hp (b := 3) (by decide) hv), ?_⟩
    rw [rootCmdBit_stop (s := s.rootCmdPut v) hi]
    exact ⟨rfl, (rootCmdPut_onlyRegs s v).2⟩
  case endPhase =>
    refine ⟨_, congrArg Host.Outcome.next (writeRootCmd_of_low hp (b := 4) (by decide) hv), ?_⟩
    rw [rootCmdBit_endPhase (s := s.rootCmdPut v) hi]
    exact ⟨rfl, (rootCmdPut_onlyRegs s v).2⟩
  case take =>
    exact ⟨_, congrArg Host.Outcome.next (writeRootCmd_of_low hp (b := 5) (by decide) hv),
      takeIssue_spec (s := s.rootCmdPut v) hst rfl⟩

end Sys2Proof.Machine
end

section
/-! PROOFS. Cutoffs (R106, R115, R122, R123, R131). -/

namespace Sys2Proof.Machine

/-! ### What a cutoff finds -/

section

variable {s : State} {m : W}

theorem cutOf_of_conflict (hc : s.cad.conflicts.contains m = true) : s.cutOf m = .hold 3 := if_pos hc

theorem cutOf_of_stop (hc : s.cad.conflicts.contains m = false) (hs : (s.held .stop m).isSome = true) :
    s.cutOf m = .stop := by
  simp only [State.cutOf, hc, hs, Bool.false_eq_true, if_false, if_true]

theorem cutOf_of_hold (hc : s.cad.conflicts.contains m = false) (hs : s.held .stop m = none)
    (hh : (s.held .hold m).isSome = true) : s.cutOf m = .hold 1 := by
  simp only [State.cutOf, hc, hs, hh, Option.isSome_none, Bool.false_eq_true, if_false, if_true]

theorem cutOf_of_free (hc : s.cad.conflicts.contains m = false) (hs : s.held .stop m = none)
    (hh : s.held .hold m = none) : s.cutOf m = if s.missedAt m then .hold 2 else .fire := by
  simp only [State.cutOf, hc, hs, hh, Option.isSome_none, Bool.false_eq_true, if_false]

theorem missedAt_of_any
    (h : s.cad.grant.toNat < m.toNat ∨ s.behindSeq = true ∨ s.phaseMismatch m = true) : s.missedAt m = true := by
  unfold State.missedAt
  rcases h with h | h | h <;> simp [h]

theorem missedAt_of_none (hg : m.toNat ≤ s.cad.grant.toNat) (hb : s.behindSeq = false)
    (hp : s.phaseMismatch m = false) : s.missedAt m = false := by
  simp [State.missedAt, Nat.not_lt.2 hg, hb, hp]

end

/-! ### What a cutoff records (R115, R122) -/

/-- The unit with the outcome of a cutoff recorded, and, where a miss is of a phase that differs, with its event. -/
def State.cutNoted (s : State) (m : W) : State :=
  { s with cad := { s.cad with
      cuts := s.cad.cuts ++ [⟨m, s.cutOf m, s.time.servo == .locked⟩], missed := s.cad.missed || (s.cutOf m).missed } }

def State.phaseShown (s : State) (m : W) : State :=
  if s.cutOf m == .hold 2 && s.phaseMismatch m then (s.cutNoted m).raise Fld.IMG_STATUS_PHASE_MISMATCH else s.cutNoted m

theorem takeCut_eq (s : State) (m : W) :
    s.takeCut m = if (s.cutOf m).missed then (s.phaseShown m).raise Fld.CAD_STATUS_MISSED else s.cutNoted m := rfl

section

variable {s : State} {m : W}

theorem takeCut_of_not_missed (h : (s.cutOf m).missed = false) : s.takeCut m =
    { s with cad := { s.cad with cuts := s.cad.cuts ++ [⟨m, s.cutOf m, s.time.servo == .locked⟩] } } := by
  rw [takeCut_eq, h, State.cutNoted, h, Bool.or_false]
  rfl

theorem phaseShown_onlyEvents : OnlyEvents [Reg.CAD_STATUS, Reg.IMG_STATUS] (s.cutNoted m) (s.phaseShown m) := by
  unfold State.phaseShown
  split
  · exact (raise_onlyEvents _ Fld.IMG_STATUS_PHASE_MISMATCH).mono (by decide)
  · exact OnlyEvents.refl _ _

/-- A cutoff changes its record and the missed mark, and raises the events of a miss. -/
theorem takeCut_onlyEvents : OnlyEvents [Reg.CAD_STATUS, Reg.IMG_STATUS] (s.cutNoted m) (s.takeCut m) := by
  rw [takeCut_eq]
  split
  · exact phaseShown_onlyEvents.trans ((raise_onlyEvents _ Fld.CAD_STATUS_MISSED).mono (by decide))
  · exact OnlyEvents.refl _ _

/-- A conflict of the planes shows as a miss, and no phase differs by it. -/
theorem takeCut_onlyEvents_of_conflict (h : s.cutOf m = .hold 3) :
    OnlyEvents [Reg.CAD_STATUS] (s.cutNoted m) (s.takeCut m) := by
  have hshown : s.phaseShown m = s.cutNoted m := by
    rw [State.phaseShown, h]
    rfl
  rw [takeCut_eq, h, hshown]
  exact raise_onlyEvents _ _

theorem takeCut_cad : (s.takeCut m).cad = (s.cutNoted m).cad := takeCut_onlyEvents.cad_eq

theorem takeCut_flag (h : (s.cutOf m).missed = true) : (s.takeCut m).flag Fld.CAD_STATUS_MISSED = true := by
  rw [takeCut_eq, h]
  exact State.flag_raise _ _ (by decide) (by decide) (by decide)

theorem State.disarmNow_of_missed (h : s.cad.missed = true) : s.disarmNow = true := by simp [State.disarmNow, h]

/-! ### The record of a boundary (R115) -/

theorem cutFor_takeCut (hc : s.cutTaken m = false) : (s.takeCut m).cutFor m = some (s.cutOf m) := by
  have hnone : s.cad.cuts.find? (fun c => c.m == m) = none := by simpa [State.cutTaken, State.cutRec] using hc
  simp [State.cutFor, State.cutRec, takeCut_cad, State.cutNoted, List.find?_append, hnone]

/-- A further cutoff leaves the outcome of one that was taken. -/
theorem cutFor_takeCut_of_taken {n : W} {o : CutOutcome} (hc : s.cutFor m = some o) :
    (s.takeCut n).cutFor m = some o := by
  obtain ⟨c, hrec, ho⟩ := Option.map_eq_some_iff.1 hc
  rw [State.cutRec] at hrec
  simp [State.cutFor, State.cutRec, takeCut_cad, State.cutNoted, List.find?_append, hrec, ho]

theorem State.cutTaken_of_cutFor {o : CutOutcome} (hc : s.cutFor m = some o) : s.cutTaken m = true := by
  obtain ⟨c, hrec, -⟩ := Option.map_eq_some_iff.1 hc
  simp [State.cutTaken, hrec]

/-- The next boundary depends neither on the cutoffs taken nor on what has been missed. -/
theorem State.nextBoundary_congr {t : State} {cuts : List CutRec} {x : Bool}
    (hc : t.cad = { s.cad with cuts := cuts, missed := x }) (hi : t.img = s.img) : t.nextBoundary = s.nextBoundary := by
  simp only [State.nextBoundary, State.boundaryNs, State.stepNs, hc, hi]

/-! ### The cutoffs of the boundaries after it (R115) -/

theorem cutDue_of_taken (hc : s.cutTaken m = true) (b : W) : s.cutDue m b = s := by
  simp [State.cutDue, hc]

theorem ensureCut_of_not_fire {b : W} {o : CutOutcome} (hn : s.nextBoundary = some (m, b)) (hc : s.cutFor m = some o)
    (ho : o ≠ .fire) : s.ensureCut = s := by
  simp only [State.ensureCut, hn, cutDue_of_taken (State.cutTaken_of_cutFor hc), hc]
  simp [ho]

theorem ensureCut_of_fire {b : W} (hn : s.nextBoundary = some (m, b)) (hc : s.cutFor m = some .fire) :
    s.ensureCut = s.cutDue (m + 1) (s.afterNs m b) := by
  simp only [State.ensureCut, hn, cutDue_of_taken (State.cutTaken_of_cutFor hc), hc, beq_self_eq_true, if_true]

end

/-- `t` is `s` but for cutoffs recorded, the missed mark and the events of misses. -/
def OnlyCuts (s t : State) : Prop :=
  t.cad = { s.cad with cuts := t.cad.cuts, missed := t.cad.missed } ∧
  OnlyEvents [Reg.CAD_STATUS, Reg.IMG_STATUS] { s with cad := t.cad } t

theorem takeCut_onlyCuts (s : State) (m : W) : OnlyCuts s (s.takeCut m) := by
  refine ⟨?_, ?_⟩
  · rw [takeCut_cad]
    rfl
  · rw [takeCut_cad]
    exact takeCut_onlyEvents

theorem cutDue_onlyCuts (s : State) (m b : W) : OnlyCuts s (s.cutDue m b) := by
  unfold State.cutDue
  split
  · exact takeCut_onlyCuts s m
  · exact ⟨rfl, OnlyEvents.refl _ s⟩

theorem cutFor_cutDue {s : State} {m n b : W} {o : CutOutcome} (hc : s.cutFor m = some o) :
    (s.cutDue n b).cutFor m = some o := by
  unfold State.cutDue
  split
  · exact cutFor_takeCut_of_taken hc
  · exact hc

/-- What a missed boundary leaves at its cutoff. -/
theorem takeCut_of_missed {s : State} {m : W} {o : CutOutcome} (ho : s.cutOf m = o) (hm : o.missed = true) :
    (s.takeCut m).cad =
      { s.cad with cuts := s.cad.cuts ++ [⟨m, o, s.time.servo == .locked⟩], missed := true } ∧
    (s.takeCut m).disarmNow = true ∧ (s.takeCut m).flag Fld.CAD_STATUS_MISSED = true := by
  subst ho
  have hcad : (s.takeCut m).cad =
      { s.cad with cuts := s.cad.cuts ++ [⟨m, s.cutOf m, s.time.servo == .locked⟩], missed := true } := by
    rw [takeCut_cad, State.cutNoted, hm, Bool.or_true]
  exact ⟨hcad, State.disarmNow_of_missed (congrArg CadSt.missed hcad), takeCut_flag hm⟩

/-! ### CUTOFF (R115, R361) -/

section

variable {s : State} {m b : W}

theorem doCutoff_of_early (hn : s.nextBoundary = some (m, b)) (hb : s.htNs.toNat + 256 < b.toNat) : s.doCutoff = s := by
  simp only [State.doCutoff, hn, Nat.not_le.2 hb, decide_false, Bool.false_eq_true, if_false, ite_self]

theorem doCutoff_of_due (ha : s.awake = true) (hn : s.nextBoundary = some (m, b)) (hb : b.toNat ≤ s.htNs.toNat + 256) :
    s.doCutoff = (s.cutoffAt m).ensureCut := by
  simp only [State.doCutoff, ha, hn, hb, decide_true, if_true]

/-- A cutoff that was taken, and does not fire. -/
theorem doCutoff_of_taken {o : CutOutcome} (hn : s.nextBoundary = some (m, b)) (hc : s.cutFor m = some o) (ho : o ≠ .fire)
    (ha : s.awake = true) (hb : b.toNat ≤ s.htNs.toNat + 256) : s.doCutoff = s := by
  have hat : s.cutoffAt m = s := by
    simp only [State.cutoffAt, State.cutTaken_of_cutFor hc, if_true, hc]
    cases o with
    | fire => exact absurd rfl ho
    | hold r => rfl
    | stop => rfl
  rw [doCutoff_of_due ha hn hb, hat, ensureCut_of_not_fire hn hc ho]

/-- A cutoff taken now that holds or stops. -/
theorem doCutoff_of_not_fire (ha : s.awake = true) (hn : s.nextBoundary = some (m, b)) (hb : b.toNat ≤ s.htNs.toNat + 256)
    (ht : s.cutTaken m = false) (ho : s.cutOf m ≠ .fire) : s.doCutoff = s.takeCut m := by
  have hcut := cutFor_takeCut ht
  have hat : s.cutoffAt m = s.takeCut m := by
    simp only [State.cutoffAt, ht, Bool.false_eq_true, if_false, hcut]
    cases h : s.cutOf m with
    | fire => exact absurd h ho
    | hold r => rfl
    | stop => rfl
  have hnext : (s.takeCut m).nextBoundary = some (m, b) :=
    (State.nextBoundary_congr takeCut_cad takeCut_onlyEvents.img_eq).trans hn
  rw [doCutoff_of_due ha hn hb, hat, ensureCut_of_not_fire hnext hcut ho]

/-- A cutoff that finds a STOP or a HOLD. -/
theorem doCutoff_of_decided (ha : s.awake = true) (hn : s.nextBoundary = some (m, b)) (hb : b.toNat ≤ s.htNs.toNat + 256)
    (ht : s.cutTaken m = false) {o : CutOutcome} (ho : s.cutOf m = o) (hf : o ≠ .fire) (hm : o.missed = false) :
    s.doCutoff = { s with cad := { s.cad with cuts := s.cad.cuts ++ [⟨m, o, s.time.servo == .locked⟩] } } := by
  subst ho
  rw [doCutoff_of_not_fire ha hn hb ht hf, takeCut_of_not_missed hm]

/-- The swaps that a cutoff examines wait, and nothing else changes. -/
theorem admitSwaps_frame (s : State) (m : W) :
    ∃ l n, s.admitSwaps m = { s with flt := { s.flt with swapP := l }, free := n } := by
  have hall : ∀ (ds : List Nat) (u : State), ∃ l n, ds.foldl (fun t d => t.examine d) u =
      { u with flt := { u.flt with swapP := l }, free := n } := by
    intro ds
    induction ds with
    | nil => exact fun u => ⟨_, _, rfl⟩
    | cons d ds ih => exact fun u => ih (u.examine d)
  unfold State.admitSwaps
  split
  · exact hall _ s
  · exact ⟨_, _, rfl⟩

/-- At a boundary that is to fire the swaps are examined, once. -/
theorem cutoffAt_of_fire (ht : s.cutTaken m = false) (ho : s.cutOf m = .fire) : ∃ l n, s.cutoffAt m = { s with
    cad := { s.cad with cuts := s.cad.cuts ++ [⟨m, .fire, s.time.servo == .locked⟩] },
    flt := { s.flt with swapP := l, examined := some m }, free := n } := by
  have hcut := cutFor_takeCut ht
  have htake := takeCut_of_not_missed (s := s) (m := m) (by rw [ho]; rfl)
  rw [ho] at hcut htake
  simp only [State.cutoffAt, ht, Bool.false_eq_true, if_false, hcut]
  split
  · next hex =>
    have hex' : s.flt.examined = some m := (congrArg (fun u : State => u.flt.examined) htake).symm.trans hex
    refine ⟨s.flt.swapP, s.free, ?_⟩
    rw [htake, ← hex']
  · obtain ⟨l, n, hswaps⟩ := admitSwaps_frame (s.takeCut m) m
    refine ⟨l, n, ?_⟩
    rw [hswaps, htake]

/-- The cutoff of a boundary that is to fire: with it, in short steps, that of the boundary after it. -/
theorem doCutoff_of_fire (ha : s.awake = true) (hn : s.nextBoundary = some (m, b)) (hb : b.toNat ≤ s.htNs.toNat + 256)
    (ht : s.cutTaken m = false) (ho : s.cutOf m = .fire) {t : State} (h : t = s.doCutoff) :
    t.cutFor m = some .fire ∧ t.flt.examined = some m ∧
    t.cad = { s.cad with cuts := t.cad.cuts, missed := t.cad.missed } ∧
    OnlyEvents [Reg.CAD_STATUS, Reg.IMG_STATUS] { s with cad := t.cad, flt := t.flt, free := t.free } t ∧
    t.flt = { s.flt with swapP := t.flt.swapP, examined := some m } := by
  obtain ⟨l, n, hat⟩ := cutoffAt_of_fire ht ho
  have hcut : (s.cutoffAt m).cutFor m = some .fire := by
    have hown := cutFor_takeCut ht
    rw [takeCut_of_not_missed (by rw [ho]; rfl), ho] at hown
    rw [hat]
    exact hown
  have hnext : (s.cutoffAt m).nextBoundary = some (m, b) := by
    rw [hat]
    exact hn
  rw [doCutoff_of_due ha hn hb, ensureCut_of_fire hnext hcut] at h
  obtain ⟨hcad, hevents⟩ := cutDue_onlyCuts (s.cutoffAt m) (m + 1) ((s.cutoffAt m).afterNs m b)
  have hlater := cutFor_cutDue (n := m + 1) (b := (s.cutoffAt m).afterNs m b) hcut
  rw [← h] at hcad hevents hlater
  have hflt : t.flt = (s.cutoffAt m).flt := hevents.flt_eq
  have hfree : t.free = (s.cutoffAt m).free := hevents.free_eq
  rw [hat] at hcad hevents hflt hfree
  refine ⟨hlater, by rw [hflt], hcad, ?_, by rw [hflt]⟩
  rw [hflt, hfree]
  exact hevents

end

end Sys2Proof.Machine
end

section
/-! PROOFS. The issuer's votes (R107, R109, R111, R112, R402). -/

namespace Sys2Proof.Machine

/-! ### Who votes, and when (R107, R109, R402) -/

section

variable {s : State}

theorem doVoteInstant_of_other (h : s.isRoot = false ∨ s.cad.root.issuer = false ∨ s.coreHeld 2 = true) :
    s.doVoteInstant = s := by
  unfold State.doVoteInstant
  rcases h with h | h | h <;> simp [h]

theorem doVoteInstant_of_run_early {p : Proj} (hp : s.projDecided = some p) (hv : s.voteNow (p.ns (p.sc + 1)) = false) :
    s.doVoteInstant = s := by
  simp only [State.doVoteInstant, hp, hv, Bool.false_and, Bool.false_eq_true, if_false, ite_self]

theorem doVoteInstant_of_cmd_early {c : RootCmd} (hp : s.projDecided = none) (hrest : s.notRunning = true)
    (hc : s.cad.root.cmd = some c) (hv : s.voteNow c.ns = false) : s.doVoteInstant = s := by
  simp only [State.doVoteInstant, hp, hrest, hc, hv, Bool.false_eq_true, if_false, ite_self]

/-- The unit is the issuer, and its core 2 runs. -/
def State.Issuing (s : State) : Prop :=
  s.isRoot = true ∧ s.awake = true ∧ s.cad.root.issuer = true ∧ s.coreHeld 2 = false

theorem doVoteInstant_of_run (h : s.Issuing) {p : Proj} (hp : s.projDecided = some p)
    (hv : s.voteNow (p.ns (p.sc + 1)) = true) (hg : s.cad.root.noGrant = false) : s.doVoteInstant = s.voteRun p := by
  obtain ⟨hr, ha, hi, hc⟩ := h
  simp only [State.doVoteInstant, hr, ha, hi, hc, hp, hv, hg, Bool.not_false, Bool.and_self, if_true]

theorem doVoteInstant_of_cmd (h : s.Issuing) {c : RootCmd} (hp : s.projDecided = none) (hrest : s.notRunning = true)
    (hc : s.cad.root.cmd = some c) (hv : s.voteNow c.ns = true) : s.doVoteInstant = s.voteCmd c := by
  obtain ⟨hr, ha, hi, hcore⟩ := h
  simp only [State.doVoteInstant, hr, ha, hi, hcore, hp, hrest, hc, hv, Bool.not_false, Bool.and_self, if_true]

end

/-! ### The marks of an issuer that sends (R111) -/

/-- The issuer with another ratio due, and with or without a right to grant. -/
def State.marked (s : State) (due : Option (Nat × Nat)) (noGrant : Bool) : State :=
  { s with cad := { s.cad with root := { s.cad.root with ratioDue := due, noGrant := noGrant } } }

theorem ratioSent_of_due {s : State} {b : W} (h : (s.ratioAt b).isSome = true) :
    s.ratioSent b = s.marked none s.cad.root.noGrant := by
  simp only [State.ratioSent, h, if_true]
  rfl

theorem ratioSent_marked (s : State) (b : W) : ∃ x, s.ratioSent b = s.marked x s.cad.root.noGrant := by
  unfold State.ratioSent
  split <;> exact ⟨_, rfl⟩

/-- A decision that the issuer has sent of a boundary: SEQ counts it, and the agent's commands are used up. -/
theorem Issued.decided {s u : State} {d : Decision} (h : Issued s u d none) (m : W) {t : State}
    (ht : t = u.decidedAt m false) :
    SentDecisions s t (s.stampDec d 1) none ∧ t.cad.root.seq = (s.cad.root.seq + 1) % 65536 ∧ t.cad.root.decided = m ∧
    t.cad.grant = s.cad.grant ∧ t.cad.root.stopCmd = false ∧ t.cad.root.holdCmd = false ∧
    (∀ f, t.flag f = u.flag f) ∧ t.time = s.time ∧ t.fab.ram = s.fab.ram := by
  obtain ⟨n, hroot⟩ := h.root
  subst ht
  exact ⟨h.sent, (congrArg RootSt.seq hroot :), rfl, h.grant, rfl, rfl, fun _ => rfl, h.time, h.ram⟩

/-- What the issuer has sent of a boundary that it grants. -/
theorem Issued.granted {s s0 u : State} {due : Option (Nat × Nat)} {g : Bool} {d0 : Decision} {d1 : Option Decision}
    (h : Issued s0 u d0 d1) (h0 : s0 = s.marked due g) (m : W) (cmd : Bool) {t : State}
    (ht : t = (u.grantUpTo m).decidedAt m cmd) :
    SentDecisions s t (s.stampDec d0 1) (d1.map fun d => s.stampDec d 2) ∧
    t.cad.root.seq = (s.cad.root.seq + if d1.isSome then 2 else 1) % 65536 ∧ t.cad.root.decided = m ∧
    t.cad.grant = (if s.cad.grant.toNat < m.toNat then m else s.cad.grant) ∧ t.cad.root.ratioDue = due ∧
    t.cad.root.noGrant = g ∧ (cmd = true → t.cad.root.cmd = none) ∧ t.time = s.time ∧ t.fab.ram = s.fab.ram := by
  subst h0
  obtain ⟨n, hroot⟩ := h.root
  have hgrant : (u.grantUpTo m).cad.grant = if s.cad.grant.toNat < m.toNat then m else s.cad.grant := by
    rw [State.grantUpTo, h.grant]
    rfl
  subst ht
  exact ⟨h.sent, (congrArg RootSt.seq hroot :), rfl, hgrant, (congrArg RootSt.ratioDue hroot :),
    (congrArg RootSt.noGrant hroot :), fun hcmd => if_pos hcmd, h.time, h.ram⟩

/-! ### The rows of R111 for a run -/

/-- Does the phase end at the boundary of a projection (R103, R111). -/
def Proj.stops (p : Proj) (endCmd : Bool) : Bool :=
  p.desc.nSteps != 0 && p.wsc == p.base + BitVec.ofNat 64 p.desc.nSteps - 1 || (p.desc.nSteps == 0 && endCmd)

/-- Is the aggregate more than D behind at the boundary that follows a projection. -/
def State.runSlow (s : State) (p : Proj) : Bool :=
  s.tooSlow (if freewheel (p.sc + 1) ((s.ratioAt (p.ns (p.sc + 1))).getD p.k) then p.wsc else p.wsc + 1) p.desc.holdDist

theorem Proj.stops_iff (p : Proj) (e : Bool) : p.stops e = true ↔
    (p.desc.nSteps ≠ 0 ∧ p.wsc = p.base + BitVec.ofNat 64 p.desc.nSteps - 1) ∨ (p.desc.nSteps = 0 ∧ e = true) := by
  simp [Proj.stops]

/-- The boundary of a vote is held, or is that of a STOP. -/
def State.votesHold (s : State) (m : W) : State := (s.issueHold m).decidedAt m false
def State.votesStop (s : State) (m : W) : State := (s.issue (bareDec .stop m) none).decidedAt m false

/-- The boundary of a vote is granted, under decisions or without. -/
def State.votesPhase (s : State) (m b : W) (successor : Nat) : State :=
  (((s.ratioSent b).issue { bareDec .phase m with phase := successor % 16 } (s.ratioDec m b)).grantUpTo m).decidedAt m false
def State.votesRatio (s : State) (m b : W) (d : Decision) : State :=
  (((s.ratioSent b).issue d none).grantUpTo m).decidedAt m false
def State.votesGrant (s : State) (m : W) : State := (s.grantUpTo m).decidedAt m false

/-- The rows of R111, in their order. -/
theorem voteRun_eq (s : State) (p : Proj) : s.voteRun p =
    let m := p.sc + 1
    let stops := p.stops s.cad.root.endCmd
    if s.cad.root.stopCmd then s.votesStop m
    else if s.cad.root.holdCmd then s.votesHold m
    else if s.runSlow p then s.votesHold m
    else if stops && p.desc.successor == 255 then s.votesStop m
    else if stops && !s.armComplete then s.votesHold m
    else if stops then s.votesPhase m (p.ns m) p.desc.successor
    else (s.ratioDec m (p.ns m)).elim (s.votesGrant m) (s.votesRatio m (p.ns m)) := by
  cases h : s.ratioDec (p.sc + 1) (p.ns (p.sc + 1)) <;> simp only [State.voteRun, State.votesPhase, h] <;> rfl

section

variable {s : State} {p : Proj}

theorem voteRun_of_stop (h : s.cad.root.stopCmd = true ∨ (s.cad.root.holdCmd = false ∧ s.runSlow p = false ∧
      p.stops s.cad.root.endCmd = true ∧ p.desc.successor = 255)) : s.voteRun p = s.votesStop (p.sc + 1) := by
  rw [voteRun_eq]
  rcases h with hs | ⟨hh, hslow, hstops, hsucc⟩
  · simp [hs]
  · simp [hh, hslow, hstops, hsucc]

theorem voteRun_of_hold (hs : s.cad.root.stopCmd = false) (h : s.cad.root.holdCmd = true ∨ s.runSlow p = true ∨
      (p.stops s.cad.root.endCmd = true ∧ p.desc.successor ≠ 255 ∧ s.armComplete = false)) :
    s.voteRun p = s.votesHold (p.sc + 1) := by
  rw [voteRun_eq]
  rcases h with hh | hslow | ⟨hstops, hsucc, harm⟩
  · simp [hs, hh]
  · simp [hs, hslow]
  · simp [hs, hstops, hsucc, harm]

/-- The rows that grant nothing, as the agent's commands, the hold distance and the end of the phase choose among them. -/
theorem voteRun_of_ungranted {k : DecKind} {held ends : Prop} (hheld : held ↔ s.cad.root.holdCmd = true ∨ s.runSlow p = true)
    (hends : ends ↔ p.stops s.cad.root.endCmd = true ∧ p.desc.successor = 255)
    (h : (k = .stop ∧ (s.cad.root.stopCmd = true ∨ (¬ held ∧ ends))) ∨
      (k = .hold ∧ s.cad.root.stopCmd = false ∧
        (held ∨ (p.stops s.cad.root.endCmd = true ∧ ¬ ends ∧ s.armComplete = false)))) :
    (k = .stop ∧ s.voteRun p = s.votesStop (p.sc + 1)) ∨ (k = .hold ∧ s.voteRun p = s.votesHold (p.sc + 1)) := by
  rw [hheld, hends, not_or, Bool.not_eq_true, Bool.not_eq_true, or_assoc] at h
  rcases h with ⟨hk, hrow⟩ | ⟨hk, hs, hrow⟩
  · exact .inl ⟨hk, voteRun_of_stop (hrow.imp_right fun ⟨⟨hh, hslow⟩, hend⟩ => ⟨hh, hslow, hend⟩)⟩
  · exact .inr ⟨hk, voteRun_of_hold hs (hrow.imp_right (Or.imp_right fun ⟨hend, hnot, harm⟩ =>
      ⟨hend, fun hsucc => hnot ⟨hend, hsucc⟩, harm⟩))⟩

variable (hs : s.cad.root.stopCmd = false) (hh : s.cad.root.holdCmd = false) (hslow : s.runSlow p = false)

include hs hh hslow

theorem voteRun_of_phase (hstops : p.stops s.cad.root.endCmd = true) (hsucc : p.desc.successor ≠ 255)
    (harm : s.armComplete = true) :
    s.voteRun p = s.votesPhase (p.sc + 1) (p.ns (p.sc + 1)) p.desc.successor := by
  rw [voteRun_eq]
  simp [hs, hh, hslow, hstops, hsucc, harm]

theorem voteRun_of_ratio (hstops : p.stops s.cad.root.endCmd = false) {d : Decision}
    (hd : s.ratioDec (p.sc + 1) (p.ns (p.sc + 1)) = some d) :
    s.voteRun p = s.votesRatio (p.sc + 1) (p.ns (p.sc + 1)) d := by
  simp only [voteRun_eq, hs, hh, hslow, hstops, hd, Bool.false_and, Bool.false_eq_true, if_false]
  rfl

theorem voteRun_of_grant (hstops : p.stops s.cad.root.endCmd = false)
    (hd : s.ratioDec (p.sc + 1) (p.ns (p.sc + 1)) = none) : s.voteRun p = s.votesGrant (p.sc + 1) := by
  simp only [voteRun_eq, hs, hh, hslow, hstops, hd, Bool.false_and, Bool.false_eq_true, if_false]
  rfl

end

/-! ### A START or RESUME that the agent has commanded (R111, R121) -/

/-- The boundary that a command names. -/
def State.cmdTarget (s : State) (c : RootCmd) : W := if c.resume then s.cad.sc + 1 else c.sc

/-- Is the aggregate more than D behind at the boundary of a RESUME. -/
def State.cmdSlow (s : State) (c : RootCmd) : Bool :=
  s.tooSlow (if freewheel (s.cmdTarget c) ((s.ratioAt c.ns).getD c.k) then c.wsc - 1 else c.wsc)
    (match s.desc with
      | some x => x.holdDist
      | none => 0)

/-- The decision that a command makes. -/
def launchDecision (c : RootCmd) (m : W) : Decision :=
  { bareDec (if c.resume then .resume else .start) m with
    phase := c.phase, anchor := c.ns, wsc := c.wsc, base := c.base, ratio := c.k }

/-- A command that is carried out: its decision is sent, with a ratio that is due, and its boundary granted. -/
def State.launches (s : State) (c : RootCmd) : State :=
  ((((s.ratioSent c.ns).marked (s.ratioSent c.ns).cad.root.ratioDue false).issue (launchDecision c (s.cmdTarget c))
    (s.ratioDec (s.cmdTarget c) c.ns)).grantUpTo (s.cmdTarget c)).decidedAt (s.cmdTarget c) true

theorem voteCmd_of_launch {s : State} {c : RootCmd} (hs : s.cad.root.stopCmd = false) (hh : s.cad.root.holdCmd = false)
    (harm : s.armComplete = true) (hslow : c.resume = true → s.cmdSlow c = false) : s.voteCmd c = s.launches c := by
  have hslow' : (c.resume && s.cmdSlow c) = false := by
    cases hr : c.resume with
    | true => exact hslow hr
    | false => rfl
  obtain ⟨stop, hold, slow, unarmed, hrows⟩ : ∃ stop hold slow unarmed, s.voteCmd c =
      if s.cad.root.stopCmd then stop else if s.cad.root.holdCmd then hold else if c.resume && s.cmdSlow c then slow
      else if !s.armComplete then unarmed else s.launches c := ⟨_, _, _, _, rfl⟩
  simp only [hrows, hs, hh, hslow', harm, Bool.not_true, Bool.false_eq_true, if_false]

/-! ### What each row leaves -/

section

variable (s : State) (m b : W)

/-- Of a boundary that a vote stops or holds: the decision is sent, and nothing is granted. -/
theorem votesStop_or_votesHold_spec {k : DecKind} {t : State}
    (h : (k = .stop ∧ t = s.votesStop m) ∨ (k = .hold ∧ t = s.votesHold m)) :
    SentDecisions s t (s.stampDec (bareDec k m) 1) none ∧ t.cad.root.seq = (s.cad.root.seq + 1) % 65536 ∧
    t.cad.root.decided = m ∧ t.cad.grant = s.cad.grant ∧ t.cad.root.stopCmd = false ∧ t.cad.root.holdCmd = false ∧
    (k = .hold → t.flag Fld.CAD_ROOT_STATUS_HOLD_SENT = true) ∧ t.time = s.time ∧ t.fab.ram = s.fab.ram := by
  rcases h with ⟨rfl, ht⟩ | ⟨rfl, ht⟩
  · obtain ⟨hsent, hseq, hdec, hgrant, hstop, hhold, -, hrest⟩ := (issue_issued s (bareDec .stop m) none).decided m ht
    exact ⟨hsent, hseq, hdec, hgrant, hstop, hhold, fun hk => absurd hk (by decide), hrest⟩
  · obtain ⟨hsent, hseq, hdec, hgrant, hstop, hhold, hflag, hrest⟩ := (issueHold_issued s m).decided m ht
    exact ⟨hsent, hseq, hdec, hgrant, hstop, hhold, fun _ => (hflag _).trans (State.flag_issueHold s m), hrest⟩

theorem votesPhase_spec (successor : Nat) {t : State} (ht : t = s.votesPhase m b successor) :
    SentDecisions s t (s.stampDec { bareDec .phase m with phase := successor % 16 } 1)
      ((s.ratioDec m b).map fun d => s.stampDec d 2) ∧
    t.cad.root.seq = (s.cad.root.seq + if (s.ratioDec m b).isSome then 2 else 1) % 65536 ∧ t.cad.root.decided = m ∧
    t.cad.grant = (if s.cad.grant.toNat < m.toNat then m else s.cad.grant) ∧ t.time = s.time ∧ t.fab.ram = s.fab.ram := by
  obtain ⟨x, hx⟩ := ratioSent_marked s b
  obtain ⟨hsent, hseq, hdec, hgrant, -, -, -, hrest⟩ := (issue_issued _ _ _).granted hx m false ht
  exact ⟨hsent, hseq, hdec, hgrant, hrest⟩

/-- A ratio that is sent is due no more. -/
theorem votesRatio_spec {d : Decision} (hd : s.ratioDec m b = some d) {t : State} (ht : t = s.votesRatio m b d) :
    SentDecisions s t (s.stampDec d 1) none ∧ t.cad.root.ratioDue = none ∧
    t.cad.root.seq = (s.cad.root.seq + 1) % 65536 ∧ t.cad.root.decided = m ∧
    t.cad.grant = (if s.cad.grant.toNat < m.toNat then m else s.cad.grant) ∧ t.time = s.time ∧ t.fab.ram = s.fab.ram := by
  have hdue : (s.ratioAt b).isSome = true := by
    obtain ⟨k, hk, -⟩ := Option.map_eq_some_iff.1 hd
    exact Option.isSome_of_eq_some hk
  obtain ⟨hsent, hseq, hdec, hgrant, hdone, -, -, hrest⟩ := (issue_issued _ _ _).granted (ratioSent_of_due hdue) m false ht
  exact ⟨hsent, hdone, hseq, hdec, hgrant, hrest⟩

theorem votesGrant_eq (hs : s.cad.root.stopCmd = false) (hh : s.cad.root.holdCmd = false) :
    s.votesGrant m = { s with cad := { s.cad with
      grant := if s.cad.grant.toNat < m.toNat then m else s.cad.grant,
      root := { s.cad.root with decided := m, endCmd := false } } } := by
  simp only [State.votesGrant, State.decidedAt, State.grantUpTo, hs, hh, Bool.false_eq_true, if_false]

theorem launches_spec (c : RootCmd) {t : State} (ht : t = s.launches c) :
    SentDecisions s t (s.stampDec (launchDecision c (s.cmdTarget c)) 1)
      ((s.ratioDec (s.cmdTarget c) c.ns).map fun d => s.stampDec d 2) ∧
    t.cad.root.cmd = none ∧ t.cad.root.noGrant = false ∧ t.cad.root.decided = s.cmdTarget c ∧
    t.cad.grant = (if s.cad.grant.toNat < (s.cmdTarget c).toNat then s.cmdTarget c else s.cad.grant) ∧
    t.time = s.time ∧ t.fab.ram = s.fab.ram := by
  obtain ⟨x, hx⟩ := ratioSent_marked s c.ns
  have hmark : (s.ratioSent c.ns).marked (s.ratioSent c.ns).cad.root.ratioDue false = s.marked x false := by
    rw [hx]
    rfl
  obtain ⟨hsent, -, hdec, hgrant, -, hright, hused, hrest⟩ := (issue_issued _ _ _).granted hmark (s.cmdTarget c) true ht
  exact ⟨hsent, hused rfl, hright, hdec, hgrant, hrest⟩

end

/-- Settles O18: a cutoff by what it finds, a vote by the rows of R111 in their order, and a command by the one row that
carries it out. -/
theorem cutoffsDecideAndVotesGrant : Obligations.CutoffsDecideAndVotesGrant := by
  unfold Obligations.CutoffsDecideAndVotesGrant
  refine ⟨fun s m b ha hn => ⟨fun hb => congrArg Host.Outcome.next (doCutoff_of_early hn hb),
      fun o hc ho hb => congrArg Host.Outcome.next (doCutoff_of_taken hn hc ho ha hb),
      fun hb ht => ⟨fun hc hs => ?stop, fun hc => ?conflict, fun hs hc hh => ?hold, fun hs hc hh hmiss => ?miss,
        fun hs hc hh hg hseq hph => ?fire⟩⟩,
    fun s h => congrArg Host.Outcome.next (doVoteInstant_of_other h),
    fun s p m b w stops hp hm hb hw hstops => ?run, fun s c m hp hrest hc hm => ?command⟩
  case stop => exact congrArg Host.Outcome.next (doCutoff_of_decided ha hn hb ht (cutOf_of_stop hc hs) (by decide) rfl)
  case conflict =>
    have ho := cutOf_of_conflict hc
    obtain ⟨hcad, hdisarm, hflag⟩ := takeCut_of_missed ho rfl
    refine ⟨_, congrArg Host.Outcome.next (doCutoff_of_not_fire ha hn hb ht (by simp [ho])), hcad, hdisarm, hflag, ?_⟩
    rw [takeCut_cad]
    exact takeCut_onlyEvents_of_conflict ho
  case hold => exact congrArg Host.Outcome.next (doCutoff_of_decided ha hn hb ht (cutOf_of_hold hc hs hh) (by decide) rfl)
  case miss =>
    have ho : s.cutOf m = .hold 2 := (cutOf_of_free hc hs hh).trans (if_pos (missedAt_of_any hmiss))
    obtain ⟨hcad, hdisarm, hflag⟩ := takeCut_of_missed ho rfl
    exact ⟨_, congrArg Host.Outcome.next (doCutoff_of_not_fire ha hn hb ht (by simp [ho])), hcad, hdisarm, hflag,
      (takeCut_onlyCuts s m).2⟩
  case fire =>
    have ho : s.cutOf m = .fire :=
      (cutOf_of_free hc hs hh).trans (if_neg (Bool.eq_false_iff.1 (missedAt_of_none hg hseq hph)))
    exact ⟨_, rfl, doCutoff_of_fire ha hn hb ht ho rfl⟩
  case run =>
    subst hm hb hw
    have hends : stops ↔ p.stops s.cad.root.endCmd = true := hstops.trans (p.stops_iff _).symm
    refine ⟨fun hv => congrArg Host.Outcome.next (doVoteInstant_of_run_early hp hv), fun hr ha hi hcore hv hg => ?_⟩
    have hvote : exec .voteInstant s = .next (s.voteRun p) :=
      congrArg Host.Outcome.next (doVoteInstant_of_run ⟨hr, ha, hi, hcore⟩ hp hv hg)
    have hno : ¬ stops → p.stops s.cad.root.endCmd = false := fun hgo => Bool.eq_false_iff.2 fun h => hgo (hends.2 h)
    refine ⟨fun k held ends hheld hlast hrow => ?_, fun hs hh hslow => ⟨fun hstop hsucc harm => ?_, fun d hgo hd => ?_,
      fun hgo hd => ?_⟩⟩
    · rw [hends] at hlast hrow
      exact ⟨_, hvote, votesStop_or_votesHold_spec s _ (voteRun_of_ungranted hheld hlast hrow)⟩
    · exact ⟨_, hvote, votesPhase_spec s _ _ _ (voteRun_of_phase hs hh hslow (hends.1 hstop) hsucc harm)⟩
    · exact ⟨_, hvote, votesRatio_spec s _ _ hd (voteRun_of_ratio hs hh hslow (hno hgo) hd)⟩
    · exact hvote.trans (congrArg Host.Outcome.next
        ((voteRun_of_grant hs hh hslow (hno hgo) hd).trans (votesGrant_eq s _ hs hh)))
  case command =>
    subst hm
    refine ⟨fun hv => congrArg Host.Outcome.next (doVoteInstant_of_cmd_early hp hrest hc hv),
      fun hr ha hi hcore hv hs hh harm hslow => ?_⟩
    have hvote : exec .voteInstant s = .next (s.voteCmd c) :=
      congrArg Host.Outcome.next (doVoteInstant_of_cmd ⟨hr, ha, hi, hcore⟩ hp hrest hc hv)
    exact ⟨_, hvote, launches_spec s c (voteCmd_of_launch hs hh harm fun hres => hslow hres _ rfl)⟩

end Sys2Proof.Machine
end

section
/-! PROOFS. What completing waits and firing registrations changes, the evaluation of a sprocket, and the order of SIGNALs
(R134 to R136, R141, R145). -/

namespace Sys2Proof.Machine

/-! ### Status bits that are set without an event -/

theorem setBit_onlyRegs (s : State) (f : Fld) : OnlyRegs [f.reg] s (s.setBit f) :=
  ⟨rfl, fun a ha => State.reg_setReg_ne s f.reg a _ (by simpa using ha)⟩

theorem State.flag_setBit_ne_reg (s : State) (f g : Fld) (h : g.reg ≠ f.reg) : (s.setBit f).flag g = s.flag g := by
  simp only [State.flag, State.setBit, State.fld_setFld_ne_reg s f g 1 h]

theorem cmdDone_onlyRegs (s : State) : OnlyRegs [Reg.SPK_CMD_STATUS] s s.cmdDone := setBit_onlyRegs s _
theorem cmdRefused_onlyRegs (s : State) : OnlyRegs [Reg.SPK_CMD_STATUS] s s.cmdRefused := setBit_onlyRegs s _

@[simp] theorem flag_cmdDone (s : State) : s.cmdDone.flag Fld.SPK_CMD_STATUS_DONE = true :=
  State.flag_setBit s _ (by decide) (by decide)

@[simp] theorem flag_cmdRefused (s : State) : s.cmdRefused.flag Fld.SPK_CMD_STATUS_REFUSED = true :=
  State.flag_setBit s _ (by decide) (by decide)

/-! ### The frame of a completion -/

/-- `t` is `s` but for what completing operations changes: what the contexts' pages show, and what recording events
changes. -/
def OnlyCompletes (s t : State) : Prop := OnlyEvents [] { s with spk := { s.spk with ctxs := t.spk.ctxs } } t

section

variable {s t u : State}

theorem OnlyCompletes.refl (s : State) : OnlyCompletes s s := OnlyEvents.refl _ s

theorem OnlyEvents.onlyCompletes (h : OnlyEvents [] s t) : OnlyCompletes s t := ⟨by rw [h.1], h.2⟩

theorem OnlyCompletes.trans (h : OnlyCompletes s t) (k : OnlyCompletes t u) : OnlyCompletes s u := by
  obtain ⟨heq, hreg⟩ := h
  obtain ⟨keq, kreg⟩ := k
  refine ⟨?_, fun a ha hq => (kreg a ha hq).trans (hreg a ha hq)⟩
  rw [keq, heq]

/-- Many completions, one after the other. -/
theorem OnlyCompletes.foldl {α : Type} {f : State → α → State} (hf : ∀ t x, OnlyCompletes t (f t x)) (l : List α)
    (s : State) : OnlyCompletes s (l.foldl f s) :=
  List.foldlRecOn l f (motive := OnlyCompletes s) (.refl s) fun t h x _ => h.trans (hf t x)

theorem OnlyCompletes.frame (h : OnlyCompletes s t) :
    OnlyEvents [] { s with spk := { s.spk with ctxs := t.spk.ctxs } } t := h
theorem OnlyCompletes.spk_eq (h : OnlyCompletes s t) : t.spk = { s.spk with ctxs := t.spk.ctxs } := h.frame.spk_eq
theorem OnlyCompletes.ident_eq (h : OnlyCompletes s t) : t.ident = s.ident := h.frame.ident_eq
theorem OnlyCompletes.time_eq (h : OnlyCompletes s t) : t.time = s.time := h.frame.time_eq
theorem OnlyCompletes.nvs_eq (h : OnlyCompletes s t) : t.nvs = s.nvs := h.frame.nvs_eq
theorem OnlyCompletes.ram_eq (h : OnlyCompletes s t) : t.fab.ram = s.fab.ram := h.frame.ram_eq
theorem OnlyCompletes.waits_eq (h : OnlyCompletes s t) : t.spk.waits = s.spk.waits := by rw [h.spk_eq]
theorem OnlyCompletes.notifs_eq (h : OnlyCompletes s t) : t.spk.notifs = s.spk.notifs := by rw [h.spk_eq]
theorem OnlyCompletes.vals_eq (h : OnlyCompletes s t) : t.spk.vals = s.spk.vals := by rw [h.spk_eq]
theorem OnlyCompletes.info_eq (h : OnlyCompletes s t) : t.spk.info = s.spk.info := by rw [h.spk_eq]

end

theorem recordKept_onlyEvents (s : State) (code : Nat) (a0 a1 : W) (id : QId) :
    OnlyEvents [] s (s.recordKept code a0 a1 id) := by
  unfold State.recordKept
  dsimp only
  split
  · exact OnlyEvents.trans (t := s.countRec (s.mkRec code a0 a1)) ⟨rfl, fun _ _ _ => rfl⟩ (place_onlyEvents _ _ _)
  · exact ⟨rfl, fun _ _ _ => rfl⟩

theorem notifyFire_onlyEvents (s : State) (n : Notify) (status : Nat) (v : W) :
    OnlyEvents [] s (s.notifyFire n status v) := recordKept_onlyEvents s _ _ _ _

/-- A host page shows how an operation ended, and a WAIT writes its record; any other source gets a response. -/
theorem spkDone_onlyCompletes (s : State) (src : SpkSrc) (kind ctx id tag no status : Nat) (v : W) :
    OnlyCompletes s (s.spkDone src kind ctx id tag no status v) := by
  cases src with
  | hostPage =>
    refine iteInduction (motive := OnlyCompletes s) (fun _ => ?record) fun _ => ⟨rfl, fun _ _ _ => rfl⟩
    exact OnlyCompletes.trans ⟨rfl, fun _ _ _ => rfl⟩ (recordKept_onlyEvents _ _ _ _ _).onlyCompletes
  | vsuPort p => exact ⟨rfl, fun _ _ _ => rfl⟩
  | core c => exact ⟨rfl, fun _ _ _ => rfl⟩
  | diePort d => exact ⟨rfl, fun _ _ _ => rfl⟩

theorem waitDone_onlyCompletes (s : State) (w : Wait) (status : Nat) (v : W) :
    OnlyCompletes s (s.waitDone w status v) := spkDone_onlyCompletes s _ _ _ _ _ _ _ _

/-! ### Evaluation of a sprocket (R141, R145) -/

/-- Does a sprocket's present value release a wait: it waits on it, not for an owner that is lost, and has been reached. -/
def State.releases (s : State) (p : Nat) (w : Wait) : Bool :=
  w.phys == p && !w.lost && reachedIn w.view32 (s.spkVal p) w.expected

/-- Does a sprocket's present value fire a registration that no save engine holds. -/
def State.fires (s : State) (p : Nat) (n : Notify) : Bool :=
  n.phys == p && !n.lost && !s.saving n.ctx && reachedIn n.view32 (s.spkVal p) n.threshold

theorem releases_iff (s : State) (p : Nat) (w : Wait) : s.releases p w = true ↔
    w.phys = p ∧ w.lost = false ∧ reachedIn w.view32 (s.spkVal p) w.expected = true := by
  simp [State.releases, and_assoc]

theorem fires_iff {s : State} (p : Nat) {n : Notify} (h : s.saving n.ctx = false) : s.fires p n = true ↔
    n.phys = p ∧ n.lost = false ∧ reachedIn n.view32 (s.spkVal p) n.threshold = true := by
  simp [State.fires, h, and_assoc]

/-- What stays when everything of a kind is taken away. -/
theorem mem_filter_not_iff {α : Type} {f : α → Bool} {P : Prop} {l : List α} {x : α} (h : f x = true ↔ P) :
    x ∈ l.filter (fun y => !f y) ↔ x ∈ l ∧ ¬ P := by
  simp [List.mem_filter, ← h]

section

variable (s : State) (p : Nat)

/-- The evaluation takes away what the value releases and fires, takes up the completion of steps, and completes the waits
and registrations it took away. -/
theorem wake_spec : OnlyCompletes { s with
    spk := { s.spk with
      waits := s.spk.waits.filter fun w => !s.releases p w, notifs := s.spk.notifs.filter fun n => !s.fires p n },
    cad := (s.wake p).cad } (s.wake p) := by
  have hdone : OnlyCompletes { s with spk := { s.spk with
      waits := s.spk.waits.filter fun w => !s.releases p w, notifs := s.spk.notifs.filter fun n => !s.fires p n } }
      ((s.spk.notifs.filter (s.fires p)).foldl (fun t n => t.notifyFire n 0 (s.spkVal p))
        ((s.spk.waits.filter (s.releases p)).foldl (fun t w => t.waitDone w 0 (s.spkVal p)) { s with spk := { s.spk with
          waits := s.spk.waits.filter fun w => !s.releases p w, notifs := s.spk.notifs.filter fun n => !s.fires p n } })) :=
    (OnlyCompletes.foldl (fun t w => waitDone_onlyCompletes t w 0 _) _ _).trans
      (OnlyCompletes.foldl (fun t n => (notifyFire_onlyEvents t n 0 _).onlyCompletes) _ _)
  exact ⟨congrArg (fun t : State => { t with cad := (s.wake p).cad }) hdone.1, hdone.2⟩

theorem wake_waits : (s.wake p).spk.waits = s.spk.waits.filter fun w => !s.releases p w := (wake_spec s p).waits_eq
theorem wake_notifs : (s.wake p).spk.notifs = s.spk.notifs.filter fun n => !s.fires p n := (wake_spec s p).notifs_eq
@[simp] theorem wake_vals : (s.wake p).spk.vals = s.spk.vals := (wake_spec s p).vals_eq
@[simp] theorem wake_info : (s.wake p).spk.info = s.spk.info := (wake_spec s p).info_eq
@[simp] theorem wake_ident : (s.wake p).ident = s.ident := (wake_spec s p).ident_eq
@[simp] theorem wake_time : (s.wake p).time = s.time := (wake_spec s p).time_eq
@[simp] theorem wake_nvs : (s.wake p).nvs = s.nvs := (wake_spec s p).nvs_eq
@[simp] theorem wake_ram : (s.wake p).fab.ram = s.fab.ram := (wake_spec s p).ram_eq
@[simp] theorem spkVal_wake (q : Nat) : (s.wake p).spkVal q = s.spkVal q := by simp [State.spkVal]

end

/-! ### SIGNALs in any order (R134, R136) -/

/-- One increment, as it changes the value of sprocket `q` in a unit whose sprockets have 32 bits or 64. -/
def incremented (fore : Bool) (q : Nat) (v : W) (e : Nat × Nat) : W :=
  if e.1 = q then (if fore then BitVec.ofNat 64 ((v.toNat + e.2) % 2 ^ 32) else v + BitVec.ofNat 64 e.2) else v

theorem spkVal_applySignal (s : State) (p inc q : Nat) :
    (s.applySignal p inc).spkVal q = incremented s.isFore q (s.spkVal q) (p, inc) := by
  rw [State.applySignal, spkVal_wake]
  by_cases h : p = q
  · subst h
    simp [incremented, State.incVal]
  · simp [incremented, h, State.spkVal_setVal_ne _ _ _ _ (Ne.symm h)]

theorem isFore_applySignal (s : State) (p inc : Nat) : (s.applySignal p inc).isFore = s.isFore := by
  simp only [State.isFore, State.applySignal, wake_ident]
  rfl

/-- The value after a list of SIGNALs is that of their increments. -/
theorem spkVal_foldl_applySignal (l : List (Nat × Nat)) (s : State) (q : Nat) :
    (l.foldl (fun t e => t.applySignal e.1 e.2) s).spkVal q = l.foldl (incremented s.isFore q) (s.spkVal q) := by
  induction l generalizing s with
  | nil => rfl
  | cons e l ih => rw [List.foldl_cons, ih, isFore_applySignal, spkVal_applySignal, List.foldl_cons]

theorem incremented_rightCommutative (fore : Bool) (q : Nat) : RightCommutative (incremented fore q) := by
  refine ⟨fun v a b => ?_⟩
  unfold incremented
  by_cases ha : a.1 = q <;> by_cases hb : b.1 = q <;> simp only [ha, hb, if_true, if_false]
  cases fore with
  | false => exact add_right_comm v _ _
  | true =>
    apply BitVec.eq_of_toNat_eq
    simp only [if_true, BitVec.toNat_ofNat]
    omega

/-- Settles O22: each SIGNAL acts on a value as its increment does, and increments commute. -/
theorem incrementsCommute : Obligations.IncrementsCommute := by
  unfold Obligations.IncrementsCommute
  intro s l r hperm q
  have hcomm := incremented_rightCommutative s.isFore q
  rw [spkVal_foldl_applySignal, spkVal_foldl_applySignal, hperm.foldl_eq]

end Sys2Proof.Machine
end

section
/-! PROOFS. Commands on the selected physical sprocket (R133, R150, R154, R157, R163). -/

namespace Sys2Proof.Machine

section

variable {s : State} {ok : Nat → SpkMeta → Bool} {f : SpkMeta → SpkMeta}

theorem physCmd_of_ok (ha : s.awake = true) (hf : s.isFore = false) (hp : s.selPhys < s.nSpk)
    (hok : ok s.selPhys (s.meta s.selPhys) = true) :
    s.physCmd ok f = (s.setMeta s.selPhys (f (s.meta s.selPhys))).cmdDone := by
  simp [State.physCmd, ha, hf, hp, hok]

theorem physCmd_of_not_ok (ha : s.awake = true) (hf : s.isFore = false)
    (hok : ok s.selPhys (s.meta s.selPhys) = false) : s.physCmd ok f = s.cmdRefused := by
  simp [State.physCmd, ha, hf, hok]

/-- What a command says that `State.physCmd` carries out. -/
theorem physCmd_acts_or_refuses {c : Instr} (hc : exec c s = .next (s.physCmd ok f)) (ha : s.awake = true)
    (hf : s.isFore = false) (hp : s.selPhys < s.nSpk) :
    (ok s.selPhys (s.meta s.selPhys) = true → ∃ t, exec c s = .next t ∧ t.meta s.selPhys = f (s.meta s.selPhys) ∧
      (∀ q, q ≠ s.selPhys → t.meta q = s.meta q) ∧ t.flag Fld.SPK_CMD_STATUS_DONE = true ∧
      OnlyRegs [Reg.SPK_CMD_STATUS] { s with spk := { s.spk with info := t.spk.info } } t) ∧
    (ok s.selPhys (s.meta s.selPhys) = false → ∃ t, exec c s = .next t ∧ t.flag Fld.SPK_CMD_STATUS_REFUSED = true ∧
      OnlyRegs [Reg.SPK_CMD_STATUS] s t) := by
  refine ⟨fun h => ⟨_, hc, ?_⟩, fun h => ⟨_, hc, ?_⟩⟩
  · rw [physCmd_of_ok ha hf hp h]
    exact ⟨State.meta_setMeta_self s _ _, fun q hq => State.meta_setMeta_ne s _ q _ hq, flag_cmdDone _,
      cmdDone_onlyRegs _⟩
  · rw [physCmd_of_not_ok ha hf h]
    exact ⟨flag_cmdRefused s, cmdRefused_onlyRegs s⟩

theorem doPhysZero_of_idle (ha : s.awake = true) (hf : s.isFore = false) (hp : s.selPhys < s.nSpk) (hi : s.cad.st = .idle) :
    s.doPhysZero = ((s.setVal s.selPhys 0).wake s.selPhys).cmdDone := by
  simp [State.doPhysZero, ha, hf, hp, hi]

theorem doPhysZero_of_not_idle (ha : s.awake = true) (hf : s.isFore = false) (hi : s.cad.st ≠ .idle) :
    s.doPhysZero = s.cmdRefused := by
  simp [State.doPhysZero, ha, hf, hi]

end

/-- Settles O26: the six commands are `State.physCmd` with a condition and a change each; ZERO sets the value and
evaluates the sprocket. -/
theorem physicalSprocketCommands : Obligations.PhysicalSprocketCommands := by
  unfold Obligations.PhysicalSprocketCommands
  intro s p m ha hf hsel hp hm
  subst hsel hm
  refine ⟨fun c ok m' h => ?command, fun hi => ?zero, fun hi => ?refused⟩
  case command =>
    simp only [Prod.mk.injEq] at h
    rcases h with ⟨rfl, rfl, rfl⟩ | ⟨rfl, rfl, rfl⟩ | ⟨rfl, rfl, rfl⟩ | ⟨rfl, rfl, rfl⟩ | ⟨rfl, rfl, rfl⟩ | ⟨rfl, rfl, rfl⟩
    case inl => exact physCmd_acts_or_refuses (c := .physAlloc) rfl ha hf hp
    case inr.inl => exact physCmd_acts_or_refuses (c := .physEvict) rfl ha hf hp
    case inr.inr.inl => exact physCmd_acts_or_refuses (c := .physAdopt) rfl ha hf hp
    case inr.inr.inr.inl => exact physCmd_acts_or_refuses (c := .shareInc) rfl ha hf hp
    case inr.inr.inr.inr.inl => exact physCmd_acts_or_refuses (c := .shareDec) rfl ha hf hp
    case inr.inr.inr.inr.inr => exact physCmd_acts_or_refuses (c := .physFree) rfl ha hf hp
  case zero =>
    refine ⟨_, congrArg Host.Outcome.next (doPhysZero_of_idle ha hf hp hi), ?_, fun q hq => ?_, ?_, flag_cmdDone _, ?_⟩
    · exact (spkVal_wake _ _ _).trans (State.spkVal_setVal_self s _ 0)
    · exact (spkVal_wake _ _ q).trans (State.spkVal_setVal_ne s _ q 0 hq)
    · exact wake_info _ _
    · exact wake_ram _ _
  case refused =>
    exact ⟨_, congrArg Host.Outcome.next (doPhysZero_of_not_idle ha hf hi), flag_cmdRefused s, cmdRefused_onlyRegs s⟩

end Sys2Proof.Machine
end

section
/-! PROOFS. Sprocket operations: how each completes on a LIVE sprocket of the unit, what a lantern core's operation comes to,
and the read of a translation entry by a VSU (R134 to R148, R443, R459, R497). -/

namespace Sys2Proof.Machine

/-! ### The kind of unit -/

theorem isFore_of_isVd {s : State} (h : s.isVd = true) : s.isFore = false := by
  simp only [State.isVd, beq_iff_eq] at h
  simp [State.isFore, h]

theorem nCtx_of_isVd {s : State} (h : s.isVd = true) : s.nCtx = 256 := by
  simp only [State.isVd, beq_iff_eq] at h
  simp [State.nCtx, h, Config.contexts]

theorem nSpk_of_isVd {s : State} (h : s.isVd = true) : s.nSpk = 65536 := by
  simp only [State.isVd, beq_iff_eq] at h
  simp [State.nSpk, h, Config.sprockets]

theorem nSpk_of_isVsu {s : State} (h : s.isVsu = true) : s.nSpk = 16384 := by
  simp only [State.isVsu, beq_iff_eq] at h
  simp [State.nSpk, h, Config.sprockets]

/-! ### Operations on a LIVE sprocket of the unit (R137) -/

theorem opWith_of_local {s : State} {o : SpkOp} {e : W} (h : xKind e = 1) :
    s.opWith o e = s.opLocal o (xPhys e) (xRight e o.kind) (view32Of o.src e) := by
  simp [State.opWith, h]

/-- Only SIGNAL and READ cross the hall (R139). -/
theorem opWith_of_remote {s : State} {o : SpkOp} {e : W} (h : xKind e = 2 ∨ xKind e = 3) (h0 : o.kind ≠ 0)
    (h2 : o.kind ≠ 2) : s.opWith o e = s.opDone o 6 0 := by
  rcases h with h | h <;> simp [State.opWith, h, h0, h2]

section

variable {s : State} {o : SpkOp} {p : Nat} {v32 : Bool} (hp : p < s.nSpk) (hl : (s.meta p).st = .live)

include hp hl

theorem opLocal_signal (hk : o.kind = 0) : s.opLocal o p true v32 =
    (s.signalIn p o.val.toNat (dieOf o.src) false none).opDone o 0
      (viewOf v32 ((s.signalIn p o.val.toNat (dieOf o.src) false none).spkVal p)) := by
  simp [State.opLocal, Nat.not_le.2 hp, hl, hk]

theorem opLocal_wait (hk : o.kind = 1) : s.opLocal o p true v32 = s.opWait o p v32 := by
  simp [State.opLocal, Nat.not_le.2 hp, hl, hk]

theorem opLocal_read (hk : o.kind = 2) : s.opLocal o p true v32 = s.opDone o 0 (viewOf v32 (s.spkVal p)) := by
  simp [State.opLocal, Nat.not_le.2 hp, hl, hk]

theorem opLocal_notify (hk : o.kind = 3) : s.opLocal o p true v32 = s.opNotify o p v32 := by
  simp [State.opLocal, Nat.not_le.2 hp, hl, hk]

theorem opLocal_cancel (hk : o.kind = 4) : s.opLocal o p true v32 = s.opCancel o := by
  simp [State.opLocal, Nat.not_le.2 hp, hl, hk]

end

/-- A SIGNAL from another source than a die port is applied while no rejected tile is held (R239). -/
theorem signalIn_of_not_holds {s : State} (h : s.holdsRejected = false) (p inc : Nat) (gated : Bool)
    (ack : Option (Nat × Nat × Nat)) : s.signalIn p inc none gated ack = s.applySignal p inc := by
  simp [State.signalIn, h]

section

variable {s : State} {o : SpkOp} {p : Nat} {v32 : Bool}

theorem opWait_of_reached (h : reachedIn v32 (s.spkVal p) o.val = true) :
    s.opWait o p v32 = s.opDone o 0 (viewOf v32 (s.spkVal p)) := by
  simp [State.opWait, h]

theorem opWait_of_passed (h : reachedIn v32 (s.spkVal p) o.val = false) (hd : o.dl ≠ BitVec.allOnes 64)
    (ht : o.dl.toNat ≤ s.htNs.toNat) : s.opWait o p v32 = s.opDone o 1 (viewOf v32 (s.spkVal p)) := by
  have hpassed : (o.dl ≠ BitVec.allOnes 64 && decide (o.dl.toNat ≤ s.htNs.toNat)) = true :=
    Bool.and_eq_true_iff.2 ⟨decide_eq_true hd, decide_eq_true ht⟩
  simp only [State.opWait, h, hpassed, Bool.false_eq_true, if_false, if_true]

/-- A wait that is neither released nor too late pends where there is room. -/
theorem opWait_of_ahead (h : reachedIn v32 (s.spkVal p) o.val = false)
    (hd : o.dl = BitVec.allOnes 64 ∨ s.htNs.toNat < o.dl.toNat) :
    s.opWait o p v32 = if s.waitFull o.src o.ctx then s.opBusy o else { s with spk := { s.spk with waits := s.spk.waits ++
      [{ src := o.src, ctx := o.ctx, id := o.id, phys := p, expected := o.val, deadline := o.dl, tag := o.tag,
         view32 := v32, no := o.no }] } } := by
  have hpend : (o.dl ≠ BitVec.allOnes 64 && decide (o.dl.toNat ≤ s.htNs.toNat)) = false := by
    rcases hd with hd | hd
    · simp [hd]
    · simp [Nat.not_le.2 hd]
  simp only [State.opWait, h, hpend, Bool.false_eq_true, if_false]

theorem opNotify_of_ahead (h : reachedIn v32 (s.spkVal p) o.val = false) (hn : s.notifyFull o.ctx = false) :
    s.opNotify o p v32 = ({ s with spk := { s.spk with notifs := s.spk.notifs ++
      [⟨o.ctx, o.id, o.tag, o.val, p, v32, false⟩] } } : State).opDone o 0 (viewOf v32 (s.spkVal p)) := by
  simp [State.opNotify, h, hn]

/-- Does a cancel name a registration. -/
def SpkOp.cancels (o : SpkOp) (n : Notify) : Bool := n.ctx == o.ctx && n.id == o.id && n.tag == o.tag

theorem SpkOp.cancels_iff {n : Notify} : o.cancels n = true ↔ n.ctx = o.ctx ∧ n.id = o.id ∧ n.tag = o.tag := by
  simp [SpkOp.cancels, and_assoc]

theorem opCancel_of_mem {n : Notify} (h : n ∈ s.spk.notifs) (hn : o.cancels n = true) :
    s.opCancel o =
      ({ s with spk := { s.spk with notifs := s.spk.notifs.filter fun n => !o.cancels n } } : State).opDone o 9 0 :=
  if_pos (List.any_eq_true.2 ⟨n, h, hn⟩)

theorem opCancel_of_none (h : ∀ n ∈ s.spk.notifs, o.cancels n = false) : s.opCancel o = s.opDone o 4 0 :=
  if_neg (Bool.eq_false_iff.1 (List.any_eq_false.2 fun n hn => Bool.eq_false_iff.1 (h n hn)))

end

/-! ### Operations of a lantern core -/

/-- An operation as a lantern core issues it. -/
def coreOp (kind c ctx id tag : Nat) (val dl : W) : SpkOp := { kind, src := .core c, ctx, id, val, dl, tag }

/-- The status of an operation in a context that is not ACTIVE (R497). -/
def inactiveStatus : CtxState → Nat
  | .saved => 3
  | .reset => 2
  | _ => 4

section

variable {s : State} {c ctx id tag : Nat}

@[simp] theorem opDone_coreOp (kind status : Nat) (val dl v : W) : s.opDone (coreOp kind c ctx id tag val dl) status v =
    { s with out := s.out ++ [.spkDone (.core c) kind tag status v] } := rfl

/-- The five commands, as `State.spkOp` takes them from a core. -/
theorem exec_spkSignal_core (ht : tag < 65536) (inc : W) : exec (.spkSignal ⟨.core c, tag, 0⟩ ctx id inc) s =
    .next (s.spkOp (coreOp 0 c ctx (id % 4096) tag inc 0)) :=
  congrArg (fun t => Host.Outcome.next (s.spkOp (coreOp 0 c ctx (id % 4096) t inc 0))) (Nat.mod_eq_of_lt ht)

theorem exec_spkWait_core (ht : tag < 65536) (e dl : W) : exec (.spkWait (.core c) ctx id e dl tag) s =
    .next (s.spkOp (coreOp 1 c ctx (id % 4096) tag e dl)) :=
  congrArg (fun t => Host.Outcome.next (s.spkOp (coreOp 1 c ctx (id % 4096) t e dl))) (Nat.mod_eq_of_lt ht)

theorem exec_spkRead_core (ht : tag < 65536) : exec (.spkRead (.core c) ctx id tag) s =
    .next (s.spkOp (coreOp 2 c ctx (id % 4096) tag 0 0)) :=
  congrArg (fun t => Host.Outcome.next (s.spkOp (coreOp 2 c ctx (id % 4096) t 0 0))) (Nat.mod_eq_of_lt ht)

theorem exec_spkNotify_core (ht : tag < 65536) (th : W) : exec (.spkNotify (.core c) ctx id th tag) s =
    .next (s.spkOp (coreOp 3 c ctx (id % 4096) tag th 0)) :=
  congrArg (fun t => Host.Outcome.next (s.spkOp (coreOp 3 c ctx (id % 4096) t th 0))) (Nat.mod_eq_of_lt ht)

theorem exec_spkNotifyCancel_core (ht : tag < 65536) : exec (.spkNotifyCancel (.core c) ctx id tag) s =
    .next (s.spkOp (coreOp 4 c ctx (id % 4096) tag 0 0)) :=
  congrArg (fun t => Host.Outcome.next (s.spkOp (coreOp 4 c ctx (id % 4096) t 0 0))) (Nat.mod_eq_of_lt ht)

/-- An operation in an ACTIVE context goes on with its translation entry; a SIGNAL only with an argument in its range. -/
theorem spkOp_of_active (h : s.CoreActive c ctx) {kind : Nat} {val dl : W}
    (hval : kind = 0 → 0 < val.toNat ∧ val.toNat < 2 ^ 32) :
    s.spkOp (coreOp kind c ctx id tag val dl) = s.opWith (coreOp kind c ctx id tag val dl) (s.entryOf ctx id) := by
  obtain ⟨hv, ha, hc, hctx, hact, hjob⟩ := h
  have harg : ¬ (kind = 0 ∧ (val.toNat = 0 ∨ 2 ^ 32 ≤ val.toNat)) := fun ⟨hk, hbad⟩ => by
    have := hval hk
    omega
  simp [State.spkOp, State.spkTake, State.numbered, State.srcOk, coreOp, State.entryOf, ha, hv, hc, isFore_of_isVd hv,
    nCtx_of_isVd hv, Nat.not_le.2 hctx, hact, hjob, harg, -Nat.reducePow]

theorem spkOp_of_zero (h : s.CoreActive c ctx) {dl : W} :
    s.spkOp (coreOp 0 c ctx id tag 0 dl) = s.opDone (coreOp 0 c ctx id tag 0 dl) 7 0 := by
  obtain ⟨hv, ha, hc, hctx, hact, hjob⟩ := h
  simp [State.spkOp, State.spkTake, State.numbered, State.srcOk, coreOp, ha, hv, hc, isFore_of_isVd hv,
    nCtx_of_isVd hv, Nat.not_le.2 hctx, hact, hjob]

theorem spkOp_of_inactive (hv : s.isVd = true) (ha : s.awake = true) (hc : c < 4) (hctx : ctx < 256)
    (hst : (s.ctx ctx).st ≠ .active) (kind : Nat) (val dl : W) : s.spkOp (coreOp kind c ctx id tag val dl) =
      s.opDone (coreOp kind c ctx id tag val dl) (inactiveStatus (s.ctx ctx).st) 0 := by
  simp [State.spkOp, State.spkTake, State.numbered, State.srcOk, coreOp, ha, hv, hc, isFore_of_isVd hv,
    nCtx_of_isVd hv, Nat.not_le.2 hctx]
  generalize (s.ctx ctx).st = st at hst ⊢
  cases st with
  | active => exact absurd rfl hst
  | free => rfl
  | saved => rfl
  | reset => rfl

/-- An operation whose entry names a LIVE sprocket of the unit, with the right that it needs. -/
theorem spkOp_of_localOp {kind p : Nat} (h : s.LocalOp c ctx id kind p) {val dl : W}
    (hval : kind = 0 → 0 < val.toNat ∧ val.toNat < 2 ^ 32) : s.spkOp (coreOp kind c ctx (id % 4096) tag val dl) =
      s.opLocal (coreOp kind c ctx id tag val dl) p true ((s.entryOf ctx id).getLsbD 39) := by
  obtain ⟨hact, hid, hkind, hright, hphys, -⟩ := h
  subst hphys
  rw [Nat.mod_eq_of_lt hid, spkOp_of_active hact hval, opWith_of_local hkind]
  exact congrArg (fun r => s.opLocal _ _ r _) hright

theorem State.LocalOp.lt_nSpk {kind p : Nat} (h : s.LocalOp c ctx id kind p) : p < s.nSpk := by
  obtain ⟨⟨hv, -⟩, -, -, -, rfl, -⟩ := h
  rw [nSpk_of_isVd hv]
  exact Nat.mod_lt _ (by decide)

theorem State.LocalOp.live {kind p : Nat} (h : s.LocalOp c ctx id kind p) : (s.meta p).st = .live := h.2.2.2.2.2

end

end Sys2Proof.Machine
end

section
/-! PROOFS. The operations of lantern cores and the fill of a VSU's port, as the manual states them (R134 to R148, R443, R459,
R497). -/

namespace Sys2Proof.Machine

/-! ### SIGNAL -/

section

variable (s : State) (p inc : Nat)

@[simp] theorem applySignal_info : (s.applySignal p inc).spk.info = s.spk.info := wake_info _ _
@[simp] theorem applySignal_ram : (s.applySignal p inc).fab.ram = s.fab.ram := wake_ram _ _
@[simp] theorem applySignal_time : (s.applySignal p inc).time = s.time := wake_time _ _
@[simp] theorem applySignal_nvs : (s.applySignal p inc).nvs = s.nvs := wake_nvs _ _

theorem spkVal_applySignal_self : (s.applySignal p inc).spkVal p = s.incVal p inc :=
  (spkVal_wake _ _ _).trans (State.spkVal_setVal_self _ _ _)

theorem spkVal_applySignal_ne {q : Nat} (h : q ≠ p) : (s.applySignal p inc).spkVal q = s.spkVal q :=
  (spkVal_wake _ _ _).trans (State.spkVal_setVal_ne _ _ _ _ h)

/-- Exactly the waits that the new value has reached are released (R145). -/
theorem mem_waits_applySignal (w : Wait) : w ∈ (s.applySignal p inc).spk.waits ↔ w ∈ s.spk.waits ∧
    ¬ (w.phys = p ∧ w.lost = false ∧ reachedIn w.view32 (s.incVal p inc) w.expected = true) := by
  have hkept : (s.applySignal p inc).spk.waits =
      s.spk.waits.filter fun w => !(s.setVal p (s.incVal p inc)).releases p w := wake_waits _ _
  rw [hkept, mem_filter_not_iff (releases_iff _ p w), State.spkVal_setVal_self]

/-- While no save engine is at work, exactly the registrations whose threshold the new value has reached fire (R141). -/
theorem mem_notifs_applySignal (hjob : s.spk.job = none) (n : Notify) :
    n ∈ (s.applySignal p inc).spk.notifs ↔ n ∈ s.spk.notifs ∧
      ¬ (n.phys = p ∧ n.lost = false ∧ reachedIn n.view32 (s.incVal p inc) n.threshold = true) := by
  have hkept : (s.applySignal p inc).spk.notifs =
      s.spk.notifs.filter fun n => !(s.setVal p (s.incVal p inc)).fires p n := wake_notifs _ _
  have hsaving : (s.setVal p (s.incVal p inc)).saving n.ctx = false := by
    have hset : (s.setVal p (s.incVal p inc)).spk.job = none := hjob
    simp [State.saving, hset]
  rw [hkept, mem_filter_not_iff (fires_iff p hsaving), State.spkVal_setVal_self]

end

theorem incVal_of_isVd {s : State} (h : s.isVd = true) (p : Nat) (inc : W) : s.incVal p inc.toNat = s.spkVal p + inc := by
  simp [State.incVal, isFore_of_isVd h]

section

variable {s : State} {c ctx id p tag : Nat}

/-- A core's SIGNAL to a LIVE sprocket of the unit. -/
theorem exec_spkSignal_of_local (h : s.LocalOp c ctx id 0 p) (ht : tag < 65536) {inc : W} (h0 : 0 < inc.toNat)
    (h32 : inc.toNat < 2 ^ 32) (hr : s.holdsRejected = false) :
    exec (.spkSignal ⟨.core c, tag, 0⟩ ctx id inc) s = .next ((s.applySignal p inc.toNat).emit
      (.spkDone (.core c) 0 tag 0 (viewOf ((s.entryOf ctx id).getLsbD 39) (s.spkVal p + inc)))) := by
  have hval : s.incVal p inc.toNat = s.spkVal p + inc := incVal_of_isVd h.1.1 p inc
  have happ : s.signalIn p (coreOp 0 c ctx id tag inc 0).val.toNat (dieOf (coreOp 0 c ctx id tag inc 0).src) false none =
      s.applySignal p inc.toNat := signalIn_of_not_holds hr _ _ _ _
  rw [exec_spkSignal_core ht, spkOp_of_localOp h fun _ => ⟨h0, h32⟩, opLocal_signal h.lt_nSpk h.live rfl, happ,
    opDone_coreOp, spkVal_applySignal_self, hval]
  rfl

end

/-- Settles O21: the SIGNAL is applied and answered, and the rules of its evaluation say what it takes away. -/
theorem signalAddsAndReleasesReached : Obligations.SignalAddsAndReleasesReached := by
  unfold Obligations.SignalAddsAndReleasesReached
  intro s c ctx id p tag inc h ht
  obtain ⟨hv, -, -, -, -, hjob⟩ := h.1
  have hval : s.incVal p inc.toNat = s.spkVal p + inc := incVal_of_isVd hv p inc
  refine ⟨fun h0 h32 hr => ⟨_, exec_spkSignal_of_local h ht h0 h32 hr, ?_⟩, fun h0 => ?_⟩
  · rw [← hval]
    exact ⟨spkVal_applySignal_self s p _, fun q hq => spkVal_applySignal_ne s p _ hq, applySignal_info s p _,
      mem_waits_applySignal s p _, mem_notifs_applySignal s p _ hjob, by simp [hval], applySignal_ram s p _,
      applySignal_time s p _, applySignal_nvs s p _⟩
  · subst h0
    rw [exec_spkSignal_core ht, spkOp_of_zero h.1]
    rfl

/-! ### WAIT and its deadline -/

section

variable {s : State} {c ctx id p tag : Nat}

/-- A core's operation on a LIVE sprocket of the unit, with no argument to judge. -/
theorem spkOp_eq_opLocal {kind : Nat} (h : s.LocalOp c ctx id kind p) (hk : kind ≠ 0) (val dl : W) :
    s.spkOp (coreOp kind c ctx (id % 4096) tag val dl) =
      s.opLocal (coreOp kind c ctx id tag val dl) p true ((s.entryOf ctx id).getLsbD 39) :=
  spkOp_of_localOp h fun h0 => absurd h0 hk

theorem exec_spkWait_of_local (h : s.LocalOp c ctx id 1 p) (ht : tag < 65536) (e dl : W) :
    exec (.spkWait (.core c) ctx id e dl tag) s =
      .next (s.opWait (coreOp 1 c ctx id tag e dl) p ((s.entryOf ctx id).getLsbD 39)) := by
  rw [exec_spkWait_core ht, spkOp_eq_opLocal h (by decide), opLocal_wait h.lt_nSpk h.live rfl]

/-- Without room for one more wait the operation is BUSY (R143). -/
theorem opBusy_coreOp (kind : Nat) (val dl : W) {t : State} (ht : t = s.opBusy (coreOp kind c ctx id tag val dl)) :
    t.spk = s.spk ∧ t.flag Fld.SPK_STATUS_BUSY_SEEN = true ∧ t.out.getLast? = some (.spkDone (.core c) kind tag 8 0) ∧
      OnlyEvents [Reg.SPK_STATUS] s t := by
  have heq : t = (s.raise Fld.SPK_STATUS_BUSY_SEEN).emit (.spkDone (.core c) kind tag 8 0) := ht
  subst heq
  exact ⟨State.raise_spk s _, State.flag_raise s Fld.SPK_STATUS_BUSY_SEEN (by decide) (by decide) (by decide), by simp,
    (raise_onlyEvents s Fld.SPK_STATUS_BUSY_SEEN).trans ⟨rfl, fun _ _ _ => rfl⟩⟩

/-- The oldest wait is due. -/
theorem doSpkWaitTimeout_of_head {w : Wait} {rest : List Wait} (hw : s.spk.waits = w :: rest)
    (hdl : w.deadline ≠ BitVec.allOnes 64) (hdue : w.deadline.toNat ≤ s.htNs.toNat) :
    s.doSpkWaitTimeout w.ctx w.id w.tag =
      ({ s with spk := { s.spk with waits := rest } } : State).waitDone w 1 (s.spkVal w.phys) := by
  simp only [State.doSpkWaitTimeout, hw]
  rw [List.find?_cons_of_pos (by simpa [hdue] using hdl)]
  simp only [List.erase_cons_head]

end

/-! ### The read of a translation entry at a VSU -/

section

variable {s : State} {m : Nat} {o : SpkOp} {e : W}

theorem doSpkXlatFill_of_only (hmem : s.fab.mem = [(m, .xlat o)]) (hq : s.fab.memQ = []) (err : Bool) :
    s.doSpkXlatFill m e err =
      ({ s with fab := { s.fab with mem := [], memWr := s.fab.memWr.del m } } : State).xlatFill o e err := by
  simp [State.doSpkXlatFill, State.memFree, hmem, hq, Tab.del, State.memDrain]

theorem opDone_of_vsuPort {p : Nat} (hsrc : o.src = .vsuPort p) (status : Nat) (v : W) :
    s.opDone o status v = { s with out := s.out ++ [.spkDone (.vsuPort p) o.kind o.tag status v] } := by
  rw [State.opDone, hsrc]
  rfl

theorem xlatFill_of_err : s.xlatFill o e true = s.opDone o 4 0 := rfl

/-- A READ goes on whatever its context has become. -/
theorem xlatFill_of_read (hk : o.kind = 2) : s.xlatFill o e false = s.opWith o e := by
  simp [State.xlatFill, hk]

theorem opWith_read_of_live (hv : s.isVsu = true) (hk : o.kind = 2) (hkind : xKind e = 1) (hright : xRight e 2 = true)
    (hp : xPhys e < 16384) (hl : (s.meta (xPhys e)).st = .live) :
    s.opWith o e = s.opDone o 0 (viewOf (view32Of o.src e) (s.spkVal (xPhys e))) := by
  rw [opWith_of_local hkind, hk, hright, opLocal_read (by rwa [nSpk_of_isVsu hv]) hl hk]

end

/-- Settles O23: a WAIT by the cases of `State.opWait`, its deadline, and the fill by the two ways a read can end. -/
theorem waitsAndFillsComplete : Obligations.WaitsAndFillsComplete := by
  unfold Obligations.WaitsAndFillsComplete
  refine ⟨⟨fun s c ctx id p tag e dl h ht h39 => ?wait, fun s w rest c hw hsrc hdl hdue => ?timeout⟩,
    fun s m o e p hv hmem hq hsrc hk => ⟨fun hkind hright hp hl => ?fill, ?failed⟩⟩
  case wait =>
    rw [exec_spkWait_of_local h ht, h39]
    refine ⟨fun hr => ?_, fun hr hd hle => ?_, fun hr hd hroom => ?_, fun hr hd hfull => ?_⟩
    · rw [opWait_of_reached (by exact hr)]
      rfl
    · rw [opWait_of_passed (by exact hr) (by exact hd) (by exact hle)]
      rfl
    · have hfits : s.waitFull (.core c) ctx = false := decide_eq_false (Nat.not_le.2 hroom)
      rw [opWait_of_ahead (by exact hr) (by exact hd), if_neg (by exact Bool.eq_false_iff.1 hfits)]
      rfl
    · have hbusy : s.waitFull (.core c) ctx = true := decide_eq_true hfull
      rw [opWait_of_ahead (by exact hr) (by exact hd), if_pos (by exact hbusy)]
      exact ⟨_, rfl, opBusy_coreOp 1 e dl rfl⟩
  case timeout =>
    refine congrArg Host.Outcome.next ((doSpkWaitTimeout_of_head hw hdl hdue).trans ?_)
    rw [State.waitDone, hsrc]
    rfl
  case fill =>
    refine congrArg Host.Outcome.next ((doSpkXlatFill_of_only hmem hq false).trans ?_)
    rw [xlatFill_of_read hk, opWith_read_of_live (by exact hv) hk hkind hright hp (by exact hl), opDone_of_vsuPort hsrc, hk,
      hsrc]
    rfl
  case failed =>
    refine congrArg Host.Outcome.next ((doSpkXlatFill_of_only hmem hq true).trans ?_)
    rw [xlatFill_of_err, opDone_of_vsuPort hsrc, hk]

/-! ### READ, NOTIFY, cancel, and contexts that are not ACTIVE -/

section

variable {s : State} {c ctx id p tag : Nat}

theorem exec_spkRead_of_local (h : s.LocalOp c ctx id 2 p) (ht : tag < 65536) :
    exec (.spkRead (.core c) ctx id tag) s = .next { s with
      out := s.out ++ [.spkDone (.core c) 2 tag 0 (viewOf ((s.entryOf ctx id).getLsbD 39) (s.spkVal p))] } := by
  rw [exec_spkRead_core ht, spkOp_eq_opLocal h (by decide), opLocal_read h.lt_nSpk h.live rfl, opDone_coreOp]

theorem exec_spkNotify_of_local (h : s.LocalOp c ctx id 3 p) (ht : tag < 65536) (th : W) :
    exec (.spkNotify (.core c) ctx id th tag) s =
      .next (s.opNotify (coreOp 3 c ctx id tag th 0) p ((s.entryOf ctx id).getLsbD 39)) := by
  rw [exec_spkNotify_core ht, spkOp_eq_opLocal h (by decide), opLocal_notify h.lt_nSpk h.live rfl]

theorem exec_spkNotifyCancel_of_local (h : s.LocalOp c ctx id 4 p) (ht : tag < 65536) :
    exec (.spkNotifyCancel (.core c) ctx id tag) s = .next (s.opCancel (coreOp 4 c ctx id tag 0 0)) := by
  rw [exec_spkNotifyCancel_core ht, spkOp_eq_opLocal h (by decide), opLocal_cancel h.lt_nSpk h.live rfl]

/-- An operation that stays in the unit and whose entry names a remote sprocket (R139). -/
theorem spkOp_of_remote (h : s.CoreActive c ctx) (hid : id < 4096)
    (he : xKind (s.entryOf ctx id) = 2 ∨ xKind (s.entryOf ctx id) = 3) {kind : Nat} (h0 : kind ≠ 0) (h2 : kind ≠ 2)
    (val dl : W) : s.spkOp (coreOp kind c ctx (id % 4096) tag val dl) =
      { s with out := s.out ++ [.spkDone (.core c) kind tag 6 0] } := by
  rw [Nat.mod_eq_of_lt hid, spkOp_of_active h fun hk => absurd hk h0, opWith_of_remote he h0 h2, opDone_coreOp]

end

/-- Settles O24: each operation by its own equation, and those in a context that is not ACTIVE by one. -/
theorem readsAndInactiveContextsComplete : Obligations.ReadsAndInactiveContextsComplete := by
  unfold Obligations.ReadsAndInactiveContextsComplete
  refine ⟨⟨fun s c ctx id p tag h ht => exec_spkRead_of_local h ht, fun s c ctx id p tag th h ht hr hn => ?notify,
    fun s c ctx id p tag h ht => ⟨_, exec_spkNotifyCancel_of_local h ht, fun ⟨n, hn, hsame⟩ => ?cancel, fun hnone => ?none⟩,
    fun s c ctx id tag e dl h hid ht he => ?remote⟩, fun s c ctx id tag a b hv ha hc hctx ht hst code hcode => ?inactive⟩
  case notify =>
    rw [exec_spkNotify_of_local h ht, opNotify_of_ahead (by exact hr) (by exact hn)]
    rfl
  case cancel =>
    rw [opCancel_of_mem hn (SpkOp.cancels_iff.2 hsame)]
    exact ⟨rfl, fun k => mem_filter_not_iff SpkOp.cancels_iff⟩
  case none =>
    rw [opCancel_of_none fun n hn => Bool.eq_false_iff.2 fun hsame => hnone n hn (SpkOp.cancels_iff.1 hsame)]
    rfl
  case remote =>
    rw [exec_spkWait_core ht, exec_spkNotify_core ht, exec_spkNotifyCancel_core ht]
    exact ⟨congrArg _ (spkOp_of_remote h hid he (by decide) (by decide) e dl),
      congrArg _ (spkOp_of_remote h hid he (by decide) (by decide) e 0),
      congrArg _ (spkOp_of_remote h hid he (by decide) (by decide) 0 0)⟩
  case inactive =>
    have hstatus : inactiveStatus (s.ctx ctx).st = code := by
      rw [hcode]
      cases (s.ctx ctx).st <;> rfl
    have hdone := fun kind val dl => spkOp_of_inactive (id := id % 4096) (tag := tag) hv ha hc hctx hst kind val dl
    rw [exec_spkSignal_core ht, exec_spkWait_core ht, exec_spkRead_core ht, exec_spkNotify_core ht,
      exec_spkNotifyCancel_core ht, ← hstatus]
    exact ⟨congrArg _ (hdone 0 a 0), congrArg _ (hdone 1 a b), congrArg _ (hdone 2 0 0), congrArg _ (hdone 3 a 0),
      congrArg _ (hdone 4 0 0)⟩

end Sys2Proof.Machine
end

section
/-! PROOFS. Contexts: translation tables, save and restore, owner loss and activation (R151 to R157). -/

namespace Sys2Proof.Machine

/-! ### The states of many sprockets -/

theorem get_setMetas_of_not_mem {ps : List Nat} {p : Nat} (h : p ∉ ps) (t : Tab SpkMeta) (f : SpkMeta → SpkMeta)
    (d : SpkMeta) : (setMetas t ps f).get p d = t.get p d := by
  induction ps generalizing t with
  | nil => rfl
  | cons q ps ih =>
    obtain ⟨hq, hps⟩ := not_or.1 (List.mem_cons.not.1 h)
    exact (ih hps _).trans (Tab.get_set_ne _ _ _ _ _ hq)

/-- What a change always brings about holds of every sprocket that it was made to. -/
theorem get_setMetas_of_mem {P : SpkMeta → Prop} {f : SpkMeta → SpkMeta} (hf : ∀ m, P (f m)) {ps : List Nat} {p : Nat}
    (h : p ∈ ps) (t : Tab SpkMeta) (d : SpkMeta) : P ((setMetas t ps f).get p d) := by
  induction ps generalizing t with
  | nil => exact absurd h List.not_mem_nil
  | cons q ps ih =>
    by_cases hps : p ∈ ps
    · exact ih hps _
    · obtain rfl : p = q := (List.mem_cons.1 h).resolve_right hps
      have hget : (setMetas t (p :: ps) f).get p d = f (t.get p {}) :=
        (get_setMetas_of_not_mem hps _ f d).trans (Tab.get_set_self _ _ _ _)
      rw [hget]
      exact hf _

section

variable {s t : State} {ps : List Nat} {f : SpkMeta → SpkMeta} {p : Nat}

/-- A sprocket's state as the table shows it, in a unit of the same kind. -/
theorem meta_of_ident_eq (hid : t.ident = s.ident) :
    t.meta p = t.spk.info.get p (if s.isFore then { st := .live } else {}) := by
  have hfore : t.isFore = s.isFore := by rw [State.isFore, State.isFore, hid]
  rw [State.meta, hfore]

theorem meta_of_mem {P : SpkMeta → Prop} (hf : ∀ m, P (f m)) (hid : t.ident = s.ident)
    (hinfo : t.spk.info = setMetas s.spk.info ps f) (h : p ∈ ps) : P (t.meta p) := by
  rw [meta_of_ident_eq hid, hinfo]
  exact get_setMetas_of_mem hf h _ _

theorem meta_of_not_mem (hid : t.ident = s.ident) (hinfo : t.spk.info = setMetas s.spk.info ps f) (h : p ∉ ps) :
    t.meta p = s.meta p := by
  rw [meta_of_ident_eq hid, hinfo]
  exact get_setMetas_of_not_mem h _ _ _

end

/-! ### COMMIT_XLAT (R151) and ACTIVATE (R157) -/

section

variable {s : State} (ha : s.awake = true) (hf : s.isFore = false) (hc : s.selCtx < s.nCtx)

include ha hf hc

theorem doCommitXlat_of_stopped (hst : s.cad.st ≠ .running) : s.doCommitXlat = s.xlatCommit s.selCtx := by
  simp [State.doCommitXlat, State.notRunning, ha, hf, Nat.not_le.2 hc, hst]

theorem doCommitXlat_of_running (hst : s.cad.st = .running) :
    s.doCommitXlat = s.setCtx s.selCtx { s.ctx s.selCtx with xlatPend := true } := by
  simp [State.doCommitXlat, State.notRunning, ha, hf, Nat.not_le.2 hc, hst]

theorem doCtxActivate_of_inactive (hst : (s.ctx s.selCtx).st = .free ∨ (s.ctx s.selCtx).st = .reset) :
    s.doCtxActivate = (s.setCtx s.selCtx
      { s.ctx s.selCtx with st := .active, argValue := 0, argDeadl := BitVec.allOnes 64 }).cmdDone := by
  rcases hst with hst | hst <;> simp [State.doCtxActivate, ha, hf, hc, hst]

end

/-! ### SAVE (R152, R153) -/

section

variable (s : State) (c : Nat)

theorem preempt_onlyCompletes :
    OnlyCompletes { s with spk := { s.spk with waits := s.spk.waits.filter fun w => w.ctx != c } } (s.preempt c) :=
  OnlyCompletes.foldl (fun t w => waitDone_onlyCompletes t w 3 _) _ _

theorem saveArea_length (table : List Byte) : (s.saveArea c table).length = 131072 := by
  simp [State.saveArea]

theorem saveEnd_saved : ((s.saveEnd c).ctx c).st = .saved := congrArg Ctx.st (Tab.get_set_self _ _ _ _)

theorem meta_saveEnd {p : Nat} (h : p ∈ s.owned c) : ((s.saveEnd c).meta p).st = .saved :=
  meta_of_mem (s := s) (P := fun m => m.st = .saved) (f := fun m => { m with st := .saved }) (fun _ => rfl) rfl rfl h

end

/-- SAVE at a VD writes the area in main memory at once. -/
theorem doCtxSave_of_vd {s : State} (ha : s.awake = true) (hf : s.isFore = false) (hc : s.selCtx < s.nCtx)
    (hv : s.isVd = true) (hst : (s.ctx s.selCtx).st = .active) (hjob : s.spk.job = none) :
    s.doCtxSave = ({ s.preempt s.selCtx with fab := { (s.preempt s.selCtx).fab with
      ram := Memory.writeBytes (s.preempt s.selCtx).fab.ram ((s.ctx s.selCtx).saveBase.toNat % 2 ^ 40)
        ((s.preempt s.selCtx).saveArea s.selCtx
          (Memory.readBytes s.fab.ram ((s.ctx s.selCtx).xlatActive.toNat % 2 ^ 40) tableLen)) } } : State).saveEnd
      s.selCtx := by
  simp [State.doCtxSave, ha, hf, Nat.not_le.2 hc, hv, hst, hjob]

/-- What a SAVE leaves, whatever table the area holds. -/
theorem saveEnd_of_preempt (s : State) (c a : Nat) (table : List Byte) {t : State}
    (ht : t = ({ s.preempt c with fab := { (s.preempt c).fab with
      ram := Memory.writeBytes (s.preempt c).fab.ram a ((s.preempt c).saveArea c table) } } : State).saveEnd c) :
    (t.ctx c).st = .saved ∧ (∀ w, w ∈ t.spk.waits ↔ w ∈ s.spk.waits ∧ w.ctx ≠ c) ∧
      (∀ n, n ∈ t.spk.notifs ↔ n ∈ s.spk.notifs ∧ n.ctx ≠ c) ∧ t.spk.vals = s.spk.vals ∧
      (∀ p, p ∈ s.owned c → (t.meta p).st = .saved) ∧ t.flag Fld.SPK_CMD_STATUS_DONE = true ∧
      MemoryFrame a 131072 s t := by
  subst ht
  have hpre := preempt_onlyCompletes s c
  have hwaits : (s.preempt c).spk.waits = s.spk.waits.filter fun w => w.ctx != c := hpre.waits_eq
  have hnotifs : (s.preempt c).spk.notifs = s.spk.notifs := hpre.notifs_eq
  have hinfo : (s.preempt c).spk.info = s.spk.info := hpre.info_eq
  have howned : (s.preempt c).owned c = s.owned c := by simp only [State.owned, hinfo]
  have hram : (s.preempt c).fab.ram = s.fab.ram := hpre.ram_eq
  refine ⟨saveEnd_saved _ c, fun w => ?waits, fun n => ?notifs, hpre.vals_eq, fun p hp => ?owned, flag_cmdDone _,
    fun x hx => ?memory⟩
  case waits =>
    refine (iff_of_eq (congrArg (w ∈ ·) hwaits)).trans ?_
    simp [List.mem_filter]
  case notifs =>
    refine List.mem_filter.trans ?_
    rw [hnotifs]
    simp
  case owned => exact meta_saveEnd _ c (howned.symm ▸ hp)
  case memory =>
    rw [← hram]
    exact Memory.read_writeBytes_out _ _ _ x (by rwa [saveArea_length])

/-! ### RESTORE (R155) -/

theorem restoreRefused_of_idle {s : State} (h : s.spk.job = none) :
    s.restoreRefused = (s.raise Fld.SPK_STATUS_RESTORE_FAIL).cmdRefused := by
  have hsame : ({ s with spk := { s.spk with job := none } } : State) = s := by rw [← h]
  rw [State.restoreRefused, hsame]

section

variable {s : State} (ha : s.awake = true) (hc : s.selCtx < s.nCtx) (hv : s.isVd = true)
  (hst : (s.ctx s.selCtx).st = .saved) (hjob : s.spk.job = none)

include ha hc hv hst hjob

theorem doCtxRestore_of_bad
    (h : areaOk (Memory.readBytes s.fab.ram ((s.ctx s.selCtx).saveBase.toNat % 2 ^ 40) saveLen) = false) :
    s.doCtxRestore = s.restoreRefused := by
  simp [State.doCtxRestore, ha, isFore_of_isVd hv, Nat.not_le.2 hc, hv, hst, hjob, h, -Nat.reducePow]

theorem doCtxRestore_of_good {a : List Byte} {plan : List (Nat × Bool × W)}
    (hread : a = Memory.readBytes s.fab.ram ((s.ctx s.selCtx).saveBase.toNat % 2 ^ 40) saveLen)
    (hok : areaOk a = true) (hplan : s.areaPlan s.selCtx a = some plan) :
    s.doCtxRestore = ({ s with fab := { s.fab with
      ram := Memory.writeBytes s.fab.ram ((s.ctx s.selCtx).xlatShadow.toNat % 2 ^ 40) (areaTable a) } } :
      State).restoreWith s.selCtx a plan := by
  subst hread
  simp [State.doCtxRestore, ha, isFore_of_isVd hv, Nat.not_le.2 hc, hv, hst, hjob, hok, hplan, -Nat.reducePow]

end

/-- The values after one record of an area's plan: that of a sprocket that had been evicted is put back. -/
def restoredVal (vals : Tab W) (e : Nat × Bool × W) : Tab W := if e.2.1 then vals else vals.set e.1 e.2.2

theorem get_restoredVal_self (vals : Tab W) (e : Nat × Bool × W) :
    (restoredVal vals e).get e.1 0 = if e.2.1 then vals.get e.1 0 else e.2.2 := by
  unfold restoredVal
  split
  · rfl
  · exact Tab.get_set_self _ _ _ _

theorem get_restoredVal_ne (vals : Tab W) (e : Nat × Bool × W) {p : Nat} (h : p ≠ e.1) :
    (restoredVal vals e).get p 0 = vals.get p 0 := by
  unfold restoredVal
  split
  · rfl
  · exact Tab.get_set_ne _ _ _ _ _ h

theorem get_foldl_restoredVal_of_absent {plan : List (Nat × Bool × W)} {p : Nat} (h : ∀ e ∈ plan, e.1 ≠ p)
    (vals : Tab W) : (plan.foldl restoredVal vals).get p 0 = vals.get p 0 := by
  induction plan generalizing vals with
  | nil => rfl
  | cons e plan ih =>
    obtain ⟨he, hrest⟩ := List.forall_mem_cons.1 h
    exact (ih hrest _).trans (get_restoredVal_ne vals e he.symm)

theorem get_foldl_restoredVal_of_mem {plan : List (Nat × Bool × W)} (hnd : (plan.map (·.1)).Nodup) {e : Nat × Bool × W}
    (h : e ∈ plan) (vals : Tab W) :
    (plan.foldl restoredVal vals).get e.1 0 = if e.2.1 then vals.get e.1 0 else e.2.2 := by
  induction plan generalizing vals with
  | nil => exact absurd h List.not_mem_nil
  | cons d plan ih =>
    obtain ⟨hd, hrest⟩ := List.nodup_cons.1 hnd
    have hne : ∀ x ∈ plan, x.1 ≠ d.1 := fun x hx heq => hd (List.mem_map.2 ⟨x, hx, heq⟩)
    rcases List.mem_cons.1 h with rfl | h
    · exact (get_foldl_restoredVal_of_absent hne _).trans (get_restoredVal_self vals e)
    · refine (ih hrest h _).trans ?_
      rw [get_restoredVal_ne vals d (hne e h)]

/-- `t` is `s` but for its registrations and for what recording events changes. -/
def OnlyNotifs (s t : State) : Prop := OnlyEvents [] { s with spk := { s.spk with notifs := t.spk.notifs } } t

theorem OnlyEvents.onlyNotifs {s t : State} (h : OnlyEvents [] s t) : OnlyNotifs s t := ⟨by rw [h.1], h.2⟩

theorem OnlyNotifs.trans {s t u : State} (h : OnlyNotifs s t) (k : OnlyNotifs t u) : OnlyNotifs s u := by
  obtain ⟨heq, hreg⟩ := h
  obtain ⟨keq, kreg⟩ := k
  refine ⟨?_, fun a ha hq => (kreg a ha hq).trans (hreg a ha hq)⟩
  rw [keq, heq]

theorem OnlyNotifs.frame {s t : State} (h : OnlyNotifs s t) :
    OnlyEvents [] { s with spk := { s.spk with notifs := t.spk.notifs } } t := h

/-- The registrations of an area fire or are registered again. -/
theorem areaNotifs_onlyNotifs (s : State) (c : Nat) (a : List Byte) : OnlyNotifs s (s.areaNotifs c a) := by
  refine List.foldlRecOn _ _ (motive := OnlyNotifs s) (OnlyEvents.refl _ s) fun t h i _ => h.trans ?_
  exact iteInduction (motive := OnlyNotifs t) (fun _ => (notifyFire_onlyEvents _ _ _ _).onlyNotifs)
    fun _ => ⟨rfl, fun _ _ _ => rfl⟩

/-- The parts of the unit that a restore writes, whatever main memory holds by then. -/
theorem restoreWith_spk (s : State) (ram : List Host.Cell) (c : Nat) (a : List Byte) (plan : List (Nat × Bool × W))
    {t : State} (ht : t = ({ s with fab := { s.fab with ram := ram } } : State).restoreWith c a plan) :
    t.spk = { s.spk with
      vals := plan.foldl restoredVal s.spk.vals,
      info := setMetas s.spk.info (plan.map (·.1)) fun m => { m with st := .live, owner := c },
      ctxs := s.spk.ctxs.set c { s.ctx c with st := .active, xlatActive := (s.ctx c).xlatShadow, xlatPend := false },
      notifs := t.spk.notifs, job := none } ∧
    t.ident = s.ident ∧ t.fab.ram = ram := by
  subst ht
  exact ⟨(areaNotifs_onlyNotifs _ c a).frame.spk_eq, (areaNotifs_onlyNotifs _ c a).frame.ident_eq,
    (areaNotifs_onlyNotifs _ c a).frame.ram_eq⟩

/-- What a RESTORE whose checks have passed leaves. -/
theorem restoreWith_spec (s : State) (x c : Nat) (a : List Byte) (plan : List (Nat × Bool × W)) {t : State}
    (ht : t = ({ s with fab := { s.fab with
      ram := Memory.writeBytes s.fab.ram x (areaTable a) } } : State).restoreWith c a plan) :
    (t.ctx c).st = .active ∧ (t.ctx c).xlatActive = (s.ctx c).xlatShadow ∧
      (∀ e, e ∈ plan → (t.meta e.1).st = .live ∧ (t.meta e.1).owner = c) ∧
      (∀ p, (∀ e, e ∈ plan → e.1 ≠ p) → t.meta p = s.meta p ∧ t.spkVal p = s.spkVal p) ∧
      ((plan.map (·.1)).Nodup → ∀ e, e ∈ plan → t.spkVal e.1 = if e.2.1 then s.spkVal e.1 else e.2.2) ∧
      t.flag Fld.SPK_CMD_STATUS_DONE = true ∧ MemoryFrame x 32768 s t := by
  obtain ⟨hspk, hid, hram⟩ := restoreWith_spk s _ c a plan ht
  have hinfo : t.spk.info = setMetas s.spk.info (plan.map (·.1)) fun m => { m with st := .live, owner := c } :=
    congrArg SpkSt.info hspk
  have hval : ∀ p, t.spkVal p = (plan.foldl restoredVal s.spk.vals).get p 0 := fun p =>
    congrArg (fun k : SpkSt => k.vals.get p 0) hspk
  have hctx : t.ctx c = { s.ctx c with st := .active, xlatActive := (s.ctx c).xlatShadow, xlatPend := false } :=
    (congrArg (fun k : SpkSt => k.ctxs.get c {}) hspk).trans (Tab.get_set_self _ _ _ _)
  refine ⟨by rw [hctx], by rw [hctx], fun e he => ?live, fun p hp => ⟨?_, ?_⟩, fun hnd e he => ?_, ?done, fun y hy => ?_⟩
  case live =>
    exact meta_of_mem (P := fun m => m.st = .live ∧ m.owner = c) (fun _ => ⟨rfl, rfl⟩) hid hinfo
      (List.mem_map_of_mem he)
  case done =>
    rw [ht]
    exact flag_cmdDone _
  · refine meta_of_not_mem hid hinfo fun hmem => ?_
    obtain ⟨e, he, heq⟩ := List.mem_map.1 hmem
    exact hp e he heq
  · exact (hval p).trans (get_foldl_restoredVal_of_absent hp _)
  · exact (hval e.1).trans (get_foldl_restoredVal_of_mem hnd he _)
  · rw [hram]
    refine Memory.read_writeBytes_out _ _ _ y (hy.imp_right fun h => Nat.le_trans ?_ h)
    simp [areaTable, tableLen]

/-! ### RESET and the flush of owner loss (R156) -/

/-- The state in which a context's sprockets have lost their owner, before the loss is shown. -/
def State.disowned (s : State) (c : Nat) : State :=
  { s with spk := { s.spk with
      info := setMetas s.spk.info (s.owned c) fun m => { m with st := .ownerLost },
      waits := s.spk.waits.map fun w => { w with lost := w.lost || (s.owned c).contains w.phys },
      notifs := s.spk.notifs.map fun n => { n with lost := n.lost || (s.owned c).contains n.phys },
      ctxs := s.spk.ctxs.set c { s.ctx c with st := .reset } } }

/-- The loss is shown where there is one. -/
def State.lossShown (s : State) (c : Nat) : State :=
  if (s.owned c).isEmpty then s.disowned c else (s.disowned c).raise Fld.SPK_STATUS_OWNER_LOST

theorem doCtxReset_eq {s : State} (ha : s.awake = true) (hf : s.isFore = false) (hc : s.selCtx < s.nCtx) :
    s.doCtxReset = (s.lossShown s.selCtx).cmdDone := by
  simp only [State.doCtxReset, ha, hf, Nat.not_le.2 hc, Bool.not_true, Bool.false_eq_true, if_false,
    decide_false, Bool.or_false]
  rfl

section

variable (s : State) (c : Nat)

theorem lossShown_onlyEvents : OnlyEvents [Reg.SPK_STATUS] (s.disowned c) (s.lossShown c) :=
  iteInduction (motive := OnlyEvents [Reg.SPK_STATUS] (s.disowned c)) (fun _ => OnlyEvents.refl _ _)
    fun _ => raise_onlyEvents _ Fld.SPK_STATUS_OWNER_LOST

theorem flag_lossShown (h : s.owned c ≠ []) : (s.lossShown c).flag Fld.SPK_STATUS_OWNER_LOST = true := by
  rw [State.lossShown, if_neg (by simpa using h)]
  exact State.flag_raise _ _ (by decide) (by decide) (by decide)

theorem flushLost_onlyCompletes : OnlyCompletes { s with spk := { s.spk with
    waits := s.spk.waits.filter fun w => !w.lost, notifs := s.spk.notifs.filter fun n => !n.lost } } s.flushLost :=
  (OnlyCompletes.foldl (fun t w => waitDone_onlyCompletes t w 2 _) _ _).trans
    (OnlyCompletes.foldl (fun t n => (notifyFire_onlyEvents t n 2 _).onlyCompletes) _ _)

end

theorem doOwnerLostFlush_of_stopped {s : State} (h : s.cad.st ≠ .running) : s.doOwnerLostFlush = s.flushLost := by
  simp [State.doOwnerLostFlush, State.notRunning, h]

/-- What a RESET leaves. -/
theorem doCtxReset_spec {s : State} (ha : s.awake = true) (hf : s.isFore = false) (hc : s.selCtx < s.nCtx) {t : State}
    (ht : t = s.doCtxReset) :
    (t.ctx s.selCtx).st = .reset ∧ t.spk.vals = s.spk.vals ∧ (∀ p, p ∈ s.owned s.selCtx → (t.meta p).st = .ownerLost) ∧
      (∀ p, p ∉ s.owned s.selCtx → t.meta p = s.meta p) ∧
      (s.owned s.selCtx ≠ [] → t.flag Fld.SPK_STATUS_OWNER_LOST = true) ∧ t.flag Fld.SPK_CMD_STATUS_DONE = true ∧
      OnlyEvents [Reg.SPK_STATUS, Reg.SPK_CMD_STATUS] { s with spk := t.spk } t := by
  rw [doCtxReset_eq ha hf hc] at ht
  subst ht
  have hshown := lossShown_onlyEvents s s.selCtx
  have hspk : (s.lossShown s.selCtx).cmdDone.spk = (s.disowned s.selCtx).spk := hshown.spk_eq
  have hident : (s.lossShown s.selCtx).cmdDone.ident = s.ident := hshown.ident_eq
  have hinfo : (s.lossShown s.selCtx).cmdDone.spk.info =
      setMetas s.spk.info (s.owned s.selCtx) fun m => { m with st := .ownerLost } := congrArg SpkSt.info hspk
  refine ⟨?_, by rw [hspk]; rfl, fun p hp => ?_, fun p hp => ?_, fun h => ?_, flag_cmdDone _, ?_⟩
  · rw [State.ctx, hspk]
    exact congrArg Ctx.st (Tab.get_set_self _ _ _ _)
  · exact meta_of_mem (P := fun m => m.st = .ownerLost) (fun _ => rfl) hident hinfo hp
  · exact meta_of_not_mem hident hinfo hp
  · exact (State.flag_setBit_ne_reg _ _ _ (by decide)).trans (flag_lossShown s _ h)
  · rw [hspk]
    exact (hshown.mono (by simp)).trans ((cmdDone_onlyRegs _).onlyEvents.mono (by simp))

/-! ### The statement -/

/-- Settles O25: each command by its own equation, and what its parts leave. -/
theorem contextsMoveAndReturn : Obligations.ContextsMoveAndReturn := by
  unfold Obligations.ContextsMoveAndReturn
  refine ⟨⟨fun s c ha hf hsel hc => ?commands, fun s hst => ?flush⟩,
    fun s c a plan ha hv hsel hc hst hjob hread hok hplan => ?restore⟩
  case commands =>
    subst hsel
    refine ⟨fun hst => ?commit, fun hst => ?pend, fun hv hst hjob => ?save, fun hv hst hjob hbad => ?refused, ?reset,
      fun hst => ?activate⟩
    case commit =>
      exact ⟨_, congrArg Host.Outcome.next (doCommitXlat_of_stopped ha hf hc hst), State.ctx_setCtx_self s _ _,
        flag_cmdDone _, cmdDone_onlyRegs _⟩
    case pend =>
      exact ⟨_, congrArg Host.Outcome.next (doCommitXlat_of_running ha hf hc hst), State.ctx_setCtx_self s _ _, rfl⟩
    case save =>
      exact ⟨_, congrArg Host.Outcome.next (doCtxSave_of_vd ha hf hc hv hst hjob), saveEnd_of_preempt s _ _ _ rfl⟩
    case refused =>
      refine ⟨_, congrArg Host.Outcome.next
        ((doCtxRestore_of_bad ha hc hv hst hjob hbad).trans (restoreRefused_of_idle hjob)), State.raise_spk s _, ?_,
        flag_cmdRefused _, ?_⟩
      · exact (State.flag_setBit_ne_reg _ _ _ (by decide)).trans (State.flag_raise s _ (by decide) (by decide) (by decide))
      · have hraise : OnlyEvents [Reg.SPK_STATUS] s (s.raise Fld.SPK_STATUS_RESTORE_FAIL) := raise_onlyEvents s _
        exact (hraise.mono (by simp)).trans ((cmdRefused_onlyRegs _).onlyEvents.mono (by simp))
    case reset => exact ⟨_, rfl, doCtxReset_spec ha hf hc rfl⟩
    case activate =>
      exact ⟨_, congrArg Host.Outcome.next (doCtxActivate_of_inactive ha hf hc hst), State.ctx_setCtx_self s _ _,
        flag_cmdDone _, cmdDone_onlyRegs _⟩
  case flush =>
    have hflush := flushLost_onlyCompletes s
    refine ⟨_, congrArg Host.Outcome.next (doOwnerLostFlush_of_stopped hst), fun w => ?_, fun n => ?_, hflush.vals_eq,
      hflush.info_eq, hflush.ram_eq⟩
    · rw [hflush.waits_eq]
      simp [List.mem_filter]
    · rw [hflush.notifs_eq]
      simp [List.mem_filter]
  case restore =>
    subst hsel
    exact ⟨_, congrArg Host.Outcome.next (doCtxRestore_of_good ha hc hv hst hjob hread hok hplan),
      restoreWith_spec s _ _ a plan rfl⟩

end Sys2Proof.Machine
end

section
/-! PROOFS. What the operations on images leave alone: ports alone, the memory port of a VSU, readiness, and failures of
checks (R192, R195, R197, R449). -/

namespace Sys2Proof.Machine

/-! ### Ports alone -/

/-- `t` is `s` but for its ports. -/
def JustPorts (s t : State) : Prop := t = { s with fab := { s.fab with ports := t.fab.ports } }

section

variable {s t u : State}

theorem JustPorts.refl (s : State) : JustPorts s s := rfl

theorem JustPorts.trans (h : JustPorts s t) (k : JustPorts t u) : JustPorts s u := by
  unfold JustPorts at h k ⊢
  rw [k, h]

/-- Many such changes, one after the other. -/
theorem JustPorts.foldl {α : Type} {f : State → α → State} (hf : ∀ t x, JustPorts t (f t x)) (l : List α) (s : State) :
    JustPorts s (l.foldl f s) :=
  List.foldlRecOn l f (motive := JustPorts s) (.refl s) fun t h x _ => h.trans (hf t x)

theorem JustPorts.frame (h : JustPorts s t) : t = { s with fab := { s.fab with ports := t.fab.ports } } := h
theorem JustPorts.time_eq (h : JustPorts s t) : t.time = s.time := by rw [h.frame]
theorem JustPorts.tdc_eq (h : JustPorts s t) : t.tdc = s.tdc := by rw [h.frame]
theorem JustPorts.cad_eq (h : JustPorts s t) : t.cad = s.cad := by rw [h.frame]
theorem JustPorts.img_eq (h : JustPorts s t) : t.img = s.img := by rw [h.frame]
theorem JustPorts.ram_eq (h : JustPorts s t) : t.fab.ram = s.fab.ram := by rw [h.frame]

theorem setPort_justPorts (s : State) (p : Nat) (x : PortSt) : JustPorts s (s.setPort p x) := rfl

theorem queueFlits_justPorts (s : State) (p : Nat) (src : Option Nat) (fs : List Flit) :
    JustPorts s (s.queueFlits p src fs) :=
  JustPorts.foldl (fun t _ => setPort_justPorts t p _) fs s

theorem sendTiles_justPorts (s : State) (p id kind : Nat) (ts : List (Nat × List Byte)) :
    JustPorts s (s.sendTiles p id kind ts) :=
  JustPorts.foldl (fun t _ => queueFlits_justPorts t p none _) ts s

/-- A DOME's sections go out by its die ports. -/
theorem deliverDies_justPorts (s : State) (img : Img) (es : List DirEnt) : JustPorts s (s.deliverDies img es) := by
  refine JustPorts.foldl (fun t e => ?_) _ s
  dsimp only
  split
  · exact sendTiles_justPorts t _ _ _ _
  · exact .refl t

end

/-! ### The memory port of a VSU (R439, R449) -/

theorem memReqs_onlyEvents (s : State) (rs : List MemReq) : OnlyEvents [] s (s.memReqs rs) :=
  List.foldlRecOn rs (fun t r => t.memReq r) (motive := OnlyEvents [] s) (.refl _ s) fun t h r _ =>
    h.trans (memReq_onlyEvents t r)

theorem copyWindow_onlyEvents (s : State) (toShadow : Bool) (len : Nat) :
    OnlyEvents [] s (s.copyWindow toShadow len) := by
  unfold State.copyWindow
  split
  · exact memReqs_onlyEvents s _
  · exact .refl _ s

/-- A register outside those of an event reads as before. -/
theorem OnlyEvents.flag_eq {rs : List Nat} {s t : State} (h : OnlyEvents rs s t) (f : Fld) (hr : f.reg ∉ rs)
    (hq : f.reg ≠ Reg.EVQ_STATUS) : t.flag f = s.flag f := by
  simp only [State.flag, State.fld, h.2 f.reg hr hq]

/-! ### Readiness (R117) -/

section

variable (s : State)

theorem loseReady_frame : s.loseReady = { s with cad := { s.cad with lost := s.loseReady.cad.lost } } := by
  unfold State.loseReady
  split <;> rfl

@[simp] theorem loseReady_img : s.loseReady.img = s.img := by rw [loseReady_frame]
@[simp] theorem loseReady_time : s.loseReady.time = s.time := by rw [loseReady_frame]
@[simp] theorem loseReady_ram : s.loseReady.fab.ram = s.fab.ram := by rw [loseReady_frame]
@[simp] theorem loseReady_flag (f : Fld) : s.loseReady.flag f = s.flag f := by rw [loseReady_frame]; rfl

/-- The frame of an operation on the images after which the unit may be ready no more. -/
theorem loseReady_onlyEvents {rs : List Nat} {u v : State} (h : OnlyEvents rs u v) :
    OnlyEvents rs { u with cad := { u.cad with lost := v.loseReady.cad.lost } } v.loseReady := by
  obtain ⟨heq, hreg⟩ := h
  rw [loseReady_frame]
  exact ⟨by rw [heq], hreg⟩

end

/-! ### What the status of the images shows (R195, R200) -/

/-- `t` is `s` with the images `x`, but for status bit `f` of the block, which has been raised. -/
structure ImagesShown (s t : State) (x : ImgSt) (f : Fld) : Prop where
  img : t.img = x
  flag : t.flag f = true
  frame : OnlyEvents [Reg.IMG_STATUS] { s with img := x } t

theorem raise_imagesShown (s : State) (x : ImgSt) {f : Fld} (hw : f.w = 1) (hlo : f.lo < 64) (hr : f.reg = Reg.IMG_STATUS) :
    ImagesShown s (({ s with img := x } : State).raise f) x f where
  img := State.raise_img _ f
  flag := State.flag_raise _ f (by omega) (by omega) (by rw [hr]; decide)
  frame := hr ▸ raise_onlyEvents _ f

/-- A failed check stands in IMG_CHECK, and is raised. -/
theorem checkFails_imagesShown (s : State) (x : ImgSt) (f : ChkFail) : ImagesShown s
    (({ s with img := x } : State).checkFails f) { x with check := f } Fld.IMG_STATUS_CHECK_FAIL :=
  raise_imagesShown s { x with check := f } rfl (by decide) rfl

end Sys2Proof.Machine
end

section
/-! PROOFS. Commands on the shadow, and its check (R192, R194, R195, R200). -/

namespace Sys2Proof.Machine

/-! ### Commands on the shadow (R194, R200) -/

/-- Is the shadow locked, or an image on its way into it: it takes no other one then. -/
def State.shadowBusy (s : State) : Bool := s.img.lock || s.img.shState == .receiving

theorem shadowBusy_iff (s : State) : s.shadowBusy = true ↔ s.img.lock = true ∨ s.img.shState = .receiving := by
  simp [State.shadowBusy]

section

variable {s : State}

theorem shadowBusy_eq_false (hl : s.img.lock = false) (hr : s.img.shState ≠ .receiving) : s.shadowBusy = false := by
  simp [State.shadowBusy, hl, hr]

variable (ha : s.awake = true)

include ha

theorem doLoadLocal_of_free (hv : s.isVd = true) (h : s.shadowBusy = false) :
    s.doLoadLocal = ({ s with img := s.img.newShadow s.loadedImg .checking } : State).loseReady := by
  unfold State.shadowBusy at h
  simp only [State.doLoadLocal, hv, ha, h, Bool.not_true, Bool.or_self, Bool.false_eq_true, if_false]

theorem doLoadLocal_of_busy (hv : s.isVd = true) (h : s.shadowBusy = true) :
    s.doLoadLocal = s.raise Fld.IMG_STATUS_CMD_REFUSED := by
  unfold State.shadowBusy at h
  simp only [State.doLoadLocal, hv, ha, h, Bool.not_true, Bool.or_self, Bool.false_eq_true, if_false, if_true]

theorem doRecall_of_free {c : Img} (hc : s.img.committed = some c) (h : s.shadowBusy = false) :
    s.doRecall = ((({ s with img := s.img.newShadow c .checked } : State).raise Fld.IMG_STATUS_SHADOW_READY).copyWindow true
      (s.heldLen c)).loseReady := by
  unfold State.shadowBusy at h
  simp only [State.doRecall, ha, hc, h, Bool.not_true, Bool.false_eq_true, if_false]

theorem doRecall_of_refused (h : s.img.committed = none ∨ s.shadowBusy = true) :
    s.doRecall = s.raise Fld.IMG_STATUS_CMD_REFUSED := by
  cases hc : s.img.committed with
  | none => simp only [State.doRecall, ha, hc, Bool.not_true, Bool.false_eq_true, if_false]
  | some c =>
    have hbusy := h.resolve_left (by simp [hc])
    unfold State.shadowBusy at hbusy
    simp only [State.doRecall, ha, hc, hbusy, Bool.not_true, Bool.false_eq_true, if_false, if_true]

theorem doDiscard_of_awake :
    s.doDiscard = ({ s with img := { s.img.noShadow with lock := false } } : State).loseReady := by
  simp only [State.doDiscard, ha, if_true]

end

/-- A command that is refused says so and changes no image. -/
theorem refused_imagesShown (s : State) :
    ImagesShown s (s.raise Fld.IMG_STATUS_CMD_REFUSED) s.img Fld.IMG_STATUS_CMD_REFUSED :=
  raise_imagesShown s s.img rfl (by decide) rfl

/-- What a shadow that takes another image, or none, leaves of the unit. -/
theorem loseReady_spec (s : State) (x : ImgSt) {t : State} (ht : t = ({ s with img := x } : State).loseReady) :
    t.img = x ∧ t = { s with img := x, cad := { s.cad with lost := t.cad.lost } } := by
  subst ht
  exact ⟨loseReady_img _, loseReady_frame _⟩

theorem doRecall_spec {s : State} (ha : s.awake = true) {c : Img} (hc : s.img.committed = some c)
    (hfree : s.shadowBusy = false) {t : State} (ht : t = s.doRecall) :
    t.img = s.img.newShadow c .checked ∧ t.flag Fld.IMG_STATUS_SHADOW_READY = true ∧
      OnlyEvents [Reg.IMG_STATUS]
        { s with img := s.img.newShadow c .checked, cad := { s.cad with lost := t.cad.lost } } t := by
  rw [doRecall_of_free ha hc hfree] at ht
  subst ht
  obtain ⟨himg, hflag, hframe⟩ := raise_imagesShown s (s.img.newShadow c .checked)
    (f := Fld.IMG_STATUS_SHADOW_READY) rfl (by decide) rfl
  have hcopy := copyWindow_onlyEvents
    (({ s with img := s.img.newShadow c .checked } : State).raise Fld.IMG_STATUS_SHADOW_READY) true (s.heldLen c)
  refine ⟨(loseReady_img _).trans (hcopy.img_eq.trans himg), ?_, loseReady_onlyEvents (hframe.trans (hcopy.mono (by simp)))⟩
  rw [loseReady_flag, hcopy.flag_eq _ (by simp) (by decide), hflag]

/-! ### The check of the shadow (R192, R195) -/

/-- The unit with its dies' verified sections on their way, where it has dies. -/
def State.diesServed (s : State) (img : Img) : State :=
  if s.isDome then s.deliverDies img (s.shadowFail img).2 else s

theorem diesServed_img (s : State) (img : Img) : (s.diesServed img).img = s.img := by
  unfold State.diesServed
  split
  · exact (deliverDies_justPorts s img _).img_eq
  · rfl

section

variable {s : State} {img : Img} (ha : s.awake = true) (hs : s.img.shadow = some img) (hst : s.img.shState = .checking)

include ha hs hst

theorem doShadowCheck_of_fail {f : ChkFail} (hf : (s.shadowFail img).1 = some f) : ImagesShown (s.diesServed img)
    s.doShadowCheck { s.img with shState := .failed, check := f } Fld.IMG_STATUS_CHECK_FAIL := by
  have heq : s.doShadowCheck =
      ({ s.diesServed img with img := { (s.diesServed img).img with shState := .failed } } : State).checkFails f := by
    simp only [State.doShadowCheck, hs, ha, hst, beq_self_eq_true, Bool.and_self, if_true, hf]
    rfl
  rw [heq, diesServed_img]
  exact checkFails_imagesShown _ _ f

theorem doShadowCheck_of_pass (hf : (s.shadowFail img).1 = none) : ∃ kept, ImagesShown (s.diesServed img)
    s.doShadowCheck { s.img with shState := .checked, shadow := some kept } Fld.IMG_STATUS_SHADOW_READY := by
  have heq : s.doShadowCheck = ({ s.diesServed img with img := { (s.diesServed img).img with
      shState := .checked, shadow := some { img with signed := s.isVd && img.isSigned } } } : State).raise
        Fld.IMG_STATUS_SHADOW_READY := by
    simp only [State.doShadowCheck, hs, ha, hst, beq_self_eq_true, Bool.and_self, if_true, hf]
    rfl
  rw [heq, diesServed_img]
  exact ⟨_, raise_imagesShown _ _ rfl (by decide) rfl⟩

end

theorem doShadowCheck_of_not_checking {s : State} (h : s.img.shState ≠ .checking) : s.doShadowCheck = s := by
  unfold State.doShadowCheck
  split <;> simp [h]

/-- Settles O27: each command and each outcome of the check by its equation, with the frame of what it ends in. -/
theorem shadowsAreCommandedAndChecked : Obligations.ShadowsAreCommandedAndChecked := by
  unfold Obligations.ShadowsAreCommandedAndChecked
  refine ⟨fun s ha => ⟨fun hv => ?die, fun hv hl hr => ?load, fun hv hbusy => ?loadRefused, ?emptied,
    fun c hc hl hr => ?recalled, fun h => ?recallRefused⟩, fun s img ha hs hst => ?check, fun s h => ?other⟩
  case die =>
    have hnone : s.doLoadLocal = s := by simp [State.doLoadLocal, hv]
    exact congrArg Host.Outcome.next hnone
  case load =>
    obtain ⟨himg, hframe⟩ := loseReady_spec s _ (doLoadLocal_of_free ha hv (shadowBusy_eq_false hl hr))
    refine ⟨_, rfl, ?_⟩
    rw [himg]
    exact ⟨rfl, rfl, rfl, rfl, hframe⟩
  case loadRefused =>
    obtain ⟨himg, hflag, hframe⟩ := refused_imagesShown s
    exact ⟨_, congrArg Host.Outcome.next (doLoadLocal_of_busy ha hv ((shadowBusy_iff s).2 hbusy)), himg, hflag, hframe⟩
  case emptied =>
    obtain ⟨himg, hframe⟩ := loseReady_spec s _ (doDiscard_of_awake ha)
    refine ⟨_, rfl, ?_⟩
    rw [himg]
    exact ⟨rfl, rfl, rfl, rfl, rfl, hframe⟩
  case recalled =>
    obtain ⟨himg, hready, hframe⟩ := doRecall_spec ha hc (shadowBusy_eq_false hl hr) rfl
    refine ⟨_, rfl, ?_⟩
    rw [himg]
    exact ⟨rfl, rfl, hc, rfl, hready, hframe⟩
  case recallRefused =>
    obtain ⟨himg, hflag, hframe⟩ := refused_imagesShown s
    exact ⟨_, congrArg Host.Outcome.next (doRecall_of_refused ha (h.imp_right (shadowBusy_iff s).2)), himg, hflag, hframe⟩
  case check =>
    cases hf : (s.shadowFail img).1 with
    | some f =>
      obtain ⟨himg, hflag, hframe⟩ := doShadowCheck_of_fail ha hs hst hf
      refine ⟨_, rfl, ?_⟩
      rw [himg]
      exact ⟨rfl, rfl, rfl, ⟨_, rfl, hframe⟩, fun g hg => ⟨rfl, Option.some.inj hg, hflag⟩, nofun⟩
    | none =>
      obtain ⟨_, himg, hflag, hframe⟩ := doShadowCheck_of_pass ha hs hst hf
      refine ⟨_, rfl, ?_⟩
      rw [himg]
      exact ⟨rfl, rfl, rfl, ⟨_, rfl, hframe⟩, nofun, fun _ => ⟨rfl, rfl, hflag⟩⟩
  case other => exact congrArg Host.Outcome.next (doShadowCheck_of_not_checking h)

end Sys2Proof.Machine
end

section
/-! PROOFS. The next set: its load from the committed image, and its checks when a port changes state (R195, R196, R402). -/

namespace Sys2Proof.Machine

/-! ### The load (R196) -/

/-- Reading the window takes a free value for the place, and requests on the memory port (R449). -/
theorem readWindow_onlyEvents (s : State) (shadow : Bool) (len : Nat) :
    OnlyEvents [] { s with free := (s.readWindow shadow len).free } (s.readWindow shadow len) := by
  unfold State.readWindow
  split
  · have hreqs := memReqs_onlyEvents { s with free := s.free + 1 } (beats (fun _ => .imageRead) false
      (s.ident.memImgBase * 2 ^ 23 + (if shadow then 2 ^ 22 else 0) +
        32 * (Config.imageGranule s.free % ((2 ^ 22 - min len (2 ^ 22)) / 32 + 1))) (min len (2 ^ 22)) [])
    have hfree := hreqs.free_eq
    dsimp only at hfree ⊢
    rwa [hfree]
  · exact .refl _ s

theorem readWindow_of_not_vsu {s : State} (h : s.isVsu = false) (shadow : Bool) (len : Nat) :
    s.readWindow shadow len = s := by
  simp [State.readWindow, h]

@[simp] theorem readWindow_img (s : State) (shadow : Bool) (len : Nat) : (s.readWindow shadow len).img = s.img :=
  (readWindow_onlyEvents s shadow len).img_eq

theorem flag_readWindow (s : State) (shadow : Bool) (len : Nat) (f : Fld) (hq : f.reg ≠ Reg.EVQ_STATUS) :
    (s.readWindow shadow len).flag f = s.flag f :=
  (readWindow_onlyEvents s shadow len).flag_eq f (by simp) hq

/-- The images with phase `p` as the next set: what it holds, its state, the image that it is from, whether a route alone
failed it, and the chain that it was loaded under. -/
def ImgSt.tried (x : ImgSt) (ps : Option PhaseSet) (st : NxState) (p : Nat) (src route chain : Bool) : ImgSt :=
  { x with next := ps, nxState := st, nxPhase := p, nxSrc := src, nxRoute := route, nxChain := chain }

/-- The unit whose next set a check fails as it is loaded. -/
def State.nextFails (s : State) (p : Nat) (src chain : Bool) (f : ChkFail) (ps : Option PhaseSet) : State :=
  ({ s with img := s.img.tried ps .failed p src (f.code == 0x10) chain } : State).checkFails f

/-- The unit whose next set passes every check. -/
def State.nextPasses (s : State) (p : Nat) (src chain : Bool) (ps : PhaseSet) : State :=
  { s with img := s.img.tried (some ps) .loaded p src false chain }

/-- What trying phase `p` of an image as the next set leaves alone, whether the set passes or fails. -/
structure NextTried (s t : State) (p : Nat) (src : Bool) : Prop where
  live : t.img.live = s.img.live
  phase : t.img.nxPhase = p
  source : t.img.nxSrc = src
  shadow : t.img.shadow = s.img.shadow
  frame : OnlyEvents [Reg.IMG_STATUS] { s with img := t.img, free := t.free } t
  free : s.isVsu = false → t.free = s.free

section

variable {s t : State} {p : Nat} {src : Bool}

theorem nextFails_shown (s : State) (p : Nat) (src chain : Bool) (f : ChkFail) (ps : Option PhaseSet) :
    ImagesShown s (s.nextFails p src chain f ps)
      { s.img.tried ps .failed p src (f.code == 0x10) chain with check := f } Fld.IMG_STATUS_CHECK_FAIL :=
  checkFails_imagesShown s _ f

theorem nextFails_tried (s : State) (p : Nat) (src chain : Bool) (f : ChkFail) (ps : Option PhaseSet) :
    NextTried s (s.nextFails p src chain f ps) p src := by
  obtain ⟨himg, -, hframe⟩ := nextFails_shown s p src chain f ps
  have hfree : (s.nextFails p src chain f ps).free = s.free := hframe.free_eq
  constructor
  case frame =>
    rw [himg, hfree]
    exact hframe
  case free => exact fun _ => hfree
  all_goals rw [himg]; rfl

theorem nextPasses_tried (s : State) (p : Nat) (src chain : Bool) (ps : PhaseSet) :
    NextTried s (s.nextPasses p src chain ps) p src := ⟨rfl, rfl, rfl, rfl, ⟨rfl, fun _ _ _ => rfl⟩, fun _ => rfl⟩

theorem NextTried.readWindow (h : NextTried s t p src) (b : Bool) (len : Nat) :
    NextTried s (t.readWindow b len) p src := by
  obtain ⟨hlive, hphase, hsrc, hshadow, ⟨heq, hreg⟩, hfree⟩ := h
  obtain ⟨keq, kreg⟩ := readWindow_onlyEvents t b len
  have hvsu : t.isVsu = s.isVsu := by rw [heq]; rfl
  constructor
  case frame =>
    refine ⟨?_, fun a ha hq => (kreg a (by simp) hq).trans (hreg a ha hq)⟩
    rw [readWindow_img, keq, heq]
  case free => exact fun hv => by rw [readWindow_of_not_vsu (hvsu.trans hv), hfree hv]
  all_goals rw [readWindow_img]; assumption

variable {img : Img} {chain : Bool}

theorem loadNext_of_none (h : s.ownEnt img = none) :
    s.loadNext img p src chain = s.nextFails p src chain { code := 0xB, phase := p } none := by
  simp only [State.loadNext, h]
  rfl

variable {e : DirEnt} (he : s.ownEnt img = some e)

include he

theorem loadNext_of_absent (h : p ≥ img.nPhases ∨ img.phOff e.secOff p = 0) :
    s.loadNext img p src chain = s.nextFails p src chain { code := 0xB, phase := p } none := by
  have habs : (decide (p ≥ img.nPhases) || decide (img.phOff e.secOff p = 0)) = true := by simpa using h
  simp only [State.loadNext, he, habs, if_true]
  rfl

theorem loadNext_of_fail (hp : p < img.nPhases) (ho : img.phOff e.secOff p ≠ 0) {f : ChkFail}
    (hf : s.setFail img e (img.phaseSet e.secOff p) chain = some f) : s.loadNext img p src chain =
      (s.nextFails p src chain f (some (img.phaseSet e.secOff p))).readWindow src e.secLen := by
  have hthere : (decide (p ≥ img.nPhases) || decide (img.phOff e.secOff p = 0)) = false := by simp [hp, ho]
  simp only [State.loadNext, he, hthere, Bool.false_eq_true, if_false, hf]
  rfl

theorem loadNext_of_pass (hp : p < img.nPhases) (ho : img.phOff e.secOff p ≠ 0)
    (hf : s.setFail img e (img.phaseSet e.secOff p) chain = none) : s.loadNext img p src chain =
      (s.nextPasses p src chain (img.phaseSet e.secOff p)).readWindow src e.secLen := by
  have hthere : (decide (p ≥ img.nPhases) || decide (img.phOff e.secOff p = 0)) = false := by simp [hp, ho]
  simp only [State.loadNext, he, hthere, Bool.false_eq_true, if_false, hf]
  rfl

end

section

variable {s t : State} {img : Img} {e : DirEnt}

theorem loadNext_tried (s : State) (img : Img) (p : Nat) (src chain : Bool) :
    NextTried s (s.loadNext img p src chain) p src := by
  cases he : s.ownEnt img with
  | none =>
    rw [loadNext_of_none he]
    exact nextFails_tried s p src chain _ _
  | some e =>
    by_cases h : p ≥ img.nPhases ∨ img.phOff e.secOff p = 0
    · rw [loadNext_of_absent he h]
      exact nextFails_tried s p src chain _ _
    · obtain ⟨hp, ho⟩ := not_or.1 h
      cases hf : s.setFail img e (img.phaseSet e.secOff p) chain with
      | some f =>
        rw [loadNext_of_fail he (Nat.not_le.1 hp) ho hf]
        exact (nextFails_tried s p src chain f _).readWindow src _
      | none =>
        rw [loadNext_of_pass he (Nat.not_le.1 hp) ho hf]
        exact (nextPasses_tried s p src chain _).readWindow src _

theorem doNextSetLoad_of_held (h : s.coreHeld 2 = true) : s.doNextSetLoad = s := by
  simp [State.doNextSetLoad, h]

theorem doNextSetLoad_of_running {l : PhaseSet} (ha : s.awake = true) (hc : s.coreHeld 2 = false)
    (hn : s.img.nxState = .none) (hst : s.cad.st = .running) (hl : s.img.live = some l) (hu : l.desc.successor < 16)
    (hi : s.img.committed = some img) : s.doNextSetLoad = s.loadNext img l.desc.successor false false := by
  have hwanted : s.nextWanted = some (l.desc.successor, false, false) := by simp [State.nextWanted, hst, hl, hu]
  simp only [State.doNextSetLoad, ha, hc, hn, hwanted, hi, Bool.not_false, Bool.and_self, beq_self_eq_true, if_true]

/-! ### The checks of a next set again (R195) -/

/-- The next set that the unit holds is of the committed image, and is checked when a port changes state. -/
structure NextHeld (s : State) (ps : PhaseSet) (img : Img) (e : DirEnt) : Prop where
  awake : s.awake = true
  next : s.img.next = some ps
  source : s.img.nxSrc = false
  image : s.img.committed = some img
  entry : s.ownEnt img = some e

/-- The unit whose next set fails a check made again. -/
def State.recheckFails (s : State) (f : ChkFail) : State :=
  ({ s with img := { s.img with nxState := .failed, nxRoute := f.code == 0x10 } } : State).checkFails f

variable {ps : PhaseSet} (h : NextHeld s ps img e)

include h

theorem doNextSetRecheck_of_pass
    (hst : s.img.nxState = .failed ∧ s.img.nxRoute = true) (hf : s.setFail img e ps s.img.nxChain = none) :
    s.doNextSetRecheck = { s with img := { s.img with nxState := .loaded, nxRoute := false } } := by
  obtain ⟨ha, hn, hsrc, hi, he⟩ := h
  simp [State.doNextSetRecheck, ha, hn, hsrc, hi, he, hst, hf]

theorem doNextSetRecheck_of_fail {f : ChkFail}
    (hst : s.img.nxState = .failed ∧ s.img.nxRoute = true) (hf : s.setFail img e ps s.img.nxChain = some f) :
    s.doNextSetRecheck = s.recheckFails f := by
  obtain ⟨ha, hn, hsrc, hi, he⟩ := h
  simp [State.doNextSetRecheck, ha, hn, hsrc, hi, he, hst, hf, State.recheckFails]

theorem doNextSetRecheck_of_loaded {f : ChkFail} (hst : s.img.nxState = .loaded)
    (hf : s.setFail img e ps s.img.nxChain = some f) : s.doNextSetRecheck = (s.recheckFails f).loseReady := by
  obtain ⟨ha, hn, hsrc, hi, he⟩ := h
  simp [State.doNextSetRecheck, ha, hn, hsrc, hi, he, hst, hf, State.recheckFails]

end

theorem recheckFails_shown (s : State) (f : ChkFail) : ImagesShown s (s.recheckFails f)
    { s.img with nxState := .failed, nxRoute := f.code == 0x10, check := f } Fld.IMG_STATUS_CHECK_FAIL :=
  checkFails_imagesShown s _ f

/-- Settles O29: the load and the checks made again, by their equations. -/
theorem nextSetLoadsOrFails : Obligations.NextSetLoadsOrFails := by
  unfold Obligations.NextSetLoadsOrFails
  refine ⟨fun s h => ?held, fun s l img ha hc hn hst hl hu hi => ?load, fun s ps img e ha hn hst hroute hsrc hi he => ?route,
    fun s ps img e f ha hn hst hsrc hi he hf => ?loaded⟩
  case held => exact congrArg Host.Outcome.next (doNextSetLoad_of_held h)
  case load =>
    obtain ⟨hlive, hphase, hsrc, hshadow, hframe, hfree⟩ := loadNext_tried s img l.desc.successor false false
    refine ⟨_, congrArg Host.Outcome.next (doNextSetLoad_of_running ha hc hn hst hl hu hi), hlive.trans hl, hphase, hsrc,
      hshadow, hframe, hfree, fun he => ?none, fun e he hp ho => ⟨fun f hf => ?fail, fun hf => ?pass⟩⟩
    case none =>
      obtain ⟨himg, hflag, -⟩ := nextFails_shown s l.desc.successor false false { code := 0xB, phase := l.desc.successor } none
      rw [loadNext_of_none he, himg]
      exact ⟨rfl, rfl, hflag⟩
    case fail =>
      obtain ⟨himg, hflag, -⟩ := nextFails_shown s l.desc.successor false false f (img.phaseSet e.secOff l.desc.successor)
      rw [loadNext_of_fail he hp ho hf, readWindow_img, flag_readWindow _ _ _ _ (by decide), himg]
      exact ⟨rfl, rfl, hflag⟩
    case pass =>
      rw [loadNext_of_pass he hp ho hf, readWindow_img]
      exact ⟨rfl, rfl⟩
  case route =>
    have hheld : NextHeld s ps img e := ⟨ha, hn, hsrc, hi, he⟩
    cases hf : s.setFail img e ps s.img.nxChain with
    | none =>
      exact ⟨_, congrArg Host.Outcome.next (doNextSetRecheck_of_pass hheld ⟨hst, hroute⟩ hf), ⟨rfl, fun _ _ _ => rfl⟩, hn,
        rfl, fun _ => rfl, nofun⟩
    | some f =>
      obtain ⟨himg, hflag, hframe⟩ := recheckFails_shown s f
      refine ⟨_, congrArg Host.Outcome.next (doNextSetRecheck_of_fail hheld ⟨hst, hroute⟩ hf), ?_⟩
      rw [himg]
      exact ⟨hframe, hn, rfl, nofun, fun g hg => ⟨rfl, Option.some.inj hg, hflag⟩⟩
  case loaded =>
    obtain ⟨himg, hflag, hframe⟩ := recheckFails_shown s f
    refine ⟨_, congrArg Host.Outcome.next (doNextSetRecheck_of_loaded ⟨ha, hn, hsrc, hi, he⟩ hst hf), ?_⟩
    rw [loseReady_img, loseReady_flag, himg]
    exact ⟨rfl, rfl, rfl, hflag, loseReady_onlyEvents hframe⟩

end Sys2Proof.Machine
end

section
/-! PROOFS. Images as they arrive and as a root sends them: tiles and what holds them, and the queues of the ports (R191 to
R194, R201). -/

namespace Sys2Proof.Machine

/-! ### Flits behind what waits on a port -/

section

variable (s : State) (p : Nat) (src : Option Nat)

theorem queueFlits_cons (f : Flit) (fs : List Flit) :
    s.queueFlits p src (f :: fs) = (s.queueFlit p src f).queueFlits p src fs := List.foldl_cons ..

theorem sendTiles_cons (id kind : Nat) (e : Nat × List Byte) (ts : List (Nat × List Byte)) :
    s.sendTiles p id kind (e :: ts) = (s.queueFlits p none (bcastFlits id e.1 kind e.2)).sendTiles p id kind ts :=
  List.foldl_cons ..

theorem port_queueFlits_ne {q : Nat} (hq : q ≠ p) (fs : List Flit) : (s.queueFlits p src fs).port q = s.port q := by
  induction fs generalizing s with
  | nil => rfl
  | cons f fs ih => rw [queueFlits_cons, ih, State.queueFlit, State.port_setPort_ne s p q _ hq]

/-- Flits of one level stand in their order behind what waits in that level's queue. -/
theorem q_queueFlits {l : Nat} {fs : List Flit} (hlev : ∀ f ∈ fs, f.level = l) (hl : l < (s.port p).q.length) :
    ((s.queueFlits p src fs).port p).q = (s.port p).q.set l ((s.port p).q.getD l [] ++ fs.map fun f => (src, f)) := by
  induction fs generalizing s with
  | nil => simp [State.queueFlits, hl]
  | cons f fs ih =>
    obtain ⟨hf, hfs⟩ := List.forall_mem_cons.1 hlev
    have hq : ((s.queueFlit p src f).port p).q = (s.port p).q.set l ((s.port p).q.getD l [] ++ [(src, f)]) := by
      rw [State.queueFlit, State.port_setPort_self, hf]
      rfl
    rw [queueFlits_cons, ih _ hfs (by simpa [hq] using hl), hq, List.set_set]
    simp [hl]

theorem port_sendTiles_ne {q : Nat} (hq : q ≠ p) (id kind : Nat) (ts : List (Nat × List Byte)) :
    (s.sendTiles p id kind ts).port q = s.port q := by
  induction ts generalizing s with
  | nil => rfl
  | cons e ts ih => rw [sendTiles_cons, ih, port_queueFlits_ne s p none hq]

theorem level_of_mem_bcastFlits {id tile kind : Nat} {b : List Byte} {f : Flit} (h : f ∈ bcastFlits id tile kind b) :
    f.level = 0 := by
  obtain ⟨i, -, rfl⟩ := List.mem_map.1 h
  rfl

/-- The flits of tiles, in their order, behind what waits. -/
theorem q_sendTiles (hl : 0 < (s.port p).q.length) (id kind : Nat) (ts : List (Nat × List Byte)) :
    ((s.sendTiles p id kind ts).port p).q = (s.port p).q.set 0 ((s.port p).q.getD 0 [] ++
      ts.flatMap fun e => (bcastFlits id e.1 kind e.2).map fun f => (none, f)) := by
  induction ts generalizing s with
  | nil => simp [State.sendTiles, hl]
  | cons e ts ih =>
    have hq := q_queueFlits s p none (fun f => level_of_mem_bcastFlits) hl (fs := bcastFlits id e.1 kind e.2)
    rw [sendTiles_cons, ih _ (by simpa [hq] using hl), hq, List.set_set]
    simp [hl]

end

/-! ### A root's broadcast (R191, R192) -/

/-- Tiles of an image go out on each of a list of ports. -/
def State.sendTilesOn (s : State) (ps : List Nat) (id kind : Nat) (ts : List (Nat × List Byte)) : State :=
  ps.foldl (fun t p => t.sendTiles p id kind ts) s

section

variable (s : State) (id kind : Nat) (ts : List (Nat × List Byte))

theorem sendTilesOn_justPorts (ps : List Nat) : JustPorts s (s.sendTilesOn ps id kind ts) :=
  JustPorts.foldl (fun t p => sendTiles_justPorts t p id kind ts) ps s

theorem sendTilesOn_cons (p : Nat) (ps : List Nat) :
    s.sendTilesOn (p :: ps) id kind ts = (s.sendTiles p id kind ts).sendTilesOn ps id kind ts := List.foldl_cons ..

theorem port_sendTilesOn_of_not_mem {ps : List Nat} {q : Nat} (hq : q ∉ ps) :
    (s.sendTilesOn ps id kind ts).port q = s.port q := by
  induction ps generalizing s with
  | nil => rfl
  | cons p ps ih =>
    obtain ⟨hne, hrest⟩ := List.ne_and_not_mem_of_not_mem_cons hq
    rw [sendTilesOn_cons, ih _ hrest, port_sendTiles_ne s p hne]

theorem q_sendTilesOn_of_mem {ps : List Nat} (hn : ps.Nodup) {q : Nat} (hq : q ∈ ps) (hl : 0 < (s.port q).q.length) :
    ((s.sendTilesOn ps id kind ts).port q).q = (s.port q).q.set 0 ((s.port q).q.getD 0 [] ++
      ts.flatMap fun e => (bcastFlits id e.1 kind e.2).map fun f => (none, f)) := by
  induction ps generalizing s with
  | nil => simp at hq
  | cons p ps ih =>
    obtain ⟨hp, hps⟩ := List.nodup_cons.1 hn
    rw [sendTilesOn_cons]
    by_cases hpq : q = p
    · subst hpq
      rw [port_sendTilesOn_of_not_mem _ id kind ts hp, q_sendTiles s q hl]
    · have hsame := port_sendTiles_ne s p hpq id kind ts
      rw [ih _ hps ((List.mem_cons.1 hq).resolve_left hpq) (by rwa [hsame]), hsame]

end

section

variable (s : State)

/-- Where the image lies that a root sends, and its length (R190, R191). -/
def State.loadBase : Nat := (s.reg Reg.IMG_LOAD_BASE).toNat % 2 ^ 40
def State.loadLen : Nat := (s.reg Reg.IMG_LOAD_LEN).toNat % 2 ^ 40

/-- Its IMAGE_ID, and its tiles in their order. -/
def State.loadId : Nat := fieldAt (Memory.readBytes s.fab.ram (s.loadBase + 8) 4) 0 4
def State.loadTiles : List (Nat × List Byte) :=
  (upto ((s.loadLen + tileBytes - 1) / tileBytes)).map fun i => (i, s.ramTile s.loadBase s.loadLen i)

/-- The ports of the fixed tree that are UP (R192). -/
def State.fixedPorts : List Nat := (upto 64).filter fun p => s.portUp p && s.portFixed p

theorem mem_fixedPorts (p : Nat) : p ∈ s.fixedPorts ↔ p < 64 ∧ s.portUp p = true ∧ s.portFixed p = true := by
  simp [State.fixedPorts, upto]

theorem nodup_fixedPorts : s.fixedPorts.Nodup := List.nodup_range.filter _

theorem doBroadcast_of_root {s : State} (hr : s.isRoot = true) (ha : s.awake = true) :
    s.doBroadcast = s.sendTilesOn s.fixedPorts s.loadId 0 s.loadTiles := by
  simp only [State.doBroadcast, hr, ha, Bool.and_self, if_true]
  rfl

theorem loadId_eq : s.loadId = leNat (Memory.readBytes s.fab.ram (s.loadBase + 8) 4) := by
  rw [State.loadId, fieldAt, List.drop_zero, List.take_of_length_le (Memory.readBytes_length _ _ _).le]

end

/-! ### What a unit sends on of a tile (R192, R193) -/

theorem forwardTile_justPorts (s : State) (port kind : Nat) (old img : Img) (tile : Nat) (bytes : List Byte) :
    JustPorts s (s.forwardTile port kind old img tile bytes) := by
  unfold State.forwardTile
  split
  · split
    · exact .foldl (fun t p => sendTiles_justPorts t p _ _ _) _ s
    · exact .refl s
  · split
    · split
      · exact .foldl (fun t p => sendTiles_justPorts t p _ _ _) _ s
      · exact .foldl (fun t p => sendTiles_justPorts t p _ _ _) _ s
    · exact .refl s

/-- A tile behind the memory port of a VSU takes a free value for its place (R449). -/
theorem storeTile_onlyEvents (s : State) (bytes : List Byte) :
    OnlyEvents [] { s with free := (s.storeTile bytes).free } (s.storeTile bytes) := by
  unfold State.storeTile
  split
  · exact .refl _ s
  · have hreqs := memReqs_onlyEvents { s with free := s.free + 1 } (beats (fun _ => .imageWrite) true
      (s.ident.memImgBase * 2 ^ 23 + 2 ^ 22 + 32 * (Config.imageGranule s.free % 130960)) tileBytes bytes)
    have hfree := hreqs.free_eq
    dsimp only at hfree ⊢
    rwa [hfree]

/-- `t` is `s` with the images `x`, as far as an accepted tile leaves it alone: hall time, the cadence and main memory. -/
structure TileKept (s t : State) (x : ImgSt) : Prop where
  img : t.img = x
  time : t.time = s.time
  cad : t.cad = s.cad
  ram : t.fab.ram = s.fab.ram

theorem JustPorts.tileKept {s t : State} {x : ImgSt} (h : JustPorts { s with img := x } t) : TileKept s t x where
  img := h.img_eq
  time := h.time_eq
  cad := h.cad_eq
  ram := h.ram_eq

theorem TileKept.storeTile {s t : State} {x : ImgSt} (h : TileKept s t x) (bytes : List Byte) :
    TileKept s (t.storeTile bytes) x where
  img := (storeTile_onlyEvents t bytes).img_eq.trans h.img
  time := (storeTile_onlyEvents t bytes).time_eq.trans h.time
  cad := (storeTile_onlyEvents t bytes).cad_eq.trans h.cad
  ram := (storeTile_onlyEvents t bytes).ram_eq.trans h.ram

/-! ### Tiles that arrive (R193, R194, R201) -/

/-- An image of one tile, and an image with one more. -/
def Img.ofTile (id tile : Nat) (b : List Byte) : Img := { id, tiles := [(tile, b)] }
def Img.withTile (img : Img) (tile : Nat) (b : List Byte) : Img := { img with tiles := img.tiles.set tile b }

/-- The state of a shadow that has taken a tile: what was on its way is to be checked once it holds what the unit needs. -/
def State.shStateWith (s : State) (st : ShState) (img : Img) : ShState :=
  if st == .receiving && s.complete img then .checking else st

section

variable {s : State} {p id tile : Nat} {b : List Byte}

/-- Another image's tile under a locked shadow (R201). -/
theorem imageTile_of_foreign (ho : ∀ img, s.img.shadow = some img → img.id ≠ id) (hl : s.img.lock = true) :
    s.imageTile p id tile b = s.setBit Fld.IMG_STATUS_FOREIGN := by
  cases hs : s.img.shadow with
  | none => simp [State.imageTile, hs, hl]
  | some img => simp [State.imageTile, hs, hl, ho img hs]

theorem imageTile_of_copy {img : Img} (hs : s.img.shadow = some img) (hid : img.id = id) (hh : img.tiles.has tile = true) :
    s.imageTile p id tile b = s := by
  simp [State.imageTile, hs, hid, hh]

theorem imageTile_of_further {img : Img} (hs : s.img.shadow = some img) (hid : img.id = id)
    (hn : img.tiles.has tile = false) : s.imageTile p id tile b =
      (({ s with img := { s.img with
          shadow := some (img.withTile tile b), shState := s.shStateWith s.img.shState (img.withTile tile b) } } :
        State).forwardTile p 0 img (img.withTile tile b) tile b).storeTile b := by
  subst hid
  simp only [State.imageTile, hs, beq_self_eq_true, if_true, Option.isNone_some, Bool.false_and, Bool.false_eq_true,
    if_false, Option.getD_some, hn]
  rfl

theorem imageTile_of_first (ho : ∀ img, s.img.shadow = some img → img.id ≠ id) (hl : s.img.lock = false) :
    s.imageTile p id tile b =
      ((({ s with img := s.img.newShadow (Img.ofTile id tile b) (s.shStateWith .receiving (Img.ofTile id tile b)) } :
        State).forwardTile p 0 { id } (Img.ofTile id tile b) tile b).storeTile b).loseReady := by
  cases hs : s.img.shadow with
  | none =>
    simp only [State.imageTile, hs, hl, Option.isNone_none, Bool.and_false, Bool.false_eq_true, if_false,
      Option.getD_none, if_true]
    rfl
  | some img =>
    have hne : (img.id == id) = false := by simpa using ho img hs
    simp only [State.imageTile, hs, hl, hne, Option.isNone_none, Bool.and_false, Bool.false_eq_true, if_false,
      Option.getD_none, if_true]
    rfl

theorem paramTile_of_copy (hh : (s.img.params.get id []).has tile = true) : s.paramTile p id tile b = s := by
  simp [State.paramTile, hh]

theorem paramTile_of_new (hn : (s.img.params.get id []).has tile = false) : s.paramTile p id tile b =
    ({ s with img := { s.img with params := s.img.params.set id ((s.img.params.get id []).set tile b) } } :
      State).forwardTile p 1 { id } { id } tile b := by
  simp [State.paramTile, hn]

theorem doBcastTileRx_of_bad {kind crc : Nat} (hlen : b.length = tileBytes) (hc : crc64 b ≠ crc) :
    s.doBcastTileRx p id tile kind b crc = s := by
  simp [State.doBcastTileRx, ← hlen, padTo_self, hc]

theorem doBcastTileRx_of_good {kind : Nat} (ha : s.awake = true) (hu : s.portUp p = true) (hlen : b.length = tileBytes) :
    s.doBcastTileRx p id tile kind b (crc64 b) =
      if kind = 0 then s.imageTile p id tile b else if kind = 1 then s.paramTile p id tile b else s := by
  simp [State.doBcastTileRx, ← hlen, padTo_self, ha, hu]

end

/-- Settles O28: a tile by what the shadow holds of its image, and a root's flits queue by queue. -/
theorem imagesAreBroadcastAndKept : Obligations.ImagesAreBroadcastAndKept := by
  unfold Obligations.ImagesAreBroadcastAndKept
  refine ⟨fun s p id tile b crc ha hu hlen => ⟨fun hc kind => ?bad, fun hc => ?good⟩, fun s hr ha => ?broadcast⟩
  case bad => exact congrArg Host.Outcome.next (doBcastTileRx_of_bad hlen hc)
  case good =>
    subst hc
    have himage : exec (.bcastTileRx p id tile 0 b (crc64 b)) s = .next (s.imageTile p id tile b) :=
      congrArg Host.Outcome.next (doBcastTileRx_of_good ha hu hlen)
    have hparam : exec (.bcastTileRx p id tile 1 b (crc64 b)) s = .next (s.paramTile p id tile b) :=
      congrArg Host.Outcome.next (doBcastTileRx_of_good ha hu hlen)
    rw [himage, hparam]
    refine ⟨fun ho hl => ?foreign, fun img hs hid hh => ?copy, fun img hs hid hn => ?further, fun ho hl => ?first,
      fun hn => ?param, fun hh => ?paramCopy⟩
    case foreign =>
      rw [imageTile_of_foreign ho hl]
      exact ⟨_, rfl, State.flag_setBit s _ (by decide) (by decide), setBit_onlyRegs s _⟩
    case copy => rw [imageTile_of_copy hs hid hh]
    case further =>
      obtain ⟨himg, htime, hcad, hram⟩ := (forwardTile_justPorts _ p 0 img (img.withTile tile b) tile b).tileKept.storeTile b
      rw [imageTile_of_further hs hid hn]
      refine ⟨_, rfl, ?_⟩
      rw [himg]
      exact ⟨rfl, rfl, rfl, hram, htime, hcad⟩
    case first =>
      obtain ⟨himg, htime, -, hram⟩ :=
        (forwardTile_justPorts _ p 0 { id } (Img.ofTile id tile b) tile b).tileKept.storeTile b
      rw [imageTile_of_first ho hl]
      refine ⟨_, Img.ofTile id tile b, rfl, ?_⟩
      rw [loseReady_img, loseReady_ram, loseReady_time, himg]
      exact ⟨rfl, rfl, rfl, rfl, rfl, hram, htime⟩
    case param =>
      obtain ⟨himg, htime, -, hram⟩ := (forwardTile_justPorts _ p 1 { id } { id } tile b).tileKept
      rw [paramTile_of_new hn]
      refine ⟨_, rfl, ?_⟩
      rw [himg, Tab.get_set_self, Tab.get_set_self]
      exact ⟨rfl, rfl, hram, htime⟩
    case paramCopy => rw [paramTile_of_copy hh]
  case broadcast =>
    refine ⟨_, congrArg Host.Outcome.next (doBroadcast_of_root hr ha), sendTilesOn_justPorts s _ 0 _ _, fun p =>
      ⟨fun h => ?others, fun hp hu hf hq => ?tree⟩⟩
    case others => exact port_sendTilesOn_of_not_mem s _ 0 _ (mt (mem_fixedPorts s p).1 h)
    case tree =>
      have hmem := (mem_fixedPorts s p).2 ⟨hp, hu, hf⟩
      rw [q_sendTilesOn_of_mem s _ 0 _ (nodup_fixedPorts s) hmem (by omega), List.getD_eq_getElem _ _ (by simp [hq]),
        List.getElem_set_self, loadId_eq, State.loadTiles, List.flatMap_map]
      rfl

end Sys2Proof.Machine
end

section
/-! PROOFS. Side slots, scheduled SIGNALs, and the commit of the tables of routes (R230, R233, R249, R253). -/

namespace Sys2Proof.Machine

/-! ### Side slots (R230) -/

theorem nPorts_of_isVd {s : State} (h : s.isVd = true) : s.nPorts = 64 := by
  simp only [State.isVd, beq_iff_eq] at h
  simp [State.nPorts, h, Config.ports]

theorem pushTx_justPorts (s : State) (p : Nat) (sched : Bool) (f : Flit) : JustPorts s (s.pushTx p sched f) := rfl

/-- `y` is `x` but for the credits that the port owes its peer. -/
def OwesOnly (x y : PortSt) : Prop := y = { x with owedCr := y.owedCr }

theorem OwesOnly.refl (x : PortSt) : OwesOnly x x := rfl

theorem OwesOnly.trans {x y z : PortSt} (h : OwesOnly x y) (k : OwesOnly y z) : OwesOnly x z := by
  unfold OwesOnly at h k ⊢
  rw [k, h]

theorem freeBuf_justPorts (s : State) (src : Option Nat) (l : Nat) : JustPorts s (s.freeBuf src l) := by
  cases src with
  | none => exact .refl s
  | some p => exact setPort_justPorts s p _

/-- A flit that leaves the buffer of the port that it came from gives that port's peer a credit. -/
theorem port_freeBuf (s : State) (src : Option Nat) (l q : Nat) : OwesOnly (s.port q) ((s.freeBuf src l).port q) := by
  cases src with
  | none => exact .refl _
  | some p =>
    rw [State.freeBuf, State.giveCredit]
    by_cases hq : q = p
    · rw [hq, State.port_setPort_self]
      rfl
    · rw [State.port_setPort_ne _ _ _ _ hq]
      exact .refl _

/-- The level that a side slot serves (R230). -/
def PortSt.sideLevel (x : PortSt) : Option Nat :=
  (afterLevel x.lastLvl).find? fun l => !(x.q.getD l []).isEmpty && decide (0 < x.credits.getD l 0)

/-- The port that has taken a flit out of its queue of a level. -/
def PortSt.served (x : PortSt) (now l : Nat) (r : List (Option Nat × Flit)) : PortSt :=
  { x with
    q := setAt x.q l r, credits := setAt x.credits l (x.credits.getD l 0 - 1), lastLvl := l,
    zeroAt := if x.credits.getD l 0 - 1 = 0 then setAt x.zeroAt l (some now) else x.zeroAt }

section

variable {s : State} {p : Nat}

theorem sideSlot_of_resend (hon : s.flitsOn p = true) {f : Flit} {r : List Flit} (hr : (s.port p).resendSide = f :: r) :
    s.sideSlot p = s.setPort p { s.port p with resendSide := r, txq := (s.port p).txq ++ [f] } := by
  simp only [State.sideSlot, hon, hr, Bool.not_true, Bool.false_eq_true, if_false]

theorem sideSlot_of_level (hon : s.flitsOn p = true) (hr : (s.port p).resendSide = []) {l : Nat}
    (hl : (s.port p).sideLevel = some l) {src : Option Nat} {g : Flit} {r : List (Option Nat × Flit)}
    (hq : (s.port p).q.getD l [] = (src, g) :: r) :
    s.sideSlot p = ((s.setPort p ((s.port p).served s.time.now l r)).pushTx p false g).freeBuf src l := by
  unfold PortSt.sideLevel at hl
  simp only [State.sideSlot, PortSt.served, hon, hr, hl, hq, Bool.not_true, Bool.false_eq_true, if_false]

/-- Once for all, what a side slot can do: nothing, a resend, or a flit of a level. -/
theorem sideSlot_cases (s : State) (p : Nat) : s.sideSlot p = s ∨ (∃ x, s.sideSlot p = s.setPort p x) ∨
    ∃ x g src l, s.sideSlot p = ((s.setPort p x).pushTx p false g).freeBuf src l := by
  unfold State.sideSlot
  dsimp only
  split
  · exact .inl rfl
  · split
    · exact .inr (.inl ⟨_, rfl⟩)
    · split
      · exact .inl rfl
      · split
        · exact .inl rfl
        · exact .inr (.inr ⟨_, _, _, _, rfl⟩)

theorem sideSlot_justPorts (s : State) (p : Nat) : JustPorts s (s.sideSlot p) := by
  obtain h | ⟨x, h⟩ | ⟨x, g, src, l, h⟩ := sideSlot_cases s p
  · rw [h]
    exact .refl s
  · rw [h]
    exact setPort_justPorts s p x
  · rw [h]
    exact ((setPort_justPorts s p x).trans (pushTx_justPorts _ p false g)).trans (freeBuf_justPorts _ src l)

theorem port_pushTx_ne (s : State) (p : Nat) (sched : Bool) (f : Flit) {q : Nat} (hq : q ≠ p) :
    (s.pushTx p sched f).port q = s.port q := State.port_setPort_ne s p q _ hq

/-- Another port's side slot. -/
theorem port_sideSlot_ne (s : State) {p q : Nat} (hq : q ≠ p) : OwesOnly (s.port q) ((s.sideSlot p).port q) := by
  obtain h | ⟨x, h⟩ | ⟨x, g, src, l, h⟩ := sideSlot_cases s p
  · rw [h]
    exact .refl _
  · rw [h, State.port_setPort_ne s p q x hq]
    exact .refl _
  · have howes := port_freeBuf ((s.setPort p x).pushTx p false g) src l q
    rwa [port_pushTx_ne _ p false g hq, State.port_setPort_ne s p q x hq, ← h] at howes

/-- What a side slot on a port that carries flits takes and sends, from the port before it and after it. -/
structure SideSent (x y : PortSt) : Prop where
  resend : ∀ f r, x.resendSide = f :: r → y.txq = x.txq ++ [f] ∧ y.resendSide = r ∧ y.credits = x.credits
  level : ∀ l g src r, x.resendSide = [] → x.sideLevel = some l → x.q.getD l [] = (src, g) :: r →
    y.txq = x.txq ++ [{ g with lseq := x.lseqTx }] ∧ y.q.getD l [] = r ∧
      y.credits.getD l 0 = x.credits.getD l 0 - 1 ∧ y.lastLvl = l

theorem SideSent.of_owes {x x' y' y : PortSt} (h : SideSent x' y') (hx : OwesOnly x x') (hy : OwesOnly y' y) :
    SideSent x y := by
  unfold OwesOnly at hx hy
  rw [hx] at h
  rw [hy]
  exact ⟨h.resend, h.level⟩

theorem sideSlot_sent (hon : s.flitsOn p = true) : SideSent (s.port p) ((s.sideSlot p).port p) where
  resend f r hr := by
    rw [sideSlot_of_resend hon hr, State.port_setPort_self]
    exact ⟨rfl, rfl, rfl⟩
  level l g src r hr hl hq := by
    have hfound := List.find?_some hl
    have hcred : l < (s.port p).credits.length := by
      by_contra hno
      simp [List.getElem?_eq_none (not_lt.1 hno)] at hfound
    have hlev : l < (s.port p).q.length := by
      by_contra hno
      simp [List.getElem?_eq_none (not_lt.1 hno)] at hq
    rw [sideSlot_of_level hon hr hl hq, port_freeBuf ((s.setPort p ((s.port p).served s.time.now l r)).pushTx p false g) src l p]
    rw [State.pushTx, State.port_setPort_self, State.port_setPort_self]
    simp [PortSt.served, setAt, hcred, hlev]

end

/-- A slot while no pass runs: a side slot of each of a list of ports (R191). -/
def State.sideSlots (s : State) (ps : List Nat) : State := ps.foldl (fun u p => u.sideSlot p) s

section

variable {s : State}

theorem sideSlots_cons (s : State) (a : Nat) (ps : List Nat) :
    s.sideSlots (a :: ps) = (s.sideSlot a).sideSlots ps := List.foldl_cons ..

theorem sideSlots_justPorts (s : State) (ps : List Nat) : JustPorts s (s.sideSlots ps) :=
  .foldl sideSlot_justPorts ps s

theorem port_sideSlots_of_not_mem {ps : List Nat} {p : Nat} (hp : p ∉ ps) :
    OwesOnly (s.port p) ((s.sideSlots ps).port p) := by
  induction ps generalizing s with
  | nil => exact .refl _
  | cons a ps ih =>
    obtain ⟨hne, hrest⟩ := List.ne_and_not_mem_of_not_mem_cons hp
    rw [sideSlots_cons]
    exact (port_sideSlot_ne s hne).trans (ih hrest)

theorem flitsOn_of_owes {t : State} {p : Nat} (h : OwesOnly (s.port p) (t.port p)) (ht : t.tdc = s.tdc) :
    t.flitsOn p = s.flitsOn p := by
  unfold OwesOnly at h
  rw [State.flitsOn, h, ht]
  rfl

theorem sideSlots_sent {ps : List Nat} (hn : ps.Nodup) {p : Nat} (hp : p ∈ ps) (hon : s.flitsOn p = true) :
    SideSent (s.port p) ((s.sideSlots ps).port p) := by
  induction ps generalizing s with
  | nil => simp at hp
  | cons a ps ih =>
    obtain ⟨ha, hps⟩ := List.nodup_cons.1 hn
    rw [sideSlots_cons]
    by_cases hpa : p = a
    · subst hpa
      exact (sideSlot_sent hon).of_owes (.refl _) (port_sideSlots_of_not_mem ha)
    · have howes := port_sideSlot_ne s hpa
      have hon' := (flitsOn_of_owes howes (sideSlot_justPorts s a).tdc_eq).trans hon
      exact (ih hps ((List.mem_cons.1 hp).resolve_left hpa) hon').of_owes howes (.refl _)

theorem dieRelease_of_none (h : s.fab.dieWait = []) : s.dieRelease = s := by
  simp [State.dieRelease, h]

theorem doSlotStart_of_no_pass (ha : s.awake = true) (hp : s.fab.passAt = none) (hd : s.fab.dieWait = []) :
    s.doSlotStart = s.sideSlots (upto s.nPorts) := by
  simp only [State.doSlotStart, ha, dieRelease_of_none hd, hp, Bool.not_true, Bool.false_eq_true, if_false]
  rfl

end

/-! ### Scheduled SIGNALs (R253) -/

section

variable {s : State} {p n phys inc : Nat} {r : List (Nat × Nat × Nat)} (hw : (s.port p).sigWait = (n, phys, inc) :: r)

include hw

theorem doSchedSignalApply_of_waiting (h : ∃ i, i < n ∧ s.unitConsumed p i = false) : s.doSchedSignalApply p = s := by
  have hall : ((upto n).all fun i => s.unitConsumed p i) = false := by simpa [upto] using h
  simp only [State.doSchedSignalApply, hw, hall, Bool.false_eq_true, if_false]

theorem doSchedSignalApply_of_consumed (h : ∀ i, i < n → s.unitConsumed p i = true) (hphys : phys < s.nSpk)
    (hl : (s.meta phys).st = .live) (hr : s.holdsRejected = false) :
    s.doSchedSignalApply p = (s.setPort p { s.port p with sigWait := r }).applySignal phys inc := by
  have hall : ((upto n).all fun i => s.unitConsumed p i) = true := by simpa [upto] using h
  have hok : (s.spkStatusOf phys).1 = 0 := by simp [State.spkStatusOf, Nat.not_le.2 hphys, hl]
  simp only [State.doSchedSignalApply, hw, hall, hok, if_true]
  exact signalIn_of_not_holds (by exact hr) _ _ _ _

end

theorem applySignal_port (s : State) (phys inc p : Nat) : (s.applySignal phys inc).port p = s.port p :=
  congrArg (fun t : Tab PortSt => t.get p {}) (wake_spec (s.setVal phys (s.incVal phys inc)) phys).frame.ports_eq

/-! ### The tables of routes (R233, R249) -/

theorem doRouteCommit_of_running {s : State} (hv : s.isVd = true) (ha : s.awake = true) (hst : s.cad.st = .running) :
    s.doRouteCommit = { s with fab := { s.fab with routeP := true } } := by
  simp [State.doRouteCommit, State.notRunning, State.setFab, hv, ha, hst]

theorem doRouteCommit_of_rest {s : State} (hv : s.isVd = true) (ha : s.awake = true) (hst : s.cad.st ≠ .running) :
    s.doRouteCommit = s.commitRoutes := by
  simp [State.doRouteCommit, State.notRunning, hv, ha, hst]

/-- The commit takes up both tables, and holds the pairs whose route changes. -/
theorem commitRoutes_spec (s : State) {t : State} (ht : t = s.commitRoutes) :
    t.flag Fld.XF_STATUS_ROUTE_COMMIT = true ∧ OnlyEvents [Reg.XF_STATUS] { s with fab := { s.fab with
      dnoAct := s.tableOf Reg.XF_DNO 4096, podAct := s.tableOf Reg.XF_POD_ROUTE 32, routeP := false,
      holdDst := t.fab.holdDst, holdDie := t.fab.holdDie } } t := by
  obtain ⟨dst, die, heq⟩ : ∃ dst die, s.commitRoutes = ({ s with fab := { s.fab with
      dnoAct := s.tableOf Reg.XF_DNO 4096, podAct := s.tableOf Reg.XF_POD_ROUTE 32, routeP := false,
      holdDst := dst, holdDie := die } } : State).raise Fld.XF_STATUS_ROUTE_COMMIT := ⟨_, _, rfl⟩
  rw [heq] at ht
  have hframe := raise_onlyEvents ({ s with fab := { s.fab with
      dnoAct := s.tableOf Reg.XF_DNO 4096, podAct := s.tableOf Reg.XF_POD_ROUTE 32, routeP := false,
      holdDst := dst, holdDie := die } } : State) Fld.XF_STATUS_ROUTE_COMMIT
  rw [← ht] at hframe
  have hdst : t.fab.holdDst = dst := by rw [hframe.1]
  have hdie : t.fab.holdDie = die := by rw [hframe.1]
  rw [hdst, hdie]
  exact ⟨by rw [ht, State.flag_raise _ _ (by decide) (by decide) (by decide)], hframe⟩

end Sys2Proof.Machine
end

section
/-! PROOFS. A slot whose one table entry forwards a receive port to a port (R175 to R177, R225), and the slots of a unit
(R191, R230, R233, R253). -/

namespace Sys2Proof.Machine

/-! ### What a table leaves out does not act -/

section

variable {s : State} {ps : PhaseSet}

theorem startRuns_of_no_cmbs (h : ps.cmbs = []) (t : Nat) : s.startRuns ps t = s := by
  simp [State.startRuns, h, upto]

theorem readRecords_of_no_cmbs (h : ps.cmbs = []) (t : Nat) : s.readRecords ps t = s := by
  simp [State.readRecords, State.recordRows, h]

theorem landWrites_of_none (hw : s.stg.writes = []) (ha : s.stg.accs = []) : s.landWrites = s := by
  simp [State.landWrites, hw, ha]

theorem recheckShort_of_none (h : s.fab.asm = []) : s.recheckShort = s := by
  simp [State.recheckShort, h]

theorem lateOut_of_no_entry {t o : Nat} (h : entryAt ps o t = none) : s.lateOut ps t o = s := by
  simp only [State.lateOut, h]

theorem slotAction_of_no_entry {t o : Nat} (h : entryAt ps o t = none) : s.slotAction ps t o = s := by
  simp only [State.slotAction, h]

/-- A port that forwards in a slot does nothing beside it. -/
theorem slotAction_of_forward {t o off : Nat} {r : Run} (h : entryAt ps o t = some (r, off)) (ha : r.action = 1)
    (ho : s.isPortOut o = true) : s.slotAction ps t o = s := by
  simp [State.slotAction, h, ha, ho]

end

/-! ### A table of one entry -/

/-- The set has no instruction, and its table is one run, which forwards source `src` to output `o` in every slot. -/
structure OneForward (ps : PhaseSet) (r : Run) (o src : Nat) : Prop where
  cmbs : ps.cmbs = []
  outs : ps.outs = List.replicate o [] ++ [[r]]
  action : r.action = 1
  source : r.source = src
  len : r.len = ps.desc.tableSlots
  pos : 0 < r.len

theorem filterMap_upto_of_single {α : Type} {f : Nat → Option α} {n o : Nat} {v : α} (ho : o < n) (hv : f o = some v)
    (hne : ∀ x, x ≠ o → f x = none) : (upto n).filterMap f = [v] := by
  unfold upto
  induction n with
  | zero => omega
  | succ n ih =>
    rw [List.range_succ, List.filterMap_append]
    obtain hlt | rfl := Nat.lt_succ_iff_lt_or_eq.1 ho
    · simp [ih hlt, hne n (by omega)]
    · have hnone : (List.range o).filterMap f = [] :=
        List.filterMap_eq_nil_iff.2 fun x hx => hne x (by have := List.mem_range.1 hx; omega)
      simp [hnone, hv]

section

variable {s : State} {ps : PhaseSet} {r : Run} {o src : Nat} (h : OneForward ps r o src)

include h

theorem OneForward.slots_eq : max 1 ps.desc.tableSlots = r.len := by
  rw [← h.len]
  exact max_eq_right h.pos

theorem OneForward.entryAt_self {t : Nat} (ht : t < r.len) : entryAt ps o t = some (r, t) := by
  rw [entryAt, h.outs, List.getD_append_right _ _ _ _ (by simp)]
  simp [runAt, ht]

theorem OneForward.entryAt_ne {x : Nat} (hx : x ≠ o) (t : Nat) : entryAt ps x t = none := by
  have hnil : ps.outs.getD x [] = [] := by
    rw [h.outs]
    obtain hlt | hgt := Nat.lt_or_gt_of_ne hx
    · rw [List.getD_append _ _ _ _ (by simpa using hlt)]
      simp
    · exact List.getD_eq_default _ _ (by simp; omega)
  rw [entryAt, hnil]
  rfl

theorem OneForward.names_self {t : Nat} (ht : t < r.len) : names ps o t src = true := by
  simp [names, h.entryAt_self ht, carries, h.action, h.source]

theorem OneForward.sourcesOf_eq (hs : src < 127) : sourcesOf ps = [src] := by
  have hnamed : (fun x => ps.outs.any fun l => l.any fun q => carries q && q.source == x) = fun x => x == src := by
    funext x
    simp [h.outs, carries, h.action, h.source, eq_comm]
  rw [sourcesOf, upto, hnamed, List.filter_beq, List.count_eq_one_of_mem List.nodup_range (List.mem_range.2 hs)]
  rfl

theorem OneForward.named_self (ho : o < s.nOuts) {t : Nat} (ht : t < r.len) : s.named ps t src = true :=
  List.any_eq_true.2 ⟨o, List.mem_range.2 ho, h.names_self ht⟩

/-- The forwarding output takes the source's flit, and no other one does. -/
theorem OneForward.takers_eq (ho : o < s.nOuts) (hho : s.halfRate o = false) (hhs : s.halfRate src = false) (g : Nat)
    {t : Nat} (ht : t < r.len) : ∃ k, k.out = o ∧ s.takers ps g t src = [k] := by
  have htakes : s.takesNow ps o t src = true := by simp [State.takesNow, h.names_self ht, hho, hhs]
  refine ⟨⟨o, r.action == 3, r.arg + t, t, (g - t) * 128 + o⟩, rfl, filterMap_upto_of_single ho ?_ fun x hx => ?_⟩
  · simp [h.entryAt_self ht, htakes, hho, hhs]
  · simp only [h.entryAt_ne hx]

end

/-! ### A flit that is forwarded (R175, R225) -/

/-- A flit as it leaves in its slot. -/
def asScheduled (f : Flit) : Flit := { f with level := 0, resent := false, crdLevel := 0, crdCount := 0 }

/-- A port's slot unit is named, and the next one is up. -/
def State.unitNamed (s : State) (p : Nat) : State := s.setPort p { s.port p with unitIdx := (s.port p).unitIdx + 1 }

/-- The flit of receive port `src` leaves on port `o`. -/
def State.forwarded (s : State) (o src : Nat) (f : Flit) : State :=
  (s.pushTx (s.physPort o) true (asScheduled f)).unitNamed (s.physPort src)

section

variable {s : State} {ps : PhaseSet} {r : Run} {o src t : Nat} {f : Flit}

theorem deliverTo_of_port {k : Taker} (ho : s.isPortOut k.out = true) (hon : s.flitsOn (s.physPort k.out) = true)
    (u : Option (Nat × Nat)) : s.deliverTo t k f u = s.pushTx (s.physPort k.out) true (asScheduled f) := by
  simp only [State.deliverTo, State.sendSched, ho, hon, if_true]
  rfl

theorem unitIdx_pushTx (s : State) (p : Nat) (sched : Bool) (f : Flit) (q : Nat) :
    ((s.pushTx p sched f).port q).unitIdx = (s.port q).unitIdx := by
  by_cases hq : q = p
  · rw [hq, State.pushTx, State.port_setPort_self]
  · rw [port_pushTx_ne s p sched f hq]

theorem feedPort_of_single {k : Taker} (ho : s.isPortOut k.out = true) (hon : s.flitsOn (s.physPort k.out) = true)
    (hf : ((s.port (s.physPort src)).rx[(s.port (s.physPort src)).unitIdx]?).bind (·.flit) = some f)
    (hh : s.halfRate src = false) (hn : s.named ps t src = true) :
    s.feedPort ps t src [k] = s.forwarded k.out src f := by
  simp only [State.feedPort, hf, List.foldl_cons, List.foldl_nil, deliverTo_of_port ho hon, hh, hn, Bool.false_eq_true,
    if_false, if_true]
  rw [State.forwarded, State.unitNamed, unitIdx_pushTx]

/-- The port that forwards: the flit leaves behind what is due, with the next LSEQ (R221). -/
theorem forwarded_out (s : State) (o src : Nat) (f : Flit) :
    ((s.forwarded o src f).port (s.physPort o)).txq = (s.port (s.physPort o)).txq ++
        [{ asScheduled f with lseq := (s.port (s.physPort o)).lseqTx }] ∧
      ((s.forwarded o src f).port (s.physPort o)).lseqTx = ((s.port (s.physPort o)).lseqTx + 1) % 4096 := by
  by_cases hp : s.physPort o = s.physPort src
  · rw [State.forwarded, State.unitNamed, ← hp, State.port_setPort_self, State.pushTx, State.port_setPort_self]
    exact ⟨rfl, rfl⟩
  · rw [State.forwarded, State.unitNamed, State.port_setPort_ne _ _ _ _ hp, State.pushTx, State.port_setPort_self]
    exact ⟨rfl, rfl⟩

theorem forwarded_unitIdx (s : State) (o src : Nat) (f : Flit) :
    ((s.forwarded o src f).port (s.physPort src)).unitIdx = (s.port (s.physPort src)).unitIdx + 1 := by
  rw [State.forwarded, State.unitNamed, State.port_setPort_self, unitIdx_pushTx]

/-- A unit at the start of a slot of a table of one source: the slot is counted, a step's first one also counts what is
owed to the source, and a slot's bank cycles have passed. -/
def State.slotBegun (s : State) (ps : PhaseSet) (src : Nat) : State :=
  (s.setFab fun f => { f with
    slot := s.fab.slot + 1, cellTook := [],
    totals := if s.fab.slot = 0 then [src].map fun x => (x, s.takeTotal ps x) else f.totals }).bankSlot

/-- A slot of a table of one entry is the turn of its source, when nothing else acts in it (R175, R322). -/
theorem runSlot_of_one (h : OneForward ps r o src) (hv : s.isVd = true) (hs : src < 64) {v : State}
    (hfeed : (s.slotBegun ps src).feedSource ps s.fab.slot (s.fab.slot % r.len) src = v)
    (hlate : (upto 4).foldl (fun u k => u.lateOut ps (s.fab.slot % r.len) (104 + k)) v = v)
    (hact : (upto s.nOuts).foldl (fun u x => u.slotAction ps (s.fab.slot % r.len) x) v = v)
    (hshort : v.recheckShort = v) (hland : v.landWrites = v) : s.runSlot ps = v := by
  have hno : [src].filter (fun x => true && decide (104 ≤ x)) = [] := by simp; omega
  have hyes : [src].filter (fun x => !(true && decide (104 ≤ x))) = [src] := by simp; omega
  rw [State.slotBegun] at hfeed
  simp only [State.runSlot, h.slots_eq, h.sourcesOf_eq (by omega), startRuns_of_no_cmbs h.cmbs,
    readRecords_of_no_cmbs h.cmbs, ite_self, hno, hyes, List.foldl_cons, List.foldl_nil, hfeed, hv, hlate, hland, hact, hshort]

theorem runSlot_of_forward (h : OneForward ps r o src) (hv : s.isVd = true) (ho : o < 64) (hs : src < 64)
    (hho : s.halfRate o = false) (hhs : s.halfRate src = false) (hon : s.flitsOn (s.physPort o) = true)
    (hf : ((s.port (s.physPort src)).rx[(s.port (s.physPort src)).unitIdx]?).bind (·.flit) = some f)
    (hasm : s.fab.asm = []) (hwr : s.stg.writes = []) (hacc : s.stg.accs = []) :
    s.runSlot ps = (s.slotBegun ps src).forwarded o src f := by
  have ht : s.fab.slot % r.len < r.len := Nat.mod_lt _ h.pos
  have hport : s.isPortOut o = true := by simpa [State.isPortOut, nPorts_of_isVd hv] using ho
  have houts : o < s.nOuts := by
    have hkind : (s.ident.kind == .vd) = true := hv
    rw [State.nOuts, outsOf, hkind, if_pos rfl]
    omega
  refine runSlot_of_one h hv hs ?_ ?_ ?_ (recheckShort_of_none hasm) (landWrites_of_none hwr hacc)
  · obtain ⟨k, rfl, htk⟩ := h.takers_eq (s := s.slotBegun ps src) houts hho hhs s.fab.slot ht
    have hvd : (s.slotBegun ps src).isVd = true := hv
    simp only [State.feedSource, htk, hvd, hs, Bool.not_true, Bool.false_eq_true, if_false, if_true]
    exact feedPort_of_single hport hon hf hhs (h.named_self houts ht)
  · exact List.foldl_fixed' (fun k => lateOut_of_no_entry (h.entryAt_ne (by omega) _)) _
  · refine List.foldl_fixed' (fun x => ?_) _
    obtain rfl | hx := eq_or_ne x o
    · exact slotAction_of_forward (h.entryAt_self ht) h.action hport
    · exact slotAction_of_no_entry (h.entryAt_ne hx _)

theorem doSlotStart_of_forward {b : W} (ha : s.awake = true) (hp : s.fab.passAt = some b) (hl : s.img.live = some ps)
    (hd : s.fab.dieWait = []) (hslot : s.fab.slot < slotsIn ps.desc.stepNs) (hdue : s.slotDue b s.fab.slot = true) :
    s.doSlotStart = s.runSlot ps := by
  simp only [State.doSlotStart, ha, dieRelease_of_none hd, hp, hl, hslot, hdue, decide_true, Bool.and_self, Bool.not_true,
    Bool.false_eq_true, if_false, if_true]

/-- What the slot of a table of one forwarding entry leaves (R175, R225). -/
theorem exec_slotStart_of_forward (h : OneForward ps r o src) (hv : s.isVd = true) (ha : s.awake = true) {b : W}
    (hp : s.fab.passAt = some b) (hl : s.img.live = some ps) (hd : s.fab.dieWait = []) (hasm : s.fab.asm = [])
    (hwr : s.stg.writes = []) (hacc : s.stg.accs = []) (ho : o < 64) (hs : src < 64) (hho : s.halfRate o = false)
    (hhs : s.halfRate src = false) (hslot : s.fab.slot < slotsIn ps.desc.stepNs) (hdue : s.slotDue b s.fab.slot = true)
    (hon : s.flitsOn (s.physPort o) = true)
    (hf : ((s.port (s.physPort src)).rx[(s.port (s.physPort src)).unitIdx]?).bind (·.flit) = some f) :
    exec .slotStart s = .next ((s.slotBegun ps src).forwarded o src f) := by
  rw [← runSlot_of_forward h hv ho hs hho hhs hon hf hasm hwr hacc, ← doSlotStart_of_forward ha hp hl hd hslot hdue]
  rfl

end

/-! ### A scheduled SIGNAL that is due (R253) -/

section

variable {s : State} {p n phys inc : Nat} {r : List (Nat × Nat × Nat)}

theorem sigApplied_of_consumed (hw : (s.port p).sigWait = (n, phys, inc) :: r) (hv : s.isVd = true)
    (h : ∀ i, i < n → s.unitConsumed p i = true) (hphys : phys < 16384) (hl : (s.meta phys).st = .live)
    (hr : s.holdsRejected = false) :
    ∃ t, exec (.schedSignalApply p) s = .next t ∧ (t.port p).sigWait = r ∧
      t.spkVal phys = s.spkVal phys + BitVec.ofNat 64 inc ∧ (∀ q, q ≠ phys → t.spkVal q = s.spkVal q) ∧
      t.fab.ram = s.fab.ram := by
  have hspk : phys < s.nSpk := by
    rw [nSpk_of_isVd hv]
    omega
  have hfore : (s.setPort p { s.port p with sigWait := r }).isFore = false := isFore_of_isVd hv
  refine ⟨_, congrArg Host.Outcome.next (doSchedSignalApply_of_consumed hw h hspk hl hr), ?_, ?_, fun q hq => ?_, ?_⟩
  · rw [applySignal_port, State.port_setPort_self]
  · rw [spkVal_applySignal_self, State.incVal, hfore]
    rfl
  · rw [spkVal_applySignal_ne _ _ _ hq]
    rfl
  · rw [applySignal_ram]
    rfl

end

/-- Settles O32: a slot of a table of one entry is the turn of its source alone, and the side slots of the ports leave one
another's queues alone. -/
theorem slotsRunTheTable : Obligations.SlotsRunTheTable := by
  unfold Obligations.SlotsRunTheTable
  intro s hv ha
  refine ⟨fun b ps r o src f hp hl hd hasm hwr hacc hcmbs houts hact hsrc hlen hpos ho hs hho hhs hslot hdue hon hf => ?_,
    fun hp hd => ?_, fun p n phys inc r hw => ⟨fun h => ?_, fun h _ hphys hl hr => ?_⟩, fun hst => ?_, fun hst => ?_⟩
  · have h : OneForward ps r o src := ⟨hcmbs, houts, hact, hsrc, hlen, hpos⟩
    obtain ⟨htx, hseq⟩ := forwarded_out (s.slotBegun ps src) o src f
    exact ⟨_, exec_slotStart_of_forward h hv ha hp hl hd hasm hwr hacc ho hs hho hhs hslot hdue hon hf, rfl, htx, hseq,
      forwarded_unitIdx (s.slotBegun ps src) o src f, rfl, rfl, rfl⟩
  · have hsent : ∀ p, p < 64 → s.flitsOn p = true → SideSent (s.port p) ((s.sideSlots (upto s.nPorts)).port p) :=
      fun p hp64 hon => sideSlots_sent List.nodup_range (List.mem_range.2 (nPorts_of_isVd hv ▸ hp64)) hon
    exact ⟨_, congrArg Host.Outcome.next (doSlotStart_of_no_pass ha hp hd), sideSlots_justPorts s _,
      fun p f r hp64 hon => (hsent p hp64 hon).resend f r,
      fun p l g src r hp64 hon => (hsent p hp64 hon).level l g src r⟩
  · exact congrArg Host.Outcome.next (doSchedSignalApply_of_waiting hw h)
  · exact sigApplied_of_consumed hw hv h hphys hl hr
  · exact ⟨_, congrArg Host.Outcome.next (doRouteCommit_of_rest hv ha hst), commitRoutes_spec s rfl⟩
  · exact congrArg Host.Outcome.next (doRouteCommit_of_running hv ha hst)

end Sys2Proof.Machine
end

section
/-! PROOFS. Bytes read back: fields of lists that are joined, signed fields, and the range of a CRC-32C. -/

namespace Sys2Proof.Machine

/-! ### Fields of bytes that are joined -/

theorem fits_iff {w n : Nat} : fits w n = true ↔ n < 2 ^ w := by simp [fits]

@[simp] theorem zeros_length (n : Nat) : (zeros n).length = n := List.length_replicate
@[simp] theorem leInt_length (n : Nat) (z : Int) : (leInt n z).length = n := leBytes_length _ _

section

variable {a : List Byte} {off k : Nat}

theorem fieldAt_append_left (h : off + k ≤ a.length) (b : List Byte) : fieldAt (a ++ b) off k = fieldAt a off k := by
  unfold fieldAt
  rw [List.drop_append_of_le_length (by omega), List.take_append_of_le_length (by simp; omega)]

@[simp] theorem fieldAt_append_right (h : a.length ≤ off) (b : List Byte) :
    fieldAt (a ++ b) off k = fieldAt b (off - a.length) k := by
  unfold fieldAt
  rw [List.drop_append, List.drop_eq_nil_of_le h, List.nil_append]

@[simp] theorem intAt_append_right (h : a.length ≤ off) (b : List Byte) :
    intAt (a ++ b) off k = intAt b (off - a.length) k := by
  rw [intAt, fieldAt_append_right h, intAt]

@[simp] theorem wordAt_append_right (h : a.length ≤ off) (b : List Byte) :
    wordAt (a ++ b) off = wordAt b (off - a.length) := by
  rw [wordAt, fieldAt_append_right h, wordAt]

end

/-! ### What is written reads back -/

@[simp] theorem fieldAt_leBytes {k n : Nat} (h : n < 256 ^ k) : fieldAt (leBytes k n) 0 k = n := by
  simp [fieldAt, List.take_of_length_le, leNat_leBytes k n h]

@[simp] theorem fieldAt_leBytes_append {k n : Nat} (h : n < 256 ^ k) (r : List Byte) :
    fieldAt (leBytes k n ++ r) 0 k = n := by
  rw [fieldAt_append_left (by simp), fieldAt_leBytes h]

@[simp] theorem wordAt_leBytes (v : W) (r : List Byte) : wordAt (leBytes 8 v.toNat ++ r) 0 = v := by
  rw [wordAt, fieldAt_leBytes_append v.isLt]
  simp

/-- A signed value in its field. -/
theorem signedOf_emod {w : Nat} {z : Int} (hw : 0 < w) (h : fitsInt w z = true) : signedOf w (z % 2 ^ w).toNat = z := by
  obtain ⟨m, rfl⟩ := Nat.exists_eq_add_one.2 hw
  have hpow : (2 : Int) ^ (m + 1) = 2 * 2 ^ m := by ring
  have hcast : ((2 ^ m : Nat) : Int) = 2 ^ m := by norm_cast
  simp only [fitsInt, Nat.add_sub_cancel, Bool.and_eq_true, decide_eq_true_eq] at h
  rw [signedOf, Nat.add_sub_cancel, hpow]
  by_cases hz : 0 ≤ z
  · rw [Int.emod_eq_of_lt hz (by omega), if_pos (by omega)]
    omega
  · rw [← Int.add_emod_right, Int.emod_eq_of_lt (by omega) (by omega), if_neg (by omega)]
    omega

@[simp] theorem intAt_leInt {n : Nat} {z : Int} (h : fitsInt (8 * n) z = true) (hn : 0 < n) (r : List Byte) :
    intAt (leInt n z ++ r) 0 n = z := by
  have hpos : (0 : Int) < 2 ^ (8 * n) := by positivity
  have hpow : ((256 ^ n : Nat) : Int) = 2 ^ (8 * n) := by push_cast; rw [pow_mul]; norm_num
  have hmod := Int.emod_lt_of_pos z hpos
  rw [intAt, leInt, fieldAt_leBytes_append (by omega), signedOf_emod (by omega) h]

/-! ### CRC-32C (R209) -/

theorem crc32Bit_lt {c : Nat} (h : c < 2 ^ 32) : crc32Bit c < 2 ^ 32 := by
  unfold crc32Bit
  split
  · exact Nat.xor_lt_two_pow (by omega) (by decide)
  · omega

theorem crc32Byte_lt {c : Nat} (h : c < 2 ^ 32) (b : Byte) : crc32Byte c b < 2 ^ 32 := by
  have hstart : c ^^^ b.toNat < 2 ^ 32 := Nat.xor_lt_two_pow h (b.isLt.trans (by decide))
  simp only [crc32Byte, iter]
  iterate 8 apply crc32Bit_lt
  exact hstart

theorem crc32c_lt (l : List Byte) : crc32c l < 2 ^ 32 :=
  Nat.xor_lt_two_pow
    (List.foldlRecOn l crc32Byte (motive := fun c => c < 2 ^ 32) (by decide) fun _ h b _ => crc32Byte_lt h b) (by decide)

end Sys2Proof.Machine
end

section
/-! PROOFS. Ordered sets: each record, and each ordered set, reads back from its bytes (R210 to R216). -/

namespace Sys2Proof.Machine

/-! ### Records: their lengths, and where they stand -/

@[simp] theorem domBytes_length (r : DomRec) : (domBytes r).length = 40 := by simp [domBytes]
@[simp] theorem resBytes_length (r : ResRec) : (resBytes r).length = 24 := by simp [resBytes]
@[simp] theorem rotBytes_length (r : RotRec) : (rotBytes r).length = 24 := by simp [rotBytes]
@[simp] theorem decBytes_length (d : Option Decision) : (decBytes d).length = 40 := by cases d <;> simp [decBytes]

section

variable {a : List Byte} {off : Nat} (h : a.length ≤ off) (b : List Byte)

include h

theorem fieldAt_append_add (i k : Nat) : fieldAt (a ++ b) (off + i) k = fieldAt b (off - a.length + i) k := by
  rw [fieldAt_append_right (Nat.le_add_right_of_le h), Nat.sub_add_comm h]

@[simp] theorem decAt_append_right : decAt (a ++ b) off = decAt b (off - a.length) := by
  simp only [decAt, wordAt, fieldAt_append_add h, fieldAt_append_right h]

@[simp] theorem domAt_append_right : domAt (a ++ b) off = domAt b (off - a.length) := by
  simp only [domAt, intAt, wordAt, fieldAt_append_add h, fieldAt_append_right h]

@[simp] theorem resAt_append_right : resAt (a ++ b) off = resAt b (off - a.length) := by
  simp only [resAt, intAt, fieldAt_append_add h, fieldAt_append_right h]

@[simp] theorem rotAt_append_right : rotAt (a ++ b) off = rotAt b (off - a.length) := by
  simp only [rotAt, wordAt, fieldAt_append_add h, fieldAt_append_right h]

end

/-! ### Records read back (R213 to R216) -/

@[simp] theorem decKindOf_code (k : DecKind) : decKindOf (DecKind.code k) = some k := by cases k <;> rfl
theorem decKindCode_lt (k : DecKind) : DecKind.code k < 6 := by cases k <;> decide

theorem decAt_some {d : Decision} (h : d.wf = true) (r : List Byte) : decAt (decBytes (some d) ++ r) 0 = some d := by
  simp only [Decision.wf, Bool.and_eq_true, fits_iff, Nat.reducePow, and_assoc] at h
  obtain ⟨hseq, hepoch, hphase, hratio⟩ := h
  have hcode := decKindCode_lt d.kind
  have hkind : DecKind.code d.kind + 128 < 256 ∧ (DecKind.code d.kind / 128 + 1) % 2 = 1 ∧
      (DecKind.code d.kind + 128) % 8 = DecKind.code d.kind := by omega
  simp [decAt, decBytes, hseq, hepoch, hphase, hratio, hkind]

theorem decAt_none (r : List Byte) : decAt (decBytes none ++ r) 0 = none := by
  simp [decAt, decBytes, zeros, fieldAt, leNat]

@[simp] theorem decAt_decBytes {d : Option Decision} (h : d.all Decision.wf = true) (r : List Byte) :
    decAt (decBytes d ++ r) 0 = d := by
  cases d with
  | none => exact decAt_none r
  | some d => exact decAt_some h r

/-- The flags of a domain record. -/
theorem flags4 (a b c e : Bool) : bit a + 2 * bit b + 4 * bit c + 8 * bit e < 256 ∧
    ∀ i < 4, (bit a + 2 * bit b + 4 * bit c + 8 * bit e).testBit i = [a, b, c, e].getD i false := by
  revert a b c e
  decide

@[simp] theorem domAt_domBytes {d : DomRec} (h : d.wf = true) (r : List Byte) : domAt (domBytes d ++ r) 0 = d := by
  simp only [DomRec.wf, Bool.and_eq_true, fits_iff, Nat.reducePow, and_assoc] at h
  obtain ⟨hoff, hql, hsbql, hhop, hup, hepoch, hseq, harm⟩ := h
  have hq : d.ql % 16 = d.ql ∧ d.ql + 16 * d.sbql < 256 ∧ (d.ql + 16 * d.sbql) / 16 = d.sbql := by omega
  obtain ⟨hflags, hbits⟩ := flags4 d.valid d.leader d.mark d.disarm
  simp [domAt, domBytes, hoff, hq, hhop, hup, hepoch, hseq, harm, hflags, hbits, -Nat.testBit_zero]

@[simp] theorem resAt_resBytes {d : ResRec} (h : d.wf = true) (r : List Byte) : resAt (resBytes d ++ r) 0 = d := by
  simp only [ResRec.wf, laneWf, Bool.and_eq_true, fits_iff, decide_eq_true_eq, Nat.reducePow, and_assoc] at h
  obtain ⟨hseq, hreq, hrsp, hres, hrt, hasym⟩ := h
  have hlanes : ∀ v : Bool, ∀ i < 4, ∀ j < 4, i % 4 = i ∧ j % 4 = j ∧ i + 4 * j + 128 * bit v < 256 ∧
      (i + 4 * j + 128 * bit v) % 4 = i ∧ (i + 4 * j + 128 * bit v) / 4 % 4 = j ∧
      (i + 4 * j + 128 * bit v).testBit 7 = v := by decide
  simp [resAt, resBytes, hseq, hlanes d.valid _ hreq _ hrsp, hres, hrt, hasym]

@[simp] theorem rotAt_rotBytes {d : RotRec} (h : d.wf = true) (r : List Byte) : rotAt (rotBytes d ++ r) 0 = d := by
  simp only [RotRec.wf, Bool.and_eq_true, fits_iff, decide_eq_true_eq, Nat.reducePow] at h
  obtain ⟨hkind, harg⟩ := h
  have hkind' : d.kind < 256 := by omega
  simp [rotAt, rotBytes, hkind', harg]

/-- The flags of a heartbeat. -/
theorem flags5 (a b c d e : Bool) : bit a + 2 * bit b + 4 * bit c + 8 * bit d + 16 * bit e < 256 ∧
    ∀ i < 5, (bit a + 2 * bit b + 4 * bit c + 8 * bit d + 16 * bit e).testBit i = [a, b, c, d, e].getD i false := by
  revert a b c d e
  decide

/-- A heartbeat (R212). -/
theorem hbAt_hbBytes {h : Heartbeat} (hw : h.wf = true) (r : List Byte) : hbAt (hbBytes h ++ r) = h := by
  simp only [Heartbeat.wf, idWf, Bool.and_eq_true, fits_iff, decide_eq_true_eq, Nat.reducePow, and_assoc] at hw
  obtain ⟨hseq, hkind, hid, hlevel, hfrac, hA, hB, hres, hrot, hd0, hd1⟩ := hw
  obtain ⟨hflags, hbits⟩ := flags5 h.timeValid h.root h.issuer h.relay h.issueInit
  have hsender : senderField h.senderKind h.sender < 65536 ∧ senderField h.senderKind h.sender / 16384 = h.senderKind ∧
      senderField h.senderKind h.sender % 16384 = h.sender := by
    unfold senderField
    omega
  simp [hbAt, hbBytes, hseq, hsender, hlevel, hfrac, hA, hB, hres, hrot, hd0, hd1, hflags, hbits, -Nat.testBit_zero]

/-! ### Ordered sets read back (R210) -/

/-- The bytes of ranges of LSEQ. -/
def rangeBytes (l : List (Nat × Nat)) : List Byte := l.flatMap fun e => leBytes 2 e.1 ++ leBytes 2 e.2

theorem rangeBytes_cons (e : Nat × Nat) (l : List (Nat × Nat)) :
    rangeBytes (e :: l) = leBytes 2 e.1 ++ (leBytes 2 e.2 ++ rangeBytes l) := by simp [rangeBytes]

@[simp] theorem rangeBytes_length (l : List (Nat × Nat)) : (rangeBytes l).length = 4 * l.length := by
  induction l with
  | nil => rfl
  | cons e l ih =>
    simp [rangeBytes_cons, ih]
    omega

/-- Ranges read back, one by one. -/
theorem ranges_read_back {l : List (Nat × Nat)} (h : ∀ e ∈ l, e.1 < 4096 ∧ e.2 < 4096) (r : List Byte) :
    ((upto l.length).map fun i =>
      (fieldAt (rangeBytes l ++ r) (4 * i) 2, fieldAt (rangeBytes l ++ r) (4 * i + 2) 2)) = l := by
  induction l with
  | nil => rfl
  | cons e l ih =>
    obtain ⟨h1, h2⟩ := h e (by simp)
    have h1 : e.1 < 65536 := by omega
    have h2 : e.2 < 65536 := by omega
    rw [upto, List.length_cons, List.range_succ_eq_map, List.map_cons, List.map_map]
    refine congrArg₂ List.cons ?first (.trans (List.map_congr_left fun i _ => ?rest) (ih fun x hx => h x (by simp [hx])))
    case first => simp [rangeBytes_cons, h1, h2]
    case rest => simp [rangeBytes_cons, Nat.mul_succ]

theorem osBody_retryReq (l : List (Nat × Nat)) :
    osBody (.retryReq l) = leBytes 1 6 ++ zeros 1 ++ leBytes 1 l.length ++ zeros 1 ++ rangeBytes l := rfl

/-- The levels' credits of a CREDIT, one by one. -/
theorem osBody_credit (a b c d ack : Nat) : osBody (.credit [a, b, c, d] ack) =
    leBytes 1 5 ++ zeros 1 ++ leBytes 2 ack ++ leBytes 2 a ++ leBytes 2 b ++ leBytes 2 c ++ leBytes 2 d := by
  simp [osBody]

theorem osBody_length {o : OSet} (h : o.wf = true) : (osBody o).length ≤ 252 := by
  cases o with
  | heartbeat h => simp [osBody, hbBytes]
  | delayReq lane seq sender => simp [osBody]
  | delayResp lane seq sender => simp [osBody]
  | decision d0 d1 => simp [osBody]
  | credit levels ack =>
    have := List.length_take_le 4 levels
    simp [osBody, List.length_flatMap]
    omega
  | retryReq ranges =>
    simp [OSet.wf, rangesWf] at h
    simp [osBody_retryReq]
    omega
  | refetch wsc slot mask tile => simp [osBody]
  | refetchFail wsc slot mask tile reason => simp [osBody]
  | train me => simp [osBody]

theorem osBytes_length (o : OSet) : (osBytes o).length = 256 := by simp [osBytes]

/-- The bytes of an ordered set are its body, and what fills it up with its CRC. -/
theorem osBytes_eq {o : OSet} (h : o.wf = true) : osBytes o = osBody o ++
    (List.replicate (252 - (osBody o).length) 0 ++ leBytes 4 (crc32c (padTo 252 (osBody o)))) := by
  rw [osBytes, padTo, List.take_of_length_le (osBody_length h), List.append_assoc]

/-- The CRC of an ordered set's bytes holds over them. -/
theorem osBytes_crc (o : OSet) : fieldAt (osBytes o) 252 4 = crc32c ((osBytes o).take 252) := by
  simp [osBytes, fieldAt_leBytes (k := 4) (crc32c_lt (padTo 252 (osBody o)))]

/-- Bytes that begin with a body, and whose length and CRC hold, say its ordered set. -/
theorem osOf_osBody {o : OSet} (h : o.wf = true) {l r : List Byte} (hl : l = osBody o ++ r) (hlen : l.length = 256)
    (hcrc : fieldAt l 252 4 = crc32c (l.take 252)) : osOf l = some o := by
  have hgood : ¬ (l.length ≠ 256 || fieldAt l 252 4 ≠ crc32c (l.take 252)) = true := by simp [hlen, hcrc]
  rw [osOf, if_neg hgood, hl]
  cases o with
  | heartbeat hb =>
    have htype : fieldAt (hbBytes hb ++ r) 0 1 = 1 := by simp [hbBytes]
    simp [osBody, htype, hbAt_hbBytes h r]
  | delayReq lane seq sender =>
    simp [OSet.wf, laneWf, fits] at h
    obtain ⟨⟨hlane, hseq⟩, hsender⟩ := h
    have hbyte : lane % 4 = lane ∧ lane < 256 := by omega
    simp [osBody, hbyte, hseq, hsender]
  | delayResp lane seq sender =>
    simp [OSet.wf, laneWf, fits] at h
    obtain ⟨⟨hlane, hseq⟩, hsender⟩ := h
    have hbyte : lane % 4 = lane ∧ lane < 256 := by omega
    simp [osBody, hbyte, hseq, hsender]
  | decision d0 d1 =>
    simp [OSet.wf] at h
    simp [osBody, h]
  | credit levels ack =>
    match levels, h with
    | [a, b, c, d], h =>
      simp [OSet.wf, fits] at h
      obtain ⟨⟨ha, hb, hc, hd⟩, hack⟩ := h
      have hack : ack < 65536 := by omega
      simp [osBody_credit, ha, hb, hc, hd, hack, upto, List.range_succ]
  | retryReq ranges =>
    simp [OSet.wf, rangesWf, fits] at h
    obtain ⟨⟨-, hmax⟩, hall⟩ := h
    have hcount : ranges.length < 256 := by omega
    have hskip : ∀ i k, fieldAt (osBody (.retryReq ranges) ++ r) (4 + i) k = fieldAt (rangeBytes ranges ++ r) i k := by
      intro i k
      rw [osBody_retryReq, List.append_assoc, fieldAt_append_right (by simp)]
      simp
    have htype : fieldAt (osBody (.retryReq ranges) ++ r) 0 1 = 6 := by simp [osBody_retryReq]
    have hlen : fieldAt (osBody (.retryReq ranges) ++ r) 2 1 = ranges.length := by simp [osBody_retryReq, hcount]
    have hsix : ∀ i, 6 + 4 * i = 4 + (4 * i + 2) := by omega
    simp only [htype, hlen, hsix, hskip]
    exact congrArg (fun l => some (OSet.retryReq l)) (ranges_read_back (fun e he => hall e.1 e.2 he) r)
  | refetch wsc slot mask tile =>
    simp [OSet.wf, refetchWf, fits, and_assoc] at h
    obtain ⟨hwsc, hslot, hmask, htile⟩ := h
    have hwide : slot < 65536 ∧ tile < 4294967296 := by omega
    simp [osBody, hwsc, hwide, hmask]
  | refetchFail wsc slot mask tile reason =>
    simp [OSet.wf, refetchWf, fits, and_assoc] at h
    obtain ⟨hwsc, hslot, hmask, htile, hreason⟩ := h
    have hwide : slot < 65536 ∧ tile < 4294967296 := by omega
    simp [osBody, hwsc, hwide, hmask, hreason]
  | train me => simp [OSet.wf] at h

theorem osOf_osBytes {o : OSet} (h : o.wf = true) : osOf (osBytes o) = some o :=
  osOf_osBody h (osBytes_eq h) (osBytes_length o) (osBytes_crc o)

end Sys2Proof.Machine
end

section
/-! PROOFS. Flits, sideband cells, frames, scrambled words and Gray-coded symbols read back (R204, R205, R207 to R209, R451). -/

namespace Sys2Proof.Machine

/-! ### Fields of bits that are packed -/

/-- A field of `w` bits below the rest of a word. -/
def packed (w v x : Nat) : Nat := v + 2 ^ w * x

@[simp] theorem hdrBits_packed_first {w v : Nat} (h : v < 2 ^ w) (x : Nat) : hdrBits (packed w v x) 0 w = v := by
  simp [hdrBits, packed, Nat.mod_eq_of_lt h]

@[simp] theorem hdrBits_packed_rest {w v lo : Nat} (h : v < 2 ^ w) (hlo : w ≤ lo) (x k : Nat) :
    hdrBits (packed w v x) lo k = hdrBits x (lo - w) k := by
  obtain ⟨m, rfl⟩ := Nat.exists_eq_add_of_le hlo
  have hrest : (v + 2 ^ w * x) / 2 ^ w = x := by
    rw [Nat.add_mul_div_left _ _ (Nat.two_pow_pos w), Nat.div_eq_of_lt h, Nat.zero_add]
  rw [hdrBits, hdrBits, packed, Nat.shiftRight_eq_div_pow, Nat.pow_add, ← Nat.div_div_eq_div_mul, hrest,
    Nat.add_sub_cancel_left, Nat.shiftRight_eq_div_pow]

theorem testBit_eq_hdrBits (h i : Nat) : Nat.testBit h i = decide (hdrBits h i 1 = 1) := by
  simp [hdrBits, Nat.testBit_eq_decide_div_mod_eq, Nat.shiftRight_eq_div_pow]

theorem bit_lt (b : Bool) : bit b < 2 := by cases b <;> decide
theorem bit_eq_one (b : Bool) : decide (bit b = 1) = b := by cases b <;> rfl

/-! ### Flits (R207 to R209) -/

/-- Header bits [127:32] of R208, field by field. -/
def bodyPacked : FlitBody → Nat
  | .sched wsc tile dno sub slot phase =>
    packed 16 wsc (packed 20 tile (packed 12 dno (packed 5 sub (packed 15 slot (packed 4 phase 0)))))
  | .sideReq op tag addr len8 sub dno =>
    packed 4 op (packed 12 tag (packed 52 addr (packed 9 len8 (packed 5 sub (packed 12 dno 0)))))
  | .sideRsp status tag dno sub => packed 4 status (packed 12 tag (packed 12 dno (packed 5 sub 0)))
  | .signal dd ds count sd ss => packed 12 dd (packed 5 ds (packed 5 count (packed 12 sd (packed 5 ss 0))))
  | .sigAck dd ds seq status => packed 12 dd (packed 5 ds (packed 15 0 (packed 32 seq (packed 4 status 0))))
  | .bcast id tile kind => packed 32 id (packed 28 tile (packed 2 kind 0))

/-- The fields of a body, each within its width. -/
theorem bodyBits_eq {b : FlitBody} (h : b.wf = true) : bodyBits b = 2 ^ 32 * bodyPacked b ∧ bodyPacked b < 2 ^ 96 := by
  cases b <;> simp only [FlitBody.wf, Bool.and_eq_true, fits_iff, decide_eq_true_eq] at h <;>
    simp only [bodyBits, bodyPacked, packed] <;> omega


theorem flitType_lt (b : FlitBody) : flitType b < 2 ^ 4 := by cases b <;> (rw [flitType]; decide)

theorem flitBytes_length (f : Flit) : (flitBytes f).length = 256 := by simp [flitBytes, flitTrailer]

section

variable {f : Flit} (h : f.wf = true)

include h

/-- The 128 header bits of R207, field by field. -/
theorem flitHeader_eq : flitHeader f = packed 4 (flitType f.body) (packed 1 (bit f.resent) (packed 1 (bit f.last)
    (packed 2 f.level (packed 4 f.fidx (packed 2 f.crdLevel (packed 6 f.crdCount (packed 12 0 (bodyPacked f.body)))))))) ∧
    flitHeader f < 256 ^ 16 := by
  simp only [Flit.wf, Bool.and_eq_true, fits_iff, and_assoc] at h
  obtain ⟨hlevel, hfidx, hcl, hcc, hbody, -⟩ := h
  obtain ⟨hbits, hlt⟩ := bodyBits_eq hbody
  have htype := flitType_lt f.body
  have hresent := bit_lt f.resent
  have hlast := bit_lt f.last
  simp only [flitHeader, packed, hbits]
  omega

/-- The fields of the header but for the body read back. -/
theorem flitHeader_fields : Nat.testBit (flitHeader f) 4 = f.resent ∧ Nat.testBit (flitHeader f) 5 = f.last ∧
    hdrBits (flitHeader f) 6 2 = f.level ∧ hdrBits (flitHeader f) 8 4 = f.fidx ∧
    hdrBits (flitHeader f) 12 2 = f.crdLevel ∧ hdrBits (flitHeader f) 14 6 = f.crdCount := by
  rw [testBit_eq_hdrBits, testBit_eq_hdrBits, (flitHeader_eq h).1]
  simp only [Flit.wf, Bool.and_eq_true, fits_iff, and_assoc] at h
  obtain ⟨hlevel, hfidx, hcl, hcc, -⟩ := h
  have htype := flitType_lt f.body
  have hresent := bit_lt f.resent
  have hlast := bit_lt f.last
  simp (disch := omega) only [hdrBits_packed_first, hdrBits_packed_rest, Nat.reduceSub, bit_eq_one, and_self]

/-- The body of a flit reads back from its header. -/
theorem bodyOf_flitHeader : bodyOf (flitHeader f) = some f.body := by
  rw [bodyOf, (flitHeader_eq h).1]
  simp only [Flit.wf, Bool.and_eq_true, fits_iff, and_assoc] at h
  obtain ⟨hlevel, hfidx, hcl, hcc, hbody, -⟩ := h
  have htype := flitType_lt f.body
  have hresent := bit_lt f.resent
  have hlast := bit_lt f.last
  generalize f.body = b at *
  cases b <;> simp only [FlitBody.wf, Bool.and_eq_true, fits_iff, decide_eq_true_eq] at hbody <;>
    simp (disch := omega) only [flitType, bodyPacked, hdrBits_packed_first, hdrBits_packed_rest, Nat.reduceSub]

theorem flitOf_flitBytes : flitOf (flitBytes f) = some f := by
  obtain ⟨hresent, hlast, hlevel, hfidx, hcl, hcc⟩ := flitHeader_fields h
  have hheader : fieldAt (flitBytes f) 0 16 = flitHeader f := by
    simp [flitBytes, fieldAt_leBytes_append (flitHeader_eq h).2]
  have hbody := bodyOf_flitHeader h
  simp only [Flit.wf, Bool.and_eq_true, fits_iff, Nat.reducePow, beq_iff_eq, and_assoc] at h
  obtain ⟨-, -, -, -, -, hpay, hfcrc, hlseq, hack, htcrc⟩ := h
  have hpayload : ((flitBytes f).drop 16).take 224 = f.payload := by
    have hpad : padTo 224 f.payload = f.payload := hpay ▸ padTo_self f.payload
    simp [flitBytes, hpad, hpay]
  have hlseq' : f.lseq < 65536 ∧ f.lseq % 4096 = f.lseq := by omega
  have hack' : f.ack < 65536 ∧ f.ack % 4096 = f.ack := by omega
  have htrailer : fieldAt (flitBytes f) 240 4 = f.fcrc ∧ fieldAt (flitBytes f) 244 2 = f.lseq ∧
      fieldAt (flitBytes f) 246 2 = f.ack ∧ fieldAt (flitBytes f) 248 8 = f.tcrc := by
    simp [flitBytes, flitTrailer, hfcrc, hlseq', hack', htcrc]
  rw [flitOf, if_neg (by simp [flitBytes_length]), hheader, hbody]
  simp [hpayload, htrailer, hresent, hlast, hlevel, hfidx, hcl, hcc, hlseq', hack']

end

/-! ### Sideband cells (R451) -/

theorem crc16Bit_lt (c : Nat) (b : Bool) : crc16Bit c b < 2 ^ 16 := by
  have hlow : c * 2 % 2 ^ 16 < 2 ^ 16 := Nat.mod_lt _ (by decide)
  unfold crc16Bit
  split
  · exact Nat.xor_lt_two_pow hlow (by decide)
  · exact hlow

theorem crc16_lt (n x : Nat) : crc16 n x < 2 ^ 16 :=
  List.foldlRecOn (upto n) (fun c i => crc16Bit c (Nat.testBit x i)) (motive := fun c => c < 2 ^ 16) (by decide)
    fun _ _ _ _ => crc16Bit_lt _ _

/-- The reading of a cell, field by field. -/
theorem cellOf_eq (w : BitVec 128) : cellOf w =
    if hdrBits w.toNat 0 8 = 0xD2 ∧ w.toNat >>> 112 = crc16 112 (w.toNat % 2 ^ 112) then
      some { kind := hdrBits w.toNat 8 4, seq := hdrBits w.toNat 12 4, hb := hdrBits w.toNat 16 16,
             payload := hdrBits w.toNat 32 80 }
    else none := rfl

/-- The bits of a cell: its fields, and the CRC over the bits below it. -/
theorem cellBits_eq {c : Cell} (h : c.wf = true) :
    (cellBits c).toNat % 2 ^ 112 = cellBody c ∧ (cellBits c).toNat >>> 112 = crc16 112 (cellBody c) ∧
    (cellBits c).toNat = packed 8 0xD2 (packed 4 c.kind (packed 4 c.seq (packed 16 c.hb (packed 80 c.payload
      (crc16 112 (cellBody c)))))) := by
  simp only [Cell.wf, Bool.and_eq_true, fits_iff, and_assoc] at h
  obtain ⟨hkind, hseq, hhb, hpay⟩ := h
  have hcrc := crc16_lt 112 (cellBody c)
  have hbody : cellBody c = 0xD2 + c.kind * 2 ^ 8 + c.seq * 2 ^ 12 + c.hb * 2 ^ 16 + c.payload * 2 ^ 32 := by
    unfold cellBody
    omega
  rw [cellBits, BitVec.toNat_ofNat, Nat.shiftRight_eq_div_pow]
  simp only [packed]
  omega

theorem cellOf_cellBits {c : Cell} (h : c.wf = true) : cellOf (cellBits c) = some c := by
  obtain ⟨hlow, hcrc, hbits⟩ := cellBits_eq h
  simp only [Cell.wf, Bool.and_eq_true, fits_iff] at h
  rw [cellOf_eq, hlow, hcrc, hbits]
  simp (disch := omega) only [hdrBits_packed_first, hdrBits_packed_rest, Nat.reduceSub, and_self, if_true]

/-! ### Frames (R205) -/

theorem frameOfQuarters_quarter {tag : Nat} (ht : tag < 256) {content : List Byte} (hc : content.length = 256) :
    frameOfQuarters ((upto 4).map (quarter tag content)) = (tag, content) := by
  have htag : tag % 4 + tag / 4 % 4 * 4 + tag / 16 % 4 * 16 + tag / 64 % 4 * 64 = tag := by omega
  have hcontent : content.take 64 ++ ((content.drop 64).take 64 ++
      ((content.drop 128).take 64 ++ (content.drop 192).take 64)) = content := by
    have h4 : (content.drop 192).take 64 = (content.drop 128).drop 64 := by
      rw [List.drop_drop, List.take_of_length_le (by simp [hc])]
    have h3 : content.drop 128 = (content.drop 64).drop 64 := by rw [List.drop_drop]
    rw [h4, List.take_append_drop, h3, List.take_append_drop, List.take_append_drop]
  simp [frameOfQuarters, quarter, upto, List.range_succ, hcontent, htag]

/-! ### The scrambler (R204) -/

/-- One bit through the scrambler and back, from one history on both sides. -/
theorem scramble_descramble (n : Nat) : ∀ h w : Nat, w < 2 ^ n →
    scramble true n h (scramble false n h w).2 = ((scramble false n h w).1, w) := by
  induction n with
  | zero =>
    intro h w hw
    obtain rfl : w = 0 := by omega
    rfl
  | succ n ih =>
    intro h w hw
    have hrest := fun h' => ih h' (w / 2) (by omega)
    generalize ho : (w + h / 2 ^ 38 + h / 2 ^ 57) % 2 = o
    have hsent : scramble false (n + 1) h w = ((scramble false n ((2 * h + o) % 2 ^ 58) (w / 2)).1,
        o + 2 * (scramble false n ((2 * h + o) % 2 ^ 58) (w / 2)).2) := by
      simp only [scramble, ho, Bool.false_eq_true, if_false]
    generalize hx : (scramble false n ((2 * h + o) % 2 ^ 58) (w / 2)) = x at hsent
    have hback := hrest ((2 * h + o) % 2 ^ 58)
    rw [hx] at hback
    have hline : (o + 2 * x.2) % 2 = o ∧ (o + 2 * x.2) / 2 = x.2 := by omega
    have hbit : (o + 2 * x.2 + h / 2 ^ 38 + h / 2 ^ 57) % 2 = w % 2 := by omega
    rw [hsent]
    simp only [scramble, if_true, hline, hbit, hback]
    rw [Nat.mod_add_div]

/-! ### Gray-coded symbols (R204) -/

theorem joinBits_cutBits (k : Nat) (n : Nat) : ∀ w, w < 2 ^ (k * n) → joinBits k (cutBits k n w) = w := by
  induction n with
  | zero =>
    intro w hw
    simp at hw
    simp [cutBits, joinBits, hw]
  | succ n ih =>
    intro w hw
    have hrest : w / 2 ^ k < 2 ^ (k * n) := by
      rw [Nat.div_lt_iff_lt_mul (by positivity), ← pow_add]
      rwa [Nat.mul_succ] at hw
    have := ih _ hrest
    unfold joinBits at this ⊢
    rw [cutBits, List.foldr_cons, this]
    exact Nat.mod_add_div' w (2 ^ k)

theorem cutBits_length (k n w : Nat) : (cutBits k n w).length = n := by
  induction n generalizing w with
  | zero => rfl
  | succ n ih => simp [cutBits, ih]

theorem cutBits_lt {k n w p : Nat} (h : p ∈ cutBits k n w) : p < 2 ^ k := by
  induction n generalizing w with
  | zero => simp [cutBits] at h
  | succ n ih =>
    simp only [cutBits, List.mem_cons] at h
    obtain rfl | h := h
    · exact Nat.mod_lt _ (Nat.two_pow_pos k)
    · exact ih h

/-- The level of two bits, and the bits of a level. -/
theorem gray_pair {p v : Nat} (hp : p < 4) (hv : v = 2 * (p % 2) + (p % 2 + p / 2) % 2) :
    v < 4 ∧ v / 2 % 2 + 2 * ((v / 2 + v) % 2) = p := by
  subst hv
  interval_cases p <;> decide

theorem symOf_grayOf {sym : Nat} (h : sym < 1024) :
    symOf (grayOf sym) = sym ∧ (grayOf sym).length = 5 ∧ ∀ v, v ∈ grayOf sym → v < 4 := by
  refine ⟨?_, by simp [grayOf, cutBits_length], ?_⟩
  · have hpairs : (grayOf sym).map (fun v => v / 2 % 2 + 2 * ((v / 2 + v) % 2)) = cutBits 2 5 sym := by
      rw [grayOf, List.map_map]
      exact (List.map_congr_left fun p hp => (gray_pair (cutBits_lt hp) rfl).2).trans (List.map_id _)
    rw [symOf, hpairs]
    exact joinBits_cutBits 2 5 sym h
  · intro v hv
    obtain ⟨p, hp, rfl⟩ := List.mem_map.1 hv
    exact (gray_pair (cutBits_lt hp) rfl).1

/-- Settles O35: each form reads back by the fields that its bytes or bits are joined of. -/
theorem wireFormsRoundTrip : Obligations.WireFormsRoundTrip := by
  unfold Obligations.WireFormsRoundTrip
  exact ⟨fun o h => ⟨osBytes_length o, osOf_osBytes h⟩, fun f h => ⟨flitBytes_length f, flitOf_flitBytes h⟩,
    fun _ h => cellOf_cellBits h, fun _ _ ht hc => frameOfQuarters_quarter ht hc,
    fun n h w _ hw => scramble_descramble n h w hw, fun _ h => symOf_grayOf h⟩

end Sys2Proof.Machine
end

section
/-! PROOFS. A side flit from a die of a DOME goes on under the die's logical position (R362). -/

namespace Sys2Proof.Machine

/-- A DOME that a die's port 0 and port 40 to DNO 7 lead to. -/
def domeOfDie : State := wHall.upPort 0

/-- A READ of DNO 7 that the die on port 0, at logical position 0, sends with another SRC_SUB. -/
def misnamedRead : Flit := wGood (mkFlit (.sideReq 0 5 (7 * 2 ^ 40) 0 5 0) 2 0 true [] 0)

/-- The bodies of the flits that wait at level 2 of port 40. -/
def State.bodiesOn40 (s : State) : List FlitBody := ((s.port 40).q.getD 2 []).map fun e => e.2.body

/-- The port as the flit's credits and ACK leave it. -/
def diePortAfter : PortSt :=
  ({ domeOfDie.port 0 with unRun := [0, 0, 0, 0] }.addCredit (misnamedRead.crdLevel % 4) misnamedRead.crdCount).takeAck
    misnamedRead.ack

theorem misnamedRead_taken :
    (domeOfDie.doFlitRx 0 (.flit misnamedRead)).bodiesOn40 = [.sideReq 0 5 (7 * 2 ^ 40) 0 0 0] := by
  decide +kernel

theorem misnamedRead_routed :
    ((domeOfDie.setPort 0 { diePortAfter with rxNext := ((domeOfDie.port 0).rxNext + 1) % 4096 }).routeFlit (some 0)
      misnamedRead).bodiesOn40 = [.sideReq 0 5 (7 * 2 ^ 40) 0 5 0] := by
  decide +kernel

/-- Refutes O31: a DOME writes the die's logical position into SRC_SUB before it routes the flit (R362), so that the flit that
goes on is not the one that came. -/
theorem not_framesRetryAndCreditsReturn : ¬ Obligations.FramesRetryAndCreditsReturn := by
  unfold Obligations.FramesRetryAndCreditsReturn
  rintro ⟨hport, -⟩
  obtain ⟨-, -, -, hgood, -⟩ := hport domeOfDie 0 _ rfl (by decide) (by decide) (by decide) rfl rfl
  obtain ⟨hside, -⟩ := hgood misnamedRead _ rfl (wGood_fcrc _)
  obtain ⟨hnext, -⟩ := hside (by decide) (by decide) (by decide) (by decide)
  have heq := Host.Outcome.next.inj (hnext (by decide))
  have hbodies := (misnamedRead_taken.symm.trans (congrArg State.bodiesOn40 heq)).trans misnamedRead_routed
  exact absurd hbodies (by decide)

end Sys2Proof.Machine
end

section
/-! PROOFS. Side requests at their destination: what a unit takes, refuses and answers (R242 to R244, R502). -/

namespace Sys2Proof.Machine

/-! ### Answers (R234, R244) -/

section

variable {s : State} {dno sub tag : Nat}

theorem reply_of_other (hd : dno ≠ s.srcDno) {q : Nat} (hq : s.exit (s.route s.srcDno dno (subDie sub)) = .port q)
    (st : Nat) (d : List Byte) : s.reply dno sub tag st d =
      s.queueFlits q none (sideFlits (.sideRsp st tag dno sub) (s.levelTo dno) d) := by
  simp only [State.reply, State.wayOut, hd, hq, decide_false, Bool.false_and, Bool.false_eq_true, if_false]

/-- An answer to another unit changes nothing but ports. -/
theorem reply_justPorts (hd : dno ≠ s.srcDno) (st : Nat) (d : List Byte) : JustPorts s (s.reply dno sub tag st d) := by
  simp only [State.reply, hd, decide_false, Bool.false_and, Bool.false_eq_true, if_false]
  split
  · exact queueFlits_justPorts _ _ _ _
  · exact .refl s

end

theorem srcDno_of_isVd {s : State} (h : s.isVd = true) : s.srcDno = s.ident.dno := by simp [State.srcDno, h]

/-! ### Which requests a unit takes (R243, R502) -/

section

variable {s : State} {p : Nat} {r : SideReq}

theorem takesSide_of_up (ha : s.awake = true) (hp : s.portUp p = true) : s.takesSide p = true := by
  simp [State.takesSide, ha, hp]

/-- A request to the unit's own DNO that names no die is its own. -/
theorem mine_of_hallUnit {op : Nat} (hu : hallUnit r.addr = s.ident.dno) (hop : op = 3 → Nat.testBit r.addr 20 = false) :
    s.mine { r with op := op } = true := by
  have hdie : spkDie op r.addr = none := if_neg (by simpa using hop)
  simp [State.mine, hu, hdie]

theorem serve_of_disabled (ht : s.takesSide p = true) (hm : s.mine r = true) (he : s.flag Fld.MEM_CTRL_SIDE_EN = false)
    (d : List Byte) (f : State → State) : s.serve p r d f = s.respond r 2 [] := by
  simp [State.serve, ht, hm, he]

theorem serve_of_vd (ht : s.takesSide p = true) (hm : s.mine r = true) (he : s.flag Fld.MEM_CTRL_SIDE_EN = true)
    (hv : s.isVd = true) (d : List Byte) (f : State → State) : s.serve p r d f = f s := by
  simp [State.serve, ht, hm, he, hv]

theorem serve_of_die (ht : s.takesSide p = true) (he : s.flag Fld.MEM_CTRL_SIDE_EN = true)
    (hv : s.isVd = false) (d : List Byte) (f : State → State) : s.serve p r d f = s.toHost r d := by
  simp [State.serve, State.mine, ht, he, hv]

end

/-! ### Main memory (R240, R242) -/

section

variable {s : State} {a n : Nat}

theorem memAccess_read (h8 : a % 8 = 0) (hn : n % 8 = 0) (hpage : a % 4096 + n ≤ 4096) (hmain : a < memEnd) (d : List Byte) :
    s.memAccess false a n d = (s, 0, Memory.readBytes s.fab.ram a n) := by
  simp [State.memAccess, h8, hn, hmain, Nat.not_lt.2 hpage]

theorem memAccess_write (h8 : a % 8 = 0) (hn : n % 8 = 0) (hpage : a % 4096 + n ≤ 4096) (hmain : a < memEnd) (d : List Byte) :
    s.memAccess true a n d = ({ s with fab := { s.fab with ram := Memory.writeBytes s.fab.ram a d } }, 0, []) := by
  simp [State.memAccess, h8, hn, hmain, Nat.not_lt.2 hpage]

/-- A write stores its bytes and no other. -/
theorem writeBytes_stores {t : State} {d : List Byte} (hd : d.length = n)
    (ht : t.fab.ram = Memory.writeBytes s.fab.ram a d) :
    Memory.readBytes t.fab.ram a n = d ∧ MemoryFrame a n s t := by
  subst hd
  rw [MemoryFrame, ht]
  exact ⟨Memory.readBytes_writeBytes _ _ _, fun x hx => Memory.read_writeBytes_out _ _ _ _ hx⟩

end

/-! ### READ_SPK (R502) -/

theorem readSpkAt_of_live {s : State} (hv : s.isVd = true) {addr : Nat} (h : addr % 2 ^ 40 < 16384)
    (hl : (s.meta (addr % 2 ^ 40)).st = .live) :
    Nat.testBit addr 20 = false ∧ s.readSpkAt addr = (0, leBytes 8 (s.spkVal (addr % 2 ^ 40)).toNat) := by
  have hphys : addr % 65536 = addr % 2 ^ 40 := by omega
  have hhigh : (addr >>> 21) % 2 ^ 19 = 0 := by rw [Nat.shiftRight_eq_div_pow]; omega
  have hmid : (addr >>> 16) % 16 = 0 := by rw [Nat.shiftRight_eq_div_pow]; omega
  have hbit : Nat.testBit addr 20 = false := by
    rw [Nat.testBit_eq_decide_div_mod_eq]
    simp
    omega
  have hfit : ¬ addr % 2 ^ 40 ≥ s.nSpk := by
    rw [nSpk_of_isVd hv]
    omega
  refine ⟨hbit, ?_⟩
  simp [State.readSpkAt, State.spkStatusOf, hhigh, hmid, hbit, hphys, hfit, hl, -ge_iff_le, -Nat.reducePow]

/-! ### Requests at a VD -/

section

variable {s : State} {p : Nat} {r : SideReq} (ht : s.takesSide p = true) (hu : hallUnit r.addr = s.ident.dno)

include ht hu

/-- READ_SPK of the unit's own DNO, which is no die window, and of no die. -/
theorem doReadSpk_of_own (hk : entKind (s.dnoEnt s.ident.dno) ≠ 3)
    (hb : Nat.testBit r.addr 20 = false) : s.doReadSpk p r =
      if s.flag Fld.MEM_CTRL_SIDE_EN then s.respond r (s.readSpkAt r.addr).1 (s.readSpkAt r.addr).2 else s.respond r 2 [] := by
  have hm : s.mine { r with op := 3 } = true := mine_of_hallUnit hu fun _ => hb
  cases he : s.flag Fld.MEM_CTRL_SIDE_EN <;> simp [State.doReadSpk, ht, hu, hm, hk, he]

theorem doSideBadOp_of_unused (hop : 4 ≤ r.op) :
    s.doSideBadOp p r = s.respond r (if s.flag Fld.MEM_CTRL_SIDE_EN then 5 else 2) [] := by
  have hm : s.mine r = true := mine_of_hallUnit hu (op := r.op) (by omega)
  simp [State.doSideBadOp, ht, hm, hop]

/-- While SIDE_EN is 0 every request is DENIED. -/
theorem requests_denied (he : s.flag Fld.MEM_CTRL_SIDE_EN = false) :
    s.doSideRead p r = s.respond r 2 [] ∧ s.doSideFence p r = s.respond r 2 [] ∧
    ∀ d c, s.doSideWrite p r d c = s.respond r 2 [] := by
  refine ⟨?_, ?_, fun d c => ?_⟩
  · exact serve_of_disabled ht (mine_of_hallUnit hu (by omega)) he _ _
  · exact serve_of_disabled ht (mine_of_hallUnit hu (by omega)) he _ _
  · have hcorrupt : (s.takesSide p && s.mine { r with op := 1 } && s.flag Fld.MEM_CTRL_SIDE_EN && crc64 d != c) = false := by
      simp [he]
    rw [State.doSideWrite, hcorrupt, if_neg Bool.false_ne_true]
    exact serve_of_disabled ht (mine_of_hallUnit hu (by omega)) he _ _

variable (he : s.flag Fld.MEM_CTRL_SIDE_EN = true)

include he

theorem doSideWrite_of_corrupt {d : List Byte} {c : Nat} (hc : crc64 d ≠ c) : s.doSideWrite p r d c = s.respond r 7 [] := by
  have hm : s.mine { r with op := 1 } = true := mine_of_hallUnit hu (by omega)
  simp [State.doSideWrite, ht, hm, he, hc]

variable (hv : s.isVd = true)

include hv

theorem doSideFence_of_enabled : s.doSideFence p r =
    { s with fab := { s.fab with fences := s.fab.fences ++ [⟨r.dno, r.sub, r.tag, 2, 0⟩] } } :=
  serve_of_vd ht (mine_of_hallUnit hu (by omega)) he hv _ _

variable {a n : Nat} (ha : a = r.addr % 2 ^ 40) (hn : n = 8 * (r.len8 + 1)) (h8 : a % 8 = 0) (hpage : a % 4096 + n ≤ 4096)
  (hmain : a < memEnd)

include ha hn h8 hpage hmain

theorem doSideRead_of_enabled : s.doSideRead p r = s.respond r 0 (Memory.readBytes s.fab.ram a n) := by
  have hread := memAccess_read (s := s) h8 (by omega) hpage hmain []
  rw [State.doSideRead, serve_of_vd ht (mine_of_hallUnit hu (by omega)) he hv, ← ha, ← hn, hread]

theorem doSideWrite_of_good (d : List Byte) : s.doSideWrite p r d (crc64 d) =
    ({ s with fab := { s.fab with ram := Memory.writeBytes s.fab.ram a (padTo n d) } } : State).respond r 0 [] := by
  have hgood : (s.takesSide p && s.mine { r with op := 1 } && s.flag Fld.MEM_CTRL_SIDE_EN && crc64 d != crc64 d) = false := by
    simp
  have hwrite := memAccess_write (s := s) h8 (by omega) hpage hmain (padTo n d)
  rw [State.doSideWrite, hgood, if_neg Bool.false_ne_true, serve_of_vd ht (mine_of_hallUnit hu (by omega)) he hv]
  simp only [← ha, ← hn, hwrite]

/-- A good write stores its bytes and no other. -/
theorem doSideWrite_stores (hd : r.dno ≠ s.ident.dno) (d : List Byte) {t : State} (heq : t = s.doSideWrite p r d (crc64 d)) :
    Memory.readBytes t.fab.ram a n = padTo n d ∧ MemoryFrame a n s t ∧ t.regs = s.regs ∧ t.spk = s.spk := by
  rw [doSideWrite_of_good ht hu he hv ha hn h8 hpage hmain] at heq
  have hother : r.dno ≠ s.srcDno := by rwa [srcDno_of_isVd hv]
  have hanswer : JustPorts { s with fab := { s.fab with ram := Memory.writeBytes s.fab.ram a (padTo n d) } } t :=
    heq ▸ reply_justPorts (by exact hother) 0 []
  obtain ⟨hstored, hframe⟩ := writeBytes_stores (s := s) (padTo_length n d) hanswer.ram_eq
  exact ⟨hstored, hframe, by rw [hanswer.frame], by rw [hanswer.frame]⟩

end

/-! ### FENCE (R243) -/

theorem doFenceComplete_of_first {s : State} {x : SideIn} {rest : List SideIn} (h : s.fab.fences = x :: rest) :
    s.doFenceComplete = ({ s with fab := { s.fab with fences := rest } } : State).reply x.dno x.sub x.tag 0 [] := by
  unfold State.doFenceComplete
  rw [h]
  rfl

/-! ### Requests at a VSU (R436, R448) -/

theorem doSideRead_of_die {s : State} {p : Nat} (ht : s.takesSide p = true) (hv : s.isVd = false)
    (he : s.flag Fld.MEM_CTRL_SIDE_EN = true) (r : SideReq) : s.doSideRead p r = s.toHost { r with op := 0 } [] :=
  serve_of_die ht he hv _ _

end Sys2Proof.Machine
end

section
/-! PROOFS. Side requests and BAR2 accesses of the unit's own: how they start, and how they complete (R243 to R247). -/

namespace Sys2Proof.Machine

/-! ### Requests that complete (R243, R244) -/

/-- A unit in which no request of its own has a tag any more. -/
def State.tagFreed (s : State) (tag : Nat) : State :=
  { s with fab := { s.fab with side := s.fab.side.filter fun x => x.tag != tag } }

theorem doSideRspRx_of_awake {s : State} (ha : s.awake = true) (tag : RspTag) (st : Nat) (d : List Byte) :
    s.doSideRspRx tag st d = s.rspIn tag.tag st d tag.link := if_pos ha

/-- Where nothing waits to start, only the destinations that are held are looked at again. -/
theorem sideRelease_of_none {s : State} (h : s.fab.sideWait = []) :
    s.sideRelease = { s with fab := { s.fab with holdDst := s.fab.holdDst.filter s.dstBusy } } := by
  simp only [State.sideRelease, h, List.foldl_nil]

section

variable {s : State} {r : SideOut} (hr : s.fab.side.find? (fun x => x.tag == r.tag) = some r)

include hr

theorem rspIn_of_corrupt (hop : r.op = 1) (ht : r.tries < 3) (d : List Byte) (h : List FlitLink) :
    s.rspIn r.tag 7 d h = (s.tagFreed r.tag).sideSend { r with tries := r.tries + 1 } := by
  simp [State.rspIn, hr, hop, ht, State.tagFreed, State.setFab]

theorem rspIn_of_answer {st : Nat} (hst : st ≠ 7) (d : List Byte) (h : List FlitLink) :
    s.rspIn r.tag st d h = ((s.tagFreed r.tag).sideComplete r st d h).sideRelease := by
  simp [State.rspIn, hr, hst, State.tagFreed, State.setFab]

theorem doSideReqTimeout_of_due (h : s.time.now - r.sentAt ≥ s.fld Fld.MEM_CTRL_TIMEOUT_US * usX) :
    s.doSideReqTimeout r.tag = s.rspIn r.tag 6 [] := by
  simp only [State.doSideReqTimeout, hr, h, if_true]

theorem doSideReqTimeout_of_early (h : s.time.now - r.sentAt < s.fld Fld.MEM_CTRL_TIMEOUT_US * usX) :
    s.doSideReqTimeout r.tag = s := by
  simp only [State.doSideReqTimeout, hr, ge_iff_le, Nat.not_le.2 h, if_false]

end

theorem sideComplete_bar2Write_ok (s : State) {r : SideOut} (hu : r.use = .bar2Write) (d : List Byte)
    (h : List FlitLink) : s.sideComplete r 0 d h = s := by
  simp [State.sideComplete, hu]

theorem sideComplete_bar2Write_fails (s : State) {r : SideOut} (hu : r.use = .bar2Write) {st : Nat} (hst : st ≠ 0)
    (d : List Byte) (h : List FlitLink) : s.sideComplete r st d h = s.memFail r st true := by
  simp [State.sideComplete, hu, hst]

/-- The status bit of a failed request, by its status. -/
def failBit (st : Nat) : Fld := if st = 6 then Fld.MEM_STATUS_TIMEOUT else Fld.MEM_STATUS_ERROR

/-- A failed request stands in MEM_ERR_LOG and is raised (R256). -/
theorem memFail_spec (s : State) (r : SideOut) (st : Nat) (bar2 : Bool) {t : State} (ht : t = s.memFail r st bar2) :
    t.flag (failBit st) = true ∧
    t.reg Reg.MEM_ERR_LOG = mkw [(0, r.addr % 2 ^ 52), (52, st), (56, r.op % 16), (60, bit bar2)] ∧
    OnlyEvents [Reg.MEM_STATUS, Reg.MEM_ERR_LOG] s t := by
  have hbit : (failBit st).lo + (failBit st).w ≤ 64 ∧ 0 < (failBit st).w ∧ (failBit st).reg = Reg.MEM_STATUS := by
    unfold failBit
    split <;> decide
  obtain ⟨hlo, hw, hreg⟩ := hbit
  have hraise : t = (s.setReg Reg.MEM_ERR_LOG
      (mkw [(0, r.addr % 2 ^ 52), (52, st), (56, r.op % 16), (60, bit bar2)])).raise (failBit st) := by
    rw [ht, failBit, apply_ite (State.raise _)]
    rfl
  have hframe := raise_onlyEvents (s.setReg Reg.MEM_ERR_LOG
    (mkw [(0, r.addr % 2 ^ 52), (52, st), (56, r.op % 16), (60, bit bar2)])) (failBit st)
  rw [← hraise, hreg] at hframe
  refine ⟨?_, ?_, ?_⟩
  · rw [hraise]
    exact State.flag_raise _ _ hlo hw (by rw [hreg]; decide)
  · rw [hframe.2 _ (by decide) (by decide), State.reg_setReg_self]
  · exact ((setReg_onlyEvents s _ _).mono (by simp)).trans (hframe.mono (by simp))

/-! ### Requests to the unit itself (R234, R245) -/

@[simp] theorem namedPort_ne_loc (s : State) (p : Nat) : s.namedPort p ≠ .loc := by
  unfold State.namedPort
  split <;> simp

@[simp] theorem candPort_ne_loc (s : State) (src d : Nat) (l : List Nat) : s.candPort src d l ≠ .loc := by
  unfold State.candPort
  split
  · simp
  · split
    · split <;> simp
    · exact namedPort_ne_loc s _

/-- A VD routes to itself nothing that names a die window. -/
theorem entKind_of_route_loc {s : State} (hv : s.isVd = true) {src d : Nat} {die : Option Nat}
    (h : s.route src d die = .loc) : entKind (s.dnoEnt d) ≠ 3 := by
  intro hk
  simp only [State.route, hv, hk, Bool.not_true, Bool.false_eq_true, if_false, if_true] at h
  split_ifs at h <;> simp at h

/-- The unit whose search for a free tag goes on at `n`. -/
def State.nextTagAt (s : State) (n : Nat) : State := { s with fab := { s.fab with nextTag := n } }

section

variable {s : State} {op addr len8 : Nat} (hv : s.isVd = true) (hop : op < 2)
  (hr : s.route s.srcDno (hallUnit addr) none = .loc)

include hv hop hr

/-- A READ or WRITE of the unit's own memory is carried out as it is sent. -/
theorem sideSend_of_local {r : SideOut} (hro : r.op = op) (hra : r.addr = addr) :
    s.sideSend r = (s.ownAccess r.op r.addr r.len8 r.data).1.sideComplete r
      (s.ownAccess r.op r.addr r.len8 r.data).2.1 (s.ownAccess r.op r.addr r.len8 r.data).2.2 := by
  have hkind := entKind_of_route_loc hv hr
  have hop3 : op ≠ 3 := by omega
  have hdie : spkDie op addr = none := by simp [spkDie, hop3]
  have hgood : s.addrBad op addr = false := by simp [State.addrBad, hkind, hop3, hdie]
  simp only [State.sideSend, State.wayOut, State.exit, hro, hra, hgood, hdie, hr, Bool.false_eq_true, if_false]

theorem sideStart_of_local (hw : s.sideWaits op addr len8 = false) {n : Nat} (hn : (s.freeTag + 1) % 4096 = n)
    (d : List Byte) (u : SideUse) : ∃ r : SideOut, r.use = u ∧ s.sideStart op addr len8 d u =
      ((s.nextTagAt n).ownAccess op addr len8 d).1.sideComplete r ((s.nextTagAt n).ownAccess op addr len8 d).2.1
        ((s.nextTagAt n).ownAccess op addr len8 d).2.2 := by
  have hstart : s.sideStart op addr len8 d u = (s.nextTagAt ((s.freeTag + 1) % 4096)).sideSend
      { tag := s.freeTag, op, addr, len8, data := d, sentAt := s.time.now, tries := 0, use := u } := by
    rw [State.sideStart, hw, if_neg Bool.false_ne_true]
    rfl
  rw [hstart, hn]
  exact ⟨_, rfl, sideSend_of_local (s := s.nextTagAt n) hv hop hr rfl rfl⟩

end

/-! ### BAR2 (R246, R247) -/

/-- An access that is refused whole, or lies in one request, is one piece. -/
theorem piecesOf_single {off len : Nat} (h0 : 0 < len)
    (h : bar2Aligned off len = false ∨ (len ≤ 3584 ∧ off % 4096 + len ≤ 4096)) : piecesOf off len = [(0, off, len)] := by
  unfold piecesOf
  split
  case isFalse => rfl
  case isTrue ha =>
    obtain ⟨hmax, hpage⟩ := h.resolve_left (by simp [ha])
    have hk : min len (min 3584 (4096 - off % 4096)) = len := by omega
    have hrest : ∀ n, bar2Pieces n (0 + len) (off + len) (len - len) = [] := fun n => by cases n <;> simp [bar2Pieces]
    rw [bar2Pieces, if_neg (by omega)]
    simp only [hk, hrest]

section

variable {s : State} {off len : Nat}

theorem bar2Req_of_open {a : Nat} (ha : s.aperture off = some a) (op len : Nat) (d : List Byte) (u : SideUse) :
    s.bar2Req op true off len d u = s.sideStart op a (len / 8 - 1) d u := by
  simp only [State.bar2Req, ha]

/-- A misaligned access, and one behind an aperture that is not enabled, is DENIED. -/
theorem bar2Req_of_refused {al : Bool} (h : al = false ∨ s.aperture off = none) (op len : Nat) (d : List Byte) (u : SideUse) :
    ∃ r : SideOut, r.use = u ∧ s.bar2Req op al off len d u = s.sideComplete r 2 [] := by
  refine ⟨{ tag := 0, op := op, addr := (s.aperture off).getD 0, len8 := 0, data := [], sentAt := 0, tries := 0, use := u },
    rfl, ?_⟩
  unfold State.bar2Req
  split
  case h_1 ha => exact absurd h (by simp [ha])
  case h_2 => rfl

/-- The unit while a BAR2 read that is one piece is under way. -/
def State.bar2Begun (s : State) : State :=
  { s with fab := { s.fab with bar2No := s.fab.bar2No + 1, bar2 := s.fab.bar2 ++ [(s.fab.bar2No, 1, [])] } }

variable (hb : s.hasBar2 = true) (hend : off + len ≤ 2 ^ 36) (hp : piecesOf off len = [(0, off, len)])

include hb hend hp

theorem doBar2Read_of_single : s.doBar2Read off len =
    s.bar2Begun.bar2Req 0 (bar2Aligned off len) off len [] (.bar2Read s.fab.bar2No 0) := by
  rw [State.doBar2Read, if_neg (by simp [hb]; omega)]
  simp only [hp, List.isEmpty_cons, Bool.false_eq_true, if_false, List.foldl_cons, List.foldl_nil]
  rfl

theorem doBar2Write_of_single {d : List Byte} (hd : d.length = len) :
    s.doBar2Write off d = s.bar2Req 1 (bar2Aligned off len) off len d .bar2Write := by
  subst hd
  rw [State.doBar2Write, if_neg (by simp [hb]; omega)]
  simp [hp]

end

/-- The only piece of a BAR2 read completes the access. -/
theorem bar2Piece_of_single {s : State} {l : List (Nat × Nat × List (Nat × List Byte))} {n : Nat}
    (hl : ∀ e ∈ l, e.1 < n) (hs : s.fab.bar2 = l ++ [(n, 1, [])]) (st : Nat) (d : List Byte) :
    s.bar2Piece n 0 st d = { s with
      fab := { s.fab with bar2 := l },
      out := s.out ++ [.bar2Done (bit (st != 0)) (if st != 0 then [] else d)] } := by
  have hfind : s.fab.bar2.find? (fun e => e.1 == n) = some (n, 1, []) := by
    rw [hs, List.find?_append, List.find?_eq_none.2 fun e he => by simpa using (hl e he).ne]
    simp
  have hkeep : (s.fab.bar2.filter fun e => e.1 != n) = l := by
    rw [hs, List.filter_append, List.filter_eq_self.2 fun e he => by simpa using (hl e he).ne]
    simp
  by_cases hst : st = 0 <;> simp [State.bar2Piece, hfind, hkeep, hst]

theorem sideComplete_bar2Read (s : State) {r : SideOut} {n off : Nat} (hu : r.use = .bar2Read n off) (st : Nat)
    (d : List Byte) : s.sideComplete r st d = (if st = 0 then s else s.memFail r st true).bar2Piece n off st d := by
  simp [State.sideComplete, hu]

/-- An aperture keeps the low bits of the offset. -/
theorem aperture_low {s : State} {off a : Nat} (h : s.aperture off = some a) : a % 2 ^ 32 = off % 2 ^ 32 := by
  simp only [State.aperture, Option.ite_none_right_eq_some, Option.some.injEq] at h
  omega

theorem bar2Aligned_iff {off len : Nat} : bar2Aligned off len = true ↔ off % 8 = 0 ∧ len % 8 = 0 := by
  simp [bar2Aligned]

/-! ### An access of the unit's own memory (R246, R247) -/

section

variable {s : State} {off len a : Nat} (hb : s.hasBar2 = true) (hend : off + len ≤ 2 ^ 36) (h0 : 0 < len)
  (hal : bar2Aligned off len = true) (hap : s.aperture off = some a) (hmax : len ≤ 3584) (hpage : off % 4096 + len ≤ 4096)

theorem isVd_of_hasBar2 {s : State} (h : s.hasBar2 = true) : s.isVd = true := by
  simp only [State.hasBar2, Bool.and_eq_true] at h
  exact h.1.1

/-- A request waits for nothing where a tag is free, its pair is not held, and no WRITE is under way. -/
theorem sideWaits_of_free {s : State} {a : Nat} (hside : s.fab.side.length < 4096) (hheld : s.pairHeld (hallUnit a) = false)
    (hnw : ∀ w, w ∈ s.fab.side → w.op ≠ 1) (op len8 : Nat) : s.sideWaits op a len8 = false := by
  have hafter : s.afterWrite op a len8 = false := by
    rw [State.afterWrite, List.any_eq_false]
    intro w hw
    simp [hnw w hw]
  simp [State.sideWaits, hheld, hafter, hside]

include h0 hal hap hpage in
/-- Where the piece lies in the unit's memory. -/
theorem piece_bounds : 8 * (len / 8 - 1 + 1) = len ∧ len % 8 = 0 ∧ a % 2 ^ 40 % 8 = 0 ∧ a % 2 ^ 40 % 4096 + len ≤ 4096 := by
  obtain ⟨hoff, hlen⟩ := bar2Aligned_iff.1 hal
  have hlow := aperture_low hap
  omega

variable (hroute : s.route s.srcDno (hallUnit a) none = .loc) (hside : s.fab.side.length < 4096)
  (hheld : s.pairHeld (hallUnit a) = false) (hnw : ∀ w, w ∈ s.fab.side → w.op ≠ 1) (hmain : a % 2 ^ 40 < memEnd)

include hb hend h0 hal hap hmax hpage hroute hside hheld hnw hmain

theorem doBar2Read_of_open (hold : ∀ e, e ∈ s.fab.bar2 → e.1 < s.fab.bar2No) {n : Nat} (hn : (s.freeTag + 1) % 4096 = n) :
    s.doBar2Read off len = { s with
      fab := { s.fab with bar2No := s.fab.bar2No + 1, nextTag := n },
      out := s.out ++ [.bar2Done 0 (Memory.readBytes s.fab.ram (a % 2 ^ 40) len)] } := by
  obtain ⟨hlen, hlen8, ha8, hpage'⟩ := piece_bounds h0 hal hap hpage
  obtain ⟨r, hu, hstart⟩ := sideStart_of_local (s := s.bar2Begun) (op := 0) (addr := a) (len8 := len / 8 - 1)
    (isVd_of_hasBar2 hb) (by decide) hroute (sideWaits_of_free hside hheld hnw 0 _) hn [] (.bar2Read s.fab.bar2No 0)
  have hread : (s.bar2Begun.nextTagAt n).ownAccess 0 a (len / 8 - 1) [] =
      (s.bar2Begun.nextTagAt n, 0, Memory.readBytes s.fab.ram (a % 2 ^ 40) len) := by
    simp only [State.ownAccess, if_true, hlen]
    exact memAccess_read ha8 hlen8 hpage' hmain []
  rw [doBar2Read_of_single hb hend (piecesOf_single h0 (.inr ⟨hmax, hpage⟩)), hal, bar2Req_of_open (s := s.bar2Begun) hap,
    hstart, hread, sideComplete_bar2Read _ hu, if_pos rfl, bar2Piece_of_single hold rfl]
  rfl

theorem doBar2Write_of_open {d : List Byte} (hd : d.length = len) {n : Nat} (hn : (s.freeTag + 1) % 4096 = n) :
    s.doBar2Write off d = { s with
      fab := { s.fab with ram := Memory.writeBytes s.fab.ram (a % 2 ^ 40) d, nextTag := n } } := by
  obtain ⟨hlen, hlen8, ha8, hpage'⟩ := piece_bounds h0 hal hap hpage
  obtain ⟨r, hu, hstart⟩ := sideStart_of_local (s := s) (op := 1) (addr := a) (len8 := len / 8 - 1)
    (isVd_of_hasBar2 hb) (by decide) hroute (sideWaits_of_free hside hheld hnw 1 _) hn d .bar2Write
  have hpad : padTo len d = d := hd ▸ padTo_self d
  have hwrite : (s.nextTagAt n).ownAccess 1 a (len / 8 - 1) d =
      ({ s with fab := { s.fab with ram := Memory.writeBytes s.fab.ram (a % 2 ^ 40) d, nextTag := n } }, 0, []) := by
    simp only [State.ownAccess, one_ne_zero, if_false, if_true, hlen, hpad]
    exact memAccess_write ha8 hlen8 hpage' hmain d
  rw [doBar2Write_of_single hb hend (piecesOf_single h0 (.inr ⟨hmax, hpage⟩)) hd, hal, bar2Req_of_open hap, hstart, hwrite,
    sideComplete_bar2Write_ok _ hu]

end

/-! ### An access that is refused (R247) -/

section

variable {s : State} {off len : Nat} (hb : s.hasBar2 = true) (hend : off + len ≤ 2 ^ 36) (h0 : 0 < len)
  (hbad : bar2Aligned off len = false ∨ (s.aperture off = none ∧ len ≤ 3584 ∧ off % 4096 + len ≤ 4096))

include hb hend h0 hbad

theorem doBar2Read_of_refused (hold : ∀ e, e ∈ s.fab.bar2 → e.1 < s.fab.bar2No) {t : State} (ht : t = s.doBar2Read off len) :
    t.out.getLast? = some (.bar2Done 1 []) ∧ t.flag Fld.MEM_STATUS_ERROR = true ∧
    OnlyEvents [Reg.MEM_STATUS, Reg.MEM_ERR_LOG] { s with fab := { s.fab with bar2No := s.fab.bar2No + 1 } } t := by
  obtain ⟨r, hu, hreq⟩ := bar2Req_of_refused (s := s.bar2Begun) (hbad.imp_right And.left) 0 len [] (.bar2Read s.fab.bar2No 0)
  obtain ⟨hflag, -, hframe⟩ := memFail_spec s.bar2Begun r 2 true rfl
  have hbar2 : (s.bar2Begun.memFail r 2 true).fab.bar2 = s.fab.bar2 ++ [(s.fab.bar2No, 1, [])] := by rw [hframe.1]; rfl
  rw [doBar2Read_of_single hb hend (piecesOf_single h0 (hbad.imp_right And.right)), hreq, sideComplete_bar2Read _ hu,
    if_neg (by decide), bar2Piece_of_single hold hbar2] at ht
  obtain ⟨heq, hreg⟩ := hframe
  generalize s.bar2Begun.memFail r 2 true = u at *
  subst ht
  exact ⟨by simp [bit], hflag, by rw [heq]; rfl, hreg⟩

theorem doBar2Write_of_refused {d : List Byte} (hd : d.length = len) {t : State} (ht : t = s.doBar2Write off d) :
    t.flag Fld.MEM_STATUS_ERROR = true ∧ OnlyEvents [Reg.MEM_STATUS, Reg.MEM_ERR_LOG] s t := by
  obtain ⟨r, hu, hreq⟩ := bar2Req_of_refused (hbad.imp_right And.left) 1 len d .bar2Write
  rw [doBar2Write_of_single hb hend (piecesOf_single h0 (hbad.imp_right And.right)) hd, hreq,
    sideComplete_bar2Write_fails _ hu (by decide)] at ht
  obtain ⟨hflag, -, hframe⟩ := memFail_spec s r 2 true ht
  exact ⟨hflag, hframe⟩

end

/-! ### The statement -/

/-- What the unit's own request comes to (R243, R244). -/
theorem ownRequest_completes {s : State} {r : SideOut} (hr : s.fab.side.find? (fun x => x.tag == r.tag) = some r)
    (hw : s.fab.sideWait = []) (hu : r.use = .bar2Write) :
    (∀ d h, s.rspIn r.tag 0 d h = { s with fab := { s.fab with
      side := s.fab.side.filter fun x => x.tag != r.tag, holdDst := (s.rspIn r.tag 0 d h).fab.holdDst } }) ∧
    ∀ t, t = s.rspIn r.tag 6 [] → t.flag Fld.MEM_STATUS_TIMEOUT = true ∧
      t.reg Reg.MEM_ERR_LOG = mkw [(0, r.addr % 2 ^ 52), (52, 6), (56, r.op % 16), (60, 1)] ∧
      OnlyEvents [Reg.MEM_STATUS, Reg.MEM_ERR_LOG] { s with fab := { s.fab with
        side := s.fab.side.filter (fun x => x.tag != r.tag), holdDst := t.fab.holdDst } } t := by
  have hnone : (s.tagFreed r.tag).fab.sideWait = [] := hw
  refine ⟨fun d h => ?_, fun t ht => ?_⟩
  · rw [rspIn_of_answer hr (by decide), sideComplete_bar2Write_ok _ hu, sideRelease_of_none hnone]
    rfl
  · obtain ⟨hflag, hlog, hframe⟩ := memFail_spec (s.tagFreed r.tag) r 6 true rfl
    have hwait : ((s.tagFreed r.tag).memFail r 6 true).fab.sideWait = [] := by rw [hframe.1]; exact hw
    rw [rspIn_of_answer hr (by decide), sideComplete_bar2Write_fails _ hu (by decide), sideRelease_of_none hwait] at ht
    obtain ⟨heq, hreg⟩ := hframe
    generalize (s.tagFreed r.tag).memFail r 6 true = u at *
    subst ht
    exact ⟨hflag, hlog, by rw [heq]; rfl, hreg⟩

/-- Settles O33: a request at its destination by what the unit serves, one of the unit's own by its response or its timeout,
and a BAR2 access by the one request that it is. -/
theorem sideRequestsCompleteAtBothEnds : Obligations.SideRequestsCompleteAtBothEnds := by
  unfold Obligations.SideRequestsCompleteAtBothEnds
  refine ⟨⟨fun s r st q d hd hq => reply_of_other hd hq st d, fun s p r hv ha hp hu hd hk => ?vd,
    fun s p r hv ha hp he => congrArg Host.Outcome.next (doSideRead_of_die (takesSide_of_up ha hp) hv he r)⟩,
    fun s r d h ha hr hw => ?own, fun s off len a d hb hend h0 hd hold => ?bar2⟩
  case vd =>
    have ht := takesSide_of_up ha hp
    refine ⟨fun he => ?off, fun he => ?on, fun x rest hx => ?fence⟩
    case off =>
      obtain ⟨hread, hfence, hwrite⟩ := requests_denied ht hu he
      refine ⟨congrArg Host.Outcome.next hread, congrArg Host.Outcome.next hfence,
        fun d c => congrArg Host.Outcome.next (hwrite d c), fun hop => congrArg Host.Outcome.next ?_,
        fun hb => congrArg Host.Outcome.next ?_⟩
      · rw [doSideBadOp_of_unused ht hu hop, he, if_neg Bool.false_ne_true]
      · rw [doReadSpk_of_own ht hu hk hb, he, if_neg Bool.false_ne_true]
    case on =>
      refine ⟨fun a n haddr hn h8 hpage hmain => ⟨congrArg Host.Outcome.next ?_,
          fun d c hc => congrArg Host.Outcome.next (doSideWrite_of_corrupt ht hu he hc),
          fun d => ⟨_, rfl, doSideWrite_stores ht hu he hv haddr hn h8 hpage hmain hd d rfl⟩⟩,
        congrArg Host.Outcome.next (doSideFence_of_enabled ht hu he hv), fun hphys hl => congrArg Host.Outcome.next ?_,
        fun hop => congrArg Host.Outcome.next ?_⟩
      · exact doSideRead_of_enabled ht hu he hv haddr hn h8 hpage hmain
      · obtain ⟨hb, hspk⟩ := readSpkAt_of_live hv hphys hl
        rw [doReadSpk_of_own ht hu hk hb, he, if_pos rfl, hspk]
      · rw [doSideBadOp_of_unused ht hu hop, he, if_pos rfl]
    case fence => exact congrArg Host.Outcome.next (doFenceComplete_of_first hx)
  case own =>
    refine ⟨fun hu => ⟨_, congrArg Host.Outcome.next (doSideRspRx_of_awake ha _ _ _), (ownRequest_completes hr hw hu).1 d h⟩,
      fun hop ht => congrArg Host.Outcome.next ((doSideRspRx_of_awake ha _ _ _).trans (rspIn_of_corrupt hr hop ht d h)),
      fun hu hdue => ⟨s.rspIn r.tag 6 [], congrArg Host.Outcome.next (doSideReqTimeout_of_due hr hdue),
        (ownRequest_completes hr hw hu).2 _ rfl⟩,
      fun hearly => congrArg Host.Outcome.next (doSideReqTimeout_of_early hr hearly)⟩
  case bar2 =>
    refine ⟨fun hal hap hmax hpage hroute hside hheld hnw hmain => ?good, fun hbad => ?bad⟩
    case good =>
      have hread := doBar2Read_of_open hb hend h0 hal hap hmax hpage hroute hside hheld hnw hmain hold rfl
      have hwrite := doBar2Write_of_open hb hend h0 hal hap hmax hpage hroute hside hheld hnw hmain hd rfl
      obtain ⟨hstored, hframe⟩ := writeBytes_stores (s := s) (t := s.doBar2Write off d) hd (by rw [hwrite])
      refine ⟨congrArg Host.Outcome.next hread, _, rfl, hstored, hframe, ?_⟩
      rw [hwrite]
    case bad => exact ⟨⟨_, rfl, doBar2Read_of_refused hb hend h0 hbad hold rfl⟩, _, rfl,
      doBar2Write_of_refused hb hend h0 hbad hd rfl⟩

end Sys2Proof.Machine
end

section
/-! PROOFS. Remote SIGNALs: how a record is judged, acknowledged, sent again and given up (R250 to R252). -/

namespace Sys2Proof.Machine

/-! ### What judging a record changes (R250) -/

/-- `t` is `s` but for its judgements, the SIGNALs and refusals that it has put off, and its ports. -/
def OnlyJudges (s t : State) : Prop :=
  t = { s with fab := { s.fab with defer := t.fab.defer, judge := t.fab.judge, ports := t.fab.ports } }

section

variable {s t u : State}

theorem OnlyJudges.refl (s : State) : OnlyJudges s s := rfl

theorem OnlyJudges.trans (h : OnlyJudges s t) (k : OnlyJudges t u) : OnlyJudges s u := by
  unfold OnlyJudges at h k ⊢
  rw [k, h]

theorem OnlyJudges.frame (h : OnlyJudges s t) :
    t = { s with fab := { s.fab with defer := t.fab.defer, judge := t.fab.judge, ports := t.fab.ports } } := h
theorem OnlyJudges.spk_eq (h : OnlyJudges s t) : t.spk = s.spk := by rw [h.frame]
theorem OnlyJudges.regs_eq (h : OnlyJudges s t) : t.regs = s.regs := by rw [h.frame]
theorem OnlyJudges.ram_eq (h : OnlyJudges s t) : t.fab.ram = s.fab.ram := by rw [h.frame]
theorem OnlyJudges.spkVal_eq (h : OnlyJudges s t) (p : Nat) : t.spkVal p = s.spkVal p := by
  simp only [State.spkVal, h.spk_eq]

theorem JustPorts.onlyJudges (h : JustPorts s t) : OnlyJudges s t := by
  unfold OnlyJudges
  rw [h.frame]

theorem JustPorts.judged_eq (h : JustPorts s t) (dno sub : Nat) : t.judged dno sub = s.judged dno sub := by
  simp only [State.judged]
  rw [h.frame]

end

section

variable (s : State) (dno sub : Nat)

theorem setJudged_onlyJudges (j : SigJudge) : OnlyJudges s (s.setJudged dno sub j) := rfl

theorem noteApplied_onlyJudges (seq : Nat) : OnlyJudges s (s.noteApplied dno sub seq) := rfl

theorem sendAck_justPorts (seq st : Nat) : JustPorts s (s.sendAck dno sub seq st) := by
  unfold State.sendAck
  split
  · exact queueFlits_justPorts _ _ _ _
  · exact .refl s

/-- A refusal is put off behind what the pair has put off, or sent. -/
theorem refuseRec_spec (r : SigRec) (nak : Nat) :
    OnlyJudges s (s.refuseRec dno sub r nak) ∧ (s.refuseRec dno sub r nak).judged dno sub = s.judged dno sub := by
  unfold State.refuseRec
  split
  · exact ⟨rfl, rfl⟩
  · have h := sendAck_justPorts s dno sub r.seq nak
    exact ⟨h.onlyJudges, h.judged_eq dno sub⟩

/-- An acknowledgement is noted and sent; what was judged and applied stays. -/
theorem ackPair_spec : OnlyJudges s (s.ackPair dno sub) ∧
    ((s.ackPair dno sub).judged dno sub).last = (s.judged dno sub).last ∧
    ((s.ackPair dno sub).judged dno sub).applied = (s.judged dno sub).applied := by
  simp only [State.ackPair]
  split
  · have h := sendAck_justPorts (s.setJudged dno sub { s.judged dno sub with
      acked := s.ackSeqOf dno sub
      fresh := (s.judged dno sub).fresh.filter fun q => serialHigher 32 q (s.ackSeqOf dno sub) }) dno sub (s.ackSeqOf dno sub) 0
    exact ⟨(setJudged_onlyJudges s dno sub _).trans h.onlyJudges, by rw [h.judged_eq, State.judged_setJudged_self],
      by rw [h.judged_eq, State.judged_setJudged_self]⟩
  · exact ⟨.refl s, rfl, rfl⟩

end

/-! ### What applying a SIGNAL leaves alone -/

section

variable (s : State) (p inc : Nat)

theorem applySignal_defer : (s.applySignal p inc).fab.defer = s.fab.defer := by
  rw [State.applySignal, (wake_spec _ p).1]
  rfl

theorem applySignal_judged (dno sub : Nat) : (s.applySignal p inc).judged dno sub = s.judged dno sub := by
  rw [State.judged, State.applySignal, (wake_spec _ p).1]
  rfl

end

/-! ### How a record is judged (R250) -/

/-- A LIVE sprocket accepts a SIGNAL. -/
theorem nakOf_of_live {s : State} {p : Nat} (hp : p < s.nSpk) (hl : (s.meta p).st = .live) : s.nakOf p = 0 := by
  simp [State.nakOf, State.spkStatusOf, Nat.not_le.2 hp, hl]

section

variable {s : State} {dno sub : Nat} {r : SigRec} (h0 : r.seq ≠ 0)

include h0

theorem judgeRec_of_judged (h : serialHigher 32 r.seq (s.judged dno sub).last = false) (die : Option Nat) :
    s.judgeRec die dno sub r = s := by
  simp [State.judgeRec, h0, h]

variable (h : serialHigher 32 r.seq (s.judged dno sub).last = true)

include h

theorem judgeRec_of_refused (hbad : s.staleSig r.sentUs = true ∨ s.nakOf r.phys ≠ 0) (die : Option Nat) :
    ∃ n, s.judgeRec die dno sub r =
      (s.setJudged dno sub { s.judged dno sub with last := r.seq }).refuseRec dno sub r n := by
  cases hs : s.staleSig r.sentUs with
  | true => exact ⟨1, by simp [State.judgeRec, h0, h, hs]⟩
  | false =>
    have hnak := hbad.resolve_left (by simp [hs])
    exact ⟨s.nakOf r.phys, by simp [State.judgeRec, h0, h, hs, hnak]⟩

/-- A record that is refused has been judged, and nothing more. -/
theorem judged_of_refused (hbad : s.staleSig r.sentUs = true ∨ s.nakOf r.phys ≠ 0) {die : Option Nat} {t : State}
    (ht : t = (s.judgeRec die dno sub r).ackPair dno sub) : OnlyJudges s t ∧ (t.judged dno sub).last = r.seq ∧
      (t.judged dno sub).applied = (s.judged dno sub).applied := by
  obtain ⟨n, hrec⟩ := judgeRec_of_refused h0 h hbad die
  obtain ⟨href, hkept⟩ := refuseRec_spec (s.setJudged dno sub { s.judged dno sub with last := r.seq }) dno sub r n
  obtain ⟨hack, hlast, happ⟩ := ackPair_spec (s.judgeRec die dno sub r) dno sub
  rw [hrec, hkept, State.judged_setJudged_self, ← hrec, ← ht] at hlast happ
  refine ⟨?_, hlast, happ⟩
  rw [ht]
  exact ((setJudged_onlyJudges s dno sub _).trans (hrec ▸ href)).trans hack

theorem judgeRec_of_live (hs : s.staleSig r.sentUs = false) (hnak : s.nakOf r.phys = 0) (hh : s.holdsRejected = false) :
    s.judgeRec none dno sub r = ((s.setJudged dno sub { s.judged dno sub with last := r.seq }).applySignal r.phys r.inc).noteApplied
      dno sub r.seq := by
  have hin := signalIn_of_not_holds (s := s.setJudged dno sub { s.judged dno sub with last := r.seq }) hh r.phys r.inc false
    (some (dno, sub, r.seq))
  have hdefer := applySignal_defer (s.setJudged dno sub { s.judged dno sub with last := r.seq }) r.phys r.inc
  simp [State.judgeRec, h0, h, hs, hnak, hin, hdefer]

/-- A record that is new, fresh and accepted has been applied, and counts as applied. -/
theorem judged_of_live (hs : s.staleSig r.sentUs = false) (hf : s.isFore = false) (hnak : s.nakOf r.phys = 0)
    (hh : s.holdsRejected = false) (hnew : serialHigher 32 r.seq (s.judged dno sub).applied = true) {t : State}
    (ht : t = (s.judgeRec none dno sub r).ackPair dno sub) :
    t.spkVal r.phys = s.spkVal r.phys + BitVec.ofNat 64 r.inc ∧ (∀ q, q ≠ r.phys → t.spkVal q = s.spkVal q) ∧
    (t.judged dno sub).last = r.seq ∧ (t.judged dno sub).applied = r.seq ∧ t.fab.ram = s.fab.ram := by
  obtain ⟨hack, hlast, happ⟩ := ackPair_spec (s.judgeRec none dno sub r) dno sub
  rw [← ht] at hack hlast happ
  have hrec := judgeRec_of_live h0 h hs hnak hh
  have hj := applySignal_judged (s.setJudged dno sub { s.judged dno sub with last := r.seq }) r.phys r.inc dno sub
  rw [State.judged_setJudged_self] at hj
  have hnoted := noteApplied_onlyJudges ((s.setJudged dno sub { s.judged dno sub with last := r.seq }).applySignal r.phys r.inc)
    dno sub r.seq
  have hall := hnoted.trans (hrec ▸ hack)
  have hvals := setJudged_onlyJudges s dno sub { s.judged dno sub with last := r.seq }
  refine ⟨?_, fun q hq => ?_, ?_, ?_, ?_⟩
  · rw [hall.spkVal_eq, spkVal_applySignal_self, State.incVal, hvals.spkVal_eq, if_neg]
    exact hf ▸ Bool.false_ne_true
  · rw [hall.spkVal_eq, spkVal_applySignal_ne _ _ _ hq, hvals.spkVal_eq]
  · rw [hlast, hrec, State.noteApplied, State.judged_setJudged_self, hj]
  · rw [happ, hrec, State.noteApplied, State.judged_setJudged_self, hj, if_pos hnew]
  · rw [hall.ram_eq, applySignal_ram, hvals.ram_eq]

end

theorem doSignalFlitRx_of_record {s : State} {p : Nat} (ha : s.awake = true) (hp : s.portUp p = true)
    (hd : s.diePortOf p = false) (dno sub : Nat) (r : SigRec) :
    s.doSignalFlitRx p dno sub s.srcSub [r] = (s.judgeRec none dno sub r).ackPair dno sub := by
  simp [State.doSignalFlitRx, takesSide_of_up ha hp, hd]

/-! ### A record that is lost (R252) -/

theorem flag_raiseArg (s : State) (f : Fld) (a1 : W) (also : List QId) (h : f.lo + f.w ≤ 64) (hw : 0 < f.w)
    (hq : f.reg ≠ Reg.EVQ_STATUS) : (s.raiseArg f a1 also).flag f = true :=
  ((record_onlyEvents _ _ _ _ _).flag_eq f List.not_mem_nil hq).trans (State.flag_setBit s f h hw)

/-- A record that is given up shows in both blocks (R252). -/
theorem signalLost_spec (s : State) (dst sub ctx : Nat) {t : State} (ht : t = s.signalLost dst sub ctx) :
    t.flag Fld.SPK_STATUS_UNREACHABLE = true ∧ t.flag Fld.MEM_STATUS_SIG_UNREACHABLE = true ∧
    OnlyEvents [Reg.SPK_STATUS, Reg.MEM_STATUS] s t := by
  have hset := (setBit_onlyRegs s Fld.MEM_STATUS_SIG_UNREACHABLE).onlyEvents
  have hraise := raiseArg_onlyEvents (s.setBit Fld.MEM_STATUS_SIG_UNREACHABLE) Fld.SPK_STATUS_UNREACHABLE (sigTarget dst sub)
    (if (s.routes 5).contains (s.ctxQ ctx) then [] else [s.ctxQ ctx])
  subst ht
  refine ⟨flag_raiseArg _ _ _ _ (by decide) (by decide) (by decide), ?_, ?_⟩
  · exact (hraise.flag_eq _ (by decide) (by decide)).trans (State.flag_setBit s _ (by decide) (by decide))
  · exact (hset.mono (by decide)).trans (hraise.mono (by decide))

theorem foldl_signalLost_onlyEvents (l : List SigOut) (s : State) :
    OnlyEvents [Reg.SPK_STATUS, Reg.MEM_STATUS] s (l.foldl (fun t o => t.signalLost o.dst o.sub o.ctx) s) :=
  List.foldlRecOn l _ (motive := OnlyEvents _ s) (.refl _ s) fun t h _ _ => h.trans (signalLost_spec t _ _ _ rfl).2.2

/-- Where one record is given up, both bits show it. -/
theorem flag_foldl_signalLost {l : List SigOut} (hl : l ≠ []) (s : State) {t : State}
    (ht : t = l.foldl (fun t o => t.signalLost o.dst o.sub o.ctx) s) :
    t.flag Fld.SPK_STATUS_UNREACHABLE = true ∧ t.flag Fld.MEM_STATUS_SIG_UNREACHABLE = true := by
  obtain ⟨init, o, rfl⟩ := (List.eq_nil_or_concat' l).resolve_left hl
  rw [List.foldl_append] at ht
  obtain ⟨hspk, hmem, -⟩ := signalLost_spec _ o.dst o.sub o.ctx ht
  exact ⟨hspk, hmem⟩

/-- The requests that are looked at again after a loss, where none waits. -/
theorem sideRelease_of_onlyEvents {rs : List Nat} {s u t : State} (h : OnlyEvents rs s u) (hw : s.fab.sideWait = [])
    (ht : t = u.sideRelease) :
    OnlyEvents rs { s with fab := { s.fab with holdDst := t.fab.holdDst } } t ∧ ∀ f, t.flag f = u.flag f := by
  obtain ⟨heq, hreg⟩ := h
  rw [sideRelease_of_none (by rw [heq]; exact hw)] at ht
  subst ht
  exact ⟨⟨by rw [heq], hreg⟩, fun _ => rfl⟩

/-! ### Acknowledgements (R251) -/

theorem doSigAckRx_of_acted {s : State} {dno sub seq : Nat} (h : (dno, sub, seq) ∈ s.fab.sigActed) (st : Nat) :
    s.doSigAckRx dno sub seq st = s := by
  simp [State.doSigAckRx, h]

section

variable {s : State} {dno sub seq : Nat} (ha : s.awake = true) (hw : s.fab.sideWait = [])
  (h : (dno, sub, seq) ∉ s.fab.sigActed)

include ha h

include hw in
theorem doSigAckRx_of_good {t : State} (ht : t = s.doSigAckRx dno sub seq 0) :
    t = { s with fab := { s.fab with
      holdDst := t.fab.holdDst
      sigActed := t.fab.sigActed
      sigOut := s.fab.sigOut.filter fun o => !(o.isTo dno sub && !serialHigher 32 o.record.seq seq) } } := by
  simp only [State.doSigAckRx, ha, h, Bool.not_true, List.contains_eq_mem, decide_false, Bool.or_self, Bool.false_eq_true,
    if_false, if_true] at ht
  rw [sideRelease_of_none] at ht
  · rw [ht]
    rfl
  · exact hw

theorem doSigAckRx_of_refusal {st : Nat} (hst : st ≠ 0) {o : SigOut}
    (ho : s.fab.sigOut.find? (fun o => o.isTo dno sub && o.record.seq == seq) = some o) : s.doSigAckRx dno sub seq st =
      (((s.setFab fun f => { f with sigOut := f.sigOut.erase o }).noteActed dno sub seq).signalLost o.dst o.sub
        o.ctx).sideRelease := by
  simp [State.doSigAckRx, ha, h, hst, ho]

include hw in
theorem sigAck_refusal_spec {st : Nat} (hst : st ≠ 0) {o : SigOut}
    (ho : s.fab.sigOut.find? (fun o => o.isTo dno sub && o.record.seq == seq) = some o) {t : State}
    (ht : t = s.doSigAckRx dno sub seq st) : t.fab.sigOut = s.fab.sigOut.erase o ∧
      t.flag Fld.SPK_STATUS_UNREACHABLE = true ∧ t.flag Fld.MEM_STATUS_SIG_UNREACHABLE = true ∧
      OnlyEvents [Reg.SPK_STATUS, Reg.MEM_STATUS] { s with fab := { s.fab with
        sigOut := t.fab.sigOut, sigActed := t.fab.sigActed, holdDst := t.fab.holdDst } } t := by
  rw [doSigAckRx_of_refusal ha h hst ho] at ht
  obtain ⟨hspk, hmem, hlost⟩ := signalLost_spec
    ((s.setFab fun f => { f with sigOut := f.sigOut.erase o }).noteActed dno sub seq) o.dst o.sub o.ctx rfl
  obtain ⟨hframe, hflag⟩ := sideRelease_of_onlyEvents hlost hw ht
  have hout : t.fab.sigOut = s.fab.sigOut.erase o := by
    rw [hframe.1]
    rfl
  refine ⟨hout, (hflag _).trans hspk, (hflag _).trans hmem, ?_, hframe.2⟩
  rw [hframe.1]
  rfl

end

/-! ### Records that are sent again (R252) -/

theorem sendSignal_justPorts (s : State) (dst sub : Nat) (r : SigRec) : JustPorts s (s.sendSignal dst sub r) := by
  unfold State.sendSignal
  split
  · exact queueFlits_justPorts _ _ _ _
  · exact .refl s

theorem doSignalResend_spec {s : State} (ha : s.awake = true) {t : State} (ht : t = s.doSignalResend) :
    t = { s with fab := { s.fab with sigOut := t.fab.sigOut, ports := t.fab.ports } } ∧
    t.fab.sigOut = s.fab.sigOut.map fun o =>
      if s.time.now - o.lastAt ≥ 100 * usX then { o with lastAt := s.time.now } else o := by
  have hsent := JustPorts.foldl (fun (t : State) (o : SigOut) => sendSignal_justPorts t o.dst o.sub o.record)
    (s.fab.sigOut.filter fun o => decide (s.time.now - o.lastAt ≥ 100 * usX)) (s.setFab fun f => { f with
      sigOut := f.sigOut.map fun o => if s.time.now - o.lastAt ≥ 100 * usX then { o with lastAt := s.time.now } else o })
  simp only [State.doSignalResend, ha, Bool.not_true, Bool.false_eq_true, if_false, decide_eq_true_eq] at ht
  rw [← ht] at hsent
  constructor
  · rw [hsent.frame]
    rfl
  · rw [hsent.frame]
    rfl

/-! ### Records that are given up (R252) -/

/-- A record that has had no answer for 4 ms. -/
def State.lapsed (s : State) (o : SigOut) : Bool := decide (s.time.now - o.firstAt ≥ 4 * msX)

/-- A unit without its records that have lapsed. -/
def State.lapsedDropped (s : State) : State :=
  { s with fab := { s.fab with sigOut := s.fab.sigOut.filter fun o => !s.lapsed o } }

theorem doSignalGiveUp_eq (s : State) : s.doSignalGiveUp =
    ((s.fab.sigOut.filter s.lapsed).foldl (fun t o => t.signalLost o.dst o.sub o.ctx) s.lapsedDropped).sideRelease := rfl

theorem doSignalGiveUp_spec {s : State} (hw : s.fab.sideWait = []) {t : State} (ht : t = s.doSignalGiveUp) :
    (∀ o, o ∈ t.fab.sigOut ↔ o ∈ s.fab.sigOut ∧ s.time.now - o.firstAt < 4 * msX) ∧
    OnlyEvents [Reg.SPK_STATUS, Reg.MEM_STATUS]
      { s with fab := { s.fab with sigOut := t.fab.sigOut, holdDst := t.fab.holdDst } } t ∧
    ((∃ o, o ∈ s.fab.sigOut ∧ s.time.now - o.firstAt ≥ 4 * msX) →
      t.flag Fld.SPK_STATUS_UNREACHABLE = true ∧ t.flag Fld.MEM_STATUS_SIG_UNREACHABLE = true) := by
  rw [doSignalGiveUp_eq] at ht
  obtain ⟨hframe, hflag⟩ := sideRelease_of_onlyEvents (foldl_signalLost_onlyEvents _ s.lapsedDropped) hw ht
  have hkept : t.fab.sigOut = s.fab.sigOut.filter fun o => !s.lapsed o := by
    rw [hframe.1]
    rfl
  refine ⟨fun o => ?_, ?_, fun ⟨o, ho, hdue⟩ => ?_⟩
  · simp [hkept, State.lapsed]
  · rw [hkept]
    exact hframe
  · rw [hflag, hflag]
    exact flag_foldl_signalLost (List.ne_nil_of_mem (List.mem_filter.2 ⟨ho, decide_eq_true hdue⟩)) _ rfl

end Sys2Proof.Machine
end

section
/-! PROOFS. The ports of a VSU to its host die and its memory (R436, R438, R439, R443 to R446), and the statement
of remote SIGNALs. -/

namespace Sys2Proof.Machine

/-! ### Stream beats (R436, R445, R446) -/

section

variable {s : State} (hv : s.isVd = false)

include hv

theorem doStreamTxBeat_of_notReady {q : Nat} (h : s.stxReady q = false) (hdr : FlitBody) (lvl : Nat) (last : Bool)
    (b : List Byte) : s.doStreamTxBeat false q hdr lvl last b = s := by
  cases ha : s.awake with
  | false => simp [State.doStreamTxBeat, ha]
  | true =>
    have hfull : ¬ (q < s.hostQueues && (s.fab.stq.get q []).length < 32) = true := by
      simpa [State.stxReady, hv, ha] using h
    simp only [State.doStreamTxBeat, hv, ha, Bool.not_true, Bool.or_self, Bool.not_false, Bool.false_eq_true, if_false, if_true]
    exact if_neg hfull

theorem doStreamTxBeat_of_sideNotReady (h : s.stxSready = false) (q : Nat) (hdr : FlitBody) (lvl : Nat) (last : Bool)
    (b : List Byte) : s.doStreamTxBeat true q hdr lvl last b = s := by
  cases ha : s.awake with
  | false => simp [State.doStreamTxBeat, ha]
  | true =>
    have hfull : s.sideBuf ≥ 32 := by simpa [State.stxSready, hv, ha] using h
    simp [State.doStreamTxBeat, hv, ha, hfull]

variable (ha : s.awake = true)

include ha

theorem doStreamTxBeat_payload {q : Nat} (hq : q < s.hostQueues) (hroom : (s.fab.stq.get q []).length < 32) (hdr : FlitBody)
    (lvl : Nat) (last : Bool) (b : List Byte) : s.doStreamTxBeat false q hdr lvl last b =
      { s with fab := { s.fab with stq := s.fab.stq.set q (s.fab.stq.get q [] ++ [padTo 224 b]) } } := by
  simp [State.doStreamTxBeat, State.streamPayload, State.setFab, hv, ha, hq, hroom]

variable (hroom : s.sideBuf < 32)

include hroom

/-- A beat of a side message joins those before it, or goes out with them. -/
theorem doStreamTxBeat_side (q : Nat) (hdr : FlitBody) (lvl : Nat) (last : Bool) (b : List Byte) :
    s.doStreamTxBeat true q hdr lvl last b =
      if last then (s.setFab fun f => { f with stMsg := [] }).streamMsg hdr lvl (s.fab.stMsg ++ [b])
      else { s with fab := { s.fab with stMsg := s.fab.stMsg ++ [b] } } := by
  simp [State.doStreamTxBeat, State.setFab, hv, ha, Nat.not_le.2 hroom]

/-- The last beat of a host die's SIGNAL sends it on port 0, from the unit itself (R446). -/
theorem doStreamTxBeat_signal (hu : s.portUp 0 = true) {dd : Nat} (hw : s.signalWaits dd = false) (q ds c sd ss lvl : Nat)
    (b : List Byte) : s.doStreamTxBeat true q (.signal dd ds c sd ss) lvl true b =
      ({ s with fab := { s.fab with stMsg := [] } } : State).queueFlits 0 none
        (sideFlits (.signal dd ds c s.srcDno s.srcSub) (s.hostLevel lvl)
          (((s.fab.stMsg ++ [b]).flatMap (padTo 224)).take (16 * c))) := by
  have hsend : ∀ (t : State) (body : FlitBody) (lvl : Nat) (d : List Byte), t.fab.ports = s.fab.ports →
      t.streamSend body lvl d = t.queueFlits 0 none (sideFlits body lvl d) := fun t body lvl d ht => by
    have hport : t.port 0 = s.port 0 := congrArg (fun l : Tab PortSt => l.get 0 {}) ht
    have hst : (t.port 0).st = .up := by simpa [hport, State.portUp] using hu
    simp [State.streamSend, State.namedPort, State.portUp, hst]
  rw [doStreamTxBeat_side hv ha hroom, if_pos rfl]
  exact (if_neg (by exact Bool.eq_false_iff.1 hw)).trans (hsend _ _ _ _ rfl)

end

/-! ### The sprocket ports (R443) -/

theorem doSpkSignal_of_notReady {s : State} {p : Nat} (h : s.spkReady p = false) (tag op ctx id : Nat) (inc : W) :
    s.doSpkSignal ⟨.vsuPort p, tag, op⟩ ctx id inc = s := by
  have hshut : (s.awake && s.srcOk (.vsuPort p)) = false := h
  unfold State.doSpkSignal
  split
  · exact if_neg (by simp [hshut])
  · exact if_neg (by simp [signalOp, hshut])

/-! ### The memory port (R439) -/

section

variable {s : State} {tag : Nat} (h : s.fab.mem.find? (fun e => e.1 == tag) = some (tag, .imageWrite)) (hq : s.fab.memQ = [])

include h hq

theorem doMemPortResponse_of_imageWrite (d : List Byte) (err : Bool) : s.doMemPortResponse tag d err =
    let t : State := { s with fab := { s.fab with mem := s.fab.mem.del tag, memWr := s.fab.memWr.del tag } }
    if err then t.windowFails else t := by
  simp [State.doMemPortResponse, h, State.memFree, hq, State.memDrain, State.memAnswer]

/-- A write of the image that fails fails the check of the shadow. -/
theorem imageWrite_fails {d : List Byte} {t : State} (ht : t = s.doMemPortResponse tag d true) :
    t.img.shState = .failed ∧ t.img.check.code = 9 ∧ t.flag Fld.IMG_STATUS_CHECK_FAIL = true ∧ t.fab.ram = s.fab.ram := by
  rw [doMemPortResponse_of_imageWrite h hq, if_pos rfl] at ht
  have hshown := checkFails_imagesShown ({ s with fab := { s.fab with mem := s.fab.mem.del tag, memWr := s.fab.memWr.del tag } })
    { s.img with shState := .failed } { code := 9 }
  subst ht
  refine ⟨?_, ?_, hshown.flag, hshown.frame.ram_eq⟩
  · exact congrArg ImgSt.shState hshown.img
  · exact congrArg (fun x : ImgSt => x.check.code) hshown.img

end

/-! ### The statement -/

/-- Settles O34: a record by what judging it comes to, an acknowledgement and the two timeouts by what they leave of the
records, and a VSU's ports by one equation per beat. -/
theorem signalRecordsAreJudgedOnce : Obligations.SignalRecordsAreJudgedOnce := by
  unfold Obligations.SignalRecordsAreJudgedOnce
  refine ⟨fun s p dno sub r ha hp hd h0 => ?judge, fun s dno sub seq st ha h => ?again, fun s dno sub seq ha hw h => ?ack,
    fun s ha => ⟨?resend, fun hw => ?giveUp⟩, fun s q lvl p h l b hv => ?shut, fun s q lvl h l b hv ha => ?beat,
    fun s tag d h hq => ?memory⟩
  case judge =>
    have hrec : exec (.signalFlitRx p dno sub s.srcSub [r]) s = .next ((s.judgeRec none dno sub r).ackPair dno sub) :=
      congrArg Host.Outcome.next (doSignalFlitRx_of_record ha hp hd dno sub r)
    refine ⟨fun hold => hrec.trans ?_, fun hnew => ⟨fun hbad => ⟨_, hrec, ?_⟩,
      fun hs hf hphys hl hh happ => ⟨_, hrec, ?_⟩⟩⟩
    · rw [judgeRec_of_judged h0 hold]
    · obtain ⟨hframe, hlast, happ⟩ := judged_of_refused h0 hnew hbad rfl
      exact ⟨hframe.spk_eq, hlast, happ, hframe.regs_eq, hframe.ram_eq⟩
    · exact judged_of_live h0 hnew hs hf (nakOf_of_live hphys hl) hh happ rfl
  case again => exact congrArg Host.Outcome.next (doSigAckRx_of_acted h st)
  case ack => exact ⟨⟨_, rfl, doSigAckRx_of_good ha hw h rfl⟩,
    fun st o hst ho => ⟨_, rfl, sigAck_refusal_spec ha hw h hst ho rfl⟩⟩
  case resend => exact ⟨_, rfl, doSignalResend_spec ha rfl⟩
  case giveUp => exact ⟨_, rfl, doSignalGiveUp_spec hw rfl⟩
  case shut => exact ⟨fun hr => congrArg Host.Outcome.next (doStreamTxBeat_of_notReady hv hr h lvl l b),
    fun hr => congrArg Host.Outcome.next (doStreamTxBeat_of_sideNotReady hv hr q h lvl l b),
    fun hr c i tag op v => congrArg Host.Outcome.next (doSpkSignal_of_notReady hr tag op c i v)⟩
  case beat =>
    refine ⟨fun hq hroom => congrArg Host.Outcome.next (doStreamTxBeat_payload hv ha hq hroom h lvl l b),
      fun hroom => congrArg Host.Outcome.next (doStreamTxBeat_side hv ha hroom q h lvl false b),
      fun dd ds c sd ss hh hroom hu hw => ?_⟩
    subst hh
    exact congrArg Host.Outcome.next (doStreamTxBeat_signal hv ha hroom hu hw q ds c sd ss lvl b)
  case memory => exact ⟨congrArg Host.Outcome.next (doMemPortResponse_of_imageWrite h hq d false),
    _, rfl, imageWrite_fails h hq rfl⟩

end Sys2Proof.Machine
end
